-- ==== Sys2Proof/Word.lean ====
section
/-!
DEFINITION. The word types of the machine and the element formats of R27.
-/
namespace Sys2Proof

/-- A byte of memory or scratchpad. -/
abbrev Byte := BitVec 8
/-- An S register, a virtual address, a handle, a CSR. -/
abbrev Word := BitVec 64
/-- A vector register (R193). -/
abbrev VReg := BitVec 1024
/-- A k, kb, ea or eb register (R193). -/
abbrev KReg := BitVec 256

/-- The element formats of R27; code 15 is reserved and names none. -/
inductive Fmt where
  | i8 | n8 | i16 | i32 | i64 | n32 | f64 | f32 | f16 | bf16 | e4m3 | e5m2 | cb4 | xacc | pbit
  deriving DecidableEq, Repr

/-- The rounding modes of R37; code 7 is reserved and names none. -/
inductive RM where
  | rne | rtz | rup | rdn | rna | sr | rto
  deriving DecidableEq, Repr

end Sys2Proof
end

