-- ==== Sys2Proof/Config.lean ====
section
/-!
DEFINITION. What one implementation fixes, and the free values of the model.

Each `opaque` constant has no body that a proof can see: a theorem holds whatever it is.
-/
namespace Sys2Proof.Config

/-- The move that the machine takes next when nothing asks for one (R335): a free number, applied to the
counter `State.free`; log entry 3. -/
opaque freeChoice : Nat → Nat

/-- Which of every 16 consecutive flit slots of a link the reserve takes (R376), by the link's router; log entry 18. -/
opaque reserveSlot : Nat → Nat

/-- The number from which a port gives its packets their tags (R379); log entry 18. -/
opaque tagBase : Nat

/-- The bits of a fast-grade special function (R63), which may differ between revisions: function number (0 to 8 in
opcode order), operand; log entry 9. -/
opaque fastBits : Nat → BitVec 32 → BitVec 32

/-- SHAKE256 with 512 bits of output, which R434 names and the spec does not define; log entry 8. -/
opaque shake256 : List (BitVec 8) → BitVec 512

/-- The attestation signature (R434): ML-DSA-87 over the message under the package's key; log entry 8. -/
opaque attestationSignature : List (BitVec 8) → List (BitVec 8)

/-- The identity certificate chain of the package (R432); log entry 8. -/
opaque certificateChain : List (BitVec 8)

/-- The identity of the module: its serial and package identity bytes (R434); log entry 8. -/
opaque moduleIdentity : List (BitVec 8)

/-- The digests of the five firmware images that the boot ROM reads (R434); log entry 8. -/
opaque firmwareDigest : Nat → BitVec 512

/-- Whether the signature of firmware image n verifies under Qorzia's production key (R434); log entry 8. -/
opaque firmwareProduction : Nat → Bool

/-- Whether the signature of firmware image n verifies under the development key (R434); log entry 8. -/
opaque firmwareDevelopment : Nat → Bool

/-- Whether firmware image n is malformed (R433); log entry 8. -/
opaque firmwareMalformed : Nat → Bool

/-- The minor version that firmware image n carries (R434); log entry 8. -/
opaque firmwareVersion : Nat → Nat

/-- A fresh nonce of the management agent (R437): the n-th one drawn; log entry 8. -/
opaque freshNonce : Nat → BitVec 64

/-- Whether a debug authorisation certificate at a host address verifies (R437): the bytes; log entry 8. -/
opaque authorisationVerifies : List (BitVec 8) → Bool

/-- What another package of the fabric group says of a context (R367): none when it is not live there, else its `EVCNT`;
package, context, and the counter of free values; log entry 15. -/
opaque remoteEvents : Nat → Nat → Nat → Option Nat

/-- The value that a counter of another package returns (R366), by the counter of free values; log entry 15. -/
opaque remoteValue : Nat → BitVec 64

/-- The address of the n-th table that the fault service takes from its own pool (R422); log entry 16. -/
opaque poolTable : Nat → BitVec 52

/-- The frame to which the fault service moves the n-th page that it pages between the tiers (R98); log entry 62. -/
opaque pageFrame : Nat → BitVec 52

/-- Which entries of a failed die's queues take effect (R352), and other free choices of one bit, by the counter of free
values; log entry 3. -/
opaque freeBit : Nat → Bool

/-- The register a debug probe or a detail field holds where the spec assigns none (R432): by the counter of free
values; log entry 17. -/
opaque freeWord : Nat → BitVec 64

end Sys2Proof.Config
end

