-- ==== Sys2Proof/Machine/Bits.lean ====
section
/-!
DEFINITION. Bit fields, byte order (R4), formats (R27) and the small arithmetic every unit uses. Nothing here
reads or writes the state.
-/
namespace Sys2Proof.Machine

/-- Bits [hi:lo] of a word, as a number. -/
def bitsOf {w : Nat} (x : BitVec w) (hi lo : Nat) : Nat := (x.toNat >>> lo) % 2 ^ (hi + 1 - lo)

/-- Bit i of a word. -/
def bitOf {w : Nat} (x : BitVec w) (i : Nat) : Bool := x.toNat.testBit i

/-- The value of a Bool as a bit. -/
def b2n (b : Bool) : Nat := if b then 1 else 0

/-- The low n bits of a number. -/
def lowBits (n x : Nat) : Nat := x % 2 ^ n

/-- The two's-complement value of the low w bits of x. -/
def signedOf (w x : Nat) : Int :=
  let y := x % 2 ^ w
  if y < 2 ^ (w - 1) then (y : Int) else (y : Int) - (2 ^ w : Nat)

/-- An integer wrapped to w bits. -/
def wrapTo (w : Nat) (x : Int) : Nat := (x % (2 ^ w : Nat)).toNat

/-- sext of R3: the low w bits of x, sign-extended to 64 bits. -/
def sext64 (w x : Nat) : Word := BitVec.ofInt 64 (signedOf w x)

/-- Arithmetic shift right of the low w bits of x. -/
def sraBits (w x n : Nat) : Nat := wrapTo w (signedOf w x / (2 ^ n : Nat))

/-- sat of R3. -/
def satInt (x lo hi : Int) : Int := if x < lo then lo else if x > hi then hi else x

/-- sat on numbers. -/
def satNat (x hi : Nat) : Nat := if x > hi then hi else x

/-- ceil(a / b). -/
def ceilDiv (a b : Nat) : Nat := (a + b - 1) / b

/-- The field of w bits at place i of a wide number. -/
def fieldAt (x w i : Nat) : Nat := (x >>> (w * i)) % 2 ^ w

/-- A wide number with the field of w bits at place i replaced. -/
def setField (x w i v : Nat) : Nat :=
  x - (fieldAt x w i) * 2 ^ (w * i) + (v % 2 ^ w) * 2 ^ (w * i)

/-- x with bits [hi:lo] replaced by v. -/
def setBits (x hi lo v : Nat) : Nat :=
  x - ((x >>> lo) % 2 ^ (hi + 1 - lo)) * 2 ^ lo + (v % 2 ^ (hi + 1 - lo)) * 2 ^ lo

/-- Little-endian bytes of a number, n of them (R4). -/
def toBytes : Nat → Nat → List Byte
  | 0, _ => []
  | n + 1, x => BitVec.ofNat 8 x :: toBytes n (x / 256)

/-- The number of a little-endian byte list (R4). -/
def ofBytes : List Byte → Nat
  | [] => 0
  | b :: bs => b.toNat + 256 * ofBytes bs

/-- Numbers packed with w bits each, the first lowest. -/
def packFields (w : Nat) : List Nat → Nat
  | [] => 0
  | x :: xs => x % 2 ^ w + 2 ^ w * packFields w xs

/-- The n fields of w bits of a wide number, the lowest first. -/
def unpackFields (w : Nat) : Nat → Nat → List Nat
  | 0, _ => []
  | n + 1, x => x % 2 ^ w :: unpackFields w n (x >>> w)

/-- Count of one bits among the low n bits. -/
def popCount : Nat → Nat → Nat
  | 0, _ => 0
  | n + 1, x => x % 2 + popCount n (x / 2)

/-- Position of the highest one bit plus 1, or 0 (over n bits). -/
def bitLen : Nat → Nat → Nat
  | 0, _ => 0
  | n + 1, x => if x = 0 then 0 else 1 + bitLen n (x / 2)

/-- Count of leading zero bits of a w-bit number. -/
def leadingZeros (w x : Nat) : Nat := w - bitLen w (x % 2 ^ w)

/-- The element of a list, or a default. -/
def nth {α : Type} (xs : List α) (i : Nat) (dflt : α) : α := xs.getD i dflt

/-- A list with its i-th element replaced. -/
def setNth {α : Type} (xs : List α) (i : Nat) (x : α) : List α := xs.set i x

/-- A list without its i-th element. -/
def dropNth {α : Type} (xs : List α) (i : Nat) : List α := xs.eraseIdx i

/-- A list with the element at i changed by f. -/
def mapNth {α : Type} (xs : List α) (i : Nat) (f : α → α) : List α := xs.modify i f

/-- The indexes of the elements that satisfy p. -/
def indexesWhere {α : Type} (p : α → Bool) (xs : List α) : List Nat :=
  ((List.range xs.length).zip xs).filterMap fun q => if p q.2 then some q.1 else none

/-! Formats (R27). -/

/-- The format of a code; code 15 is reserved. -/
def fmtOf (n : Nat) : Option Fmt :=
  match n with
  | 0 => some .i8 | 1 => some .n8 | 2 => some .i16 | 3 => some .i32 | 4 => some .i64 | 5 => some .n32
  | 6 => some .f64 | 7 => some .f32 | 8 => some .f16 | 9 => some .bf16 | 10 => some .e4m3 | 11 => some .e5m2
  | 12 => some .cb4 | 13 => some .xacc | 14 => some .pbit | _ => none

/-- The code of a format. -/
def fmtCode : Fmt → Nat
  | .i8 => 0 | .n8 => 1 | .i16 => 2 | .i32 => 3 | .i64 => 4 | .n32 => 5 | .f64 => 6 | .f32 => 7 | .f16 => 8
  | .bf16 => 9 | .e4m3 => 10 | .e5m2 => 11 | .cb4 => 12 | .xacc => 13 | .pbit => 14

/-- Element size in bits (R27). -/
def fmtBits : Fmt → Nat
  | .i8 => 8 | .n8 => 8 | .i16 => 16 | .i32 => 32 | .i64 => 64 | .n32 => 32 | .f64 => 64 | .f32 => 32
  | .f16 => 16 | .bf16 => 16 | .e4m3 => 8 | .e5m2 => 8 | .cb4 => 4 | .xacc => 128 | .pbit => 1

/-- Element size in bits of a format code (0 for the reserved code). -/
def codeBits (n : Nat) : Nat := match fmtOf n with | some f => fmtBits f | none => 0

/-- The integer formats, I of R231. -/
def isInt : Fmt → Bool
  | .i8 | .n8 | .i16 | .i32 | .i64 | .n32 => true
  | _ => false

/-- The floating formats F of R231. -/
def isF : Fmt → Bool
  | .f64 | .f32 | .f16 | .bf16 => true
  | _ => false

/-- Every floating format, F and the 8-bit ones. -/
def isFloat : Fmt → Bool
  | .f64 | .f32 | .f16 | .bf16 | .e4m3 | .e5m2 => true
  | _ => false

/-- Whether an integer format is signed. -/
def isSigned : Fmt → Bool
  | .i8 | .i16 | .i32 | .i64 => true
  | _ => false

/-- Formats that take block scales (R46). -/
def isScalable : Fmt → Bool
  | .i8 | .n8 | .e4m3 | .e5m2 | .cb4 => true
  | _ => false

/-- The rounding mode of a code (R37). -/
def rmOf (n : Nat) : Option RM :=
  match n with
  | 0 => some .rne | 1 => some .rtz | 2 => some .rup | 3 => some .rdn | 4 => some .rna | 5 => some .sr
  | 6 => some .rto | _ => none

/-- The operation width of a vector width field (R173); 0 for the illegal value. -/
def widthBits (w : BitVec 2) : Nat := if w.toNat = 3 then 0 else 256 * 2 ^ w.toNat

/-- The element count of a width and an element size (R226). -/
def elemCount (w e : Nat) : Nat := if e = 0 then 0 else w / e

end Sys2Proof.Machine
end

