-- ==== Sys2Proof/Machine/Flags.lean ====
section
/-!
DEFINITION. Numbers (R27 to R63): exact values, rounding, the flags of R35 to R39, conversions, codebooks, block scales,
the XACC form, the fixed trees and the special functions. Nothing here reads or writes the state.

A flag set is a number with the bits of `AFLAGS` (R35).
-/
namespace Sys2Proof.Machine

/-- `INV`. -/
def fINV : Nat := 1
/-- `OVF`. -/
def fOVF : Nat := 2
/-- `UNF`. -/
def fUNF : Nat := 4
/-- `INX`. -/
def fINX : Nat := 8
/-- `SAT`. -/
def fSAT : Nat := 16
/-- `OOW`. -/
def fOOW : Nat := 32

/-! ## Exact values -/

/-- An exact value: a NaN (signalling or not), an infinity, or (−1)^neg × m × 2^e; the sign of a zero counts. -/
inductive Val where
  | nan (sig : Bool)
  | inf (neg : Bool)
  | fin (neg : Bool) (m : Nat) (e : Int)
  deriving DecidableEq, Repr

/-- The fields of a floating format (R30). -/
structure Layout where
  ebits : Nat
  mbits : Nat
  bias : Nat
  hasInf : Bool
  deriving DecidableEq, Repr

/-- The layout of a floating format (R30); other formats read as FP32. -/
def layoutOf : Fmt → Layout
  | .f64 => ⟨11, 52, 1023, true⟩
  | .f16 => ⟨5, 10, 15, true⟩
  | .bf16 => ⟨8, 7, 127, true⟩
  | .e5m2 => ⟨5, 2, 15, true⟩
  | .e4m3 => ⟨4, 3, 7, false⟩
  | _ => ⟨8, 23, 127, true⟩

/-- Exponent of the smallest subnormal. -/
def Layout.emin (l : Layout) : Int := 1 - (l.bias : Int) - l.mbits
/-- The bits of the largest finite value. -/
def Layout.maxBits (l : Layout) : Nat :=
  if l.hasInf then (2 ^ l.ebits - 1) * 2 ^ l.mbits - 1 else 2 ^ (l.ebits + l.mbits) - 2
/-- The bits of +Inf. -/
def Layout.infBits (l : Layout) : Nat := (2 ^ l.ebits - 1) * 2 ^ l.mbits
/-- The canonical NaN (R30). -/
def Layout.nanBits (l : Layout) : Nat :=
  if l.hasInf then l.infBits + 2 ^ (l.mbits - 1) else 2 ^ (l.ebits + l.mbits) - 1
/-- The bits with a sign. -/
def Layout.signed (l : Layout) (neg : Bool) (x : Nat) : Nat := x + b2n neg * 2 ^ (l.ebits + l.mbits)

/-- The value of the bits of a floating format (R30, R31, R32). -/
def floatVal (f : Fmt) (x : Nat) : Val :=
  let l := layoutOf f
  let neg := x.testBit (l.ebits + l.mbits)
  let ex := (x >>> l.mbits) % 2 ^ l.ebits
  let man := x % 2 ^ l.mbits
  if l.hasInf && ex + 1 = 2 ^ l.ebits then
    if man = 0 then .inf neg else .nan (!man.testBit (l.mbits - 1))
  else if !l.hasInf && x % 2 ^ (l.ebits + l.mbits) = l.nanBits then .nan false
  else if ex = 0 then .fin neg man l.emin
  else .fin neg (man + 2 ^ l.mbits) (l.emin + ((ex : Int) - 1))

/-- The exact value of an integer. -/
def intVal (x : Int) : Val := .fin (x < 0) x.natAbs 0

/-- The integer of the bits of an integer format (R29). -/
def fmtInt (f : Fmt) (x : Nat) : Int :=
  if isSigned f then signedOf (fmtBits f) x else (x % 2 ^ fmtBits f : Nat)

/-- Bounds of an integer format. -/
def intMin (f : Fmt) : Int := if isSigned f then -((2 ^ (fmtBits f - 1) : Nat) : Int) else 0
/-- Bounds of an integer format. -/
def intMax (f : Fmt) : Int := if isSigned f then (2 ^ (fmtBits f - 1) : Nat) - 1 else (2 ^ fmtBits f : Nat) - 1

/-- The value of an element of an integer or floating format. -/
def elemVal (f : Fmt) (x : Nat) : Val := if isInt f then intVal (fmtInt f x) else floatVal f x

/-- m × 2^e as an integer multiple of 2^e0, for e0 ≤ e. -/
def scaleTo (m : Nat) (e e0 : Int) : Nat := m <<< (e - e0).toNat

/-- Comparison of two magnitudes m1 × 2^e1 and m2 × 2^e2. -/
def magLt (m1 : Nat) (e1 : Int) (m2 : Nat) (e2 : Int) : Bool :=
  let e := min e1 e2
  scaleTo m1 e1 e < scaleTo m2 e2 e

/-- Equality of two magnitudes. -/
def magEq (m1 : Nat) (e1 : Int) (m2 : Nat) (e2 : Int) : Bool := !magLt m1 e1 m2 e2 && !magLt m2 e2 m1 e1

/-- Whether a value is a NaN. -/
def Val.isNan : Val → Bool | .nan _ => true | _ => false
/-- `INV` for a signalling NaN (R32). -/
def Val.sigInv : Val → Nat | .nan true => fINV | _ => 0
/-- Whether a value is a zero. -/
def Val.isZero : Val → Bool | .fin _ 0 _ => true | _ => false
/-- Whether a value is finite. -/
def Val.isFin : Val → Bool | .fin _ _ _ => true | _ => false
/-- The sign of a value. -/
def Val.neg? : Val → Bool | .nan _ => false | .inf n => n | .fin n _ _ => n
/-- A value with its sign reversed. -/
def Val.negate : Val → Val | .nan s => .nan s | .inf n => .inf !n | .fin n m e => .fin (!n) m e
/-- The magnitude of a value. -/
def Val.abs : Val → Val | .nan s => .nan s | .inf _ => .inf false | .fin _ m e => .fin false m e
/-- A finite value times 2^k. -/
def Val.scale (k : Int) : Val → Val | .fin n m e => .fin n m (e + k) | v => v

/-! ## Rounding (R36 to R40) -/

/-- A magnitude m × 2^e on the grid of spacing 2^q: the multiple of 2^q, and whether it is inexact (R37, R40). -/
def roundGrid (rm : RM) (rnd : Nat) (neg : Bool) (m : Nat) (e q : Int) : Nat × Bool :=
  if q ≤ e then (m <<< (e - q).toNat, false)
  else
    let sh := (q - e).toNat
    let t := m >>> sh
    let r := m % 2 ^ sh
    if r = 0 then (t, false)
    else
      let up : Bool := match rm with
        | .rne => 2 * r > 2 ^ sh || (2 * r = 2 ^ sh && t % 2 = 1)
        | .rtz => false
        | .rup => !neg
        | .rdn => neg
        | .rna => 2 * r ≥ 2 ^ sh
        | .sr => r * 2 ^ 16 + rnd * 2 ^ sh ≥ 2 ^ (sh + 16)
        | .rto => t % 2 = 0
      (if up then t + 1 else t, true)

/-- The exponent of the leading bit of m × 2^e. -/
def topExp (m : Nat) (e : Int) : Int := (m.log2 : Int) + e

/-- The bits of a magnitude t × 2^q that lies on the grid of a format. -/
def packFloat (l : Layout) (neg : Bool) (t : Nat) (q : Int) : Nat :=
  if t = 0 then l.signed neg 0
  else
    -- t ≤ 2^(mbits+1)
    let ex := q - l.emin
    if t < 2 ^ l.mbits then l.signed neg t
    else if t < 2 ^ (l.mbits + 1) then l.signed neg ((ex.toNat + 1) * 2 ^ l.mbits + (t - 2 ^ l.mbits))
    else l.signed neg ((ex.toNat + 2) * 2 ^ l.mbits)

/-- Whether quantisation or the format itself never gives an infinity (R39). -/
def noInf (f : Fmt) (quant : Bool) : Bool := !(layoutOf f).hasInf || (quant && f = .e5m2)

/-- The result of an overflow (R38, R39): bits and flags. -/
def overflowed (f : Fmt) (rm : RM) (quant neg : Bool) : Nat × Nat :=
  let l := layoutOf f
  let toInf : Bool := match rm with
    | .rne | .rna => true
    | .rup => !neg
    | .rdn => neg
    | _ => false
  let base := fOVF ||| fINX
  if toInf then
    if noInf f quant then (l.signed neg l.maxBits, base ||| fSAT) else (l.signed neg l.infBits, base)
  else (l.signed neg l.maxBits, if rm = .sr then base ||| fSAT else base)

/-- round_to for a floating target: bits and flags (R30 to R32, R36 to R40). -/
def roundFloat (f : Fmt) (rm : RM) (rnd : Nat) (quant : Bool) (v : Val) : Nat × Nat :=
  let l := layoutOf f
  match v with
  | .nan sig => (l.nanBits, if sig then fINV else 0)
  | .inf neg => if noInf f quant then (l.signed neg l.maxBits, fSAT) else (l.signed neg l.infBits, 0)
  | .fin neg m e =>
    if m = 0 then (l.signed neg 0, 0)
    else
      let qu := topExp m e - l.mbits
      let (tu, _) := roundGrid rm rnd neg m e qu
      let (mm, me) := match floatVal f l.maxBits with | .fin _ mm me => (mm, me) | _ => (0, 0)
      if magLt mm me tu qu then overflowed f rm quant neg
      else
        let q := max qu l.emin
        let (t, inx) := roundGrid rm rnd neg m e q
        let tiny := magLt tu qu (2 ^ l.mbits) l.emin
        (packFloat l neg t q, if inx then (if tiny then fINX ||| fUNF else fINX) else 0)

/-- A value rounded to an integer in a mode, and whether it was inexact. -/
def roundInt (rm : RM) (rnd : Nat) (neg : Bool) (m : Nat) (e : Int) : Int × Bool :=
  let (t, inx) := roundGrid rm rnd neg m e 0
  (if neg then -(t : Int) else t, inx)

/-- A conversion to an integer format (R34). -/
def roundToInt (f : Fmt) (rm : RM) (rnd : Nat) (v : Val) : Nat × Nat :=
  let w := fmtBits f
  match v with
  | .nan _ => (0, fINV)
  | .inf neg => (wrapTo w (if neg then intMin f else intMax f), fSAT ||| fINV)
  | .fin neg m e =>
    let (i, inx) := roundInt rm rnd neg m e
    if i < intMin f then (wrapTo w (intMin f), fSAT ||| fINV)
    else if intMax f < i then (wrapTo w (intMax f), fSAT ||| fINV)
    else (wrapTo w i, if inx then fINX else 0)

/-- A value in a format other than CB4, XACC and PBIT: bits and flags. -/
def toFmt (f : Fmt) (rm : RM) (rnd : Nat) (quant : Bool) (v : Val) : Nat × Nat :=
  if isInt f then roundToInt f rm rnd v else roundFloat f rm rnd quant v

/-- The mixer of R41: 16 random bits. -/
def mix (key a : Nat) : Nat :=
  let z := (key + a * 0x9E3779B97F4A7C15) % 2 ^ 64
  let z := ((z ^^^ (z >>> 30)) * 0xBF58476D1CE4E5B9) % 2 ^ 64
  let z := ((z ^^^ (z >>> 27)) * 0x94D049BB133111EB) % 2 ^ 64
  (z ^^^ (z >>> 31)) % 2 ^ 16

/-- The random bits of a lane in the vector pipeline (R41). -/
def laneRnd (key : BitVec 64) (issueCount lane : Nat) : Nat :=
  mix key.toNat ((issueCount % 2 ^ 58) * 64 + lane)

/-! ## Exact arithmetic -/

/-- The sum of two values; `rdn` gives the sign of an exact zero sum (R37). -/
def addVal (rdn : Bool) (a b : Val) : Val × Nat :=
  match a, b with
  | .nan s, y => (.nan false, (Val.nan s).sigInv ||| y.sigInv)
  | x, .nan s => (.nan false, x.sigInv ||| (Val.nan s).sigInv)
  | .inf n, .inf k => if n = k then (.inf n, 0) else (.nan false, fINV)
  | .inf n, _ => (.inf n, 0)
  | _, .inf n => (.inf n, 0)
  | .fin n m e, .fin k p g =>
    if m = 0 && p = 0 then (if n = k then .fin n 0 0 else .fin rdn 0 0, 0)
    else
      let e0 := min e g
      let x : Int := if n then -(scaleTo m e e0 : Int) else scaleTo m e e0
      let y : Int := if k then -(scaleTo p g e0 : Int) else scaleTo p g e0
      let s := x + y
      if s = 0 then (.fin rdn 0 0, 0) else (.fin (s < 0) s.natAbs e0, 0)

/-- The product of two values. -/
def mulVal (a b : Val) : Val × Nat :=
  match a, b with
  | .nan s, y => (.nan false, (Val.nan s).sigInv ||| y.sigInv)
  | x, .nan s => (.nan false, x.sigInv ||| (Val.nan s).sigInv)
  | .inf n, .inf k => (.inf (n != k), 0)
  | .inf n, .fin k p _ => if p = 0 then (.nan false, fINV) else (.inf (n != k), 0)
  | .fin n m _, .inf k => if m = 0 then (.nan false, fINV) else (.inf (n != k), 0)
  | .fin n m e, .fin k p g => (.fin (n != k) (m * p) (e + g), 0)

/-- a × b + c, exact (R231). -/
def fmaVal (rdn : Bool) (a b c : Val) : Val × Nat :=
  let (p, f) := mulVal a b
  let (r, g) := addVal rdn p c
  (r, f ||| g)

/-- A quotient m / p as a value whose lowest bit is set when it is inexact: 200 bits suffice for every rounding of R37 and
R40. -/
def divVal (a b : Val) : Val × Nat :=
  match a, b with
  | .nan s, y => (.nan false, (Val.nan s).sigInv ||| y.sigInv)
  | x, .nan s => (.nan false, x.sigInv ||| (Val.nan s).sigInv)
  | .inf _, .inf _ => (.nan false, fINV)
  | .inf n, .fin k _ _ => (.inf (n != k), 0)
  | .fin n _ _, .inf k => (.fin (n != k) 0 0, 0)
  | .fin n m e, .fin k p g =>
    if p = 0 then (if m = 0 then (.nan false, fINV) else (.inf (n != k), 0))
    else if m = 0 then (.fin (n != k) 0 0, 0)
    else
      let x := m <<< (200 + p.log2)
      let q := x / p
      let r := x % p
      (.fin (n != k) (2 * q + if r = 0 then 0 else 1) (e - g - (200 + p.log2) - 1), 0)

/-- a < b for values that are no NaN; −0 lies below +0 (R33). -/
def valLtTotal (a b : Val) : Bool :=
  match a, b with
  | .nan _, _ => false
  | _, .nan _ => false
  | .inf n, .inf k => n && !k
  | .inf n, _ => n
  | _, .inf k => !k
  | .fin n m e, .fin k p g =>
    if n && !k then true
    else if !n && k then false
    else if n then magLt p g m e else magLt m e p g

/-- a = b as numbers: +0 = −0, a NaN equals nothing. -/
def valEq (a b : Val) : Bool :=
  match a, b with
  | .nan _, _ => false
  | _, .nan _ => false
  | .inf n, .inf k => n = k
  | .inf _, _ => false
  | _, .inf _ => false
  | .fin n m e, .fin k p g => (m = 0 && p = 0) || (n = k && magEq m e p g)

/-- a < b as numbers. -/
def valLt (a b : Val) : Bool := valLtTotal a b && !valEq a b

/-- MIN and MAX (R33). -/
def minMaxVal (isMax : Bool) (a b : Val) : Val × Nat :=
  if a.isNan || b.isNan then (.nan false, a.sigInv ||| b.sigInv)
  else if isMax then (if valLtTotal a b then b else a, 0) else (if valLtTotal b a then b else a, 0)

/-! ## Codebooks (R43 to R45) -/

/-- The preset codebook 0xF0 (FP4 E2M1). -/
def bookF0 : List Nat :=
  [0x0000, 0x3F00, 0x3F80, 0x3FC0, 0x4000, 0x4040, 0x4080, 0x40C0, 0x8000, 0xBF00, 0xBF80, 0xBFC0, 0xC000, 0xC040,
   0xC080, 0xC0C0]
/-- The preset codebook 0xF1 (INT4). -/
def bookF1 : List Nat :=
  [0x0000, 0x3F80, 0x4000, 0x4040, 0x4080, 0x40A0, 0x40C0, 0x40E0, 0xC100, 0xC0E0, 0xC0C0, 0xC0A0, 0xC080, 0xC040,
   0xC000, 0xBF80]

/-- The entries of a codebook of 32 bytes. -/
def bookOf (x : Nat) : List Nat := unpackFields 16 16 x

/-- The value of an index (R43): a NaN entry decodes to the canonical NaN, which raises no flag. -/
def bookVal (book : List Nat) (i : Nat) : Val :=
  match floatVal .bf16 (book.getD i 0) with
  | .nan _ => .nan false
  | v => v

/-- |x − y| for finite values, as a magnitude. -/
def distance (x y : Val) : Nat × Int :=
  match addVal false x y.negate with
  | (.fin _ m e, _) => (m, e)
  | _ => (0, 0)

/-- The nearest finite entry to x, lowest index first. -/
def nearest (book : List Nat) (x : Val) : Option Nat :=
  (List.range 16).foldl (fun best i =>
    if !(bookVal book i).isFin then best
    else match best with
      | none => some i
      | some j =>
        let (m, e) := distance x (bookVal book i)
        let (p, g) := distance x (bookVal book j)
        if magLt m e p g then some i else some j) none

/-- The extreme finite entry in a direction. -/
def extreme (book : List Nat) (neg : Bool) : Option Nat :=
  (List.range 16).foldl (fun best i =>
    if !(bookVal book i).isFin then best
    else match best with
      | none => some i
      | some j => if (if neg then valLt (bookVal book i) (bookVal book j) else valLt (bookVal book j) (bookVal book i))
                  then some i else some j) none

/-- Quantisation to CB4 (R45): index and flags. With no finite entry the index is 0. -/
def quantCb4 (book : List Nat) (x : Val) : Nat × Nat :=
  match x with
  | .nan _ => (((List.range 16).find? fun i => (bookVal book i).isNan).getD 0, fINV)
  | .inf neg =>
    match (List.range 16).find? fun i => bookVal book i = .inf neg with
    | some i => (i, 0)
    | none => ((extreme book neg).getD 0, fSAT)
  | .fin _ _ _ =>
    match extreme book true, extreme book false with
    | some lo, some hi =>
      if valLt x (bookVal book lo) then (lo, fSAT)
      else if valLt (bookVal book hi) x then (hi, fSAT)
      else ((nearest book x).getD 0, 0)
    | _, _ => (0, fSAT)

/-- The largest finite magnitude of a codebook. -/
def bookMax (book : List Nat) : Nat × Int :=
  (List.range 16).foldl (fun b i => match bookVal book i with
    | .fin _ m e => if magLt b.1 b.2 m e then (m, e) else b
    | _ => b) (0, 0)

/-! ## Block scales (R46 to R50) -/

/-- A dequantised value (R47): the value times 2^(s − 127), or NaN for the invalid scale. -/
def dequant (s : Nat) (v : Val) : Val := if s = 0xFF then .nan false else v.scale ((s : Int) - 127)

/-- The value of an element of a format, with a codebook for CB4 (R43). -/
def codedVal (f : Fmt) (book : List Nat) (b : Nat) : Val := if f = .cb4 then bookVal book b else elemVal f b

/-- A quantised element (R48) of a format with a codebook for CB4: bits, flags, and whether it counts as an underflow: a
source that is neither zero nor NaN and whose quantised value is a zero. -/
def quantElem (f : Fmt) (book : List Nat) (rm : RM) (rnd s : Nat) (v : Val) : Nat × Nat × Bool :=
  let x := v.scale (127 - (s : Int))
  let q : Nat × Nat := if s = 0xFF then (0, 0) else if f = .cb4 then quantCb4 book x else toFmt f rm rnd true x
  (q.1, q.2, !v.isNan && !v.isZero && (codedVal f book q.1).isZero)

/-- The largest finite magnitude M of a target (R50): of INT8 that of its largest value, 127, not of its least. DEDUCED, log entry 49. -/
def fmtMax (f : Fmt) (book : List Nat) : Nat × Int :=
  if f = .cb4 then bookMax book
  else if isInt f then ((intMax f).natAbs, 0)
  else match floatVal f (layoutOf f).maxBits with | .fin _ m e => (m, e) | _ => (0, 0)

/-- fits of R50 for a magnitude. -/
def fitsMax (f : Fmt) (book : List Nat) (rm : RM) (m : Nat) (e : Int) : Bool :=
  let rm := if rm = .sr then .rup else rm
  let (mm, me) := fmtMax f book
  if f = .cb4 then !magLt mm me m e
  else
    let q : Int := if isInt f then 0 else topExp m e - (layoutOf f).mbits
    let (t, _) := roundGrid rm 0 false m e q
    !magLt mm me t q

/-- KAUTO (R50) from the largest magnitude of a block: a NaN or an infinity stands for a block that holds one. A codebook
whose largest finite magnitude is 0 has no e of the rule; the model's choice is the scale 254 (log entry 49). -/
def kautoScale (f : Fmt) (book : List Nat) (rm : RM) (last thr : Nat) (amax : Val) : Nat :=
  match amax with
  | .nan _ => 0xFF
  | .inf _ => 0xFF
  | .fin _ m e =>
    if m = 0 then 127
    else
      let (mm, me) := fmtMax f book
      let c : Int := if mm = 0 then 128 else topExp m e - topExp mm me
      let x : Int := if magLt mm (me + c) m e then c + 1 else c
      let x := if thr < last && fitsMax f book rm m (e - (x - 1)) then x - 1 else x
      (satInt (x + 127) 0 254).toNat

/-! ## XACC and the holding forms (R52 to R56) -/

/-- Bit positions of R52. -/
def xNANS : Nat := 120
/-- +Inf seen. -/
def xPINF : Nat := 121
/-- −Inf seen. -/
def xNINF : Nat := 122
/-- Out-of-window positive seen. -/
def xOOWP : Nat := 123
/-- Out-of-window negative seen. -/
def xOOWN : Nat := 124

/-- x with one bit set. -/
def setBit (x i : Nat) : Nat := x ||| 2 ^ i

/-- xacc_add (R53): the element and the flags returned. -/
def xaccAdd (el : Nat) (v : Val) (elo : Int) : Nat × Nat :=
  match v with
  | .nan sig => (setBit el xNANS, if sig then fINV else 0)
  | .inf false => (setBit el xPINF, 0)
  | .inf true => (setBit el xNINF, 0)
  | .fin neg m e =>
    let (n, _) := roundInt .rne 0 neg m (e - elo)
    if n.natAbs ≥ 2 ^ 88 then (setBit el (if neg then xOOWN else xOOWP), fOOW)
    else
      let t := signedOf 120 el + n
      let out : Bool := t ≥ (2 ^ 119 : Nat) || t < -((2 ^ 119 : Nat) : Int)
      let el := if out then setBit el (if t > 0 then xOOWP else xOOWN) else el
      (el / 2 ^ 120 * 2 ^ 120 + wrapTo 120 t, if out then fOOW else 0)

/-- The value of an XACC element that a target receives (R55): value, and whether the completion record counts it
(before its rounding). -/
def xaccVal (el : Nat) (elo : Int) : Val × Bool :=
  let b (i : Nat) : Bool := el.testBit i
  let oow := b xOOWP || b xOOWN
  if b xNANS || (b xPINF && b xNINF) || (b xOOWP && b xOOWN) then (.nan false, oow)
  else if b xPINF || b xNINF then (.inf (b xNINF), oow)
  else if oow then (.inf (b xOOWN), oow)
  else
    let i := signedOf 120 el
    (.fin (i < 0) i.natAbs elo, false)

/-- The conversion of an XACC element to a format at a recast (R55): bits, and whether it counts. -/
def xaccOut (f : Fmt) (el : Nat) (elo : Int) : Nat × Bool :=
  let (v, oow) := xaccVal el elo
  let (x, fl) := roundFloat f .rne 0 false v
  (x, oow || (v.isFin && fl &&& fOVF ≠ 0))

/-- Width in bits of the holding form of an ACC element (R56). -/
def holdBits (f : Fmt) (comb : Nat) : Nat :=
  if isInt f then (if f = .i64 then 128 else 64) else if comb = 0 then 128 else fmtBits f

/-- The identity with which an ACC element starts, COMB 0 ADD, 1 MIN, 2 MAX, 3 AND, 4 OR, 5 XOR (R60 in the holding form;
XACC all zero, R52). Integer bounds are those of the element format. -/
def holdIdentity (f : Fmt) (comb : Nat) : Nat :=
  if isInt f then
    match comb with
    | 1 => wrapTo (holdBits f comb) (intMax f)
    | 2 => wrapTo (holdBits f comb) (intMin f)
    | 3 => ones' (holdBits f comb)
    | _ => 0
  else match comb with
    | 1 => if f = .e4m3 then (layoutOf f).maxBits else (layoutOf f).infBits
    | 2 => (layoutOf f).signed true (if f = .e4m3 then (layoutOf f).maxBits else (layoutOf f).infBits)
    | _ => 0
where
  /-- all ones -/
  ones' (w : Nat) : Nat := 2 ^ w - 1

/-- Two integers combined. -/
def combineInt (comb : Nat) (w : Nat) (a b : Int) : Nat :=
  match comb with
  | 0 => wrapTo w (a + b)
  | 1 => wrapTo w (min a b)
  | 2 => wrapTo w (max a b)
  | 3 => wrapTo w a &&& wrapTo w b
  | 4 => wrapTo w a ||| wrapTo w b
  | _ => wrapTo w a ^^^ wrapTo w b

/-- An integer or floating value combined into an ACC element in its holding form (R56, R53, R33; MIN and MAX of the rounded
value, R211): element and flags. -/
def holdAdd (f : Fmt) (comb : Nat) (elo : Int) (el : Nat) (vf : Fmt) (x : Nat) : Nat × Nat :=
  if isInt f then
    let w := holdBits f comb
    (combineInt comb w (signedOf w el) (fmtInt vf x), 0)
  else if comb = 0 then xaccAdd el (elemVal vf x) elo
  else
    let r := roundFloat f .rne 0 false (elemVal vf x)
    let (v, fl) := minMaxVal (comb = 2) (floatVal f el) (floatVal f r.1)
    ((roundFloat f .rne 0 false v).1, r.2 ||| fl)

/-! ## The matrix array (R57, R58) -/

/-- The group size G of R57. -/
def groupSize (f : Fmt) : Nat :=
  match f with
  | .bf16 | .f16 => 8
  | .cb4 => 32
  | _ => 16

/-- The exact sum of a group of products (R58). -/
def groupSum (ps : List Val) : Val :=
  if ps.any (·.isNan) then .nan false
  else
    let pinf := ps.contains (.inf false)
    let ninf := ps.contains (.inf true)
    if pinf && ninf then .nan false
    else if pinf then .inf false
    else if ninf then .inf true
    else if ps.all fun p => p.isZero && p.neg? then .fin true 0 0
    else
      let s := ps.foldl (fun a p => (addVal false a p).1) (.fin false 0 0)
      if s.isZero then .fin false 0 0 else s

/-- Products taken group by group. -/
def chunksOf (n : Nat) : Nat → List Val → List (List Val)
  | 0, _ => []
  | fuel + 1, ps => if ps.isEmpty then [] else ps.take n :: chunksOf n fuel (ps.drop n)

/-- accumulate of R57 for a floating operand format on the bits of an accumulator: bits and flags. -/
def accumFloat (fa : Fmt) (acc : Nat) (pairs : List (Val × Val)) : Nat × Nat :=
  if fa = .f32 || fa = .f64 then
    pairs.foldl (fun (q : Nat × Nat) p =>
      let (v, fl) := fmaVal false p.1 p.2 (floatVal fa q.1)
      let (b, fr) := roundFloat fa .rne 0 false v
      (b, q.2 ||| fl ||| fr)) (acc, 0)
  else
    let ps := pairs.map fun p => mulVal p.1 p.2
    let fls := ps.foldl (fun a p => a ||| p.2) 0
    (chunksOf (groupSize fa) ps.length (ps.map (·.1))).foldl (fun (q : Nat × Nat) g =>
      let s := groupSum g
      let inv := if s.isNan && !(g.any (·.isNan)) then fINV else 0
      let (v, fl) := addVal false (floatVal .f32 q.1) s
      let (b, fr) := roundFloat .f32 .rne 0 false v
      (b, q.2 ||| inv ||| fl ||| fr)) (acc, fls)

/-- Integers taken group by group. -/
def intChunks (n : Nat) : Nat → List Int → List Int
  | 0, _ => []
  | fuel + 1, ps => if ps.isEmpty then [] else (ps.take n).foldl (· + ·) 0 :: intChunks n fuel (ps.drop n)

/-- accumulate of R57 for INT8 and UINT8: the accumulator and the sticky overflow. -/
def accumInt (acc : Nat) (ps : List Int) : Nat × Bool :=
  (intChunks 16 ps.length ps).foldl (fun (q : Nat × Bool) s =>
    let t := signedOf 32 q.1 + s
    (wrapTo 32 t, q.2 || decide (t < -((2 ^ 31 : Nat) : Int)) || decide (t ≥ (2 ^ 31 : Nat)))) (acc, false)

/-! ## The fixed trees (R59, R60) -/

/-- One level of the tree: neighbouring nodes combined, with the flags of their forming. -/
def treeLevel (op : Nat → Nat → Nat × Nat) : List (Nat × Nat) → List (Nat × Nat)
  | a :: b :: r =>
    let (x, f) := op a.1 b.1
    (x, a.2 ||| b.2 ||| f) :: treeLevel op r
  | r => r

/-- The levels of the tree, the lanes first. Each node carries the flags of all combinations under it. -/
def treeLevels (op : Nat → Nat → Nat × Nat) : Nat → List (Nat × Nat) → List (List (Nat × Nat))
  | 0, l => [l]
  | k + 1, l => l :: treeLevels op k (treeLevel op l)

/-- The root over 2^k lanes, with the flags of every node (R59). -/
def treeReduce (op : Nat → Nat → Nat × Nat) : Nat → List (Nat × Nat) → Nat × Nat
  | 0, l => l.headD (0, 0)
  | k + 1, l => treeReduce op k (treeLevel op l)

/-- The bits of n from high to low, below 2^k. -/
def bitsDown : Nat → Nat → List Nat
  | 0, _ => []
  | k + 1, n => if n.testBit k then k :: bitsDown k n else bitsDown k n

/-- The inclusive scan result of lane j (R59) with the flags of what forms it. -/
def scanLane (op : Nat → Nat → Nat × Nat) (levels : List (List (Nat × Nat))) (k j : Nat) : Nat × Nat :=
  let blocks := bitsDown (k + 1) (j + 1)
  let step (q : Option (Nat × Nat) × Nat) (a : Nat) : Option (Nat × Nat) × Nat :=
    let node := (levels.getD a []).getD (q.2 / 2 ^ a) (0, 0)
    let start := q.2 + 2 ^ a
    match q.1 with
    | none => (some node, start)
    | some p =>
      let (x, f) := op p.1 node.1
      (some (x, p.2 ||| node.2 ||| f), start)
  ((blocks.foldl step (none, 0)).1).getD (0, 0)

/-- The identities of R60 as bits of a format: 0 ADD, 1 MUL, 2 MIN, 3 MAX, 4 AND, 5 OR, 6 XOR. -/
def identityOf (f : Fmt) (op : Nat) : Nat :=
  if isInt f then
    match op with
    | 1 => 1
    | 2 => wrapTo (fmtBits f) (intMax f)
    | 3 => wrapTo (fmtBits f) (intMin f)
    | 4 => 2 ^ fmtBits f - 1
    | _ => 0
  else
    let l := layoutOf f
    match op with
    | 1 => (roundFloat f .rne 0 false (.fin false 1 0)).1
    | 2 => if l.hasInf then l.infBits else l.maxBits
    | 3 => l.signed true (if l.hasInf then l.infBits else l.maxBits)
    | _ => l.signed true 0

/-- A lane that enters a result without a combination: a NaN is the canonical NaN of its format (R32), and no flag arises
(R59; log entry 49). -/
def canonLane (f : Fmt) (x : Nat) : Nat :=
  if isInt f then x else if (floatVal f x).isNan then (layoutOf f).nanBits else x

/-- One combination of a reduction or scan, rounded in a mode: bits and flags. -/
def combineFmt (f : Fmt) (op : Nat) (rm : RM) (a b : Nat) : Nat × Nat :=
  let w := fmtBits f
  if isInt f then
    let x := fmtInt f a
    let y := fmtInt f b
    (match op with
     | 0 => wrapTo w (x + y)
     | 1 => wrapTo w (x * y)
     | 2 => wrapTo w (min x y)
     | 3 => wrapTo w (max x y)
     | 4 => a &&& b
     | 5 => a ||| b
     | _ => a ^^^ b, 0)
  else
    let (v, fl) := match op with
      | 0 => addVal (rm = .rdn) (floatVal f a) (floatVal f b)
      | 1 => mulVal (floatVal f a) (floatVal f b)
      | 2 => minMaxVal false (floatVal f a) (floatVal f b)
      | _ => minMaxVal true (floatVal f a) (floatVal f b)
    let (x, fr) := roundFloat f rm 0 false v
    (x, fl ||| fr)

/-! ## Special functions (R61 to R63) -/

/-- Fraction bits of the fixed-point arithmetic below: far more than the results' rounding needs. -/
def fixBits : Nat := 400
/-- floor(ln 2 × 2^400). -/
def ln2Fix : Nat :=
  1789879222497203190815761498240779176894896805856420935579692301363062920687047601279850318367644315849030039181347319086
/-- floor(π × 2^400). -/
def piFix : Nat :=
  8112377246730971238862271351300894519161151600179265203591191037615230905373990498745523360926816815427566779727327576236

/-- The sum of x^n / n! from the n-th term on, in fixed point. -/
def expSeries (x : Nat) : Nat → Nat → Nat → Nat
  | 0, _, _ => 0
  | fuel + 1, n, term => if term = 0 then 0 else term + expSeries x fuel (n + 1) (term * x / (2 ^ fixBits * (n + 1)))

/-- e^x − 1 in fixed point, for 0 ≤ x < 2. -/
def expm1Fix (x : Nat) : Nat := expSeries x 200 1 x

/-- e^x in fixed point for any x in fixed point. -/
def expFix (x : Nat) : Nat :=
  let q := x * 2 ^ fixBits / ln2Fix
  let n := q >>> fixBits
  let r := (q % 2 ^ fixBits) * ln2Fix / 2 ^ fixBits
  (2 ^ fixBits + expm1Fix r) <<< n

/-- The sum of z^(2n+1) / (2n+1) in fixed point. -/
def atanhSeries (zz : Nat) : Nat → Nat → Nat → Nat
  | 0, _, _ => 0
  | fuel + 1, n, p => if p = 0 then 0 else p / (2 * n + 1) + atanhSeries zz fuel (n + 1) (p * zz / 2 ^ fixBits)

/-- log2 of a mantissa in [1, 2), in fixed point. -/
def log2Fix (m : Nat) : Nat :=
  let z := (m - 2 ^ fixBits) * 2 ^ fixBits / (m + 2 ^ fixBits)
  let ln := 2 * atanhSeries (z * z / 2 ^ fixBits) 200 0 z
  ln * 2 ^ fixBits / ln2Fix

/-- The alternating series of sin from term n on. -/
def sinSeries (xx : Nat) : Nat → Nat → Nat → Int
  | 0, _, _ => 0
  | fuel + 1, n, term =>
    if term = 0 then 0 else (term : Int) - sinSeries xx fuel (n + 1) (term * xx / (2 ^ fixBits * ((2 * n + 2) * (2 * n + 3))))

/-- sin(π r) in fixed point for r in [0, 1/2] in fixed point. -/
def sinPiFix (r : Nat) : Nat :=
  let x := r * piFix / 2 ^ fixBits
  (sinSeries (x * x / 2 ^ fixBits) 200 0 x).toNat

/-- Floor of the square root, by bits from the n-th down. -/
def isqrtBits (x : Nat) : Nat → Nat → Nat
  | 0, r => r
  | n + 1, r => if (r + 2 ^ n) * (r + 2 ^ n) ≤ x then isqrtBits x n (r + 2 ^ n) else isqrtBits x n r

/-- Floor of the square root. -/
def isqrt (x : Nat) : Nat := isqrtBits x (x.log2 / 2 + 1) 0

/-- A fixed-point approximation of an irrational value, its lowest bit set as for an inexact value. -/
def sticky (neg : Bool) (t : Nat) (e : Int) : Val := .fin neg (2 * t + 1) (e - 1)

/-- m × 2^e in fixed point. -/
def fixOf (m : Nat) (e : Int) : Nat :=
  let k := e + fixBits
  if 0 ≤ k then m <<< k.toNat else m >>> (-k).toNat

/-- exp2 of a finite value. -/
def exp2Val (neg : Bool) (m : Nat) (e : Int) : Val :=
  if m = 0 then .fin false 1 0
  else if 20 < topExp m e then (if neg then .fin false 1 (-40000) else .fin false 1 40000)
  else if 0 ≤ e then
    let i : Int := m <<< e.toNat
    .fin false 1 (if neg then -i else i)
  else
    let d : Nat := 2 ^ (-e).toNat
    let x : Int := if neg then -(m : Int) else m
    let n := x / (d : Int)
    let f := (x % (d : Int)).toNat
    if f = 0 then .fin false 1 n
    else sticky false (2 ^ fixBits + expm1Fix (f * 2 ^ fixBits / d * ln2Fix / 2 ^ fixBits)) (n - fixBits)

/-- log2 of a positive finite value. -/
def log2Val (m : Nat) (e : Int) : Val :=
  let k := m.log2
  if m = 2 ^ k then intVal ((k : Int) + e)
  else
    let l : Int := ((k : Int) + e) * (2 ^ fixBits : Nat) + log2Fix (m * 2 ^ fixBits / 2 ^ k)
    sticky (l < 0) l.natAbs (-(fixBits : Int))

/-- sqrt of a positive finite value. -/
def sqrtVal (m : Nat) (e : Int) : Val :=
  let (m, e) := if e % 2 = 0 then (m, e) else (2 * m, e - 1)
  let x := m <<< 240
  let t := isqrt x
  .fin false (2 * t + if t * t = x then 0 else 1) (e / 2 - 121)

/-- 1 / sqrt of a positive finite value. -/
def rsqrtVal (m : Nat) (e : Int) : Val :=
  let (m, e) := if e % 2 = 0 then (m, e) else (2 * m, e - 1)
  let k := 240 + m.log2
  let t := isqrt (2 ^ (2 * k) / m)
  .fin false (2 * t + if t * t * m = 2 ^ (2 * k) then 0 else 1) (-(e / 2) - k - 1)

/-- sinpi of a finite value; an integer gives a zero with the sign of x. -/
def sinpiVal (neg : Bool) (m : Nat) (e : Int) : Val :=
  if 0 ≤ e || m = 0 then .fin neg 0 0
  else
    let d : Nat := 2 ^ (-e).toNat
    let r := m % (2 * d)
    if r % d = 0 then .fin neg 0 0
    else
      let sg := neg != decide (r > d)
      let y := r % d
      let y := if 2 * y > d then d - y else y
      if 2 * y = d then .fin sg 1 0 else sticky sg (sinPiFix (y * 2 ^ fixBits / d)) (-(fixBits : Int))

/-- Whether a finite value is an integer. -/
def isIntegral (m : Nat) (e : Int) : Bool := 0 ≤ e || m % 2 ^ (-e).toNat = 0

/-- cospi of a finite value. -/
def cospiVal (m : Nat) (e : Int) : Val :=
  if m = 0 || 1 ≤ e then .fin false 1 0
  else
    let d : Nat := 2 ^ (-e).toNat
    let r := m % (2 * d)
    if r = 0 then .fin false 1 0
    else if r = d then .fin true 1 0
    else
      let y := if r > d then 2 * d - r else r
      if 2 * y = d then .fin false 0 0
      else
        let sg := decide (2 * y > d)
        let y := if sg then d - y else y
        sticky sg (sinPiFix ((d - 2 * y) * 2 ^ fixBits / (2 * d))) (-(fixBits : Int))

/-- A value just below 1. -/
def belowOne (neg : Bool) : Val := .fin neg (2 ^ 300 - 1) (-300)

/-- tanh of a finite value. -/
def tanhVal (neg : Bool) (m : Nat) (e : Int) : Val :=
  if m = 0 then .fin neg 0 0
  else if 9 < topExp m e then belowOne neg
  else
    let x := fixOf m (e + 1)
    if x < 2 * 2 ^ fixBits then
      let p := expm1Fix x
      sticky neg (p * 2 ^ fixBits / (p + 2 * 2 ^ fixBits)) (-(fixBits : Int))
    else sticky neg (2 ^ fixBits - 2 * 2 ^ (2 * fixBits) / (expFix x + 2 ^ fixBits)) (-(fixBits : Int))

/-- sigmoid of a finite value. -/
def sigmoidVal (neg : Bool) (m : Nat) (e : Int) : Val :=
  if m = 0 then .fin false 1 (-1)
  else if 9 < topExp m e then (if neg then .fin false 1 (-1000) else belowOne false)
  else
    let t := 2 ^ (2 * fixBits) / (expFix (fixOf m e) + 2 ^ fixBits)
    sticky false (if neg then t else 2 ^ fixBits - t) (-(fixBits : Int))

/-- A special function of a value (R61, R62), numbered in opcode order: exp2, log2, rcp, rsqrt, sqrt, sinpi, cospi, tanh,
sigmoid. -/
def specialVal (n : Nat) (v : Val) : Val × Nat :=
  match v with
  | .nan sig => (.nan false, if sig then fINV else 0)
  | .inf neg =>
    match n with
    | 0 => if neg then (.fin false 0 0, 0) else (.inf false, 0)
    | 1 => if neg then (.nan false, fINV) else (.inf false, 0)
    | 2 => (.fin neg 0 0, 0)
    | 3 => if neg then (.nan false, fINV) else (.fin false 0 0, 0)
    | 4 => if neg then (.nan false, fINV) else (.inf false, 0)
    | 5 => (.nan false, fINV)
    | 6 => (.nan false, fINV)
    | 7 => (.fin neg 1 0, 0)
    | _ => if neg then (.fin false 0 0, 0) else (.fin false 1 0, 0)
  | .fin neg m e =>
    match n with
    | 0 => (exp2Val neg m e, 0)
    | 1 => if m = 0 then (.inf true, 0) else if neg then (.nan false, fINV) else (log2Val m e, 0)
    | 2 => if m = 0 then (.inf neg, 0) else divVal (.fin false 1 0) (.fin neg m e)
    | 3 => if m = 0 then (.inf neg, 0) else if neg then (.nan false, fINV) else (rsqrtVal m e, 0)
    | 4 => if m = 0 then (.fin neg 0 0, 0) else if neg then (.nan false, fINV) else (sqrtVal m e, 0)
    | 5 => (sinpiVal neg m e, 0)
    | 6 => (cospiVal m e, 0)
    | 7 => (tanhVal neg m e, 0)
    | _ => (sigmoidVal neg m e, 0)

/-- The accurate grade: bits and flags. -/
def specialAccurate (f : Fmt) (n x : Nat) : Nat × Nat :=
  let (v, fl) := specialVal n (floatVal f x)
  let (b, fr) := roundFloat f .rne 0 false v
  (b, fl ||| fr)

/-- The distance of a candidate from the exact value is within k × 2^q. -/
def withinVal (c v : Val) (k : Nat) (q : Int) : Bool :=
  match addVal false c v.negate with
  | (.fin _ m e, _) => !magLt k q m e
  | _ => false

/-- The bounds of R63 for a candidate result c of an exact value v at input x. A result never leaves the function's range:
sinpi, cospi and tanh lie in [−1, 1], sigmoid in [0, 1], and exp2, rcp, rsqrt and sqrt keep the sign of the exact value. -/
def fastBound (n : Nat) (x v c : Val) : Bool :=
  let ulp : Int := match v with | .fin _ m e => if m = 0 then -149 else max (topExp m e - 23) (-149) | _ => -149
  let below (m : Nat) (e : Int) : Bool := valLt x.abs (.fin false m e)
  let sign : Bool := c.neg? = v.neg?
  let unit : Bool := !valLt (.fin false 1 0) c.abs
  match n with
  | 0 => withinVal c v 2 ulp && sign
  | 1 => if valLt x (.fin false 3 (-2)) || valLt (.fin false 3 (-1)) x then withinVal c v 2 ulp else withinVal c v 1 (-22)
  | 2 => withinVal c v 1 ulp && sign
  | 3 => withinVal c v 2 ulp && sign
  | 4 => withinVal c v 1 ulp && sign
  | 5 => withinVal c v 1 (-21) && unit
  | 6 => withinVal c v 1 (-21) && unit
  | 7 => (if below 1 (-1) then withinVal c v 1 (-24) else withinVal c v 2 ulp) && unit
  | _ => withinVal c v 2 ulp && unit && sign

/-- A subnormal FP32 pattern flushed to a zero of its sign (R31). -/
def flush32 (x : Nat) : Nat := if (x >>> 23) % 256 = 0 then x / 2 ^ 31 % 2 * 2 ^ 31 else x

/-- The fast grade (R31, R62, R63): the implementation's bits where they keep the bound, else the accurate ones (log
entry 9). A subnormal result is flushed, and a nonzero value whose result is a zero sets `UNF` and `INX` (R31, R36). -/
def specialFast (n x : Nat) : Nat × Nat :=
  let x := flush32 x
  let xv := floatVal .f32 x
  let (v, fl) := specialVal n xv
  let (b, fr) := roundFloat .f32 .rne 0 false v
  let given : Bool := match xv, v with
    | .fin _ m e, .fin _ p _ => p = 0 || (n = 6 && isIntegral m e) || m = 0
    | _, _ => true
  if given || fr &&& fOVF ≠ 0 then (b, fl ||| fr)
  else
    let c := (Config.fastBits n (BitVec.ofNat 32 x)).toNat
    let cv := floatVal .f32 c
    let b := if cv.isFin && fastBound n xv v cv then c else b
    let r := flush32 b
    if (floatVal .f32 r).isZero then (r, fl ||| fUNF ||| fINX)
    else (r, fl ||| if valEq (floatVal .f32 r) v then 0 else fINX)

end Sys2Proof.Machine
end

