-- ==== Sys2Proof/Machine/Sinter.lean ====
section
/-!
DEFINITION. Projection of a row onto a set and its adjoint (R283 to R296): exact sums and single roundings.
-/
namespace Sys2Proof.Machine

/-! ## Exact helpers -/

/-- The exact sum of finite values. -/
def exactSum (vs : List Val) : Val := vs.foldl (fun a v => (addVal false a v).1) (.fin false 0 0)
/-- The exact difference. -/
def vSub (a b : Val) : Val := (addVal false a b.negate).1
/-- The exact product. -/
def vMulV (a b : Val) : Val := (mulVal a b).1
/-- A count as a value. -/
def vNat (n : Nat) : Val := intVal n
/-- A finite value, sign and parts. -/
def finParts : Val → Bool × Nat × Int
  | .fin n m e => (n, m, e)
  | _ => (false, 0, 0)

/-- a × b / √q for finite values, q positive: the exact real with a sticky low bit. -/
def overRoot (a b q : Val) : Val :=
  let (na, ma, ea) := finParts a
  let (nb, mb, eb) := finParts b
  let (_, mq, eq) := finParts q
  let (mq, eq) := if eq % 2 = 0 then (mq, eq) else (2 * mq, eq - 1)
  let n := ma * mb
  let k := 240 + mq.log2
  let x := n * n * 2 ^ (2 * k)
  let t := isqrt (x / mq)
  .fin (na != nb) (2 * t + if t * t * mq = x then 0 else 1) (ea + eb - eq / 2 - k - 1)

/-! ## Projection (R284 to R291) -/

/-- A projected row: (column, bits) of each output in the accumulator format, the record, and the flags. -/
structure Projected where
  xs : List (Nat × Nat)
  record : Nat
  flags : Nat
  rounds : Nat

/-- Bit set of columns. -/
def columnBits (ns : List Nat) : Nat := ns.foldl (fun a n => a ||| 2 ^ n) 0

/-- A record (R285). -/
def mkRecord (f64 : Bool) (set bits rounds : Nat) (inside fb nan : Bool) (tau norm : Nat) : Nat :=
  tau * 2 ^ 192 + norm * 2 ^ 160 + b2n f64 * 2 ^ 158 + b2n fb * 2 ^ 157 + b2n nan * 2 ^ 156 + b2n inside * 2 ^ 155
    + set * 2 ^ 152 + rounds % 256 * 2 ^ 144 + popCount 128 bits * 2 ^ 128 + bits

/-- The result of the threshold search (R287): support, τ as bits, rounds, and whether the empty-support rule applied. -/
structure Threshold where
  sup : List (Nat × Val)
  tau : Nat
  rounds : Nat
  fb : Bool

/-- τ of a support. -/
def thresholdOf (f : Fmt) (s : List (Nat × Val)) (z : Val) : Nat :=
  (roundFloat f .rne 0 false (divVal (vSub (exactSum (s.map (·.2))) z) (vNat s.length)).1).1

/-- The threshold search (R287). -/
def search (f : Fmt) (z : Val) : Nat → List (Nat × Val) → Nat → Threshold
  | 0, s, r => ⟨s, thresholdOf f s z, r, false⟩
  | fuel + 1, s, r =>
    let tau := thresholdOf f s z
    let tv := floatVal f tau
    let kept := s.filter fun p => valLt tv p.2
    if kept.isEmpty then
      let top := s.foldl (fun m p => if valLt m p.2 then p.2 else m) ((s.map (·.2)).headD (.fin false 0 0))
      let s' := s.filter fun p => valEq p.2 top
      ⟨s', thresholdOf f s' z, r + 1, true⟩
    else if kept.length = s.length then ⟨s, tau, r + 1, false⟩
    else search f z fuel kept (r + 1)

/-- A block of the monotone cones: first column, exact sum, count. -/
abbrev Pool := Nat × Val × Nat

/-- Blocks merged while they violate the order (R291): the top of the stack first, and the count of merges. -/
def poolMerge (down : Bool) : Nat → List Pool → Nat → List Pool × Nat
  | 0, st, k => (st, k)
  | fuel + 1, b2 :: b1 :: r, k =>
    let l := vMulV b1.2.1 (vNat b2.2.2)
    let h := vMulV b2.2.1 (vNat b1.2.2)
    if (if down then valLt l h else valLt h l) then
      poolMerge down fuel ((b1.1, exactSum [b1.2.1, b2.2.1], b1.2.2 + b2.2.2) :: r) (k + 1)
    else (b2 :: b1 :: r, k)
  | _ + 1, st, k => (st, k)

/-- Pool adjacent violators over a row (R291): blocks in column order, and merges. -/
def poolRow (down : Bool) (ys : List (Nat × Val)) : List Pool × Nat :=
  let q := ys.foldl (fun q y => poolMerge down 130 ((y.1, y.2, 1) :: q.1) q.2) ([], 0)
  (q.1.reverse, q.2)

/-- The parameters of a set are invalid (R284). -/
def paramsBad (set : Nat) (p1 p2 : Val) : Bool :=
  match set with
  | 1 => p1.isNan || p2.isNan || valLt p2 p1
  | 2 | 3 | 4 => !p1.isFin || p1.isZero || p1.neg?
  | _ => false

/-- The parameters are invalid for another cause than a quiet NaN (R284, R32; log entry 31). -/
def paramsLoud (set : Nat) (p1 p2 : Val) : Bool :=
  let sig (v : Val) : Bool := match v with | .nan b => b | _ => false
  match set with
  | 1 => sig p1 || sig p2 || valLt p2 p1
  | 2 | 3 | 4 => sig p1 || (!p1.isNan && (!p1.isFin || p1.isZero || p1.neg?))
  | _ => false

/-- A row of one value for every active column. -/
def constRow (ys : List (Nat × Val)) (bits : Nat) : List (Nat × Nat) := ys.map fun y => (y.1, bits)

/-- Outputs rounded to the accumulator format, with their flags. -/
def roundRow (f : Fmt) (vs : List (Nat × Val)) : List (Nat × Nat) × Nat :=
  let rs := vs.map fun v => (v.1, roundFloat f .rne 0 false v.2)
  (rs.map fun r => (r.1, r.2.1), rs.foldl (fun a r => a ||| r.2.2) 0)

/-- MAX(round(v − τ), +0) for the support, σ applied (R288, R289). -/
def shrink (f : Fmt) (tau : Nat) (v : Val) (neg : Bool) : Nat × Nat :=
  let r := roundFloat f .rne 0 false (vSub v (floatVal f tau))
  let x := (minMaxVal true (floatVal f r.1) (.fin false 0 0)).1
  ((roundFloat f .rne 0 false (if neg then x.negate else x)).1, r.2)

/-- The outputs of a threshold search: shrunk on the support, +0 elsewhere. -/
def shrunkRow (f : Fmt) (ys : List (Nat × Val)) (t : Threshold) (signed : Bool) : List (Nat × Nat) × Nat :=
  let rs := ys.map fun y =>
    match t.sup.find? fun p => p.1 = y.1 with
    | some p => (y.1, shrink f t.tau p.2 (signed && y.2.neg?))
    | none => (y.1, 0, 0)
  (rs.map fun r => (r.1, r.2.1), rs.foldl (fun a r => a ||| r.2.2) 0)

/-- Sinter on one row (R284, R286 to R292): set, values of the active columns in increasing column, parameters. -/
def project (f : Fmt) (set : Nat) (ys : List (Nat × Val)) (p1 p2 : Val) : Projected :=
  let f64 := decide (f = .f64)
  let all := columnBits (ys.map (·.1))
  let special := ys.any fun y => !y.2.isFin
  if paramsBad set p1 p2 || (set ≠ 1 && special) then
    let loud := paramsLoud set p1 p2 || (set ≠ 1 && ys.any fun y => match y.2 with | .inf _ => true | .nan sig => sig | .fin _ _ _ => false)
    ⟨constRow ys (layoutOf f).nanBits, mkRecord f64 set 0 0 false false true 0 0, if loud then fINV else 0, 0⟩
  else match set with
  | 1 =>
    let rs := ys.map fun y =>
      let a := minMaxVal false y.2 p2
      let b := minMaxVal true p1 a.1
      let o := roundFloat f .rne 0 false b.1
      (y.1, o.1, a.2 ||| b.2 ||| o.2)
    let bits := columnBits ((ys.filter fun y => !y.2.isNan && !valLt y.2 p1 && !valLt p2 y.2).map (·.1))
    ⟨rs.map fun r => (r.1, r.2.1), mkRecord f64 1 bits 0 false false false 0 0, rs.foldl (fun a r => a ||| r.2.2) 0, 0⟩
  | 2 =>
    let t := search f p1 129 ys 0
    let o := shrunkRow f ys t false
    ⟨o.1, mkRecord f64 2 (columnBits (t.sup.map (·.1))) t.rounds false t.fb false t.tau 0, o.2, t.rounds⟩
  | 3 =>
    let a := exactSum (ys.map fun y => y.2.abs)
    let norm := (roundFloat .f32 .rne 0 false a).1
    if !valLt p1 a then
      let o := roundRow f ys
      ⟨o.1, mkRecord f64 3 all 0 true false false 0 norm, o.2, 0⟩
    else
      let t := search f p1 129 (ys.map fun y => (y.1, y.2.abs)) 0
      let o := shrunkRow f ys t true
      ⟨o.1, mkRecord f64 3 (columnBits (t.sup.map (·.1))) t.rounds false t.fb false t.tau norm, o.2, t.rounds⟩
  | 4 =>
    let q := exactSum (ys.map fun y => vMulV y.2 y.2)
    let root := match q with | .fin _ m e => if m = 0 then .fin false 0 0 else sqrtVal m e | v => v
    let norm := (roundFloat .f32 .rne 0 false root).1
    if !valLt (vMulV p1 p1) q then
      let o := roundRow f ys
      ⟨o.1, mkRecord f64 4 all 0 true false false 0 norm, o.2, 0⟩
    else
      let o := roundRow f (ys.map fun y => (y.1, overRoot p1 y.2 q))
      let tau := (roundFloat f .rne 0 false (overRoot p1 (.fin false 1 0) q)).1
      ⟨o.1, mkRecord f64 4 all 0 false false false tau norm, o.2, 0⟩
  | _ =>
    let p := poolRow (set = 6) ys
    let mean (n : Nat) : Val := match p.1.reverse.find? fun b => b.1 ≤ n with
      | some b => (divVal b.2.1 (vNat b.2.2)).1
      | none => .nan false
    let o := roundRow f (ys.map fun y => (y.1, mean y.1))
    ⟨o.1, mkRecord f64 set (columnBits (p.1.map (·.1))) p.2 false false false 0 0, o.2, p.2⟩

/-! ## The adjoint (R295, R296) -/

/-- The first column of the block of column n (R296). -/
def blockFirst (bits : Nat) : Nat → Option Nat
  | 0 => if bits.testBit 0 then some 0 else none
  | n + 1 => if bits.testBit (n + 1) then some (n + 1) else blockFirst bits n

/-- A sum under the special-value rules of R58, with `INV` for a signalling term, and where it makes a NaN of no NaN
(R32). -/
def ruledSum (vs : List Val) : Val × Nat :=
  let s := if vs.isEmpty then .fin false 0 0 else groupSum vs
  (s, vs.foldl (fun a v => a ||| v.sigInv) (if s.isNan && !(vs.any (·.isNan)) then fINV else 0))

/-- (t × (g × d − u)) / d, one exact rational; `rdn` signs an exact zero. -/
def lessMean (rdn : Bool) (t g d u : Val) : Val × Nat :=
  let p := mulVal g d
  let n := addVal rdn p.1 u.negate
  let m := mulVal t n.1
  let q := divVal m.1 d
  (q.1, p.2 ||| n.2 ||| m.2 ||| q.2)

/-- t × adjoint of one column (R296), or `none` where the record places the column in no block: set, record, scale t,
upstream values, forward values, the columns whose forward value has its sign bit set, ρ. -/
def adjoint (rdn : Bool) (f : Fmt) (set rec_ : Nat) (t : Val) (gs fs : List (Nat × Val)) (negs : List Nat) (rho : Val) (n : Nat) :
    Option (Val × Nat) :=
  let bits := rec_ % 2 ^ 128
  let inS (j : Nat) : Bool := bits.testBit j
  let k := vNat ((rec_ >>> 128) % 2 ^ 16)
  let inside := rec_.testBit 155
  let at_ (l : List (Nat × Val)) (j : Nat) : Val := ((l.find? fun p => p.1 = j).map (·.2)).getD (.fin false 0 0)
  let g := at_ gs n
  let zero : Val := .fin false 0 0
  let sup := gs.filter fun p => inS p.1
  match set with
  | 1 => some (if inS n then mulVal t g else mulVal t zero)
  | 2 =>
    if inS n then
      let u := ruledSum (sup.map (·.2))
      let r := lessMean rdn t g k u.1
      some (r.1, r.2 ||| u.2)
    else some (mulVal t zero)
  | 3 =>
    if inside then some (mulVal t g)
    else if inS n then
      let sg (j : Nat) (v : Val) : Val := if negs.contains j then v.negate else v
      let u := ruledSum (sup.map fun p => sg p.1 p.2)
      let r := lessMean rdn t g k (sg n u.1)
      some (r.1, r.2 ||| u.2)
    else some (mulVal t zero)
  | 4 =>
    if inside then some (mulVal t g)
    else
      let c := floatVal f ((rec_ >>> 192) % 2 ^ fmtBits f)
      let ps := gs.map fun p => mulVal (at_ fs p.1) p.2
      let u := ruledSum (ps.map (·.1))
      let fl := ps.foldl (fun a p => a ||| p.2) u.2
      let fu := mulVal (at_ fs n) u.1
      let d := vMulV rho rho
      let fl := fl ||| rho.sigInv
      if rho.isFin && !rho.isZero then
        let tc := mulVal t c
        let r := lessMean rdn tc.1 g d fu.1
        some (r.1, r.2 ||| fl ||| fu.2 ||| tc.2)
      else
        let q := divVal fu.1 d
        let w := addVal rdn g q.1.negate
        let cw := mulVal c w.1
        let r := mulVal t cw.1
        some (r.1, fl ||| fu.2 ||| q.2 ||| w.2 ||| cw.2 ||| r.2)
  | _ =>
    match blockFirst bits n with
    | none => none
    | some b =>
      let mem := gs.filter fun p => blockFirst bits p.1 = some b
      let u := ruledSum (mem.map (·.2))
      let m := mulVal t u.1
      let q := divVal m.1 (vNat mem.length)
      some (q.1, u.2 ||| m.2 ||| q.2)

end Sys2Proof.Machine
end

