-- ==== Sys2Proof/Syntax.lean ====
section
/-!
DEFINITION. The abstract syntax: every operation and event of spec/opcode_table.json is one constructor of `Instr`.

A slot operation carries the fields of its slot word (R178 to R182), named as the spec names them; a tile
instruction carries its eight words (R99); an event carries what the outside world or the choice of move decides.
Nothing here gives a meaning.
-/
namespace Sys2Proof

/-- The gate of a slot word: predicate register `pg`, negated when `pn` (R166). -/
structure Guard where
  pg : BitVec 3
  pn : Bool
  deriving DecidableEq, Repr

/-- S-slot form RR (R196): destination, two sources, function bits. -/
structure SRR where
  g : Guard
  d : BitVec 5
  a : BitVec 5
  b : BitVec 5
  fn : BitVec 6
  deriving DecidableEq, Repr

/-- S-slot form RI and N (R196): the immediate is imm11. -/
structure SRI where
  g : Guard
  d : BitVec 5
  a : BitVec 5
  imm : BitVec 11
  deriving DecidableEq, Repr

/-- S-slot form I16 (R196). -/
structure SI16 where
  g : Guard
  d : BitVec 5
  imm : BitVec 16
  deriving DecidableEq, Repr

/-- S-slot form D21 (R196): a signed count of 32-bit words from the bundle's header. -/
structure SD21 where
  g : Guard
  disp : BitVec 21
  deriving DecidableEq, Repr

/-- S-slot form C12 (R196); `z` is the reserved field [15:12]. -/
structure SC12 where
  g : Guard
  d : BitVec 5
  z : BitVec 4
  csr : BitVec 12
  deriving DecidableEq, Repr

/-- The vector slot that holds a vector operation (R161). -/
inductive VSlot where
  | va | vb
  deriving DecidableEq, Repr

/-- The C slot that holds a copy-engine operation (R161). -/
inductive CSlot where
  | ca | cb
  deriving DecidableEq, Repr

/-- The fields of a VA or VB slot word but its opcode (R179). -/
structure VF where
  g : Guard
  width : BitVec 2
  fmt : BitVec 4
  fmt2 : BitVec 4
  rm : BitVec 3
  mask : BitVec 3
  d : BitVec 4
  a : BitVec 4
  b : BitVec 4
  c : BitVec 4
  hsub : BitVec 3
  head : BitVec 3
  imm : BitVec 14
  deriving DecidableEq, Repr

/-- The fields of an M slot word but its opcode (R180). -/
structure MF where
  g : Guard
  fa : BitVec 4
  fb : BitVec 4
  bank : BitVec 2
  ia : BitVec 4
  ib : BitVec 4
  kc : BitVec 6
  sel : BitVec 3
  ext : BitVec 27
  deriving DecidableEq, Repr

/-- The fields of the K slot word but its opcode (R181). -/
structure KF where
  g : Guard
  dst : BitVec 4
  src : BitVec 4
  imm : BitVec 15
  deriving DecidableEq, Repr

/-- The fields of a CA or CB slot word but its opcode (R182). -/
structure CF where
  g : Guard
  desc : BitVec 4
  iter : BitVec 4
  chan : BitVec 8
  opnds : BitVec 38
  deriving DecidableEq, Repr

/-- The eight words of a tile instruction (R99). -/
structure Tile where
  ctl : BitVec 64
  param : BitVec 64
  opa : BitVec 64
  opb : BitVec 64
  opc : BitVec 64
  opd : BitVec 64
  waitw : BitVec 64
  sigw : BitVec 64
  deriving DecidableEq, Repr

/-- Where an uncorrectable data error is met (R420): a core, an engine operation, the array operation of a
core, or the saved record of a frozen task. -/
inductive ErrorSite where
  | core (c : Nat)
  | engine (cluster op : Nat)
  | array (core : Nat)
  | record (core : Nat)
  deriving DecidableEq, Repr

/-- A Plehezo flit: the fields of its header (R379) and its 64 bytes of payload, byte 0 lowest. -/
structure Flit where
  crc : BitVec 32
  kind : BitVec 8
  tag : BitVec 8
  cls : BitVec 2
  last : Bool
  seq : BitVec 32
  src : BitVec 16
  dst : BitVec 16
  payload : BitVec 512
  deriving DecidableEq, Repr

/-- A route that the management agent discovers (R445): the package, its fewest hops and the ports that lead
to the first hop. -/
structure Route where
  pkg : Nat
  hops : Nat
  ports : List Nat
  deriving DecidableEq, Repr

/-- Every operation and event of spec/opcode_table.json. -/
inductive Instr where
  -- S-slot operations (R178, R183).
  /-- NOP (R183). Clears the S slot. -/
  | nop
  /-- ADD (R197). S[d] := s[a] + s[b]. -/
  | add (f : SRR)
  /-- SUB (R197). S[d] := s[a] − s[b]. -/
  | sub (f : SRR)
  /-- MUL (R197). Low 64 bits of the product. -/
  | mul (f : SRR)
  /-- MULH (R197). High 64 bits of the signed product. -/
  | mulh (f : SRR)
  /-- MULHN (R197). High 64 bits of the unsigned product. -/
  | mulhn (f : SRR)
  /-- DIV (R198). Signed division truncating toward zero. -/
  | div (f : SRR)
  /-- DIVN (R198). Unsigned division. -/
  | divn (f : SRR)
  /-- MOD (R198). Signed remainder. -/
  | mod (f : SRR)
  /-- MODN (R198). Unsigned remainder. -/
  | modn (f : SRR)
  /-- AND (R197). Bitwise AND. -/
  | and (f : SRR)
  /-- OR (R197). Bitwise OR. -/
  | or (f : SRR)
  /-- XOR (R197). Bitwise XOR. -/
  | xor (f : SRR)
  /-- SHL (R197). Logical shift left by s[b][5:0]. -/
  | shl (f : SRR)
  /-- SHR (R197). Logical shift right. -/
  | shr (f : SRR)
  /-- SRA (R197). Arithmetic shift right. -/
  | sra (f : SRR)
  /-- MIN (R197). Signed minimum. -/
  | min (f : SRR)
  /-- MAX (R197). Signed maximum. -/
  | max (f : SRR)
  /-- MINN (R197). Unsigned minimum. -/
  | minn (f : SRR)
  /-- MAXN (R197). Unsigned maximum. -/
  | maxn (f : SRR)
  /-- CLZ (R197). Count of leading zero bits. -/
  | clz (f : SRR)
  /-- POPC (R197). Count of one bits. -/
  | popc (f : SRR)
  /-- SEXT (R197). Sign-extends the low 8, 16 or 32 bits. -/
  | sext (f : SRR)
  /-- ZEXT (R197). Zero-extends the low 8, 16 or 32 bits. -/
  | zext (f : SRR)
  /-- ADDI (R197). S[a] plus the sign-extended imm11. -/
  | addi (f : SRI)
  /-- ANDI (R197). Bitwise AND with the sign-extended imm11. -/
  | andi (f : SRI)
  /-- ORI (R197). Bitwise OR with the sign-extended imm11. -/
  | ori (f : SRI)
  /-- XORI (R197). Bitwise XOR with the sign-extended imm11. -/
  | xori (f : SRI)
  /-- SHLI (R197). Shift left by an immediate. -/
  | shli (f : SRI)
  /-- SHRI (R197). Logical shift right by an immediate. -/
  | shri (f : SRI)
  /-- SRAI (R197). Arithmetic shift right by an immediate. -/
  | srai (f : SRI)
  /-- LI (R197). S[d] := the sign-extended imm16. -/
  | li (f : SI16)
  /-- LIH16 (R197). Replaces bits [31:16] of s[d] with imm16. -/
  | lih16 (f : SI16)
  /-- LIH32 (R197). Replaces bits [47:32] of s[d] with imm16. -/
  | lih32 (f : SI16)
  /-- LIH48 (R197). Replaces bits [63:48] of s[d] with imm16. -/
  | lih48 (f : SI16)
  /-- CMP (R199). Compares two S registers into a predicate. -/
  | cmp (f : SRR)
  /-- CMPI (R199). Compares an S register with imm11 into a predicate. -/
  | cmpi (f : SRI)
  /-- PAND (R200). Predicate AND, with optional negation of each operand. -/
  | pand (f : SRR)
  /-- POR (R200). Predicate OR. -/
  | por (f : SRR)
  /-- PXOR (R200). Predicate XOR. -/
  | pxor (f : SRR)
  /-- SEL (R200). Selects s[a] or s[b] by a predicate. -/
  | sel (f : SRR)
  /-- PMOV (R200). Copies a predicate, optionally inverted. -/
  | pmov (f : SRR)
  /-- PMOV_TO_S (R200). Copies p7-p0 into an S register. -/
  | pmovToS (f : SRR)
  /-- PMOV_FROM_S (R200). Sets p1-p7 from s[a][7:1]. -/
  | pmovFromS (f : SRR)
  /-- BR (R201). Relative branch. -/
  | br (f : SD21)
  /-- JMP (R201). Jumps to s[a], optionally linking into s31. -/
  | jmp (f : SRR)
  /-- CALL (R201). Relative call that writes the return address into s31. -/
  | call (f : SD21)
  /-- RET (R201). Returns to s31. -/
  | ret (g : Guard)
  /-- LOOP (R202). Closes a hardware loop on LOOPCNT. -/
  | loop (f : SD21)
  /-- RBSET (R203). Sets RBASE.BASE. -/
  | rbset (f : SRI)
  /-- EXIT (R204). Ends the task once every outstanding operation has completed. -/
  | exit (g : Guard)
  /-- YIELD (R205). Freezes for a pending soft pre-emption. -/
  | yield (g : Guard)
  /-- LDL (R206). Loads from the scratchpad. -/
  | ldl (f : SRR)
  /-- STL (R206). Stores to the scratchpad. -/
  | stl (f : SRR)
  /-- LDM (R208). Loads from memory by address, optionally as a probe. -/
  | ldm (f : SRR)
  /-- STM (R208). Stores to memory by address. -/
  | stm (f : SRR)
  /-- AMO (R209). Atomic operation on an OWN or scratchpad location. -/
  | amo (f : SRR)
  /-- SACC (R211). Adds one value into an ACC element. -/
  | sacc (f : SRR)
  /-- SAPP (R212). Appends one element to an STR tensor. -/
  | sapp (f : SRR)
  /-- HLD (R213). Reads one word of a descriptor. -/
  | hld (f : SRR)
  /-- HVIEW (R213). Gives the virtual address of a linear element. -/
  | hview (f : SRR)
  /-- RCAST (R215). Starts or joins a recast of a tensor. -/
  | rcast (f : SRR)
  /-- HOLD (R214). Raises an IMM generation's reader count. -/
  | hold (f : SRR)
  /-- RELS (R214). Lowers an IMM generation's reader count. -/
  | rels (f : SRR)
  /-- HGEN (R213). Gives the handle of a descriptor at its current generation. -/
  | hgen (f : SRR)
  /-- TAGLK (R216). Looks up the slot keyed by a handle and page. -/
  | taglk (f : SRR)
  /-- TAGSET (R216). Installs a key in a slot's tag entry. -/
  | tagset (f : SRR)
  /-- TAGCLR (R216). Invalidates a slot's tag entry. -/
  | tagclr (f : SRR)
  /-- TAGCLR_K (R216). Invalidates the tag entry with a given key. -/
  | tagclrK (f : SRR)
  /-- XSV (R217). Writes an S register into one 64-bit vector lane. -/
  | xsv (f : SRR)
  /-- XVS (R217). Writes one 64-bit vector lane into an S register. -/
  | xvs (f : SRR)
  /-- ITSET (R218). Writes an iterator part. -/
  | itset (f : SRR)
  /-- ITGET (R218). Reads an iterator part. -/
  | itget (f : SRR)
  /-- GJOIN (R355). Joins a group line. -/
  | gjoin (f : SRR)
  /-- GLEAVE (R355). Leaves a group line once its ACC adds are acknowledged. -/
  | gleave (f : SRR)
  /-- SYNC (R356). Asserts on a group line and waits for the round to release. -/
  | sync (f : SRR)
  /-- FUSE (R360). Sets the gang skew step. -/
  | fuse (f : SRR)
  /-- DECPL (R360). Decouples the gang members to their own streams. -/
  | decpl (f : SRR)
  /-- REJOIN (R360). Asserts on the gang line to fuse again. -/
  | rejoin (g : Guard)
  /-- WSTEP (R363). Waits for the geyser count to reach s[a]. -/
  | wstep (f : SRR)
  /-- EVADD (R366). Increments an event counter, optionally returning its prior value. -/
  | evadd (f : SRR)
  /-- EVARM (R366). Arms an event threshold with a chain. -/
  | evarm (f : SRR)
  /-- EVARM_DIS (R366). Disarms an event threshold. -/
  | evarmDis (f : SRR)
  /-- EVWAIT (R366). Waits until an event value reaches s[b]. -/
  | evwait (f : SRR)
  /-- EVRD (R366). Reads one word of an event entry. -/
  | evrd (f : SRR)
  /-- FENCE (R345). Orders earlier accesses before later ones within a scope. -/
  | fence (f : SRR)
  /-- XFENCE (R346). Waits for async-path writes in a scope to merge. -/
  | xfence (f : SRR)
  /-- TIS (R219). Issues a level-0 tile instruction to the cluster's array. -/
  | tis (f : SRR)
  /-- TIWAIT (R220). Waits for level-0 instructions to retire and returns a status. -/
  | tiwait (f : SRR)
  /-- CSRR (R221). Reads a CSR. -/
  | csrr (f : SC12)
  /-- CSRW (R221). Writes a CSR, with the side effects of the CSR written. -/
  | csrw (f : SC12)
  /-- TRAP (R223). Software trap, cause 0x0B. -/
  | trap (f : SI16)
  /-- ERET (R224). Leaves handler state and resumes the frozen task, optionally skipping its S operation. -/
  | eret (f : SRR)
  /-- BRK (R223). Breakpoint, cause 0x0C, or a halt under debug. -/
  | brk (f : SI16)
  -- Vector operations (R179, R184).
  /-- VNOP (R184). Clears a vector slot. -/
  | vnop (x : VSlot)
  /-- VADD (R231). Elementwise add. -/
  | vadd (x : VSlot) (f : VF)
  /-- VSUB (R231). Elementwise subtract. -/
  | vsub (x : VSlot) (f : VF)
  /-- VMUL (R231). Elementwise multiply. -/
  | vmul (x : VSlot) (f : VF)
  /-- VFMA (R231). Fused multiply-add. -/
  | vfma (x : VSlot) (f : VF)
  /-- VFMS (R231). Fused multiply-subtract. -/
  | vfms (x : VSlot) (f : VF)
  /-- VFNMA (R231). Negated fused multiply plus addend. -/
  | vfnma (x : VSlot) (f : VF)
  /-- VMIN (R231). Elementwise minimum. -/
  | vmin (x : VSlot) (f : VF)
  /-- VMAX (R231). Elementwise maximum. -/
  | vmax (x : VSlot) (f : VF)
  /-- VABS (R231). Elementwise absolute value. -/
  | vabs (x : VSlot) (f : VF)
  /-- VNEG (R231). Elementwise negation. -/
  | vneg (x : VSlot) (f : VF)
  /-- VDIV (R231). Correctly rounded floating division. -/
  | vdiv (x : VSlot) (f : VF)
  /-- VMULH (R231). High half of the integer product. -/
  | vmulh (x : VSlot) (f : VF)
  /-- VSADD (R231). Saturating integer add. -/
  | vsadd (x : VSlot) (f : VF)
  /-- VSSUB (R231). Saturating integer subtract. -/
  | vssub (x : VSlot) (f : VF)
  /-- VAND (R232). Bitwise AND. -/
  | vand (x : VSlot) (f : VF)
  /-- VOR (R232). Bitwise OR. -/
  | vor (x : VSlot) (f : VF)
  /-- VXOR (R232). Bitwise XOR. -/
  | vxor (x : VSlot) (f : VF)
  /-- VNOT (R232). Bitwise NOT. -/
  | vnot (x : VSlot) (f : VF)
  /-- VSHL (R232). Shift left. -/
  | vshl (x : VSlot) (f : VF)
  /-- VSHR (R232). Logical shift right. -/
  | vshr (x : VSlot) (f : VF)
  /-- VSRA (R232). Arithmetic shift right. -/
  | vsra (x : VSlot) (f : VF)
  /-- VPOPC (R232). Population count. -/
  | vpopc (x : VSlot) (f : VF)
  /-- VCLZ (R232). Count of leading zero bits. -/
  | vclz (x : VSlot) (f : VF)
  /-- VCMP (R233). Compares elements into a mask register. -/
  | vcmp (x : VSlot) (f : VF)
  /-- VSEL (R234). Selects elements by a mask. -/
  | vsel (x : VSlot) (f : VF)
  /-- VMAND (R235). Mask AND. -/
  | vmand (x : VSlot) (f : VF)
  /-- VMOR (R235). Mask OR. -/
  | vmor (x : VSlot) (f : VF)
  /-- VMXOR (R235). Mask XOR. -/
  | vmxor (x : VSlot) (f : VF)
  /-- VMNOT (R235). Mask NOT. -/
  | vmnot (x : VSlot) (f : VF)
  /-- VMCNT (R235). Counts, copies or sets a mask through a vector register. -/
  | vmcnt (x : VSlot) (f : VF)
  /-- VCVT (R237). Format conversion. -/
  | vcvt (x : VSlot) (f : VF)
  /-- VQNT (R238). Block-scaled quantisation with underflow counting. -/
  | vqnt (x : VSlot) (f : VF)
  /-- VDQN (R239). Block-scaled dequantisation. -/
  | vdqn (x : VSlot) (f : VF)
  /-- VCBX (R240). Expands CB4 indices through a codebook. -/
  | vcbx (x : VSlot) (f : VF)
  /-- VCBQ (R240). Quantises values to CB4 indices. -/
  | vcbq (x : VSlot) (f : VF)
  /-- VAMAX (R241). Largest magnitude of each block. -/
  | vamax (x : VSlot) (f : VF)
  /-- VMOV (R242). Copies elements. -/
  | vmov (x : VSlot) (f : VF)
  /-- VBCST (R242). Broadcasts an element or an immediate. -/
  | vbcst (x : VSlot) (f : VF)
  /-- VPERM (R242). Permutes elements by index. -/
  | vperm (x : VSlot) (f : VF)
  /-- VSHFL (R243). Rotates, shifts, interleaves or reverses elements. -/
  | vshfl (x : VSlot) (f : VF)
  /-- VIOTA (R242). Writes an immediate plus the element index. -/
  | viota (x : VSlot) (f : VF)
  /-- VCMPS (R242). Compresses the selected elements. -/
  | vcmps (x : VSlot) (f : VF)
  /-- VEXPD (R242). Expands elements into the selected positions. -/
  | vexpd (x : VSlot) (f : VF)
  /-- VXV (R242). Copies a register between the VA and VB files. -/
  | vxv (x : VSlot) (f : VF)
  /-- VRED (R244). Reduction by the fixed tree. -/
  | vred (x : VSlot) (f : VF)
  /-- VSCAN (R245). Scan in the fixed-tree order, optionally segmented or exclusive. -/
  | vscan (x : VSlot) (f : VF)
  /-- VDOT (R246). Grouped dot products. -/
  | vdot (x : VSlot) (f : VF)
  /-- VEXP2 (R247). Special function exp2. -/
  | vexp2 (x : VSlot) (f : VF)
  /-- VLOG2 (R247). Special function log2. -/
  | vlog2 (x : VSlot) (f : VF)
  /-- VRCP (R247). Special function reciprocal. -/
  | vrcp (x : VSlot) (f : VF)
  /-- VRSQ (R247). Special function reciprocal square root. -/
  | vrsq (x : VSlot) (f : VF)
  /-- VSQRT (R247). Special function square root. -/
  | vsqrt (x : VSlot) (f : VF)
  /-- VSINPI (R247). Special function sinpi. -/
  | vsinpi (x : VSlot) (f : VF)
  /-- VCOSPI (R247). Special function cospi. -/
  | vcospi (x : VSlot) (f : VF)
  /-- VTANH (R247). Special function tanh. -/
  | vtanh (x : VSlot) (f : VF)
  /-- VSIGM (R247). Special function sigmoid. -/
  | vsigm (x : VSlot) (f : VF)
  /-- VLD (R249). Contiguous vector load. -/
  | vld (x : VSlot) (f : VF)
  /-- VST (R249). Contiguous vector store. -/
  | vst (x : VSlot) (f : VF)
  /-- VGTH (R249). Gather load. -/
  | vgth (x : VSlot) (f : VF)
  /-- VSCT (R249). Scatter store. -/
  | vsct (x : VSlot) (f : VF)
  /-- VACC (R250). Adds elements into an ACC tensor by address. -/
  | vacc (x : VSlot) (f : VF)
  /-- VAMO (R251). One atomic operation per active element. -/
  | vamo (x : VSlot) (f : VF)
  /-- VAPP (R252). Appends the active elements to an STR tensor. -/
  | vapp (x : VSlot) (f : VF)
  -- M-slot operations (R180, R185).
  /-- MNOP (R185). Clears the M slot. -/
  | mnop
  /-- MMA (R269). Queues an accumulation of A × B into a bank. -/
  | mma (f : MF)
  /-- MMAG (R269). Queues an accumulation with A taken from the gather latch. -/
  | mmag (f : MF)
  /-- MMAS (R270). Queues an accumulation with a sparsity bitmap. -/
  | mmas (f : MF)
  /-- MGTH (R271). Fills the gather latch by an index list. -/
  | mgth (f : MF)
  /-- ACLR (R272). Sets a bank's edge mask and optionally clears it. -/
  | aclr (f : MF)
  /-- ASPL (R272). Writes a bank image out. -/
  | aspl (f : MF)
  /-- AFIL (R272). Loads a bank image. -/
  | afil (f : MF)
  /-- ASW (R272). Exchanges the names acc0 and acc1. -/
  | asw (f : MF)
  /-- MDRN (R275). Drains bank rows, with optional temperature, projection and quantisation. -/
  | mdrn (f : MF)
  /-- PRJA (R295). Forms the adjoint of a projection row by row. -/
  | prja (f : MF)
  /-- MWAIT (R277). Waits for queued array operations to complete. -/
  | mwait (f : MF)
  -- K-slot operations (R181, R186).
  /-- KNOP (R186). Clears the K slot. -/
  | knop
  /-- KLDS (R280). Loads a k register from the scratchpad. -/
  | klds (f : KF)
  /-- KSTS (R280). Stores a k register to the scratchpad. -/
  | ksts (f : KF)
  /-- KLDC (R280). Loads a kb codebook register. -/
  | kldc (f : KF)
  /-- KMOV (R280). Moves between k and kb registers. -/
  | kmov (f : KF)
  /-- KAUTO (R281). Computes eight block scales from stored amax values. -/
  | kauto (f : KF)
  /-- KUFC (R280). Clears the CNT or LAST field of an underflow counter. -/
  | kufc (f : KF)
  /-- ITLVL (R280). Sets an iterator level's count and resets its indices. -/
  | itlvl (f : KF)
  /-- ITRST (R280). Resets an iterator's indices. -/
  | itrst (f : KF)
  /-- ITREV (R171). Reverses an iterator's sequence. -/
  | itrev (f : KF)
  /-- ITSTEP (R280). Steps an iterator once per issue. -/
  | itstep (f : KF)
  /-- KSEED (R280). Sets SEEDKEY from a k register. -/
  | kseed (f : KF)
  -- C-slot operations (R182, R187).
  /-- CNOP (R187). Clears a C slot. -/
  | cnop (x : CSlot)
  /-- COPY (R316). Forks a copy of LEN bytes, optionally into a head. -/
  | copy (x : CSlot) (f : CF)
  /-- CPRF (R317). Prefetches a 4 KiB page into a slot, optionally installing its tag. -/
  | cprf (x : CSlot) (f : CF)
  /-- CWB (R317). Writes a 4 KiB slot back to memory. -/
  | cwb (x : CSlot) (f : CF)
  /-- SBIND (R319). Binds or unbinds a stream head. -/
  | sbind (x : CSlot) (f : CF)
  /-- SADV (R321). Advances a head's producer or consumer count. -/
  | sadv (x : CSlot) (f : CF)
  /-- SWTF (R321). Waits for a head's fill to reach n. -/
  | swtf (x : CSlot) (f : CF)
  /-- SWTE (R321). Waits for a head's free count to reach n. -/
  | swte (x : CSlot) (f : CF)
  /-- MCAST (R325). Multicasts bytes into the scratchpads of selected clusters. -/
  | mcast (x : CSlot) (f : CF)
  /-- CSEND (R327). Sends bytes on a channel. -/
  | csend (x : CSlot) (f : CF)
  /-- CRECV (R327). Receives combined bytes of a channel. -/
  | crecv (x : CSlot) (f : CF)
  /-- CHKS (R328). Computes the CRC-64 of a tensor span. -/
  | chks (x : CSlot) (f : CF)
  /-- CWAIT (R326). Waits on a barrier, a completion word or all engine operations. -/
  | cwait (x : CSlot) (f : CF)
  /-- CARM (R326). Adds to or sets a byte barrier. -/
  | carm (x : CSlot) (f : CF)
  /-- CSTAT (R329). Writes a head, barrier or engine snapshot. -/
  | cstat (x : CSlot) (f : CF)
  /-- SCLOSE (R323). Closes an STR tensor. -/
  | sclose (x : CSlot) (f : CF)
  /-- CDESC (R330). Loads or stores one copy descriptor register. -/
  | cdesc (x : CSlot) (f : CF)
  -- Tile instructions (R99, R105).
  /-- TNOP (R124). Tile opcode 0x00: retires at once. -/
  | tnop (t : Tile)
  /-- TMM (R112). Tile opcode 0x01: matrix product C := A × B with optional bias or sparsity. -/
  | tmm (t : Tile)
  /-- TMMG (R113). Tile opcode 0x02: gathered matrix product over an index list. -/
  | tmmg (t : Tile)
  /-- TCONV (R114). Tile opcode 0x03: convolution as the product of an unfolded image and the filter. -/
  | tconv (t : Tile)
  /-- TMAP (R115). Tile opcode 0x04: runs a user kernel as one task per core piece, or as a gang. -/
  | tmap (t : Tile)
  /-- TRED (R116). Tile opcode 0x05: reduces along an axis by the fixed tree. -/
  | tred (t : Tile)
  /-- TSCAN (R117). Tile opcode 0x06: scans along an axis, optionally segmented and exclusive. -/
  | tscan (t : Tile)
  /-- TCOPY (R118). Tile opcode 0x07: converts each element of OPA into OPC's format. -/
  | tcopy (t : Tile)
  /-- TCAST (R123). Tile opcode 0x08: recasts a tensor with the package scheduler as the issuing unit. -/
  | tcast (t : Tile)
  /-- TPRJ (R121). Tile opcode 0x09: projects rows through Sinter onto a set. -/
  | tprj (t : Tile)
  /-- TPRJA (R121). Tile opcode 0x0A: forms the projection adjoint from records and an upstream gradient. -/
  | tprja (t : Tile)
  /-- TCOL (R122). Tile opcode 0x0B: runs a collective over a channel of the context. -/
  | tcol (t : Tile)
  /-- TFILL (R119). Tile opcode 0x0C: writes a value to every element of OPC. -/
  | tfill (t : Tile)
  /-- TEVT (R124). Tile opcode 0x0D: adds INC to an event counter of a package. -/
  | tevt (t : Tile)
  /-- TWAIT (R124). Tile opcode 0x0E: holds later instructions of its ring, optionally draining earlier ones. -/
  | twait (t : Tile)
  /-- TCHK (R120). Tile opcode 0x0F: computes the CRC-64 of OPA's bytes into OPC. -/
  | tchk (t : Tile)
  /-- TSTEP (R124). Tile opcode 0x10: retires when the geyser count reaches STEPN. -/
  | tstep (t : Tile)
  -- Events of the module (95_what_each_step_holds): each is one indivisible step.
  /-- ISSUE_BUNDLE (R167). A core fetches and decodes a bundle and issues its repetitions; at its end come the rotation, the one-shot clearing and the control transfer. -/
  | issueBundle (cores : List Nat)
  /-- MODULE_RESET_BOOT (R434). Module reset: the boot ROM reads the fuses, verifies and measures the five firmware images, loads the die map and sets BOOTOK or BOOTERR. -/
  | moduleResetBoot
  /-- DIE_FATAL_FAULT (R18). A die-fatal fault: the die is marked failed, the dormant die is switched in once if one remains, and unretired instructions are reissued or failed. -/
  | dieFatalFault (pdies : List Nat)
  /-- DIE_SWITCH_IN_COMPLETE (R18). Three milliseconds after the fault, the substituted die becomes active and receives its first reissued tile instruction. -/
  | dieSwitchInComplete (pdie : Nat)
  /-- POWER_LIMIT_EXCEEDED (R25). The 10 ms average draw exceeds the power limit, and the package enters the reduced-clock state or, in a deterministic job, requests the change. -/
  | powerLimitExceeded
  /-- POWER_LIMIT_RECOVERED (R25). The average draw falls 5 % below the limit, and the package leaves the reduced-clock state. -/
  | powerLimitRecovered
  /-- DET_CLOCK_CHANGE_BOUNDARY (R25). In a deterministic job, a clock change takes effect at the first geyser boundary that every package of the job acknowledges. -/
  | detClockChangeBoundary
  /-- THERMAL_TRIP (R26). A die's junction temperature reaches 105 °C, and the package enters the reduced-clock state. -/
  | thermalTrip (pdie : Nat)
  /-- THERMAL_DIE_FATAL (R26). A die's junction temperature reaches 115 °C, and the die is treated as die-fatal. -/
  | thermalDieFatal (pdie : Nat)
  /-- SET_POWER_LIMIT (R25). System software sets the power limit through the management agent, clamped to 1,800-2,900 W. -/
  | setPowerLimit (watts : Nat)
  /-- DIE_IDLE_ENTRY (R438). After 100 µs with no task and no queued piece, an in-service die enters die idle and its clusters stop their clocks. -/
  | dieIdleEntry (pdie : Nat)
  /-- DATA_ERROR (R420). An uncorrectable data error stops the unit that meets it and aborts its tile instruction with a class-2 record. -/
  | dataError (at_ : ErrorSite) (pa : Nat)
  /-- SQTAIL_WRITE (R145). A host write of SQTAIL releases the host's earlier writes and makes entries available, or is kept out of range and sets OVR. -/
  | sqtailWrite (ctx qp : Nat) (v : BitVec 32)
  /-- CQHEAD_WRITE (R146). A host write of CQHEAD frees completion-ring room, so that waiting records can be written. -/
  | cqheadWrite (ctx qp : Nat) (v : BitVec 32)
  /-- OVR_CLEAR (R145). A W1C write of OVR clears it, and fetching resumes at the kept tail value. -/
  | ovrClear (ctx qp : Nat) (v : BitVec 1)
  /-- CONTEXT_CREATE (R141). CMD 1: the agent checks the context record and its queue pair descriptors and, on success, makes the context live. -/
  | contextCreate (ctx : Nat)
  /-- CONTEXT_UPDATE (R141). CMD 3: the agent rereads the updatable fields of a live context. -/
  | contextUpdate (ctx : Nat)
  /-- CONTEXT_DESTROY (R141). CMD 2: fetching stops, every piece is stopped, staging is discarded, holds are released, and the context becomes free. -/
  | contextDestroy (ctx : Nat)
  /-- PARTITION_WRITE (R149). A write of a partition register's QMASK is accepted, or refused with BUSY set. -/
  | partitionWrite (p : Nat) (v : BitVec 64)
  /-- XINV_WRITE (R95). A write of XINV starts a translation-invalidate command of the given scope and sets BUSY. -/
  | xinvWrite (v : BitVec 64)
  /-- XINV_DONE (R95). The invalidation is complete, and BUSY clears. -/
  | xinvDone
  /-- PREEMPT_SOFT_REQUEST (R411). REQ 1 sets PREEMPT.SOFT on every running task of the context on the masked quadrants, or is refused when CXSAVE is 0. -/
  | preemptSoftRequest (ctx : Nat) (v : BitVec 64)
  /-- PREEMPT_HARD_REQUEST (R411). REQ 2 sets PREEMPT.HARD on those tasks, or is refused when CXSAVE is 0. -/
  | preemptHardRequest (ctx : Nat) (v : BitVec 64)
  /-- CXSAVE_WRITE (R415). A write of CXSAVE sets the save area; it is refused unless the context is free and the area lies within the first or second tier. -/
  | cxsaveWrite (ctx : Nat) (v : BitVec 64)
  /-- READBACK_CORE (R432). An RBDST write with KIND 0 copies a core's state, in the record layout, to memory. -/
  | readbackCore (dst : BitVec 64)
  /-- READBACK_CLUSTER (R432). An RBDST write with KIND 1 copies a cluster image to memory. -/
  | readbackCluster (dst : BitVec 64)
  /-- READBACK_SCHEDULER (R432). An RBDST write with KIND 2 copies a scheduler's queue entries and their state to memory. -/
  | readbackScheduler (dst : BitVec 64)
  /-- READBACK_EVENT (R432). An RBDST write with KIND 3 copies an event entry as its home holds it. -/
  | readbackEvent (dst : BitVec 64)
  /-- READBACK_CERT_CHAIN (R432). An RBDST write with KIND 6 writes the identity certificate chain. -/
  | readbackCertChain (dst : BitVec 64)
  /-- READBACK_ATTESTATION (R434). An RBDST write with KIND 7 reads a nonce and writes the signed attestation report over it. -/
  | readbackAttestation (dst : BitVec 64)
  /-- READBACK_DONE (R431). A readback finishes writing; BYTES and ECODE are set and BUSY clears. -/
  | readbackDone
  /-- DEBUG_MODE_WRITE (R435). A write of DBGCTL.MODE sets off, trace or halt, subject to authorisation; a value of 3 is refused. -/
  | debugModeWrite (ctx : Nat) (v : BitVec 64)
  /-- DEBUG_HALT (R436). HALT with MODE 2 freezes every running task of the context at its next boundary, writing no record. -/
  | debugHalt (ctx : Nat)
  /-- DEBUG_RESUME (R436). RESUME resumes every halted core of the context. -/
  | debugResume (ctx : Nat)
  /-- OWNDIG_WRITE (R430). A write of the owner digest takes effect only while the context is free. -/
  | owndigWrite (ctx word : Nat) (v : BitVec 64)
  /-- MGMT_REGISTER_WRITE (R139). A write of a management register with no behaviour of its own replaces it, with reserved fields ignored and values clamped as stated. -/
  | mgmtRegisterWrite (off : Nat) (v : BitVec 64)
  /-- HOST_APPLY (R343). A host write to device memory or a management register takes effect from the host buffer. -/
  | hostApply (k : Nat)
  /-- HOST_READ (R343). A host read of device memory performs at one step and returns M. -/
  | hostRead (pa n : Nat)
  /-- FETCH_ENTRY (R144). The package visits a queue pair in round robin, fetches one entry, checks it under R101, and queues it or rejects it. -/
  | fetchEntry
  /-- HAND_OUT_PIECE (R152). A scheduler serves its highest-priority eligible entry and hands its lowest-numbered unhanded piece to a child. -/
  | handOutPiece (lvl unit pool : Nat)
  /-- AGING_TICK (R153). After each full AGEUS interval in one queue, an entry's effective priority rises by 1, up to the limits. -/
  | agingTick (lvl unit entry : Nat)
  /-- STEAL (R156). An idle core with an empty local queue steals the oldest stealable entry from its sibling or from the fullest core of its quadrant. -/
  | steal (thieves : List Nat)
  /-- GANG_ADMIT (R157). When every core of the window is free, the gang is admitted, fused and started on one bundle cycle. -/
  | gangAdmit (quad : Nat)
  /-- TASK_START (R115). A core starts a task: the slots are set to NOP, the registers are initialised and the CSRs are set from the context record. -/
  | taskStart (core : Nat)
  /-- BANK_SPILL (R257). A bank of a frozen context that the running task names is spilled to its save area and zeroed for the task. -/
  | bankSpill (core bank : Nat)
  /-- TASK_RETIRE (R204). After EXIT's waits end, the task retires: staged contributions commit, group lines are left and flags are reported. -/
  | taskRetire (core : Nat)
  /-- PIECE_RETIRE_MERGE (R128). A piece retires and its staged ACC contributions merge, once, into the parent's staging or the target. -/
  | pieceRetireMerge (piece : Nat)
  /-- TILE_RETIRE (R130). A tile instruction retires at its entry level: its outputs have reached their homes, SIGW applies, and its completion record follows. -/
  | tileRetire (ti : Nat)
  /-- COMPLETION_RECORD_WRITE (R429). A completion record is written with its phase, once the completion ring has room. -/
  | completionRecordWrite (ctx qp : Nat)
  /-- FAULT_RECORD_RECEIVE (R136). A level receives a fault record from a child and retries the piece, fails the instruction, or forwards the record upward. -/
  | faultRecordReceive (k : Nat)
  /-- STALL_RELEASE (R176). A stalled repetition or waiting instruction is released when its interlock or wait condition clears, and issue continues. -/
  | stallRelease (core : Nat)
  /-- WATCHDOG_EXPIRY (R402). A wait lasting 2^32 bundle cycles traps with 0x13, and any SYNC assertion it made is withdrawn. -/
  | watchdogExpiry (core : Nat)
  /-- PREEMPT_DEADLINE_EXPIRY (R412). SPDEADLINE passes after a soft request, and the request becomes hard. -/
  | preemptDeadlineExpiry (core : Nat)
  /-- HARD_PREEMPT_FREEZE (R411). A hard request freezes the core at the next open repetition boundary, with TCAUSE 0x10. -/
  | hardPreemptFreeze (core : Nat)
  /-- FREEZE_RECORD_SAVE (R414). Once the array and level-0 queues are empty and acknowledgements are in, the frozen task's record and spilled banks are written to the save area. -/
  | freezeRecordSave (core : Nat)
  /-- FROZEN_TASK_RESUME (R417). A frozen task resumes on its own core: the cluster image, the record and the banks are restored, and the replay entries land at their relative cycles. -/
  | frozenTaskResume (core : Nat)
  /-- ARRAY_OP_START (R263). A queued array operation starts after the previous one completes, or starts its steps early when it chains accumulations. -/
  | arrayOpStart (core : Nat)
  /-- ARRAY_OP_COMPLETE (R264). An array operation completes in its own cycles; its results are in the bank and its flags and overflow bit are set. -/
  | arrayOpComplete (core : Nat)
  /-- MWIN_MODE_TAKE_EFFECT (R262). A pending MWIN MODE takes effect at the first array cycle at which both queues are empty and no level-0 instruction runs. -/
  | mwinModeTakeEffect (cluster : Nat)
  /-- L0_TILE_START (R219). A queued level-0 tile instruction starts on the array in ticket order and holds acc0 busy. -/
  | l0TileStart (core : Nat)
  /-- L0_TILE_RETIRE (R219). A level-0 tile instruction retires or fails; acc0 holds its accumulator and its status is reported to TIWAIT. -/
  | l0TileRetire (core : Nat)
  /-- STORE_APPLY (R337). The oldest store-queue entry of a line applies at its home: a store writes M, an atomic reads and writes, an ACC add enters its bag, an append enters its pipe. -/
  | storeApply (core k : Nat)
  /-- LOAD_PERFORM (R338). A pending load performs, returning bytes from the core's newest covering store or from M or a replica. -/
  | loadPerform (core k : Nat)
  /-- ACC_COMBINE (R339). An add in an add bag is combined into its element at the home slice and acknowledged with its flags. -/
  | accCombine (k : Nat)
  /-- PIPE_DELIVER (R340). An STR pipe delivers applied elements, in append order, into its consumer's head. -/
  | pipeDeliver (core head : Nat)
  /-- THREAD_LINE_ACCESS (R341). An engine thread performs one line read from M or one line write to M or an add bag. -/
  | threadLineAccess (cluster op line : Nat)
  /-- ASYNC_MERGE (R342). An async-path entry of a collective reception merges into M. -/
  | asyncMerge (k : Nat)
  /-- ENGINE_OP_COMPLETE (R314). An engine operation completes: its bytes are in place, its completion word is written and its event rises unless it failed. -/
  | engineOpComplete (cluster op : Nat)
  /-- PAGE_WALK_COMPLETE (R94). A page walk finishes and its translation is cached, unless an invalidation covered it, or a translation fault results. -/
  | pageWalkComplete (cluster ctx : Nat) (va : BitVec 64)
  /-- FAULT_SERVICE_RESOLVE (R98). The fault service receives a translation or write-protection fault and resolves it on the device or forwards it. -/
  | faultServiceResolve (core : Nat)
  /-- FAULT_RESOLVED_RETRY (R423). After the resolution completes, the frozen core resumes and retries the faulting repetition without its handler. -/
  | faultResolvedRetry (core : Nat)
  /-- RECAST_ARRIVAL (R83). An RCAST or TCAST arrives at the descriptor's home slice and is accepted, refused, or joins the group recast; the last arrival starts the conversion. -/
  | recastArrival (k : Nat)
  /-- RECAST_COMPLETE (R84). The conversion finishes: values are written, the PTE roles and descriptor change, and the completion event rises. -/
  | recastComplete (k : Nat)
  /-- EVENT_INCREMENT (R365). An increment applies atomically at the counter's home slice, firing armed thresholds in order and queueing their chains. -/
  | eventIncrement (k : Nat)
  /-- EVENT_CHAIN_APPLY (R365). A queued chain increment applies after the step that fired it. -/
  | eventChainApply
  /-- SYNC_RELEASE (R356). When every required member has asserted, the round releases 8 or 48 bundle cycles later, and held assertions open the next round. -/
  | syncRelease (ctx line die : Nat)
  /-- REJOIN_RELEASE (R360). When every remaining gang member has asserted REJOIN, they fuse again on one cycle. -/
  | rejoinRelease (gang : Nat)
  /-- GEYSER_TICK (R362). Every 4,096th bundle cycle the geyser count advances by 1. -/
  | geyserTick
  /-- GEYSER_ALIGN_MESSAGE (R362). In fixed-latency mode, an alignment message aligns a package's geyser count with its fabric group. -/
  | geyserAlignMessage (count : BitVec 64)
  /-- NO_PROGRESS_TIMEOUT (R378). A virtual channel that sends nothing for NTO × 64 cycles starts a recovery, moving its flits to the escape channel. -/
  | noProgressTimeout (router vc : Nat)
  /-- RECOVERY_WINDOW_END (R378). The recovery window ends and the class guarantees apply again at the router. -/
  | recoveryWindowEnd (router : Nat)
  /-- HEADER_FLIT (R379). A Plehezo header flit arrives and opens a packet. -/
  | headerFlit (port : Nat) (f : Flit)
  /-- PAYLOAD_FLIT (R379). A Plehezo payload flit arrives for its packet. -/
  | payloadFlit (port : Nat) (f : Flit)
  /-- ACKNOWLEDGE (R379). A Plehezo acknowledge flit arrives. -/
  | acknowledge (port : Nat) (f : Flit)
  /-- RETRY_REQUEST (R380). A retry request arrives and the port resends from its retry buffer. -/
  | retryRequest (port : Nat) (f : Flit)
  /-- IDLE (R379). A Plehezo idle flit arrives. -/
  | idle (port : Nat) (f : Flit)
  /-- FLIT_CRC_FAIL (R380). A flit whose CRC fails is discarded, a retry is requested and RETRY rises. -/
  | flitCrcFail (port : Nat) (f : Flit)
  /-- PORT_FAILURE (R380). A failed port is withdrawn and its flows move to other ports; unreachable operations fail. -/
  | portFailure (port : Nat)
  /-- CHANNEL_TILE_ARRIVE (R387). A channel tile arrives at a mailbox slice and is combined, or discarded on a signature mismatch. -/
  | channelTileArrive (k : Nat)
  /-- CHANNEL_TILE_DELIVER (R388). A completed tile is converted and delivered to its receiver, marking out-of-range elements. -/
  | channelTileDeliver (k : Nat)
  /-- SCRATCHPAD_TILE_READY (R389). The bank controllers count a tile's words and raise its ready flag, completing its part of the CRECV. -/
  | scratchpadTileReady (k : Nat)
  /-- FABRIC_GROUP_CONFIGURE (R445). When the fabric group is configured, the management agent sets each core's PKG, discovers its routes to every package and reports them in FABINFO, and a package entering the group takes the group's geyser count. -/
  | fabricGroupConfigure (pkg : Nat) (routes : List Route) (count : Option (BitVec 64))
  /-- FIXED_LATENCY_PACKET_RELEASE (R381). In fixed-latency mode, a fabric packet that arrived early is released for delivery at exactly LFAB ns per hop after it was sent. -/
  | fixedLatencyPacketRelease (k : Nat)
  deriving DecidableEq, Repr

end Sys2Proof
end

