-- ==== Sys2Proof/Machine/Legal.lean ====
section
/-!
DEFINITION. Which field values an instruction accepts: check 6 of R189, one operation at a time. A field that an
instruction does not use is reserved and must be 0 (R6, R182).
-/
namespace Sys2Proof.Machine

/-! The S slot (R196 to R225). -/

/-- Form RR with only the listed fields used: a field that is not used is 0. -/
def rrUses (f : SRR) (d a b : Bool) (fnBelow : Nat) : Bool :=
  (d || f.d.toNat = 0) && (a || f.a.toNat = 0) && (b || f.b.toNat = 0) && (f.fn.toNat < fnBelow)

/-- A field that names one of the eight predicates (R200). -/
def isPredField (x : BitVec 5) : Bool := x.toNat < 8

/-- AMO (R209): operations 0 to 9, `cas` only with the old value returned; d is used only then. -/
def amoLegal (f : SRR) : Bool :=
  let op := bitsOf f.fn 5 2
  let ret := bitOf f.fn 1
  decide (op ≤ 9) && (op ≠ 1 || ret) && (ret || f.d.toNat = 0)

/-- PMOV in its p form (R200): fn[1:0] = 0. -/
def pmovLegal (f : SRR) : Bool :=
  isPredField f.d && isPredField f.a && f.b.toNat = 0 && (f.fn.toNat = 0 || f.fn.toNat = 4)

/-- FENCE (R345): scope 0 to 5, kind 0 to 2. -/
def fenceLegal (f : SRR) : Bool :=
  rrUses f false false false 32 && bitsOf f.fn 2 0 ≤ 5 && bitsOf f.fn 4 3 ≤ 2

/-- The csr12 values that R222 assigns. -/
def csrAssigned (n : Nat) : Bool :=
  (n ≤ 0x009) || (0x010 ≤ n && n ≤ 0x014) || (0x018 ≤ n && n ≤ 0x01C) || (0x020 ≤ n && n ≤ 0x022)
    || (0x024 ≤ n && n ≤ 0x028) || (0x030 ≤ n && n ≤ 0x043)

/-- CSRR and CSRW (R221). -/
def csrLegal (f : SC12) : Bool := f.z.toNat = 0 && csrAssigned f.csr.toNat

/-! Vector slots (R226 to R252). -/

/-- How an instruction uses a register field. -/
inductive Use where
  /-- not used: must be 0 -/
  | no
  /-- a vector register -/
  | vec
  /-- a mask register: bit 3 must be 0 (R227) -/
  | mreg
  deriving DecidableEq, Repr

/-- One register field against its use. -/
def useOk (u : Use) (x : BitVec 4) : Bool :=
  match u with
  | .no => x.toNat = 0
  | .vec => true
  | .mreg => x.toNat < 8

/-- Head substitution (R179): only a source read as a vector register, whose field is then 0. -/
def hsubOk (f : VF) (a b c : Use) : Bool :=
  match f.hsub.toNat with
  | 0 => f.head.toNat = 0
  | 1 => a = .vec && f.a.toNat = 0
  | 2 => b = .vec && f.b.toNat = 0
  | 3 => c = .vec && f.c.toNat = 0
  | _ => false

/-- The register fields of a vector operation, and its width. -/
def vRegsOk (f : VF) (d a b c : Use) : Bool :=
  f.width.toNat < 3 && useOk d f.d && useOk a f.a && useOk b f.b && useOk c f.c && hsubOk f a b c

/-- The format of a vector operation. -/
def vFmt (f : VF) : Option Fmt := fmtOf f.fmt.toNat
/-- Its second format. -/
def vFmt2 (f : VF) : Option Fmt := fmtOf f.fmt2.toNat

/-- A format code that a predicate accepts. -/
def fmtIs (n : BitVec 4) (p : Fmt → Bool) : Bool :=
  match fmtOf n.toNat with
  | some k => p k
  | none => false

/-- The element count of a vector operation with elements of e bits (R226). -/
def vCount (f : VF) (e : Nat) : Nat := elemCount (widthBits f.width) e

/-- The element count by `fmt`. -/
def vN (f : VF) : Nat := vCount f (codeBits f.fmt.toNat)

/-- The rounding field (R230): floating 0 to 6, SR only with at most 64 elements and where accepted; integer 0. -/
def rmOk (f : VF) (sr floating : Bool) (n : Nat) : Bool :=
  if floating then f.rm.toNat ≤ 6 && (f.rm.toNat ≠ 5 || (sr && n ≤ 64)) else f.rm.toNat = 0

/-- F or I with `fmt2` and `imm` unused, rounding for F: the rows of R231. -/
def vArith (f : VF) (c : Use) : Bool :=
  vRegsOk f .vec .vec .vec c && fmtIs f.fmt (fun k => isF k || isInt k) && f.fmt2.toNat = 0 && f.imm.toNat = 0
    && rmOk f true (fmtIs f.fmt isF) (vN f)

/-- The same with `rm` = 0, two sources or one. -/
def vPlain (f : VF) (b : Use) (p : Fmt → Bool) : Bool :=
  vRegsOk f .vec .vec b .no && fmtIs f.fmt p && f.fmt2.toNat = 0 && f.imm.toNat = 0 && f.rm.toNat = 0

/-- VDIV (R231). -/
def vdivLegal (f : VF) : Bool :=
  vRegsOk f .vec .vec .vec .no && fmtIs f.fmt isF && f.fmt2.toNat = 0 && f.imm.toNat = 0 && rmOk f true true (vN f)

/-- The shifts (R232): the count from b or from `imm`[5:0]. -/
def vShiftLegal (f : VF) : Bool :=
  let byImm := bitOf f.imm 6
  vRegsOk f .vec .vec (if byImm then .no else .vec) .no && fmtIs f.fmt isInt && f.fmt2.toNat = 0 && f.rm.toNat = 0
    && (if byImm then f.imm.toNat < 128 && bitsOf f.imm 5 0 < codeBits f.fmt.toNat else f.imm.toNat = 0)

/-- VCMP (R233). -/
def vcmpLegal (f : VF) : Bool :=
  vRegsOk f .mreg .vec .vec .no && fmtIs f.fmt (fun k => isF k || isInt k) && f.fmt2.toNat = 0 && f.rm.toNat = 0
    && f.imm.toNat < 7 && vN f ≤ 64

/-- VSEL (R234). -/
def vselLegal (f : VF) : Bool := vPlain f .vec (fun k => k ≠ .xacc) && vN f ≤ 64

/-- The mask logic of R235. -/
def vMaskLegal (f : VF) (b : Use) (immBelow : Nat) : Bool :=
  vRegsOk f .mreg .mreg b .no && f.fmt.toNat = 0 && f.fmt2.toNat = 0 && f.rm.toNat = 0 && f.mask.toNat = 0
    && f.imm.toNat < immBelow

/-- VMCNT (R235). -/
def vmcntLegal (f : VF) : Bool :=
  (if f.imm.toNat = 2 then vRegsOk f .mreg .vec .no .no else vRegsOk f .vec .mreg .no .no)
    && f.fmt.toNat = 4 && f.fmt2.toNat = 0 && f.rm.toNat = 0 && f.mask.toNat = 0 && f.imm.toNat < 3

/-- The two sizes of a conversion (R236): the larger, and the ratio. -/
def cvtSizes (f : VF) : Nat × Nat :=
  let s := codeBits f.fmt.toNat
  let d := codeBits f.fmt2.toNat
  (max s d, if min s d = 0 then 0 else max s d / min s d)

/-- The element count of a conversion (R236). -/
def cvtN (f : VF) : Nat := vCount f (cvtSizes f).1

/-- VCVT (R237). -/
def vcvtLegal (f : VF) : Bool :=
  let ints := fmtIs f.fmt isInt && fmtIs f.fmt2 isInt
  vRegsOk f .vec .vec .no .no && f.fmt.toNat < 12 && f.fmt2.toNat < 12 && bitsOf f.imm 2 0 < (cvtSizes f).2
    && f.imm.toNat < 16 && (ints || !bitOf f.imm 3) && rmOk f true (!ints) (cvtN f)

/-- FP32, FP16 or BF16. -/
def isWideF (k : Fmt) : Bool := k = .f32 || k = .f16 || k = .bf16

/-- The block size of VQNT, VDQN and VAMAX: `imm`[7] (R238). -/
def blkSize (f : VF) : Nat := if bitOf f.imm 7 then 16 else 32

/-- The common part of VQNT and VDQN (R238, R239). -/
def vBlockLegal (f : VF) (cb4 : Bool) : Bool :=
  vRegsOk f .vec .vec .vec (if cb4 then .vec else .no) && bitsOf f.imm 10 8 < (cvtSizes f).2 && bitsOf f.imm 13 11 = 0
    && decide (bitsOf f.imm 4 0 + ceilDiv (cvtN f) (blkSize f) ≤ 32)

/-- VQNT (R238). -/
def vqntLegal (f : VF) : Bool :=
  fmtIs f.fmt isWideF && fmtIs f.fmt2 isScalable && vBlockLegal f (f.fmt2.toNat = 12) && rmOk f true true (cvtN f)

/-- VDQN (R239). -/
def vdqnLegal (f : VF) : Bool :=
  fmtIs f.fmt isScalable && fmtIs f.fmt2 isWideF && vBlockLegal f (f.fmt.toNat = 12) && f.rm.toNat = 0
    && bitsOf f.imm 6 5 = 0

/-- VCBX and VCBQ (R240): part in `imm`[2:0]. -/
def vcbLegal (f : VF) (from_ to_ : Fmt → Bool) (anyRm : Bool) : Bool :=
  vRegsOk f .vec .vec .vec .no && fmtIs f.fmt from_ && fmtIs f.fmt2 to_ && f.imm.toNat < 8
    && f.imm.toNat < (cvtSizes f).2 && (if anyRm then f.rm.toNat < 7 else f.rm.toNat = 0)

/-- VAMAX (R241). -/
def vamaxLegal (f : VF) : Bool :=
  vRegsOk f .vec .vec .no .no && fmtIs f.fmt isWideF && f.fmt2.toNat = 0 && f.rm.toNat = 0
    && (f.imm.toNat = 0 || f.imm.toNat = 128)

/-- The moves that take every format (R242). -/
def vMoveLegal (f : VF) (b c : Use) : Bool :=
  vRegsOk f .vec .vec b c && fmtIs f.fmt (fun _ => true) && f.fmt2.toNat = 0 && f.rm.toNat = 0 && f.imm.toNat = 0

/-- VBCST (R242): an element, or an immediate. -/
def vbcstLegal (f : VF) : Bool :=
  f.fmt2.toNat = 0 && f.rm.toNat = 0 &&
    (if bitOf f.imm 13 then vRegsOk f .vec .no .no .no && fmtIs f.fmt isInt && !bitOf f.imm 12
     else vRegsOk f .vec .vec .no .no && fmtIs f.fmt (fun _ => true) && f.imm.toNat < 128 && f.imm.toNat < vN f)

/-- VIOTA (R242). -/
def viotaLegal (f : VF) : Bool :=
  vRegsOk f .vec .no .no .no && fmtIs f.fmt isInt && f.fmt2.toNat = 0 && f.rm.toNat = 0

/-- VSHFL (R243): b is read only by the modes that take two sources. -/
def vshflLegal (f : VF) : Bool :=
  let m := bitsOf f.imm 2 0
  let k := bitsOf f.imm 9 3
  vRegsOk f .vec .vec (if 2 ≤ m && m ≤ 6 then .vec else .no) .no && fmtIs f.fmt (fun _ => true) && f.fmt2.toNat = 0
    && f.rm.toNat = 0 && bitsOf f.imm 13 10 = 0 && (if m ≤ 2 then k < vN f else k = 0)

/-- The accepted widening pairs of VRED (R244). -/
def wideOk (s d : Fmt) : Bool :=
  match s with
  | .f16 | .bf16 => d = .f32 || d = .f64
  | .f32 => d = .f64
  | .i8 | .i16 | .n8 => d = .i32 || d = .i64
  | .i32 | .n32 => d = .i64
  | _ => false

/-- An operation number of VRED and VSCAN with the format it runs in (R244): logic for integers only. -/
def treeOpOk (op : Nat) (k : Fmt) : Bool := op < 7 && (isInt k || !(3 ≤ op && op ≤ 5)) && (isF k || isInt k)

/-- VRED (R244). -/
def vredLegal (f : VF) : Bool :=
  vRegsOk f .vec .vec .no .no && !bitOf f.imm 3 && bitsOf f.imm 13 5 = 0 &&
    (match fmtOf f.fmt.toNat with
     | some s =>
       treeOpOk (bitsOf f.imm 2 0) s && rmOk f false (isF s) (vN f) &&
         (if bitOf f.imm 4 then fmtIs f.fmt2 (wideOk s) else f.fmt2.toNat = 0)
     | none => false)

/-- VSCAN (R245). -/
def vscanLegal (f : VF) : Bool :=
  let seg := bitOf f.imm 5
  vRegsOk f .vec .vec .no (if seg then .mreg else .no) && !bitOf f.imm 4 && bitsOf f.imm 13 6 = 0 && f.fmt2.toNat = 0
    && fmtIs f.fmt (fun k => treeOpOk (bitsOf f.imm 2 0) k && rmOk f false (isF k) (vN f)) && (!seg || vN f ≤ 64)

/-- VDOT (R246). -/
def vdotLegal (f : VF) : Bool :=
  let g := 2 ^ bitsOf f.imm 2 0
  let float := fmtIs f.fmt isFloat
  vRegsOk f .vec .vec .vec .vec
    && fmtIs f.fmt (fun k => k = .bf16 || k = .f16 || k = .e4m3 || k = .e5m2 || k = .i8 || k = .n8 || k = .i16)
    && f.fmt2.toNat = (if float then 7 else 3) && f.imm.toNat < 8 && decide (g ≤ vN f)
    && decide (32 ≤ g * codeBits f.fmt.toNat) && rmOk f false float (vN f)

/-- The special functions (R61, R247); `f64` says whether FP64 is provided. -/
def vsfLegal (f : VF) (f64 : Bool) : Bool :=
  vRegsOk f .vec .vec .no .no && fmtIs f.fmt (fun k => k = .f32 || (f64 && k = .f64)) && f.fmt2.toNat = 0
    && f.rm.toNat = 0 && f.imm.toNat < 2

/-- VLD and VST (R249). -/
def vldLegal (f : VF) (d a : Use) : Bool :=
  vRegsOk f d a .no .no && fmtIs f.fmt (fun _ => true) && f.fmt2.toNat = 0 && f.rm.toNat = 0 && bitsOf f.imm 9 0 = 0

/-- VGTH and VSCT (R248, R249). -/
def vgthLegal (f : VF) (d a : Use) : Bool :=
  vRegsOk f d a .vec .no && fmtIs f.fmt (fun k => k ≠ .cb4 && k ≠ .pbit) && fmtIs f.fmt2 isInt && f.rm.toNat = 0
    && bitsOf f.imm 9 0 = 0 && decide (vN f * codeBits f.fmt2.toNat ≤ 1024)

/-- VACC (R250). -/
def vaccLegal (f : VF) : Bool :=
  vRegsOk f .no .vec .vec .no && f.fmt.toNat < 12 && f.fmt2.toNat = 0 && f.rm.toNat = 0 && bitsOf f.imm 9 0 = 0

/-- VAMO (R251). -/
def vamoLegal (f : VF) : Bool :=
  let op := bitsOf f.imm 3 0
  let k := f.fmt.toNat
  vRegsOk f (if bitOf f.imm 4 then .vec else .no) .vec (if op = 7 && f.rm.toNat = 5 then .vec else .no) .no
    && f.fmt2.toNat = 0 && bitsOf f.imm 9 5 = 0 && op < 8
    && (if op = 7 then fmtIs f.fmt isF && rmOk f true true (vN f)
        else f.rm.toNat = 0 && (if op = 0 then k < 12 else fmtIs f.fmt isInt))

/-- VAPP (R252). -/
def vappLegal (f : VF) : Bool :=
  vRegsOk f .no .vec .vec .no && fmtIs f.fmt (fun _ => true) && f.fmt2.toNat = 0 && f.rm.toNat = 0 && f.imm.toNat = 0

/-! The M slot (R257 to R295). -/

/-- The operand pairs of R112. -/
def pairOk (a b : Nat) : Bool :=
  match fmtOf a, fmtOf b with
  | some x, some y =>
    (x = .f32 && y = .f32) || (x = .f64 && y = .f64)
      || ((x = .bf16 || x = .f16) && (y = .bf16 || y = .f16))
      || ((x = .e4m3 || x = .e5m2) && (y = .e4m3 || y = .e5m2))
      || ((x = .i8 || x = .n8) && (y = .i8 || y = .n8))
      || (x = .cb4 && y = .cb4)
  | _, _ => false

/-- A count field where 0 stands for 64. -/
def count64 (x : BitVec 6) : Nat := if x.toNat = 0 then 64 else x.toNat

/-- The fields common to the accumulations (R267). -/
def accLegal (f : MF) : Bool :=
  let kc := count64 f.kc
  let sa := bitsOf f.ext 26 23
  let sb := bitsOf f.ext 22 19
  let sm := bitsOf f.ext 18 17
  f.bank.toNat ≤ 1 && pairOk f.fa.toNat f.fb.toNat && bitsOf f.ext 8 0 = 0 && sm < 3
    && (if sm = 0 then sa = 0 && sb = 0 else fmtIs f.fa isScalable && fmtIs f.fb isScalable)
    && (sm ≠ 1 || (kc ≤ 4 && sa ≤ 14 && sb ≤ 12)) && (sm ≠ 2 || kc ≤ 2)
    && (f.fa.toNat = 12 || bitsOf f.ext 16 15 = 0) && (f.fb.toNat = 12 || bitsOf f.ext 14 13 = 0)

/-- MMA (R267). -/
def mmaLegal (f : MF) : Bool := accLegal f && bitsOf f.ext 12 9 = 0
/-- MMAS (R267). -/
def mmasLegal (f : MF) : Bool := accLegal f && decide (bitsOf f.ext 12 9 + ceilDiv (count64 f.kc) 16 ≤ 16)
/-- MMAG (R267). -/
def mmagLegal (f : MF) : Bool := accLegal f && bitsOf f.ext 12 9 = 0 && f.ia.toNat = 0 && !bitOf f.sel 0
/-- MGTH (R271). -/
def mgthLegal (f : MF) : Bool :=
  f.bank.toNat = 0 && f.fb.toNat = 0 && f.sel.toNat = 0 && bitsOf f.ext 10 0 = 0
    && fmtIs f.fa (fun k => pairOk (fmtCode k) (fmtCode k)) && decide (count64 f.kc * codeBits f.fa.toNat ≤ 256)
/-- ACLR (R272). -/
def aclrLegal (f : MF) : Bool :=
  f.bank.toNat ≤ 1 && (f.fa.toNat = 0 || f.fa.toNat = 6) && f.fb.toNat = 0 && f.ia.toNat = 0 && f.ib.toNat = 0
    && f.kc.toNat = 0 && f.sel.toNat ≤ 1 && bitsOf f.ext 26 13 = 0 && decide (bitsOf f.ext 6 0 ≤ 128)
/-- ASPL and AFIL (R272). -/
def asplLegal (f : MF) : Bool :=
  f.bank.toNat ≤ 1 && f.fa.toNat = 0 && f.fb.toNat = 0 && f.ib.toNat = 0 && f.kc.toNat = 0 && f.sel.toNat = 0
    && f.ext.toNat = 0
/-- ASW (R272). -/
def aswLegal (f : MF) : Bool := asplLegal f && f.bank.toNat = 0 && f.ia.toNat = 0
/-- MWAIT (R277). -/
def mwaitLegal (f : MF) : Bool :=
  f.fa.toNat = 0 && f.fb.toNat = 0 && f.ia.toNat = 0 && f.ib.toNat = 0 && f.kc.toNat = 0 && f.ext.toNat = 0
    && f.sel.toNat ≤ 1 && (if f.sel.toNat = 1 then f.bank.toNat = 0 else f.bank.toNat ≤ 1)

/-- VA registers of one row of a drain (R276). -/
def rowRegs (fa : Nat) : Nat := max 1 (ceilDiv ((if fa = 6 then 64 else 128) * codeBits fa) 1024)

/-- MDRN (R274, R276). -/
def mdrnLegal (f : MF) : Bool :=
  let cnt := count64 f.kc
  let sel := f.sel.toNat
  let dst := bitsOf f.ext 16 15
  let qm := bitsOf f.ext 14 13
  let rm := bitsOf f.ext 19 17
  let row0 := bitsOf f.ext 10 5
  let ten := bitOf f.ext 20
  let ti := bitsOf f.ext 22 21
  let dkUsed := ten || sel ≠ 0 || dst = 2
  f.fa.toNat < 12 && f.bank.toNat ≤ 1 && sel < 7 && dst < 3 && qm < 3 && rm ≠ 5 && rm ≠ 7 && bitsOf f.ext 4 0 = 0
    && row0 + cnt ≤ 64 && (sel ≠ 0 || f.ia.toNat = 0) && (qm ≠ 0 || f.fb.toNat = 0) && (qm ≠ 0 || bitsOf f.ext 12 11 = 0)
    && (qm = 0 || fmtIs f.fa isScalable) && (qm ≠ 1 || cnt ≤ 8) && (qm ≠ 2 || row0 % 16 = 0)
    && !((ten || sel ≠ 0) && fmtIs f.fa isInt) && !(ti > 1 && sel ≠ 0 && dst = 2)
    && (dkUsed || bitsOf f.ext 26 23 = 0) && (ten || sel ≠ 0 || ti = 0)
    && (dst ≠ 1 || f.ib.toNat + rowRegs f.fa.toNat * cnt ≤ 16)

/-- A floating format of PRJA (R294). -/
def prjaFmt (n : BitVec 4) : Bool := fmtIs n isF

/-- PRJA (R294). -/
def prjaLegal (f : MF) : Bool :=
  let cnt := count64 f.kc
  let sel := f.sel.toNat
  let rm := bitsOf f.ext 19 17
  let dst := bitsOf f.ext 16 15
  let fwd := sel = 3 || sel = 4
  let ten := bitOf f.ext 20
  f.bank.toNat ≤ 1 && 1 ≤ sel && sel ≤ 6 && prjaFmt f.fa && (if fwd then prjaFmt f.fb else f.fb.toNat = 0)
    && (fwd || bitsOf f.ext 14 11 = 0) && rm ≠ 5 && rm ≠ 7 && dst < 2 && bitsOf f.ext 10 5 + cnt ≤ 64
    && bitsOf f.ext 4 0 = 0 && (ten || sel = 4 || (bitsOf f.ext 26 23 = 0 && bitsOf f.ext 22 21 = 0))
    && (dst ≠ 1 || f.ib.toNat + rowRegs f.fa.toNat * cnt ≤ 16)

/-! The K slot (R280, R281). -/

/-- A K word with only the listed fields. -/
def kUses (f : KF) (dstBelow srcBelow immBelow : Nat) : Bool :=
  f.dst.toNat < dstBelow && f.src.toNat < srcBelow && f.imm.toNat < immBelow

/-- KMOV (R280). -/
def kmovLegal (f : KF) : Bool :=
  f.imm.toNat < 3 && (f.imm.toNat ≠ 1 || f.dst.toNat < 4) && (f.imm.toNat ≠ 2 || f.src.toNat < 4)

/-- KAUTO (R281). -/
def kautoLegal (f : KF) : Bool :=
  let k := bitsOf f.imm 7 4
  let rm := bitsOf f.imm 10 8
  (k = 10 || k = 11 || k = 0 || k = 1 || k = 12) && rm ≠ 5 && rm ≠ 7
    && (if k = 12 then f.src.toNat < 4 else f.src.toNat = 0)

/-- ITLVL (R280). -/
def itlvlLegal (f : KF) : Bool := f.src.toNat = 0 && 1 ≤ bitsOf f.imm 14 2

/-! The C slots (R308 to R330). -/

/-- The descriptor pair of an operation: an even register below 8 (R308; log entry 46). -/
def pairDesc (f : CF) : Bool := f.desc.toNat < 8 && f.desc.toNat % 2 = 0

/-- Per-operation bits and the common fields an operation uses (R310, R311). -/
def cUses (f : CF) (iw adv toh chan : Bool) (lowMask : Nat) : Bool :=
  let o := f.opnds.toNat
  (iw || !bitOf f.opnds 37) && (bitOf f.opnds 37 || f.iter.toNat = 0) && (adv || !bitOf f.opnds 36)
    && (if toh then bitOf f.opnds 32 || bitsOf f.opnds 35 33 = 0 else bitsOf f.opnds 35 32 = 0)
    && (chan || f.chan.toNat = 0) && ((o % 2 ^ 32) &&& (2 ^ 32 - 1 - lowMask)) = 0

/-- COPY (R316). -/
def copyLegal (f : CF) : Bool := pairDesc f && cUses f true true true false 0
/-- CPRF and CWB (R317): the walk is required. -/
def cprfLegal (f : CF) : Bool := pairDesc f && cUses f true true false false 1 && bitOf f.opnds 37
/-- SBIND (R319). -/
def sbindLegal (f : CF) : Bool :=
  f.iter.toNat = 0 && bitsOf f.opnds 37 36 = 0 && !bitOf f.opnds 32 && bitsOf f.opnds 26 0 = 0 &&
    (if bitOf f.opnds 27 then f.desc.toNat = 0 && f.chan.toNat = 0 && bitsOf f.opnds 31 28 = 0
     else pairDesc f && bitsOf f.opnds 29 28 < 3 && (bitsOf f.opnds 31 30 = 3 || f.chan.toNat = 0))
/-- SADV, SWTF and SWTE (R321); `sadv` uses bit 31. -/
def swtLegal (f : CF) (sadv : Bool) : Bool :=
  f.desc.toNat = 0 && f.iter.toNat = 0 && f.chan.toNat = 0 && bitsOf f.opnds 37 36 = 0 && !bitOf f.opnds 32
    && bitsOf f.opnds 30 16 = 0 && (sadv || !bitOf f.opnds 31)
/-- MCAST (R325). -/
def mcastLegal (f : CF) : Bool := pairDesc f && cUses f true false false false 0
/-- CSEND (R327). -/
def csendLegal (f : CF) : Bool := pairDesc f && cUses f true true false true 0
/-- CRECV (R327). -/
def crecvLegal (f : CF) : Bool := pairDesc f && cUses f true true true true 0
/-- CHKS (R328). -/
def chksLegal (f : CF) : Bool := pairDesc f && cUses f true false false false 1 && bitOf f.opnds 37
/-- CWAIT (R326). -/
def cwaitLegal (f : CF) : Bool :=
  let kind := bitsOf f.opnds 31 30
  f.desc.toNat = 0 && f.chan.toNat = 0 && bitsOf f.opnds 36 32 = 0 && bitsOf f.opnds 29 3 = 0 && kind < 3
    && (kind = 0 || bitsOf f.opnds 2 0 = 0) && (bitOf f.opnds 37 = (kind = 1)) && (kind = 1 || f.iter.toNat = 0)
/-- CARM (R326). -/
def carmLegal (f : CF) : Bool :=
  pairDesc f && f.iter.toNat = 0 && f.chan.toNat = 0 && bitsOf f.opnds 37 32 = 0 && bitsOf f.opnds 30 3 = 0
/-- CSTAT (R329): HD only for a head record. -/
def cstatLegal (f : CF) : Bool :=
  let what := bitsOf f.opnds 31 29
  f.desc.toNat = 0 && f.chan.toNat = 0 && bitOf f.opnds 37 && !bitOf f.opnds 36 && !bitOf f.opnds 32 && what < 4
    && (what = 0 || bitsOf f.opnds 35 33 = 0) && bitsOf f.opnds 28 0 = 0
/-- SCLOSE (R323). -/
def scloseLegal (f : CF) : Bool := pairDesc f && cUses f false false false false 0
/-- CDESC (R330). -/
def cdescLegal (f : CF) : Bool := f.desc.toNat < 8 && cUses f true false false false 1 && bitOf f.opnds 37

/-- The low byte of CTL is the opcode of a tile instruction (R100). -/
def tileOp (t : Tile) : Nat := bitsOf t.ctl 7 0

end Sys2Proof.Machine
end

