-- ==== Sys2Proof/WellFormed.lean ====
section
/-!
DEFINITION. Well-formed instructions: the field values that decode accepts, one arm per constructor over the checks of
Machine/Legal.lean. Events carry no encoding and are all well formed.
-/
namespace Sys2Proof

open Machine in
/-- The fields of the instruction pass check 6 of R189 (slot operations), or its opcode byte is its own (R105). -/
def Instr.wellFormed (i : Instr) : Bool :=
  match i with
  | .nop => true
  | .add f => rrUses f true true true 1
  | .sub f => rrUses f true true true 1
  | .mul f => rrUses f true true true 1
  | .mulh f => rrUses f true true true 1
  | .mulhn f => rrUses f true true true 1
  | .div f => rrUses f true true true 1
  | .divn f => rrUses f true true true 1
  | .mod f => rrUses f true true true 1
  | .modn f => rrUses f true true true 1
  | .and f => rrUses f true true true 1
  | .or f => rrUses f true true true 1
  | .xor f => rrUses f true true true 1
  | .shl f => rrUses f true true true 1
  | .shr f => rrUses f true true true 1
  | .sra f => rrUses f true true true 1
  | .min f => rrUses f true true true 1
  | .max f => rrUses f true true true 1
  | .minn f => rrUses f true true true 1
  | .maxn f => rrUses f true true true 1
  | .clz f => rrUses f true true false 1
  | .popc f => rrUses f true true false 1
  | .sext f => rrUses f true true false 3
  | .zext f => rrUses f true true false 3
  | .addi _ => true
  | .andi _ => true
  | .ori _ => true
  | .xori _ => true
  | .shli f => f.imm.toNat < 64
  | .shri f => f.imm.toNat < 64
  | .srai f => f.imm.toNat < 64
  | .li _ => true
  | .lih16 _ => true
  | .lih32 _ => true
  | .lih48 _ => true
  | .cmp f => rrUses f true true true 6 && isPredField f.d
  | .cmpi _ => true
  | .pand f => rrUses f true true true 4 && isPredField f.d && isPredField f.a && isPredField f.b
  | .por f => rrUses f true true true 4 && isPredField f.d && isPredField f.a && isPredField f.b
  | .pxor f => rrUses f true true true 4 && isPredField f.d && isPredField f.a && isPredField f.b
  | .sel f => rrUses f true true true 16
  | .pmov f => pmovLegal f
  | .pmovToS f => rrUses f true false false 2 && f.fn.toNat = 1
  | .pmovFromS f => rrUses f false true false 3 && f.fn.toNat = 2
  | .br _ => true
  | .jmp f => rrUses f false true false 2
  | .call _ => true
  | .ret _ => true
  | .loop _ => true
  | .rbset f => f.d.toNat = 0 && f.a.toNat = 0 && f.imm.toNat < 16
  | .exit _ => true
  | .yield _ => true
  | .ldl f => rrUses f true true true 8
  | .stl f => rrUses f true true true 4
  | .ldm f => rrUses f true true true 16
  | .stm f => rrUses f true true true 4
  | .amo f => amoLegal f
  | .sacc f => rrUses f true true true 12
  | .sapp f => rrUses f true true false 1
  | .hld f => rrUses f true true false 8
  | .hview f => rrUses f true true true 1
  | .rcast f => rrUses f true true true 1 && f.b.toNat ≤ 29
  | .hold f => rrUses f false true false 1
  | .rels f => rrUses f false true false 1
  | .hgen f => rrUses f true true false 1
  | .taglk f => rrUses f true true true 1
  | .tagset f => rrUses f true true true 1
  | .tagclr f => rrUses f true false false 1
  | .tagclrK f => rrUses f false true true 2 && f.fn.toNat = 1
  | .xsv f => rrUses f true true false 16
  | .xvs f => rrUses f true true false 16
  | .itset f => rrUses f true true false 6 && f.d.toNat < 16
  | .itget f => rrUses f true true false 6 && f.a.toNat < 16
  | .gjoin f => rrUses f false false false 20
  | .gleave f => rrUses f false false false 20
  | .sync f => rrUses f false false false 20
  | .fuse f => rrUses f false true false 1
  | .decpl f => rrUses f false true false 1
  | .rejoin _ => true
  | .wstep f => rrUses f false true false 2
  | .evadd f => rrUses f (f.fn.toNat = 1) true true 2
  | .evarm f => rrUses f true true true 4
  | .evarmDis f => rrUses f false true false 8 && 4 ≤ f.fn.toNat
  | .evwait f => rrUses f false true true 1
  | .evrd f => rrUses f true true false 8
  | .fence f => fenceLegal f
  | .xfence f => rrUses f false false false 6
  | .tis f => rrUses f true true false 1
  | .tiwait f => rrUses f true true false 1
  | .csrr f => csrLegal f
  | .csrw f => csrLegal f
  | .trap f => f.d.toNat = 0
  | .eret f => rrUses f false false false 2
  | .brk f => f.d.toNat = 0
  | .vnop _ => true
  | .vadd _ f => vArith f .no
  | .vsub _ f => vArith f .no
  | .vmul _ f => vArith f .no
  | .vfma _ f => vArith f .vec
  | .vfms _ f => vArith f .vec
  | .vfnma _ f => vArith f .vec
  | .vmin _ f => vPlain f .vec (fun k => isF k || isInt k)
  | .vmax _ f => vPlain f .vec (fun k => isF k || isInt k)
  | .vabs _ f => vPlain f .no (fun k => isF k || isInt k)
  | .vneg _ f => vPlain f .no (fun k => isF k || isInt k)
  | .vdiv _ f => vdivLegal f
  | .vmulh _ f => vPlain f .vec isInt
  | .vsadd _ f => vPlain f .vec isInt
  | .vssub _ f => vPlain f .vec isInt
  | .vand _ f => vPlain f .vec (fun k => isInt k || k = .pbit)
  | .vor _ f => vPlain f .vec (fun k => isInt k || k = .pbit)
  | .vxor _ f => vPlain f .vec (fun k => isInt k || k = .pbit)
  | .vnot _ f => vPlain f .no (fun k => isInt k || k = .pbit)
  | .vshl _ f => vShiftLegal f
  | .vshr _ f => vShiftLegal f
  | .vsra _ f => vShiftLegal f
  | .vpopc _ f => vPlain f .no isInt
  | .vclz _ f => vPlain f .no isInt
  | .vcmp _ f => vcmpLegal f
  | .vsel _ f => vselLegal f
  | .vmand _ f => vMaskLegal f .mreg 4
  | .vmor _ f => vMaskLegal f .mreg 4
  | .vmxor _ f => vMaskLegal f .mreg 4
  | .vmnot _ f => vMaskLegal f .no 1
  | .vmcnt _ f => vmcntLegal f
  | .vcvt _ f => vcvtLegal f
  | .vqnt _ f => vqntLegal f
  | .vdqn _ f => vdqnLegal f
  | .vcbx _ f => vcbLegal f (fun k => k = .cb4) (fun k => k = .bf16 || k = .f32) false
  | .vcbq _ f => vcbLegal f (fun k => k = .bf16 || k = .f32) (fun k => k = .cb4) true
  | .vamax _ f => vamaxLegal f
  | .vmov _ f => vMoveLegal f .no .no
  | .vbcst _ f => vbcstLegal f
  | .vperm _ f => vMoveLegal f .vec .vec
  | .vshfl _ f => vshflLegal f
  | .viota _ f => viotaLegal f
  | .vcmps _ f => vMoveLegal f .no .no && vN f ≤ 64
  | .vexpd _ f => vMoveLegal f .vec .no && vN f ≤ 64
  | .vxv _ f => vMoveLegal f .no .no
  | .vred _ f => vredLegal f
  | .vscan _ f => vscanLegal f
  | .vdot _ f => vdotLegal f
  | .vexp2 _ f => vsfLegal f true
  | .vlog2 _ f => vsfLegal f true
  | .vrcp _ f => vsfLegal f true
  | .vrsq _ f => vsfLegal f false
  | .vsqrt _ f => vsfLegal f true
  | .vsinpi _ f => vsfLegal f false
  | .vcospi _ f => vsfLegal f false
  | .vtanh _ f => vsfLegal f false
  | .vsigm _ f => vsfLegal f false
  | .vld _ f => vldLegal f .vec .no
  | .vst _ f => vldLegal f .no .vec
  | .vgth _ f => vgthLegal f .vec .no
  | .vsct _ f => vgthLegal f .no .vec
  | .vacc _ f => vaccLegal f
  | .vamo _ f => vamoLegal f
  | .vapp _ f => vappLegal f
  | .mnop => true
  | .mma f => mmaLegal f
  | .mmag f => mmagLegal f
  | .mmas f => mmasLegal f
  | .mgth f => mgthLegal f
  | .aclr f => aclrLegal f
  | .aspl f => asplLegal f
  | .afil f => asplLegal f
  | .asw f => aswLegal f
  | .mdrn f => mdrnLegal f
  | .prja f => prjaLegal f
  | .mwait f => mwaitLegal f
  | .knop => true
  | .klds f => kUses f 16 1 16
  | .ksts f => kUses f 1 16 16
  | .kldc f => kUses f 4 1 16
  | .kmov f => kmovLegal f
  | .kauto f => kautoLegal f
  | .kufc f => kUses f 1 1 16
  | .itlvl f => itlvlLegal f
  | .itrst f => kUses f 16 1 1
  | .itrev f => kUses f 16 1 1
  | .itstep f => kUses f 16 1 1
  | .kseed f => kUses f 1 16 1
  | .cnop _ => true
  | .copy _ f => copyLegal f
  | .cprf _ f => cprfLegal f
  | .cwb _ f => cprfLegal f
  | .sbind _ f => sbindLegal f
  | .sadv _ f => swtLegal f true
  | .swtf _ f => swtLegal f false
  | .swte _ f => swtLegal f false
  | .mcast _ f => mcastLegal f
  | .csend _ f => csendLegal f
  | .crecv _ f => crecvLegal f
  | .chks _ f => chksLegal f
  | .cwait _ f => cwaitLegal f
  | .carm _ f => carmLegal f
  | .cstat _ f => cstatLegal f
  | .sclose _ f => scloseLegal f
  | .cdesc _ f => cdescLegal f
  | .tnop t => tileOp t = 0
  | .tmm t => tileOp t = 1
  | .tmmg t => tileOp t = 2
  | .tconv t => tileOp t = 3
  | .tmap t => tileOp t = 4
  | .tred t => tileOp t = 5
  | .tscan t => tileOp t = 6
  | .tcopy t => tileOp t = 7
  | .tcast t => tileOp t = 8
  | .tprj t => tileOp t = 9
  | .tprja t => tileOp t = 10
  | .tcol t => tileOp t = 11
  | .tfill t => tileOp t = 12
  | .tevt t => tileOp t = 13
  | .twait t => tileOp t = 14
  | .tchk t => tileOp t = 15
  | .tstep t => tileOp t = 16
  | .issueBundle _ => true
  | .moduleResetBoot => true
  | .dieFatalFault _ => true
  | .dieSwitchInComplete _ => true
  | .powerLimitExceeded => true
  | .powerLimitRecovered => true
  | .detClockChangeBoundary => true
  | .thermalTrip _ => true
  | .thermalDieFatal _ => true
  | .setPowerLimit _ => true
  | .dieIdleEntry _ => true
  | .dataError _ _ => true
  | .sqtailWrite _ _ _ => true
  | .cqheadWrite _ _ _ => true
  | .ovrClear _ _ _ => true
  | .contextCreate _ => true
  | .contextUpdate _ => true
  | .contextDestroy _ => true
  | .partitionWrite _ _ => true
  | .xinvWrite _ => true
  | .xinvDone => true
  | .preemptSoftRequest _ _ => true
  | .preemptHardRequest _ _ => true
  | .cxsaveWrite _ _ => true
  | .readbackCore _ => true
  | .readbackCluster _ => true
  | .readbackScheduler _ => true
  | .readbackEvent _ => true
  | .readbackCertChain _ => true
  | .readbackAttestation _ => true
  | .readbackDone => true
  | .debugModeWrite _ _ => true
  | .debugHalt _ => true
  | .debugResume _ => true
  | .owndigWrite _ _ _ => true
  | .mgmtRegisterWrite _ _ => true
  | .hostApply _ => true
  | .hostRead _ _ => true
  | .fetchEntry => true
  | .handOutPiece _ _ _ => true
  | .agingTick _ _ _ => true
  | .steal _ => true
  | .gangAdmit _ => true
  | .taskStart _ => true
  | .bankSpill _ _ => true
  | .taskRetire _ => true
  | .pieceRetireMerge _ => true
  | .tileRetire _ => true
  | .completionRecordWrite _ _ => true
  | .faultRecordReceive _ => true
  | .stallRelease _ => true
  | .watchdogExpiry _ => true
  | .preemptDeadlineExpiry _ => true
  | .hardPreemptFreeze _ => true
  | .freezeRecordSave _ => true
  | .frozenTaskResume _ => true
  | .arrayOpStart _ => true
  | .arrayOpComplete _ => true
  | .mwinModeTakeEffect _ => true
  | .l0TileStart _ => true
  | .l0TileRetire _ => true
  | .storeApply _ _ => true
  | .loadPerform _ _ => true
  | .accCombine _ => true
  | .pipeDeliver _ _ => true
  | .threadLineAccess _ _ _ => true
  | .asyncMerge _ => true
  | .engineOpComplete _ _ => true
  | .pageWalkComplete _ _ _ => true
  | .faultServiceResolve _ => true
  | .faultResolvedRetry _ => true
  | .recastArrival _ => true
  | .recastComplete _ => true
  | .eventIncrement _ => true
  | .eventChainApply => true
  | .syncRelease _ _ _ => true
  | .rejoinRelease _ => true
  | .geyserTick => true
  | .geyserAlignMessage _ => true
  | .noProgressTimeout _ _ => true
  | .recoveryWindowEnd _ => true
  | .headerFlit _ _ => true
  | .payloadFlit _ _ => true
  | .acknowledge _ _ => true
  | .retryRequest _ _ => true
  | .idle _ _ => true
  | .flitCrcFail _ _ => true
  | .portFailure _ => true
  | .channelTileArrive _ => true
  | .channelTileDeliver _ => true
  | .scratchpadTileReady _ => true
  | .fabricGroupConfigure _ _ _ => true
  | .fixedLatencyPacketRelease _ => true

end Sys2Proof
end

