-- ==== Sys2Proof/Decode.lean ====
section
/-!
DEFINITION. Decoding (R161, R162, R178 to R188): total on every word, rejecting by name, and after it the encoder,
written from the same tables of the spec.
-/
namespace Sys2Proof

open Machine

/-- Why a slot word is rejected: check 5 or check 6 of R189. -/
inductive DecodeErr where
  /-- An unassigned or permanently illegal opcode (R183 to R188). -/
  | unassigned
  /-- A field value that the instruction does not accept (R189, check 6). -/
  | illegalField
  deriving DecidableEq, Repr

/-! The fields of the slot words. -/

/-- The gate of an S word (R178). -/
def sGuard (w : BitVec 32) : Guard := ⟨w.extractLsb' 22 3, w.getLsbD 21⟩
/-- Form RR (R196). -/
def rr (w : BitVec 32) : SRR :=
  ⟨sGuard w, w.extractLsb' 16 5, w.extractLsb' 11 5, w.extractLsb' 6 5, w.extractLsb' 0 6⟩
/-- Form RI (R196). -/
def ri (w : BitVec 32) : SRI := ⟨sGuard w, w.extractLsb' 16 5, w.extractLsb' 11 5, w.extractLsb' 0 11⟩
/-- Form I16 (R196). -/
def i16 (w : BitVec 32) : SI16 := ⟨sGuard w, w.extractLsb' 16 5, w.extractLsb' 0 16⟩
/-- Form D21 (R196). -/
def d21 (w : BitVec 32) : SD21 := ⟨sGuard w, w.extractLsb' 0 21⟩
/-- Form C12 (R196). -/
def c12 (w : BitVec 32) : SC12 := ⟨sGuard w, w.extractLsb' 16 5, w.extractLsb' 12 4, w.extractLsb' 0 12⟩
/-- A VA or VB word (R179). -/
def vf (w : BitVec 64) : VF :=
  ⟨⟨w.extractLsb' 53 3, w.getLsbD 52⟩, w.extractLsb' 50 2, w.extractLsb' 46 4, w.extractLsb' 42 4, w.extractLsb' 39 3,
   w.extractLsb' 36 3, w.extractLsb' 32 4, w.extractLsb' 28 4, w.extractLsb' 24 4, w.extractLsb' 20 4,
   w.extractLsb' 17 3, w.extractLsb' 14 3, w.extractLsb' 0 14⟩
/-- An M word (R180). -/
def mf (w : BitVec 64) : MF :=
  ⟨⟨w.extractLsb' 55 3, w.getLsbD 54⟩, w.extractLsb' 50 4, w.extractLsb' 46 4, w.extractLsb' 44 2, w.extractLsb' 40 4,
   w.extractLsb' 36 4, w.extractLsb' 30 6, w.extractLsb' 27 3, w.extractLsb' 0 27⟩
/-- A K word (R181). -/
def kf (w : BitVec 32) : KF :=
  ⟨⟨w.extractLsb' 24 3, w.getLsbD 23⟩, w.extractLsb' 19 4, w.extractLsb' 15 4, w.extractLsb' 0 15⟩
/-- A CA or CB word (R182). -/
def cf (w : BitVec 64) : CF :=
  ⟨⟨w.extractLsb' 55 3, w.getLsbD 54⟩, w.extractLsb' 50 4, w.extractLsb' 46 4, w.extractLsb' 38 8, w.extractLsb' 0 38⟩

/-! The opcode maps. `none` is an unassigned opcode; the fields are checked afterwards. -/

/-- An S word whose operands are only `op`, `pg` and `pn` (R201, R204, R205, R360). -/
def bare (w : BitVec 32) (i : Instr) : Except DecodeErr Instr :=
  if w.extractLsb' 0 21 = 0#21 then .ok i else .error .illegalField

/-- PMOV by fn[1:0] (R200). -/
def pmovForm (w : BitVec 32) : Except DecodeErr Instr :=
  match (w.extractLsb' 0 2).toNat with
  | 0 => .ok (.pmov (rr w))
  | 1 => .ok (.pmovToS (rr w))
  | 2 => .ok (.pmovFromS (rr w))
  | _ => .error .illegalField

/-- S slot opcodes (R183). -/
def sOp (w : BitVec 32) : Except DecodeErr Instr :=
  match (w.extractLsb' 25 7).toNat with
  | 0x00 => if w.extractLsb' 0 25 = 0#25 then .ok .nop else .error .illegalField
  | 0x01 => .ok (.add (rr w))
  | 0x02 => .ok (.sub (rr w))
  | 0x03 => .ok (.mul (rr w))
  | 0x04 => .ok (.mulh (rr w))
  | 0x05 => .ok (.mulhn (rr w))
  | 0x06 => .ok (.div (rr w))
  | 0x07 => .ok (.divn (rr w))
  | 0x08 => .ok (.mod (rr w))
  | 0x09 => .ok (.modn (rr w))
  | 0x0A => .ok (.and (rr w))
  | 0x0B => .ok (.or (rr w))
  | 0x0C => .ok (.xor (rr w))
  | 0x0D => .ok (.shl (rr w))
  | 0x0E => .ok (.shr (rr w))
  | 0x0F => .ok (.sra (rr w))
  | 0x10 => .ok (.min (rr w))
  | 0x11 => .ok (.max (rr w))
  | 0x12 => .ok (.minn (rr w))
  | 0x13 => .ok (.maxn (rr w))
  | 0x14 => .ok (.clz (rr w))
  | 0x15 => .ok (.popc (rr w))
  | 0x16 => .ok (.sext (rr w))
  | 0x17 => .ok (.zext (rr w))
  | 0x18 => .ok (.addi (ri w))
  | 0x19 => .ok (.andi (ri w))
  | 0x1A => .ok (.ori (ri w))
  | 0x1B => .ok (.xori (ri w))
  | 0x1C => .ok (.shli (ri w))
  | 0x1D => .ok (.shri (ri w))
  | 0x1E => .ok (.srai (ri w))
  | 0x1F => .ok (.li (i16 w))
  | 0x20 => .ok (.lih16 (i16 w))
  | 0x21 => .ok (.lih32 (i16 w))
  | 0x22 => .ok (.lih48 (i16 w))
  | 0x24 => .ok (.cmp (rr w))
  | 0x25 => .ok (.cmpi (ri w))
  | 0x26 => .ok (.pand (rr w))
  | 0x27 => .ok (.por (rr w))
  | 0x28 => .ok (.pxor (rr w))
  | 0x29 => .ok (.sel (rr w))
  | 0x2A => pmovForm w
  | 0x30 => .ok (.br (d21 w))
  | 0x31 => .ok (.jmp (rr w))
  | 0x32 => .ok (.call (d21 w))
  | 0x33 => bare w (.ret (sGuard w))
  | 0x34 => .ok (.loop (d21 w))
  | 0x35 => .ok (.rbset (ri w))
  | 0x36 => bare w (.exit (sGuard w))
  | 0x37 => bare w (.yield (sGuard w))
  | 0x40 => .ok (.ldl (rr w))
  | 0x41 => .ok (.stl (rr w))
  | 0x42 => .ok (.ldm (rr w))
  | 0x43 => .ok (.stm (rr w))
  | 0x44 => .ok (.amo (rr w))
  | 0x45 => .ok (.sacc (rr w))
  | 0x46 => .ok (.sapp (rr w))
  | 0x50 => .ok (.hld (rr w))
  | 0x51 => .ok (.hview (rr w))
  | 0x52 => .ok (.rcast (rr w))
  | 0x53 => .ok (.hold (rr w))
  | 0x54 => .ok (.rels (rr w))
  | 0x55 => .ok (.hgen (rr w))
  | 0x58 => .ok (.taglk (rr w))
  | 0x59 => .ok (.tagset (rr w))
  | 0x5A => .ok (if w.getLsbD 0 then .tagclrK (rr w) else .tagclr (rr w))
  | 0x5C => .ok (.xsv (rr w))
  | 0x5D => .ok (.xvs (rr w))
  | 0x5E => .ok (.itset (rr w))
  | 0x5F => .ok (.itget (rr w))
  | 0x60 => .ok (.gjoin (rr w))
  | 0x61 => .ok (.gleave (rr w))
  | 0x62 => .ok (.sync (rr w))
  | 0x63 => .ok (.fuse (rr w))
  | 0x64 => .ok (.decpl (rr w))
  | 0x65 => bare w (.rejoin (sGuard w))
  | 0x66 => .ok (.wstep (rr w))
  | 0x68 => .ok (.evadd (rr w))
  | 0x69 => .ok (if w.getLsbD 2 then .evarmDis (rr w) else .evarm (rr w))
  | 0x6A => .ok (.evwait (rr w))
  | 0x6B => .ok (.evrd (rr w))
  | 0x6C => .ok (.fence (rr w))
  | 0x6D => .ok (.xfence (rr w))
  | 0x70 => .ok (.tis (rr w))
  | 0x71 => .ok (.tiwait (rr w))
  | 0x78 => .ok (.csrr (c12 w))
  | 0x79 => .ok (.csrw (c12 w))
  | 0x7A => .ok (.trap (i16 w))
  | 0x7B => .ok (.eret (rr w))
  | 0x7C => .ok (.brk (i16 w))
  | _ => .error .unassigned

/-- VA and VB slot opcodes (R184). -/
def vOp (x : VSlot) (w : BitVec 64) : Except DecodeErr Instr :=
  match (w.extractLsb' 56 8).toNat with
  | 0x00 => if w.extractLsb' 0 56 = 0#56 then .ok (.vnop x) else .error .illegalField
  | 0x01 => .ok (.vadd x (vf w))
  | 0x02 => .ok (.vsub x (vf w))
  | 0x03 => .ok (.vmul x (vf w))
  | 0x04 => .ok (.vfma x (vf w))
  | 0x05 => .ok (.vfms x (vf w))
  | 0x06 => .ok (.vfnma x (vf w))
  | 0x07 => .ok (.vmin x (vf w))
  | 0x08 => .ok (.vmax x (vf w))
  | 0x09 => .ok (.vabs x (vf w))
  | 0x0A => .ok (.vneg x (vf w))
  | 0x0B => .ok (.vdiv x (vf w))
  | 0x0C => .ok (.vmulh x (vf w))
  | 0x0D => .ok (.vsadd x (vf w))
  | 0x0E => .ok (.vssub x (vf w))
  | 0x10 => .ok (.vand x (vf w))
  | 0x11 => .ok (.vor x (vf w))
  | 0x12 => .ok (.vxor x (vf w))
  | 0x13 => .ok (.vnot x (vf w))
  | 0x14 => .ok (.vshl x (vf w))
  | 0x15 => .ok (.vshr x (vf w))
  | 0x16 => .ok (.vsra x (vf w))
  | 0x17 => .ok (.vpopc x (vf w))
  | 0x18 => .ok (.vclz x (vf w))
  | 0x20 => .ok (.vcmp x (vf w))
  | 0x21 => .ok (.vsel x (vf w))
  | 0x22 => .ok (.vmand x (vf w))
  | 0x23 => .ok (.vmor x (vf w))
  | 0x24 => .ok (.vmxor x (vf w))
  | 0x25 => .ok (.vmnot x (vf w))
  | 0x26 => .ok (.vmcnt x (vf w))
  | 0x30 => .ok (.vcvt x (vf w))
  | 0x31 => .ok (.vqnt x (vf w))
  | 0x32 => .ok (.vdqn x (vf w))
  | 0x33 => .ok (.vcbx x (vf w))
  | 0x34 => .ok (.vcbq x (vf w))
  | 0x35 => .ok (.vamax x (vf w))
  | 0x40 => .ok (.vmov x (vf w))
  | 0x41 => .ok (.vbcst x (vf w))
  | 0x42 => .ok (.vperm x (vf w))
  | 0x43 => .ok (.vshfl x (vf w))
  | 0x44 => .ok (.viota x (vf w))
  | 0x45 => .ok (.vcmps x (vf w))
  | 0x46 => .ok (.vexpd x (vf w))
  | 0x47 => .ok (.vxv x (vf w))
  | 0x50 => .ok (.vred x (vf w))
  | 0x51 => .ok (.vscan x (vf w))
  | 0x52 => .ok (.vdot x (vf w))
  | 0x60 => .ok (.vexp2 x (vf w))
  | 0x61 => .ok (.vlog2 x (vf w))
  | 0x62 => .ok (.vrcp x (vf w))
  | 0x63 => .ok (.vrsq x (vf w))
  | 0x64 => .ok (.vsqrt x (vf w))
  | 0x65 => .ok (.vsinpi x (vf w))
  | 0x66 => .ok (.vcospi x (vf w))
  | 0x67 => .ok (.vtanh x (vf w))
  | 0x68 => .ok (.vsigm x (vf w))
  | 0x70 => .ok (.vld x (vf w))
  | 0x71 => .ok (.vst x (vf w))
  | 0x72 => .ok (.vgth x (vf w))
  | 0x73 => .ok (.vsct x (vf w))
  | 0x74 => .ok (.vacc x (vf w))
  | 0x75 => .ok (.vamo x (vf w))
  | 0x76 => .ok (.vapp x (vf w))
  | _ => .error .unassigned

/-- M slot opcodes (R185). -/
def mOp (w : BitVec 64) : Except DecodeErr Instr :=
  match (w.extractLsb' 58 6).toNat with
  | 0x00 => if w.extractLsb' 0 58 = 0#58 then .ok .mnop else .error .illegalField
  | 0x01 => .ok (.mma (mf w))
  | 0x02 => .ok (.mmag (mf w))
  | 0x03 => .ok (.mmas (mf w))
  | 0x04 => .ok (.mgth (mf w))
  | 0x05 => .ok (.aclr (mf w))
  | 0x06 => .ok (.aspl (mf w))
  | 0x07 => .ok (.afil (mf w))
  | 0x08 => .ok (.asw (mf w))
  | 0x09 => .ok (.mdrn (mf w))
  | 0x0A => .ok (.prja (mf w))
  | 0x0B => .ok (.mwait (mf w))
  | _ => .error .unassigned

/-- K slot opcodes (R186, R188). -/
def kOp (w : BitVec 32) : Except DecodeErr Instr :=
  match (w.extractLsb' 27 5).toNat with
  | 0x00 => if w.extractLsb' 0 27 = 0#27 then .ok .knop else .error .illegalField
  | 0x01 => .ok (.klds (kf w))
  | 0x02 => .ok (.ksts (kf w))
  | 0x03 => .ok (.kldc (kf w))
  | 0x04 => .ok (.kmov (kf w))
  | 0x05 => .ok (.kauto (kf w))
  | 0x07 => .ok (.kufc (kf w))
  | 0x08 => .ok (.itlvl (kf w))
  | 0x09 => .ok (.itrst (kf w))
  | 0x0A => .ok (.itrev (kf w))
  | 0x0B => .ok (.itstep (kf w))
  | 0x0C => .ok (.kseed (kf w))
  | _ => .error .unassigned

/-- CA and CB slot opcodes (R187). -/
def cOp (x : CSlot) (w : BitVec 64) : Except DecodeErr Instr :=
  match (w.extractLsb' 58 6).toNat with
  | 0x00 => if w.extractLsb' 0 58 = 0#58 then .ok (.cnop x) else .error .illegalField
  | 0x01 => .ok (.copy x (cf w))
  | 0x02 => .ok (.cprf x (cf w))
  | 0x03 => .ok (.cwb x (cf w))
  | 0x04 => .ok (.sbind x (cf w))
  | 0x05 => .ok (.sadv x (cf w))
  | 0x06 => .ok (.swtf x (cf w))
  | 0x07 => .ok (.swte x (cf w))
  | 0x08 => .ok (.mcast x (cf w))
  | 0x09 => .ok (.csend x (cf w))
  | 0x0A => .ok (.crecv x (cf w))
  | 0x0B => .ok (.chks x (cf w))
  | 0x0C => .ok (.cwait x (cf w))
  | 0x0D => .ok (.carm x (cf w))
  | 0x0E => .ok (.cstat x (cf w))
  | 0x0F => .ok (.sclose x (cf w))
  | 0x10 => .ok (.cdesc x (cf w))
  | _ => .error .unassigned

/-- The fields are accepted, or the word is rejected (check 6 of R189). -/
def checked (r : Except DecodeErr Instr) : Except DecodeErr Instr :=
  match r with
  | .ok i => if i.wellFormed then .ok i else .error .illegalField
  | .error e => .error e

/-- Decode an S word. -/
def decodeS (w : BitVec 32) : Except DecodeErr Instr := checked (sOp w)
/-- Decode a VA or VB word. -/
def decodeV (x : VSlot) (w : BitVec 64) : Except DecodeErr Instr := checked (vOp x w)
/-- Decode an M word. -/
def decodeM (w : BitVec 64) : Except DecodeErr Instr := checked (mOp w)
/-- Decode a K word. -/
def decodeK (w : BitVec 32) : Except DecodeErr Instr := checked (kOp w)
/-- Decode a CA or CB word. -/
def decodeC (x : CSlot) (w : BitVec 64) : Except DecodeErr Instr := checked (cOp x w)

/-- The tile instruction of eight words: its opcode is assigned, or the level rejects it (R105, R106). -/
def decodeTile (t : Tile) : Option Instr :=
  match tileOp t with
  | 0x00 => some (.tnop t)
  | 0x01 => some (.tmm t)
  | 0x02 => some (.tmmg t)
  | 0x03 => some (.tconv t)
  | 0x04 => some (.tmap t)
  | 0x05 => some (.tred t)
  | 0x06 => some (.tscan t)
  | 0x07 => some (.tcopy t)
  | 0x08 => some (.tcast t)
  | 0x09 => some (.tprj t)
  | 0x0A => some (.tprja t)
  | 0x0B => some (.tcol t)
  | 0x0C => some (.tfill t)
  | 0x0D => some (.tevt t)
  | 0x0E => some (.twait t)
  | 0x0F => some (.tchk t)
  | 0x10 => some (.tstep t)
  | _ => none

/-- The eight little-endian words of 64 bytes (R99), bit 0 the lowest bit of byte 0. -/
def tileOfBits (w : BitVec 512) : Tile :=
  ⟨w.extractLsb' 0 64, w.extractLsb' 64 64, w.extractLsb' 128 64, w.extractLsb' 192 64, w.extractLsb' 256 64,
   w.extractLsb' 320 64, w.extractLsb' 384 64, w.extractLsb' 448 64⟩

/-- The 512 bits of a tile instruction. -/
def bitsOfTile (t : Tile) : BitVec 512 :=
  t.sigw ++ t.waitw ++ t.opd ++ t.opc ++ t.opb ++ t.opa ++ t.param ++ t.ctl

/-! Bundles (R161, R162). -/

/-- The bundle header (R161). -/
structure Header where
  len : BitVec 4
  cls : BitVec 2
  q : Bool
  rot : Bool
  sp : Bool
  rep : BitVec 8
  pop : BitVec 8
  pres : BitVec 7
  deriving DecidableEq, Repr

/-- The fields of a header word (R161). -/
def header (w : BitVec 32) : Header :=
  ⟨w.extractLsb' 28 4, w.extractLsb' 26 2, w.getLsbD 25, w.getLsbD 24, w.getLsbD 23, w.extractLsb' 15 8,
   w.extractLsb' 7 8, w.extractLsb' 0 7⟩

/-- The header word of its fields (R161). -/
def encodeHeader (h : Header) : BitVec 32 :=
  h.len ++ h.cls ++ BitVec.ofBool h.q ++ BitVec.ofBool h.rot ++ BitVec.ofBool h.sp ++ h.rep ++ h.pop ++ h.pres

/-- The width in words of slot k, in the order S, VA, VB, M, K, CA, CB (R162). -/
def slotWords (k : Nat) : Nat := if k = 0 || k = 4 then 1 else 2

/-- The words that the present slots take (R162). -/
def presWords (p : BitVec 7) : Nat :=
  ((List.range 7).map fun k => if p.getLsbD k then slotWords k else 0).sum

/-- One slot's words, low half first (R162), decoded. -/
def decodeSlot (k : Nat) (lo hi : BitVec 32) : Except DecodeErr Instr :=
  match k with
  | 0 => decodeS lo
  | 1 => decodeV .va (hi ++ lo)
  | 2 => decodeV .vb (hi ++ lo)
  | 3 => decodeM (hi ++ lo)
  | 4 => decodeK lo
  | 5 => decodeC .ca (hi ++ lo)
  | _ => decodeC .cb (hi ++ lo)

/-- The opcode of one slot's words is assigned (check 5 of R189). -/
def slotAssigned (k : Nat) (lo hi : BitVec 32) : Bool :=
  let r := match k with
    | 0 => sOp lo
    | 1 => vOp .va (hi ++ lo)
    | 2 => vOp .vb (hi ++ lo)
    | 3 => mOp (hi ++ lo)
    | 4 => kOp lo
    | 5 => cOp .ca (hi ++ lo)
    | _ => cOp .cb (hi ++ lo)
  match r with
  | .error .unassigned => false
  | _ => true

/-- The words of the present slots, in slot order: slot number, low word, high word (R162). -/
def splitSlots (pres : BitVec 7) : List Nat → List (BitVec 32) → List (Nat × BitVec 32 × BitVec 32)
  | [], _ => []
  | k :: ks, ws =>
    if pres.getLsbD k then
      if slotWords k = 1 then (k, ws.headD 0#32, 0#32) :: splitSlots pres ks (ws.drop 1)
      else (k, ws.headD 0#32, (ws.drop 1).headD 0#32) :: splitSlots pres ks (ws.drop 2)
    else splitSlots pres ks ws

/-! The encoder. -/

/-- The S word of form RR. -/
def ofRR (op : BitVec 7) (f : SRR) : BitVec 32 := op ++ f.g.pg ++ BitVec.ofBool f.g.pn ++ f.d ++ f.a ++ f.b ++ f.fn
/-- The S word of form RI. -/
def ofRI (op : BitVec 7) (f : SRI) : BitVec 32 := op ++ f.g.pg ++ BitVec.ofBool f.g.pn ++ f.d ++ f.a ++ f.imm
/-- The S word of form I16. -/
def ofI16 (op : BitVec 7) (f : SI16) : BitVec 32 := op ++ f.g.pg ++ BitVec.ofBool f.g.pn ++ f.d ++ f.imm
/-- The S word of form D21. -/
def ofD21 (op : BitVec 7) (f : SD21) : BitVec 32 := op ++ f.g.pg ++ BitVec.ofBool f.g.pn ++ f.disp
/-- The S word of form C12. -/
def ofC12 (op : BitVec 7) (f : SC12) : BitVec 32 := op ++ f.g.pg ++ BitVec.ofBool f.g.pn ++ f.d ++ f.z ++ f.csr
/-- The S word with no operand field. -/
def ofBare (op : BitVec 7) (g : Guard) : BitVec 32 := op ++ g.pg ++ BitVec.ofBool g.pn ++ 0#21
/-- The word of a vector operation. -/
def ofVF (op : BitVec 8) (f : VF) : BitVec 64 :=
  op ++ f.g.pg ++ BitVec.ofBool f.g.pn ++ f.width ++ f.fmt ++ f.fmt2 ++ f.rm ++ f.mask ++ f.d ++ f.a ++ f.b ++ f.c
    ++ f.hsub ++ f.head ++ f.imm
/-- The word of an M operation. -/
def ofMF (op : BitVec 6) (f : MF) : BitVec 64 :=
  op ++ f.g.pg ++ BitVec.ofBool f.g.pn ++ f.fa ++ f.fb ++ f.bank ++ f.ia ++ f.ib ++ f.kc ++ f.sel ++ f.ext
/-- The word of a K operation. -/
def ofKF (op : BitVec 5) (f : KF) : BitVec 32 := op ++ f.g.pg ++ BitVec.ofBool f.g.pn ++ f.dst ++ f.src ++ f.imm
/-- The word of a C operation. -/
def ofCF (op : BitVec 6) (f : CF) : BitVec 64 :=
  op ++ f.g.pg ++ BitVec.ofBool f.g.pn ++ f.desc ++ f.iter ++ f.chan ++ f.opnds

/-- An instruction's bits as the opcode table numbers them: 32, 64 or 512 of them; an event has none. -/
inductive Code where
  | none
  | w32 (w : BitVec 32)
  | w64 (w : BitVec 64)
  | w512 (w : BitVec 512)
  deriving DecidableEq, Repr

/-- The words of an instruction (R178 to R188, R99). -/
def encode (i : Instr) : Code :=
  match i with
  | .nop => .w32 0#32
  | .add f => .w32 (ofRR 0x01#7 f)
  | .sub f => .w32 (ofRR 0x02#7 f)
  | .mul f => .w32 (ofRR 0x03#7 f)
  | .mulh f => .w32 (ofRR 0x04#7 f)
  | .mulhn f => .w32 (ofRR 0x05#7 f)
  | .div f => .w32 (ofRR 0x06#7 f)
  | .divn f => .w32 (ofRR 0x07#7 f)
  | .mod f => .w32 (ofRR 0x08#7 f)
  | .modn f => .w32 (ofRR 0x09#7 f)
  | .and f => .w32 (ofRR 0x0A#7 f)
  | .or f => .w32 (ofRR 0x0B#7 f)
  | .xor f => .w32 (ofRR 0x0C#7 f)
  | .shl f => .w32 (ofRR 0x0D#7 f)
  | .shr f => .w32 (ofRR 0x0E#7 f)
  | .sra f => .w32 (ofRR 0x0F#7 f)
  | .min f => .w32 (ofRR 0x10#7 f)
  | .max f => .w32 (ofRR 0x11#7 f)
  | .minn f => .w32 (ofRR 0x12#7 f)
  | .maxn f => .w32 (ofRR 0x13#7 f)
  | .clz f => .w32 (ofRR 0x14#7 f)
  | .popc f => .w32 (ofRR 0x15#7 f)
  | .sext f => .w32 (ofRR 0x16#7 f)
  | .zext f => .w32 (ofRR 0x17#7 f)
  | .addi f => .w32 (ofRI 0x18#7 f)
  | .andi f => .w32 (ofRI 0x19#7 f)
  | .ori f => .w32 (ofRI 0x1A#7 f)
  | .xori f => .w32 (ofRI 0x1B#7 f)
  | .shli f => .w32 (ofRI 0x1C#7 f)
  | .shri f => .w32 (ofRI 0x1D#7 f)
  | .srai f => .w32 (ofRI 0x1E#7 f)
  | .li f => .w32 (ofI16 0x1F#7 f)
  | .lih16 f => .w32 (ofI16 0x20#7 f)
  | .lih32 f => .w32 (ofI16 0x21#7 f)
  | .lih48 f => .w32 (ofI16 0x22#7 f)
  | .cmp f => .w32 (ofRR 0x24#7 f)
  | .cmpi f => .w32 (ofRI 0x25#7 f)
  | .pand f => .w32 (ofRR 0x26#7 f)
  | .por f => .w32 (ofRR 0x27#7 f)
  | .pxor f => .w32 (ofRR 0x28#7 f)
  | .sel f => .w32 (ofRR 0x29#7 f)
  | .pmov f => .w32 (ofRR 0x2A#7 f)
  | .pmovToS f => .w32 (ofRR 0x2A#7 f)
  | .pmovFromS f => .w32 (ofRR 0x2A#7 f)
  | .br f => .w32 (ofD21 0x30#7 f)
  | .jmp f => .w32 (ofRR 0x31#7 f)
  | .call f => .w32 (ofD21 0x32#7 f)
  | .ret g => .w32 (ofBare 0x33#7 g)
  | .loop f => .w32 (ofD21 0x34#7 f)
  | .rbset f => .w32 (ofRI 0x35#7 f)
  | .exit g => .w32 (ofBare 0x36#7 g)
  | .yield g => .w32 (ofBare 0x37#7 g)
  | .ldl f => .w32 (ofRR 0x40#7 f)
  | .stl f => .w32 (ofRR 0x41#7 f)
  | .ldm f => .w32 (ofRR 0x42#7 f)
  | .stm f => .w32 (ofRR 0x43#7 f)
  | .amo f => .w32 (ofRR 0x44#7 f)
  | .sacc f => .w32 (ofRR 0x45#7 f)
  | .sapp f => .w32 (ofRR 0x46#7 f)
  | .hld f => .w32 (ofRR 0x50#7 f)
  | .hview f => .w32 (ofRR 0x51#7 f)
  | .rcast f => .w32 (ofRR 0x52#7 f)
  | .hold f => .w32 (ofRR 0x53#7 f)
  | .rels f => .w32 (ofRR 0x54#7 f)
  | .hgen f => .w32 (ofRR 0x55#7 f)
  | .taglk f => .w32 (ofRR 0x58#7 f)
  | .tagset f => .w32 (ofRR 0x59#7 f)
  | .tagclr f => .w32 (ofRR 0x5A#7 f)
  | .tagclrK f => .w32 (ofRR 0x5A#7 f)
  | .xsv f => .w32 (ofRR 0x5C#7 f)
  | .xvs f => .w32 (ofRR 0x5D#7 f)
  | .itset f => .w32 (ofRR 0x5E#7 f)
  | .itget f => .w32 (ofRR 0x5F#7 f)
  | .gjoin f => .w32 (ofRR 0x60#7 f)
  | .gleave f => .w32 (ofRR 0x61#7 f)
  | .sync f => .w32 (ofRR 0x62#7 f)
  | .fuse f => .w32 (ofRR 0x63#7 f)
  | .decpl f => .w32 (ofRR 0x64#7 f)
  | .rejoin g => .w32 (ofBare 0x65#7 g)
  | .wstep f => .w32 (ofRR 0x66#7 f)
  | .evadd f => .w32 (ofRR 0x68#7 f)
  | .evarm f => .w32 (ofRR 0x69#7 f)
  | .evarmDis f => .w32 (ofRR 0x69#7 f)
  | .evwait f => .w32 (ofRR 0x6A#7 f)
  | .evrd f => .w32 (ofRR 0x6B#7 f)
  | .fence f => .w32 (ofRR 0x6C#7 f)
  | .xfence f => .w32 (ofRR 0x6D#7 f)
  | .tis f => .w32 (ofRR 0x70#7 f)
  | .tiwait f => .w32 (ofRR 0x71#7 f)
  | .csrr f => .w32 (ofC12 0x78#7 f)
  | .csrw f => .w32 (ofC12 0x79#7 f)
  | .trap f => .w32 (ofI16 0x7A#7 f)
  | .eret f => .w32 (ofRR 0x7B#7 f)
  | .brk f => .w32 (ofI16 0x7C#7 f)
  | .vnop _ => .w64 0#64
  | .vadd _ f => .w64 (ofVF 0x01#8 f)
  | .vsub _ f => .w64 (ofVF 0x02#8 f)
  | .vmul _ f => .w64 (ofVF 0x03#8 f)
  | .vfma _ f => .w64 (ofVF 0x04#8 f)
  | .vfms _ f => .w64 (ofVF 0x05#8 f)
  | .vfnma _ f => .w64 (ofVF 0x06#8 f)
  | .vmin _ f => .w64 (ofVF 0x07#8 f)
  | .vmax _ f => .w64 (ofVF 0x08#8 f)
  | .vabs _ f => .w64 (ofVF 0x09#8 f)
  | .vneg _ f => .w64 (ofVF 0x0A#8 f)
  | .vdiv _ f => .w64 (ofVF 0x0B#8 f)
  | .vmulh _ f => .w64 (ofVF 0x0C#8 f)
  | .vsadd _ f => .w64 (ofVF 0x0D#8 f)
  | .vssub _ f => .w64 (ofVF 0x0E#8 f)
  | .vand _ f => .w64 (ofVF 0x10#8 f)
  | .vor _ f => .w64 (ofVF 0x11#8 f)
  | .vxor _ f => .w64 (ofVF 0x12#8 f)
  | .vnot _ f => .w64 (ofVF 0x13#8 f)
  | .vshl _ f => .w64 (ofVF 0x14#8 f)
  | .vshr _ f => .w64 (ofVF 0x15#8 f)
  | .vsra _ f => .w64 (ofVF 0x16#8 f)
  | .vpopc _ f => .w64 (ofVF 0x17#8 f)
  | .vclz _ f => .w64 (ofVF 0x18#8 f)
  | .vcmp _ f => .w64 (ofVF 0x20#8 f)
  | .vsel _ f => .w64 (ofVF 0x21#8 f)
  | .vmand _ f => .w64 (ofVF 0x22#8 f)
  | .vmor _ f => .w64 (ofVF 0x23#8 f)
  | .vmxor _ f => .w64 (ofVF 0x24#8 f)
  | .vmnot _ f => .w64 (ofVF 0x25#8 f)
  | .vmcnt _ f => .w64 (ofVF 0x26#8 f)
  | .vcvt _ f => .w64 (ofVF 0x30#8 f)
  | .vqnt _ f => .w64 (ofVF 0x31#8 f)
  | .vdqn _ f => .w64 (ofVF 0x32#8 f)
  | .vcbx _ f => .w64 (ofVF 0x33#8 f)
  | .vcbq _ f => .w64 (ofVF 0x34#8 f)
  | .vamax _ f => .w64 (ofVF 0x35#8 f)
  | .vmov _ f => .w64 (ofVF 0x40#8 f)
  | .vbcst _ f => .w64 (ofVF 0x41#8 f)
  | .vperm _ f => .w64 (ofVF 0x42#8 f)
  | .vshfl _ f => .w64 (ofVF 0x43#8 f)
  | .viota _ f => .w64 (ofVF 0x44#8 f)
  | .vcmps _ f => .w64 (ofVF 0x45#8 f)
  | .vexpd _ f => .w64 (ofVF 0x46#8 f)
  | .vxv _ f => .w64 (ofVF 0x47#8 f)
  | .vred _ f => .w64 (ofVF 0x50#8 f)
  | .vscan _ f => .w64 (ofVF 0x51#8 f)
  | .vdot _ f => .w64 (ofVF 0x52#8 f)
  | .vexp2 _ f => .w64 (ofVF 0x60#8 f)
  | .vlog2 _ f => .w64 (ofVF 0x61#8 f)
  | .vrcp _ f => .w64 (ofVF 0x62#8 f)
  | .vrsq _ f => .w64 (ofVF 0x63#8 f)
  | .vsqrt _ f => .w64 (ofVF 0x64#8 f)
  | .vsinpi _ f => .w64 (ofVF 0x65#8 f)
  | .vcospi _ f => .w64 (ofVF 0x66#8 f)
  | .vtanh _ f => .w64 (ofVF 0x67#8 f)
  | .vsigm _ f => .w64 (ofVF 0x68#8 f)
  | .vld _ f => .w64 (ofVF 0x70#8 f)
  | .vst _ f => .w64 (ofVF 0x71#8 f)
  | .vgth _ f => .w64 (ofVF 0x72#8 f)
  | .vsct _ f => .w64 (ofVF 0x73#8 f)
  | .vacc _ f => .w64 (ofVF 0x74#8 f)
  | .vamo _ f => .w64 (ofVF 0x75#8 f)
  | .vapp _ f => .w64 (ofVF 0x76#8 f)
  | .mnop => .w64 0#64
  | .mma f => .w64 (ofMF 0x01#6 f)
  | .mmag f => .w64 (ofMF 0x02#6 f)
  | .mmas f => .w64 (ofMF 0x03#6 f)
  | .mgth f => .w64 (ofMF 0x04#6 f)
  | .aclr f => .w64 (ofMF 0x05#6 f)
  | .aspl f => .w64 (ofMF 0x06#6 f)
  | .afil f => .w64 (ofMF 0x07#6 f)
  | .asw f => .w64 (ofMF 0x08#6 f)
  | .mdrn f => .w64 (ofMF 0x09#6 f)
  | .prja f => .w64 (ofMF 0x0A#6 f)
  | .mwait f => .w64 (ofMF 0x0B#6 f)
  | .knop => .w32 0#32
  | .klds f => .w32 (ofKF 0x01#5 f)
  | .ksts f => .w32 (ofKF 0x02#5 f)
  | .kldc f => .w32 (ofKF 0x03#5 f)
  | .kmov f => .w32 (ofKF 0x04#5 f)
  | .kauto f => .w32 (ofKF 0x05#5 f)
  | .kufc f => .w32 (ofKF 0x07#5 f)
  | .itlvl f => .w32 (ofKF 0x08#5 f)
  | .itrst f => .w32 (ofKF 0x09#5 f)
  | .itrev f => .w32 (ofKF 0x0A#5 f)
  | .itstep f => .w32 (ofKF 0x0B#5 f)
  | .kseed f => .w32 (ofKF 0x0C#5 f)
  | .cnop _ => .w64 0#64
  | .copy _ f => .w64 (ofCF 0x01#6 f)
  | .cprf _ f => .w64 (ofCF 0x02#6 f)
  | .cwb _ f => .w64 (ofCF 0x03#6 f)
  | .sbind _ f => .w64 (ofCF 0x04#6 f)
  | .sadv _ f => .w64 (ofCF 0x05#6 f)
  | .swtf _ f => .w64 (ofCF 0x06#6 f)
  | .swte _ f => .w64 (ofCF 0x07#6 f)
  | .mcast _ f => .w64 (ofCF 0x08#6 f)
  | .csend _ f => .w64 (ofCF 0x09#6 f)
  | .crecv _ f => .w64 (ofCF 0x0A#6 f)
  | .chks _ f => .w64 (ofCF 0x0B#6 f)
  | .cwait _ f => .w64 (ofCF 0x0C#6 f)
  | .carm _ f => .w64 (ofCF 0x0D#6 f)
  | .cstat _ f => .w64 (ofCF 0x0E#6 f)
  | .sclose _ f => .w64 (ofCF 0x0F#6 f)
  | .cdesc _ f => .w64 (ofCF 0x10#6 f)
  | .tnop t => .w512 (bitsOfTile t)
  | .tmm t => .w512 (bitsOfTile t)
  | .tmmg t => .w512 (bitsOfTile t)
  | .tconv t => .w512 (bitsOfTile t)
  | .tmap t => .w512 (bitsOfTile t)
  | .tred t => .w512 (bitsOfTile t)
  | .tscan t => .w512 (bitsOfTile t)
  | .tcopy t => .w512 (bitsOfTile t)
  | .tcast t => .w512 (bitsOfTile t)
  | .tprj t => .w512 (bitsOfTile t)
  | .tprja t => .w512 (bitsOfTile t)
  | .tcol t => .w512 (bitsOfTile t)
  | .tfill t => .w512 (bitsOfTile t)
  | .tevt t => .w512 (bitsOfTile t)
  | .twait t => .w512 (bitsOfTile t)
  | .tchk t => .w512 (bitsOfTile t)
  | .tstep t => .w512 (bitsOfTile t)
  | .issueBundle _ => .none
  | .moduleResetBoot => .none
  | .dieFatalFault _ => .none
  | .dieSwitchInComplete _ => .none
  | .powerLimitExceeded => .none
  | .powerLimitRecovered => .none
  | .detClockChangeBoundary => .none
  | .thermalTrip _ => .none
  | .thermalDieFatal _ => .none
  | .setPowerLimit _ => .none
  | .dieIdleEntry _ => .none
  | .dataError _ _ => .none
  | .sqtailWrite _ _ _ => .none
  | .cqheadWrite _ _ _ => .none
  | .ovrClear _ _ _ => .none
  | .contextCreate _ => .none
  | .contextUpdate _ => .none
  | .contextDestroy _ => .none
  | .partitionWrite _ _ => .none
  | .xinvWrite _ => .none
  | .xinvDone => .none
  | .preemptSoftRequest _ _ => .none
  | .preemptHardRequest _ _ => .none
  | .cxsaveWrite _ _ => .none
  | .readbackCore _ => .none
  | .readbackCluster _ => .none
  | .readbackScheduler _ => .none
  | .readbackEvent _ => .none
  | .readbackCertChain _ => .none
  | .readbackAttestation _ => .none
  | .readbackDone => .none
  | .debugModeWrite _ _ => .none
  | .debugHalt _ => .none
  | .debugResume _ => .none
  | .owndigWrite _ _ _ => .none
  | .mgmtRegisterWrite _ _ => .none
  | .hostApply _ => .none
  | .hostRead _ _ => .none
  | .fetchEntry => .none
  | .handOutPiece _ _ _ => .none
  | .agingTick _ _ _ => .none
  | .steal _ => .none
  | .gangAdmit _ => .none
  | .taskStart _ => .none
  | .bankSpill _ _ => .none
  | .taskRetire _ => .none
  | .pieceRetireMerge _ => .none
  | .tileRetire _ => .none
  | .completionRecordWrite _ _ => .none
  | .faultRecordReceive _ => .none
  | .stallRelease _ => .none
  | .watchdogExpiry _ => .none
  | .preemptDeadlineExpiry _ => .none
  | .hardPreemptFreeze _ => .none
  | .freezeRecordSave _ => .none
  | .frozenTaskResume _ => .none
  | .arrayOpStart _ => .none
  | .arrayOpComplete _ => .none
  | .mwinModeTakeEffect _ => .none
  | .l0TileStart _ => .none
  | .l0TileRetire _ => .none
  | .storeApply _ _ => .none
  | .loadPerform _ _ => .none
  | .accCombine _ => .none
  | .pipeDeliver _ _ => .none
  | .threadLineAccess _ _ _ => .none
  | .asyncMerge _ => .none
  | .engineOpComplete _ _ => .none
  | .pageWalkComplete _ _ _ => .none
  | .faultServiceResolve _ => .none
  | .faultResolvedRetry _ => .none
  | .recastArrival _ => .none
  | .recastComplete _ => .none
  | .eventIncrement _ => .none
  | .eventChainApply => .none
  | .syncRelease _ _ _ => .none
  | .rejoinRelease _ => .none
  | .geyserTick => .none
  | .geyserAlignMessage _ => .none
  | .noProgressTimeout _ _ => .none
  | .recoveryWindowEnd _ => .none
  | .headerFlit _ _ => .none
  | .payloadFlit _ _ => .none
  | .acknowledge _ _ => .none
  | .retryRequest _ _ => .none
  | .idle _ _ => .none
  | .flitCrcFail _ _ => .none
  | .portFailure _ => .none
  | .channelTileArrive _ => .none
  | .channelTileDeliver _ => .none
  | .scratchpadTileReady _ => .none
  | .fabricGroupConfigure _ _ _ => .none
  | .fixedLatencyPacketRelease _ => .none

/-- The first decoding that accepts. -/
def firstOk : List (Except DecodeErr Instr) → Option Instr
  | [] => none
  | .ok i :: _ => some i
  | .error _ :: rest => firstOk rest

/-- The instruction that the decoder reads from bits numbered as spec/opcode_table.json numbers them. A word of 32 bits
is read as an S word, and as a K word where the S slot rejects it; a word of 64 bits as VA, then M, then CA; 512
bits are a tile instruction (log entry 10). -/
def decodeTableWord (nbits w : Nat) : Option Instr :=
  if nbits ≤ 32 then firstOk [decodeS (BitVec.ofNat 32 w), decodeK (BitVec.ofNat 32 w)]
  else if nbits ≤ 64 then
    firstOk [decodeV .va (BitVec.ofNat 64 w), decodeM (BitVec.ofNat 64 w), decodeC .ca (BitVec.ofNat 64 w)]
  else decodeTile (tileOfBits (BitVec.ofNat 512 w))

end Sys2Proof
end

