-- ==== Sys2Proof/Machine/State.lean ====
section
/-!
DEFINITION. The state of the module, all of it plain data, and the state after module reset.

Collections whose index space is large (memory, scratchpads, bank words, tags, cores, clusters, contexts) are sparse:
a list of pairs with strictly rising keys. Those of bytes and words list no entry equal to what an unlisted key
reads as.
-/
namespace Sys2Proof.Machine

/-- A sparse collection: keys strictly rising. -/
abbrev Sparse (α : Type) := List (Nat × α)

/-! ## Core -/

/-- One level of an iterator (R170): a count of 0 stands for 65,536. -/
structure ItLevel where
  count : BitVec 16
  stride : BitVec 32
  idx : BitVec 16
  deriving DecidableEq, Repr

/-- An iterator (R170), l0 innermost. -/
structure Iter where
  base : BitVec 56
  l0 : ItLevel
  l1 : ItLevel
  l2 : ItLevel
  l3 : ItLevel
  deriving DecidableEq, Repr

/-- The register files in the codes of `WCOLL.FILE` (R195). -/
inductive RegFile where
  | s | p | va | vb | ma | mb | k | kb | ea | eb
  deriving DecidableEq, Repr

/-- The key of a tag entry (R216): context, descriptor index and generation of the handle, VA[54:12]. -/
structure TagKey where
  ctx : Nat
  index : Nat
  gen : Nat
  page : Nat
  deriving DecidableEq, Repr

/-- What a result lands on. -/
inductive Dest where
  /-- a physical register of a file (R195) -/
  | reg (file : RegFile) (n : Nat)
  /-- a CSRW (R221) -/
  | csr (index : Nat)
  /-- the counts of VQNT (R238): added to `CNT`, and the new `LAST` -/
  | ufc (n add : Nat) (last : Nat)
  /-- KUFC (R280) -/
  | kufc (n : Nat) (clearCnt clearLast : Bool)
  /-- KSEED (R280) -/
  | seed
  /-- RBSET (R203) -/
  | rbase
  /-- ASW (R272) -/
  | swap
  /-- TAGSET and TAGCLR (R216): the entry of a slot -/
  | tag (slot : Nat) (key : Option TagKey)
  /-- TAGCLR.k (R216) -/
  | tagKey (key : TagKey)
  /-- CARM (R326) -/
  | barrier (b : Nat) (set : Bool)
  deriving DecidableEq, Repr

/-- A result in flight (R175, R405): it lands at issue count `due`, or when its data arrives. `mask` marks the bits
written, `gran` the bits that one bit of the element mask of a replay entry governs. -/
structure Flight where
  id : Nat
  due : Option Nat
  slot : Nat
  dst : Dest
  mask : Nat
  val : Nat
  flags : Nat
  gran : Nat
  left : Nat
  deriving DecidableEq, Repr

/-- Where a head's entries come from (R319). -/
inductive HeadSrc where
  | software | str | copy | channel
  deriving DecidableEq, Repr

/-- An allocation of head entries to a filling operation (R316, R320): the engine operation, its first entry (modulo
2^32), how many, and which of them are written. -/
structure HeadAlloc where
  op : Nat
  first : Nat
  count : Nat
  written : List Nat
  deriving DecidableEq, Repr

/-- A stream head (R318, R319, R329). -/
structure Head where
  bound : Bool
  base : Nat
  nent : Nat
  ew : Nat
  src : HeadSrc
  srcv : BitVec 64
  pptr : BitVec 32
  cptr : BitVec 32
  tailb : Nat
  allocs : List HeadAlloc
  deriving DecidableEq, Repr

/-- The gather latch (R271): rows of up to 256 bytes as numbers. -/
structure Latch where
  valid : Bool
  fmt : Nat
  kc : Nat
  rows : List Nat
  deriving DecidableEq, Repr

/-- A code region (R160): `len` bytes from `base`. -/
structure Region where
  base : Nat
  len : Nat
  deriving DecidableEq, Repr

/-- The task that a core runs (R115, R222). `firmware` marks a Qorzia-signed kernel of a built-in opcode, whose code the
spec does not give (R160; log entry 13). -/
structure Task where
  ctx : Nat
  tiid : BitVec 32
  number : BitVec 32
  level : Nat
  pieceNo : BitVec 32
  piece : Nat
  det : Bool
  car : Bool
  code : Region
  kernel : BitVec 64
  gang : Option Nat
  firmware : Bool
  /-- IMM write-collapse as the context enabled it when the task started (R98, R141) -/
  iwcol : Bool
  /-- an INT32 accumulation of it has wrapped (R57, R428) -/
  iovf : Bool
  deriving DecidableEq, Repr

/-- What a core is doing. -/
inductive CoreMode where
  /-- no running task -/
  | free
  /-- issuing the task's bundles -/
  | running
  /-- in handler state (R407) -/
  | handler
  /-- after ERET, until the handler's results have landed (R409); `skip` as ERET.skip gives -/
  | returning (skip : Bool)
  /-- after EXIT, until its waits end (R204) -/
  | exiting
  /-- frozen while the fault service acts (R98) -/
  | service
  /-- frozen because another member of its gang trapped (R361) -/
  | gangFrozen
  /-- frozen by pre-emption, its record not yet saved (R414) -/
  | frozen
  /-- halted by debug (R436) -/
  | halted
  deriving DecidableEq, Repr

/-- What a handler shadows of its task (R407). -/
structure Shadow where
  held : List Instr
  s : List (BitVec 64)
  p : List Bool
  rbase : Nat
  loopcnt : BitVec 64
  loopend : BitVec 64
  aflags : BitVec 6
  wcoll : BitVec 64
  issueCount : Nat
  /-- the recorded REPIDX of the task (R407) -/
  repidx : Nat
  /-- the issue that ERET.skip gates has not taken place (R409) -/
  skipS : Bool
  deriving DecidableEq, Repr

/-- What a stalled operation asked of a home slice, and the answer (R82, R346). -/
inductive Answer where
  /-- the recast was accepted (R82) -/
  | accepted
  /-- the recast was refused with this TCAUSE, and TADDR for a translation fault -/
  | refused (cause addr : Nat)
  deriving DecidableEq, Repr

/-- A trap of one repetition (R400): TCAUSE, TADDR, TDETAIL; `store` marks a plain store's write protection and
`fetch` a fault of the fetch, which the fault service treats under R98 before it becomes a fetch fault (R160). -/
structure Trap where
  cause : Nat
  addr : Nat
  detail : Nat
  store : Bool
  fetch : Bool
  deriving DecidableEq, Repr

/-- What the end of a bundle does to the path of a fused gang: the transfer that the lead took, its EXIT, and its freeze at a
safe point (R358, R361). -/
structure Follow where
  target : Option (BitVec 64)
  exit : Bool
  freeze : Bool
  deriving DecidableEq, Repr

/-- A translated VLD or VGTH that waits for its data (R253): its slot, the loads still out, where its elements stand, and the
bytes so far. -/
structure VWait where
  slot : Nat
  out : Nat
  places : List (Nat × Nat)
  data : List (Nat × Nat)
  deriving DecidableEq, Repr

/-- A descriptor as it was read at acceptance (R70), with its role map (R441) and whether the handle names a retained
generation (R79). -/
structure Operand where
  handle : BitVec 64
  desc : BitVec 512
  roles : List Nat
  retained : Bool
  /-- the owners of its OWN regions: kind and unit (R72, R127) -/
  owns : List (Nat × Nat)
  deriving DecidableEq, Repr

/-- The progress of a tile instruction (R136, R427). -/
inductive TileState where
  | queued | running | failed | recasting | done
  deriving DecidableEq, Repr

/-- A tile instruction that the package has accepted. -/
structure TileInst where
  id : Nat
  ctx : Nat
  qp : Nat
  sqidx : BitVec 32
  tile : Tile
  pri : Nat
  pool : Nat
  a : Option Operand
  b : Option Operand
  c : Option Operand
  d : Option Operand
  state : TileState
  flags : BitVec 6
  iovf : Bool
  retries : Nat
  subst : Bool
  xcnt : Nat
  xrec : Bool
  /-- class, cause and fault ring index of the failure (R428) -/
  failClass : Nat
  failCause : Nat
  failIdx : Nat
  /-- reader counts that acceptance took (R77) -/
  counts : List (Nat × Nat)
  /-- the fault policy and the aging interval in effect at acceptance (R135, R153, R141) -/
  fpol : Nat
  ageus : Nat
  /-- signalled and waiting for its completion record (R130) -/
  signalled : Bool
  /-- the OWN bytes that its kernel has loaded and stored so far (R131) -/
  loaded : List Nat
  stored : List Nat
  deriving DecidableEq, Repr

/-- One level-0 instruction of a core (R219): status is R220's; `inst` holds its words and operands. -/
structure L0Inst where
  ticket : Nat
  inst : TileInst
  started : Bool
  done : Bool
  status : BitVec 64
  /-- the physical bank that it holds while it runs -/
  bank : Nat
  /-- the M-slot operations queued before it that have not completed -/
  after : List Nat
  deriving DecidableEq, Repr

/-- An operation in an array queue (R263) with the operand values that it took at issue (R264): walk addresses, the k
and kb files, the bank's edge mask, the physical VA registers of a drain, the target descriptor and handle. -/
structure ArrayOp where
  id : Nat
  op : Instr
  bank : Nat
  walkA : List Nat
  walkB : List Nat
  walkC : List Nat
  ks : List (BitVec 256)
  kbs : List (BitVec 256)
  mr : Nat
  mc : Nat
  vaDst : List Nat
  desc : BitVec 512
  /-- entries of the store queue that it filled: row, column, identity of the entry (R336) -/
  outs : List (Nat × Nat × Nat)
  /-- lines of an image that have arrived: number and 64 bytes; and how many have not -/
  data : List (Nat × Nat)
  out : Nat
  started : Bool
  /-- the scratchpad reads that it has made, by their number, with the bytes read, and the writes that it has made (R279) -/
  seen : List (Nat × Nat)
  wrote : List Nat
  /-- the acknowledgements of its entries are awaited (R277), and the flags that return with its completion (R264) -/
  drained : Bool
  flags : Nat
  byHandler : Bool
  deriving DecidableEq, Repr

/-! ## The ordering machine (R335 to R343) -/

/-- The unit to which a returned value goes: a result in flight, and the place of the value in it. -/
structure Ret where
  flight : Nat
  lo : Nat
  width : Nat
  deriving DecidableEq, Repr

/-- An ACC add (R211, R250): holding address, target declaration, value in its format; `staged` names the piece whose
staging holds it (R128). -/
structure AccAdd where
  ctx : Nat
  index : Nat
  gen : Nat
  addr : Nat
  comb : Nat
  fmt : Nat
  elo : Int
  vfmt : Nat
  value : Nat
  staged : Option Nat
  /-- the array operation that it belongs to (R276) -/
  array : Option Nat
  /-- the handler of the core issued it: its flags return to the handler's AFLAGS (R407) -/
  byHandler : Bool
  deriving DecidableEq, Repr

/-- What an entry of a store queue does when it applies (R337). `bits` are (address, mask, value) of bytes. -/
inductive SqKind where
  | store (bits : List (Nat × BitVec 8 × BitVec 8))
  /-- operation of R209 (0 to 9) on `bytes` bytes -/
  | amo (op addr bytes : Nat) (x cmp : Nat) (ret : Option Ret)
  /-- operation of R251 with its format, rounding mode and random bits -/
  | vamo (op addr fmt rm rnd : Nat) (x : Nat) (ret : Option Ret)
  | acc (a : AccAdd)
  /-- an append (R212): tensor key, and the bytes of its element where they translated at issue (R336) -/
  | append (ctx index gen : Nat) (bits : List (Nat × BitVec 8 × BitVec 8))
  deriving DecidableEq, Repr

/-- The line on which an entry stands (R336): a memory line, or the tensor of an append. -/
inductive LineKey where
  | mem (line : Nat)
  | tensor (ctx index gen : Nat)
  deriving DecidableEq, Repr

/-- An entry of SQ(core). -/
structure SqEntry where
  id : Nat
  line : LineKey
  kind : SqKind
  /-- the array operation whose completion gives its value (R276, R336) -/
  wait : Option Nat
  /-- the handler of the core issued it, or, without a handler, a task that has failed: its flags return to no task -/
  byHandler : Bool
  /-- the context of its task, which its core may have left -/
  ctx : Nat
  deriving DecidableEq, Repr

/-- A load in L(core) (R338): bytes at an address, and where they go. -/
inductive LoadDst where
  /-- an LDM result, sign-extended when asked; a probe names the pending result of p7 too (R208) -/
  | flight (f : Nat) (signed : Bool) (p7 : Option Nat)
  /-- a waiting VLD or VGTH element -/
  | vec (slot elem : Nat)
  /-- a line of a bank image of an AFIL (R273) -/
  | array (op line : Nat)
  deriving DecidableEq, Repr

/-- A load that has not performed. -/
structure LoadEntry where
  id : Nat
  addr : Nat
  bytes : Nat
  /-- the bits of each byte that it reads (R348) -/
  mask : Nat
  dst : LoadDst
  /-- the context of its task -/
  ctx : Nat
  deriving DecidableEq, Repr

/-- A core: its registers (R193), its control and status registers (R222), its queues. -/
structure Core where
  s : Vector (BitVec 64) 32
  p : Vector Bool 8
  va : Vector (BitVec 1024) 16
  vb : Vector (BitVec 1024) 16
  ma : Vector (BitVec 64) 8
  mb : Vector (BitVec 64) 8
  k : Vector (BitVec 256) 16
  kb : Vector (BitVec 256) 4
  ea : Vector (BitVec 256) 8
  eb : Vector (BitVec 256) 8
  heads : Vector Head 8
  its : Vector Iter 16
  /-- held operation of each slot, S to CB (R164) -/
  held : Vector Instr 7
  issueCount : Nat
  inflight : List Flight
  /-- the replay buffer (R405): `due` holds the remaining issue cycles -/
  replay : List Flight
  /-- counts of VQNT in flight at the freeze: they land with their results, and hold no replay entry (R169, R238, R405) -/
  kept : List Flight
  latch : Latch
  ticket : Nat
  l0q : List L0Inst
  /-- 1: acc0 is the core's higher-numbered bank (R260) -/
  swap : Bool
  pc : BitVec 64
  mode : CoreMode
  shadow : Option Shadow
  task : Option Task
  /-- code region of the running handler (R407) -/
  handlerCode : Region
  -- CSRs (R222)
  rbase : Nat
  repidx : Nat
  loopcnt : BitVec 64
  loopend : BitVec 64
  tcause : BitVec 64
  tpc : BitVec 64
  taddr : BitVec 64
  tdetail : BitVec 64
  tvec : BitVec 64
  seedkey : BitVec 64
  wcoll : BitVec 64
  aflags : BitVec 6
  spdeadline : BitVec 64
  age : BitVec 64
  ufcnt : Vector (BitVec 64) 4
  soft : Bool
  hard : Bool
  replaycnt : Nat
  /-- tasks started since module reset (R222, TASKID) -/
  started : BitVec 32
  -- waits
  /-- a SYNC assertion that awaits its release: the line (R356) -/
  syncWait : Option Nat
  /-- a REJOIN assertion that awaits its release (R360) -/
  rejoinWait : Bool
  /-- the WSTEP of the present repetition has waited for the count (R363) -/
  stepWait : Bool
  /-- bundle cycles that the member of a fused gang lets pass before its next repetition (R359) -/
  gskew : Nat
  /-- ends of bundles that the lead of its gang has passed and it has not (R358, R359) -/
  follow : List Follow
  /-- the fault that the fault service holds (R98), and whether it has resolved it (R423) -/
  svc : Option Trap
  resolved : Bool
  answer : Option Answer
  /-- an RCAST has been sent to its home slice and not answered (R82) -/
  asked : Bool
  vwaits : List VWait
  /-- the async entries that a stalled XFENCE waits for (R346) -/
  xfence : Option (List Nat)
  /-- the S operation of the next issue is gated off (R224, R436) -/
  skipS : Bool
  /-- the core stalls or waits: the slot of the waiting operation (R402), and the operation (R413) -/
  waiting : Option (Nat × Instr)
  /-- the pre-emption deadline of the soft request has been armed (R412) -/
  deadline : Bool
  /-- a debug halt takes the core at its next boundary (R436) -/
  haltReq : Bool
  -- queues
  sq : List SqEntry
  loads : List LoadEntry
  arrayQ : List ArrayOp
  /-- the core is reserved for a gang window (R157) -/
  reserved : Option Nat
  deriving DecidableEq, Repr

/-! ## Cluster -/

/-- A byte barrier (R324). -/
structure Barrier where
  count : BitVec 48
  below : Bool
  deriving DecidableEq, Repr

/-- A physical accumulator bank (R257 to R263): words keyed 128 m + n, the edge mask, the edge mask as issue sees it
(R264), the frozen context whose contents it holds. -/
structure Bank where
  words : Sparse (BitVec 32)
  mr : Nat
  mc : Nat
  imr : Nat
  imc : Nat
  bovf : Bool
  /-- a level-0 tile instruction or a spill holds it (R263) -/
  held : Bool
  /-- a frozen task of this core and context left its contents here (R414) -/
  resident : Option Nat
  deriving DecidableEq, Repr

/-- What a SYNC or an EXIT whose wait the watchdog may end leaves to undo (R402): the core, the piece of its task, the core
before the repetition issued, the identities `mark` to `upto` that the repetition took, its scratchpad writes and those of its
operations (cluster, offset, byte before, byte after), how far it moved each head's producer and consumer pointers, the bytes of memory
that its accesses have changed (each group put back as one), and the edge masks as issue sees them (R264) before and after it. The core
and its banks as they stood before the first of its array operations completed are kept too. -/
structure AssertAt where
  core : Nat
  piece : Nat
  before : Core
  mark : Nat
  upto : Nat
  sp : List (Nat × Nat × BitVec 8 × BitVec 8)
  moved : List (BitVec 32 × BitVec 32)
  mem : List (List (Nat × BitVec 8 × BitVec 8))
  masks : List (Nat × (Nat × Nat) × (Nat × Nat))
  arrays : Option Core
  banks : List (Nat × Bank)
  deriving DecidableEq, Repr

/-- A page translation as a leaf gives it (R93), with the address of its leaf. -/
structure Xlat where
  base : Nat
  size : Nat
  ppn : Nat
  home : Nat
  role : Nat
  ownk : Nat
  owner : Nat
  repl : Nat
  rset : Nat
  leaf : Nat
  deriving DecidableEq, Repr

/-- A cached translation (R94). -/
structure TlbEntry where
  ctx : Nat
  xlat : Xlat
  deriving DecidableEq, Repr

/-- Where a contiguous run of bytes stands: a scratchpad offset of a cluster, or memory (package and physical address
in one key). -/
inductive Loc where
  | sp (cluster off : Nat)
  | mem (key : Nat)
  deriving DecidableEq, Repr

/-- A run of bytes of an engine operation's stream: stream offset, length, place. -/
structure Span where
  off : Nat
  len : Nat
  loc : Loc
  /-- the bits of each byte that it touches (R348) -/
  mask : Nat
  deriving DecidableEq, Repr

/-- The kinds of engine operation (R312). -/
inductive EngKind where
  | copy | cprf | cwb | mcast | csend | crecv | chks | sclose
  deriving DecidableEq, Repr

/-- A copy-engine operation: a thread with the lines it has still to read and to write (R335, R341). The spans are cut
at line bounds; `readDone` and `writeDone` hold the places of those done in the lists `src` and `dst`. -/
structure EngOp where
  id : Nat
  core : Nat
  ctx : Nat
  kind : EngKind
  len : Nat
  src : List Span
  dst : List Span
  readDone : List Nat
  writeDone : List Nat
  /-- every source byte is read before any write (R316) -/
  whole : Bool
  buf : Sparse (BitVec 8)
  /-- head that it fills (R316, R320) -/
  head : Option Nat
  -- descriptor terms (R308)
  cmpl : Nat
  evidx : Nat
  cwoff : Nat
  ben : Bool
  bar : Nat
  -- per operation
  /-- CPRF and CWB: the slot whose tag entry changes at completion, and its new key (R317) -/
  tag : Option (Nat × Option TagKey)
  /-- CSEND and CRECV: channel, round, endpoint and tile size (R385); tiles that have left or arrived -/
  chan : Nat
  round : Nat
  endpoint : Nat
  tileBytes : Nat
  sent : List Nat
  tiles : List Nat
  /-- CHKS: result offset, `CONT`, descriptor and first element (R328) -/
  result : Nat
  cont : Bool
  desc : BitVec 512
  first : Nat
  /-- CRECV into an ACC tensor: the add of each element of its stream, without its value (R71, R341) -/
  accs : List AccAdd
  /-- SCLOSE: the handle (R323) -/
  handle : BitVec 64
  fail : Option Nat
  written : Nat
  flags : Nat
  byHandler : Bool
  /-- its task has failed: it runs to completion for nobody (R419) -/
  orphan : Bool
  deriving DecidableEq, Repr

/-- A cluster. -/
structure Cluster where
  sp : List Host.Cell
  spCtx : Option Nat
  tags : Sparse TagKey
  barriers : Vector Barrier 8
  engine : List EngOp
  tlb : List TlbEntry
  banks : Vector Bank 4
  mode : Nat
  modePending : Option Nat
  /-- cores that wait for an engine place, the longest-waiting first (R312) -/
  waitEngine : List Nat
  deriving DecidableEq, Repr

/-! ## Tensors, events, groups -/

/-- The state record of a generation at its home slice (R73, R77). -/
structure TensorRec where
  ctx : Nat
  index : Nat
  gen : Nat
  readers : Nat
  /-- the generations that each hold among the readers counted, the oldest hold first (R77) -/
  holds : List (List (Nat × Nat))
  appended : Nat
  /-- appends issued, applied or not (R212) -/
  issued : Nat
  consumed : Nat
  /-- elements fetched into the consumer's head (R73) -/
  fetched : Nat
  producer : Option Nat
  consumer : Option Nat
  /-- SCLOSE has issued (R323) -/
  closing : Bool
  closed : Bool
  deriving DecidableEq, Repr

/-- Who issues a recast: a core (R82), the package scheduler for a tile instruction (R123), or the fault agent (R98). -/
inductive Issuer where
  | core (c : Nat)
  | tile (id : Nat)
  | agent (core : Nat)
  deriving DecidableEq, Repr

/-- The terms of a recast (R123, R215). -/
structure RecastReq where
  by_ : Issuer
  ctx : Nat
  handle : BitVec 64
  param : BitVec 64
  role : BitVec 64
  base : BitVec 64
  event : Nat
  evInc : Nat
  relEvent : Nat
  deriving DecidableEq, Repr

/-- A recast that a home slice has accepted (R83). -/
structure Recast where
  req : RecastReq
  ctx : Nat
  index : Nat
  gen : Nat
  /-- a region that it names is ACC (R83) -/
  group : Bool
  /-- members whose arrival starts the conversion, and those that have arrived (R83) -/
  required : List Nat
  arrived : List Nat
  /-- TCASTs that have arrived (R123) -/
  casts : List Nat
  /-- tile instructions whose tasks completed the required set (R427) -/
  tiles : List Nat
  /-- the descriptor and role map at its acceptance, from which the device forms the line that it leaves (R70) -/
  desc : BitVec 512
  roles : List Nat
  deriving DecidableEq, Repr

/-- An event increment on its way (R349, R365): the entries of `after` must leave the store queue of `core` first. -/
structure EventInc where
  pkg : Nat
  ctx : Nat
  idx : Nat
  inc : Nat
  core : Option Nat
  after : List Nat
  ret : Option Nat
  /-- an EVRD: the word of the entry that it reads, and no increment (R366) -/
  word : Option Nat
  deriving DecidableEq, Repr

/-- A group line of a context, on a die (0 for the package-wide lines) (R353, R356). -/
structure Group where
  ctx : Nat
  line : Nat
  die : Nat
  members : List Nat
  open_ : Bool
  required : List Nat
  asserted : List Nat
  heldAsserts : List Nat
  deriving DecidableEq, Repr

/-- A gang (R358). -/
structure Gang where
  id : Nat
  ctx : Nat
  members : List Nat
  exited : List Nat
  fused : Bool
  step : Nat
  rejoined : List (Nat × BitVec 64)
  /-- the members issue the REJOIN bundles in which they stand, all on one bundle cycle (R163, R360) -/
  joining : Bool
  piece : Nat
  deriving DecidableEq, Repr

/-! ## Launch -/

/-- Where a piece stands: in the queue of its unit (with some children still to hand out), taken back and to be placed
again by its parent (R136, R137), run by a task, failed with its record on the way up, or retired and not yet merged (R128). -/
inductive PieceState where
  | queued | unplaced | running | failed | retired
  deriving DecidableEq, Repr

/-- A piece of a tile instruction at a level (R107, R108): rows and columns of a slab, a chunk of the K axis, or a span
of bytes (R120). -/
structure Piece where
  id : Nat
  tile : Nat
  parent : Nat
  level : Nat
  number : Nat
  row0 : Nat
  rows : Nat
  col0 : Nat
  cols : Nat
  batch : Nat
  chunk : Nat
  /-- the unit that received it: die, quadrant, cluster or core index -/
  unit : Nat
  /-- next child piece to hand out -/
  next : Nat
  state : PieceState
  pri : Nat
  aged : Nat
  seq : Nat
  retries : Nat
  /-- the unit that must take it: a reissued piece goes to the substituted die (R137) -/
  pin : Option Nat
  /-- staged ACC contributions: holding address, declaration, holding value (R128) -/
  staging : List (Nat × AccAdd)
  /-- staged partials of chunks: element number, chunk, accumulator bits (R111), or of spans: 0, first byte, CRC (R120) -/
  partials : List (Nat × Nat × Nat)
  flags : BitVec 6
  iovf : Bool
  deriving DecidableEq, Repr

/-- A fault record on its way up (R132, R136). -/
structure FaultRec where
  level : Nat
  cls : Nat
  cause : Nat
  unit : BitVec 64
  tiid : BitVec 32
  ctx : Nat
  detail : BitVec 64
  baddr : BitVec 64
  retries : Nat
  piece : Nat
  tile : Nat
  deriving DecidableEq, Repr

/-- A completion record that waits for room (R146). -/
structure Cqe where
  ctx : Nat
  qp : Nat
  bits : BitVec 256
  deriving DecidableEq, Repr

/-- A queue pair (R142, R143). -/
structure Qp where
  sqbase : Nat
  cqbase : Nat
  sqlog : Nat
  cqlog : Nat
  pmax : Nat
  en : Bool
  rpart : Bool
  sqtail : BitVec 32
  cqhead : BitVec 32
  sqhead : BitVec 32
  cqtail : BitVec 32
  ovr : Bool
  cqfull : Bool
  deriving DecidableEq, Repr

/-- A context: its management registers (R139, R410, R430, R435) and the fields of the record that create and update
read (R140, R141). -/
structure Ctx where
  cxrec : BitVec 52
  state : Nat
  ecode : Nat
  frcnt : BitVec 32
  frlost : BitVec 32
  /-- every entry of the fault ring has been written (R147) -/
  frfull : Bool
  cxsave : BitVec 52
  hold : Bool
  qmask : BitVec 32
  refused : BitVec 16
  rec_ : BitVec 1024
  trlog : Nat
  dbgmode : Nat
  trdrop : BitVec 16
  trcnt : BitVec 32
  trbase : BitVec 52
  authptr : BitVec 52
  authnonce : BitVec 64
  owndig : Vector (BitVec 64) 8
  deriving DecidableEq, Repr

/-- A task frozen on a core whose record has been saved (R415, R417), with what the record has no place for (log entry
14). -/
structure FrozenTask where
  core : Nat
  task : Task
  /-- the results in flight: their element masks alone stand in the record -/
  replay : List Flight
  /-- counts of VQNT that land with their results (R238) -/
  kept : List Flight
  syncWait : Option Nat
  rejoinWait : Bool
  skipS : Bool
  age : BitVec 64
  l0 : List L0Inst
  /-- the allocations of each head -/
  allocs : List (List HeadAlloc)
  /-- the lines word of its record as it was written (R415) -/
  lines : Nat
  seq : Nat
  deriving DecidableEq, Repr

/-! ## Network -/

/-- What another package does to this one: its fault service keeps its own copy of a page that both hold (R422), or its EVADD or tile
instruction raises a counter here (R130, R365, R366). -/
inductive AwayStep where
  | collapse (ctx va pkg : Nat)
  | increment (ctx idx inc : Nat)
  deriving DecidableEq, Repr

/-- A packet of the fabric (R373, R379). -/
structure Packet where
  src : Nat
  dst : Nat
  cls : Nat
  seq : BitVec 32
  tag : Nat
  payload : List (BitVec 512)
  /-- its time in fixed-latency mode has come (R381) -/
  released : Bool
  deriving DecidableEq, Repr

/-- A fabric port (R11, R379, R380). -/
structure Port where
  failed : Bool
  retry : List Flit
  sent : List Flit
  open_ : List Packet
  /-- the flit from which the port has requested a retry: source, destination, class, sequence number, and its place in its packet
  (R380) -/
  await : Option (Nat × Nat × Nat × Nat × Nat)
  deriving DecidableEq, Repr

/-- Flits queued in a virtual channel of a router, those of one packet (R376, R378). -/
structure Vc where
  router : Nat
  vc : Nat
  flits : List Flit
  deriving DecidableEq, Repr

/-- A tile of a channel (R385, R387): on its way to, or held at, the mailbox of endpoint `to_`, or complete and on its
way to that receiver. `elems` are in the wire form of a partial, the holding form of a wide tile, or `FMT`. -/
structure ChanTile where
  ctx : Nat
  chan : Nat
  round : Nat
  tile : Nat
  /-- endpoint whose contribution it carries, when it carries one alone -/
  origin : Nat
  to_ : Nat
  /-- contributions combined in it -/
  count : Nat
  moving : Bool
  complete : Bool
  /-- entry bits [127:0] and endpoint list that it was sent under (R384) -/
  sig : List Nat
  elems : List Nat
  oor : List Bool
  flags : Nat
  /-- the engine operations whose tile has not left its mailbox hop while this one exists (R390) -/
  senders : List Nat
  deriving DecidableEq, Repr

/-- The tiles of a round of a channel that endpoints on other packages have under way (R386, R387; log entry 15). -/
structure ChanRound where
  ctx : Nat
  chan : Nat
  round : Nat
  tiles : Nat
  deriving DecidableEq, Repr

/-- A completed tile in a scratchpad, whose words the bank controllers count (R389): core, operation, tile place. -/
structure ReadyTile where
  core : Nat
  op : Nat
  tile : Nat
  deriving DecidableEq, Repr

/-- An entry of the async path (R342). -/
structure AsyncEntry where
  id : Nat
  bytes : List Host.Cell
  op : Nat
  core : Option Nat
  ctx : Nat
  /-- the logical die whose operation, or piece, it belongs to (R352) -/
  die : Nat
  deriving DecidableEq, Repr

/-- An entry of the host buffer (R343): bytes of memory, or a management register write. -/
inductive HostWrite where
  | mem (host addr : Nat) (bytes : List (BitVec 8))
  | reg (host off : Nat) (v : BitVec 64)
  deriving DecidableEq, Repr

/-- One entry of the die map (R17) with the power state of the die (R438). -/
structure DieEntry where
  log : Nat
  dstate : Nat
  pstate : Nat
  /-- junction temperature state: tripped (R26) -/
  hot : Bool
  deriving DecidableEq, Repr

/-- What the fuses hold (R434); log entry 7. -/
structure Fuses where
  sec : Nat
  dormant : Nat
  logicals : List Nat
  minVersions : List Nat
  deriving DecidableEq, Repr

/-! ## The module -/

/-- The state of the module. -/
structure State where
  /-- Memory M (R335): key = package × 2^52 + physical address; log entries 1 and 12 -/
  mem : List Host.Cell
  cores : Sparse Core
  clusters : Sparse Cluster
  ctxs : Sparse Ctx
  /-- keyed 64 × context + queue pair -/
  qps : Sparse Qp
  tensors : List TensorRec
  recastReqs : List RecastReq
  recasts : List Recast
  incs : List EventInc
  chains : List EventInc
  groups : List Group
  gangs : List Gang
  /-- add bags B (R339): the issuing core or engine operation's core, and the add -/
  bags : List (Nat × AccAdd)
  async : List AsyncEntry
  hostBuf : List HostWrite
  /-- the bytes that the last host read returned (R343) -/
  hostReply : List (BitVec 8)
  tiles : List TileInst
  pieces : List Piece
  /-- scheduler pointers (R154), keyed 2^16 × level + unit × 32 + pool -/
  pointers : Sparse Nat
  /-- the next queue pair of the round robin (R144) -/
  rr : Nat
  faults : List FaultRec
  cqes : List Cqe
  frozen : List FrozenTask
  /-- SYNC and EXIT repetitions whose waits have not ended (R402) -/
  asserts : List AssertAt
  /-- level-0 images of clusters saved under R416: context and cluster -/
  savedClusters : List (Nat × Nat)
  /-- engine operations stopped and recorded, with their cluster (R416) -/
  stoppedOps : List (Nat × EngOp)
  /-- partition registers: QMASK and BUSY (R148) -/
  parts : Sparse (BitVec 32)
  partBusy : List Nat
  dies : Vector DieEntry 9
  substituted : Bool
  /-- physical dies that await the end of their switch-in (R18) -/
  switching : List Nat
  fuses : Fuses
  booterr : Nat
  bootok : Bool
  sec : Nat
  meas : Vector (BitVec 512) 8
  powerLimit : Nat
  reduced : Bool
  /-- a clock change requested and not yet at its boundary (R25) -/
  clockPending : Option Bool
  xinvBusy : Bool
  xinvEcode : Nat
  xinvScope : Option (BitVec 64)
  netctl : BitVec 64
  reccnt : BitVec 32
  late : BitVec 16
  retryCnt : BitVec 16
  fabsel : BitVec 16
  routes : List Route
  rbsel : BitVec 64
  rbBytes : BitVec 32
  rbEcode : Nat
  rbBusy : Bool
  /-- `BYTES` and `ECODE` of the readback that runs (R431) -/
  rbPend : Option (Nat × Nat)
  pkg : BitVec 16
  /-- packages of the fabric group and the contexts live there (R362, R367) -/
  geyser : BitVec 64
  geyserPending : Option (BitVec 64)
  ports : Vector Port 36
  vcs : List Vc
  /-- packets of which flits have left their router and not yet all (R374) -/
  arriving : List Packet
  /-- flits in the escape channels, by router (R378) -/
  escape : List (Nat × Flit)
  recovering : List Nat
  /-- flit slots that the link of a router has had, modulo 16 (R376) -/
  linkSlots : Sparse Nat
  /-- next sequence number of each flow (R374), keyed by source, destination and class -/
  flows : Sparse Nat
  /-- packets held until their time or their turn (R374, R381) -/
  early : List Packet
  delivered : List Packet
  chanTiles : List ChanTile
  readyTiles : List ReadyTile
  /-- transfer numbers (R385): keyed by context, channel, endpoint, direction -/
  transfers : Sparse Nat
  /-- the rounds to which other packages' endpoints contribute -/
  chanRounds : List ChanRound
  /-- what other packages do to this one in the run, in their order: each is taken at a free moment (log entry 62) -/
  away : List AwayStep
  /-- role map units that the fault agent has given out (R88): context and unit -/
  rmUnits : List (Nat × Nat)
  /-- tables taken from the fault service's pool (R422) -/
  poolUsed : Nat
  /-- bytes of M on which a race exists, with the context whose program it is (R348): their values are undefined for it (R2) -/
  raced : List (Nat × Nat)
  -- The model's own fields (log entries 3 and 4)
  /-- inputs and moves to take next, before the free choice -/
  agenda : List Instr
  /-- counter of the free values -/
  free : Nat
  /-- counter of identities of entries, operations, pieces -/
  fresh : Nat
  /-- the core whose issue cycle slot operations act in -/
  cur : Nat
  deriving DecidableEq, Repr

/-- Why the machine stops with a fault. -/
inductive Fault where
  /-- A host access names a physical address in a reserved range (R20), where no memory is. Raised by HOST_READ and HOST_APPLY; safe: the
  machine stops where the hardware's answer is not stated. -/
  | reservedAddress
  deriving DecidableEq, Repr

/-- Why the machine refuses an instruction. -/
inductive Refusal where
  /-- The instruction has no meaning in the model yet. Raised by the dispatcher; safe. -/
  | notModelled (mnemonic : String)
  deriving DecidableEq, Repr

/-! ## Reset -/

/-- An iterator level with all fields 0 (R193). -/
def ItLevel.zero : ItLevel := ⟨0, 0, 0⟩
/-- An iterator with all fields 0 (R193). -/
def Iter.zero : Iter := ⟨0, .zero, .zero, .zero, .zero⟩
/-- An unbound head (R193). -/
def Head.unbound : Head := ⟨false, 0, 0, 0, .software, 0, 0, 0, 0, []⟩
/-- The empty gather latch. -/
def Latch.empty : Latch := ⟨false, 0, 0, []⟩
/-- The underflow counters after reset (R49): THR 0xFFFF. -/
def ufcntReset : BitVec 64 := 0xFFFF_0000_0000_0000#64
/-- The NOP of each slot, in slot order (R164). -/
def slotNops : Vector Instr 7 := #v[.nop, .vnop .va, .vnop .vb, .mnop, .knop, .cnop .ca, .cnop .cb]

/-- A core without a task: every register at its task-start value (R193; log entry 2). -/
def Core.init : Core where
  s := Vector.replicate 32 0
  p := #v[true, false, false, false, false, false, false, false]
  va := Vector.replicate 16 0
  vb := Vector.replicate 16 0
  ma := #v[BitVec.allOnes 64, 0, 0, 0, 0, 0, 0, 0]
  mb := #v[BitVec.allOnes 64, 0, 0, 0, 0, 0, 0, 0]
  k := Vector.replicate 16 0
  kb := Vector.replicate 4 0
  ea := Vector.replicate 8 0
  eb := Vector.replicate 8 0
  heads := Vector.replicate 8 .unbound
  its := Vector.replicate 16 .zero
  held := slotNops
  issueCount := 0
  inflight := []
  replay := []
  kept := []
  latch := .empty
  ticket := 0
  l0q := []
  swap := false
  pc := 0
  mode := .free
  shadow := none
  task := none
  handlerCode := ⟨0, 0⟩
  rbase := 0
  repidx := 0
  loopcnt := 0
  loopend := 0
  tcause := 0
  tpc := 0
  taddr := 0
  tdetail := 0
  tvec := 0
  seedkey := 0
  wcoll := 0
  aflags := 0
  spdeadline := 0
  age := 0
  ufcnt := Vector.replicate 4 ufcntReset
  soft := false
  hard := false
  replaycnt := 0
  started := 0
  syncWait := none
  rejoinWait := false
  stepWait := false
  gskew := 0
  follow := []
  svc := none
  resolved := false
  answer := none
  asked := false
  vwaits := []
  xfence := none
  skipS := false
  waiting := none
  deadline := false
  haltReq := false
  sq := []
  loads := []
  arrayQ := []
  reserved := none

/-- A bank of zero words with the full edge mask (R257). -/
def Bank.fresh : Bank := ⟨[], 64, 128, 64, 128, false, false, none⟩

/-- A cluster after reset: `MODE` 2 (R260). -/
def Cluster.init : Cluster :=
  ⟨[], none, [], Vector.replicate 8 ⟨0, false⟩, [], [], Vector.replicate 4 .fresh, 2, none, []⟩

/-- A context's registers after reset: `TRLOG` 8, the others 0 (R139, R410, R435). -/
def Ctx.init : Ctx :=
  ⟨0, 0, 0, 0, 0, false, 0, false, 0, 0, 0, 8, 0, 0, 0, 0, 0, 0, Vector.replicate 8 0⟩

/-- A queue pair after reset (R143). -/
def Qp.init : Qp := ⟨0, 0, 0, 0, 0, false, false, 0, 0, 0, 0, false, false⟩

/-- A fabric port after reset. -/
def Port.init : Port := ⟨false, [], [], [], none⟩

/-- The fuses of the reset state: an open module whose physical die 8 is dormant (log entry 7). -/
def Fuses.init : Fuses := ⟨0, 8, [0, 1, 2, 3, 4, 5, 6, 7, 0], [0, 0, 0, 0, 0]⟩

/-- The die map that the fuses of the reset state name (R17), and the power states of R438. -/
def diesReset : Vector DieEntry 9 :=
  #v[⟨0, 0, 0, false⟩, ⟨1, 0, 0, false⟩, ⟨2, 0, 0, false⟩, ⟨3, 0, 0, false⟩, ⟨4, 0, 0, false⟩, ⟨5, 0, 0, false⟩,
     ⟨6, 0, 0, false⟩, ⟨7, 0, 0, false⟩, ⟨0, 1, 3, false⟩]

/-- `NETCTL` after reset: `LFAB` 400, `RECWIN` 16, `NTO` 64 (R377). -/
def netctlReset : BitVec 64 := 0x0190_0010_0040_0000#64

/-- The module right after reset, before its boot (R434): nothing listed, every register at its reset value. -/
def State.reset : State where
  mem := []
  cores := []
  clusters := []
  ctxs := []
  qps := []
  tensors := []
  recastReqs := []
  recasts := []
  incs := []
  chains := []
  groups := []
  gangs := []
  bags := []
  async := []
  hostBuf := []
  hostReply := []
  tiles := []
  pieces := []
  pointers := []
  rr := 0
  faults := []
  cqes := []
  frozen := []
  asserts := []
  savedClusters := []
  stoppedOps := []
  parts := []
  partBusy := []
  dies := diesReset
  substituted := false
  switching := []
  fuses := .init
  booterr := 0
  bootok := false
  sec := 0
  meas := Vector.replicate 8 0
  powerLimit := 2900
  reduced := false
  clockPending := none
  xinvBusy := false
  xinvEcode := 0
  xinvScope := none
  netctl := netctlReset
  reccnt := 0
  late := 0
  retryCnt := 0
  fabsel := 0
  routes := []
  rbsel := 0
  rbBytes := 0
  rbEcode := 0
  rbBusy := false
  rbPend := none
  pkg := 0
  geyser := 0
  geyserPending := none
  ports := Vector.replicate 36 .init
  vcs := []
  arriving := []
  escape := []
  recovering := []
  linkSlots := []
  flows := []
  early := []
  delivered := []
  chanTiles := []
  readyTiles := []
  transfers := []
  chanRounds := []
  away := []
  rmUnits := []
  poolUsed := 0
  raced := []
  agenda := []
  free := 0
  fresh := 0
  cur := 0

end Sys2Proof.Machine
end

