-- ==== Sys2Proof/Machine/Ops.lean ====
section
/-!
DEFINITION. The named operations over the state: sparse collections, memory, cores and clusters, registers with
their rotation (R168), results in flight and their landing (R175, R195), translation and roles (R71, R92), handles and
descriptors (R65 to R69), events (R365), and taking a trap (R400 to R409) with the return from it.
-/
namespace Sys2Proof.Machine

/-! ## Sparse collections -/

/-- What a key holds. -/
def sget {α : Type} (dflt : α) : Sparse α → Nat → α
  | [], _ => dflt
  | (j, v) :: r, k => if j = k then v else if k < j then dflt else sget dflt r k

/-- A collection with one key set; the value that an unlisted key reads as is not listed. -/
def sput {α : Type} [DecidableEq α] (dflt : α) : Sparse α → Nat → α → Sparse α
  | [], k, v => if v = dflt then [] else [(k, v)]
  | (j, w) :: r, k, v =>
    if k < j then (if v = dflt then (j, w) :: r else (k, v) :: (j, w) :: r)
    else if k = j then (if v = dflt then r else (k, v) :: r)
    else (j, w) :: sput dflt r k v

/-- A collection with one key set; every set key stays listed. -/
def sset {α : Type} : Sparse α → Nat → α → Sparse α
  | [], k, v => [(k, v)]
  | (j, w) :: r, k, v =>
    if k < j then (k, v) :: (j, w) :: r else if k = j then (k, v) :: r else (j, w) :: sset r k v

/-- A collection without a key. -/
def sdel {α : Type} : Sparse α → Nat → Sparse α
  | [], _ => []
  | (j, w) :: r, k => if j = k then r else (j, w) :: sdel r k

/-- The canonical form above a bound: keys strictly rising, no entry equal to the default. -/
def swfFrom {α : Type} [DecidableEq α] (dflt : α) : Nat → Sparse α → Bool
  | _, [] => true
  | lo, (j, v) :: r => decide (lo ≤ j) && decide (v ≠ dflt) && swfFrom dflt (j + 1) r

/-- The canonical form. -/
def swf {α : Type} [DecidableEq α] (dflt : α) (m : Sparse α) : Bool := swfFrom dflt 0 m

/-! ## Memory M (R335) -/

/-- The key of a physical address of a package (log entry 12). -/
def memKey (pkg pa : Nat) : Nat := pkg * 2 ^ 52 + pa

/-- A byte of memory; a byte that nothing has written reads 0 (log entry 1). -/
def memByte (m : List Host.Cell) (key : Nat) : BitVec 8 := sget 0#8 m key

/-- Memory with one byte written. -/
def memSet (m : List Host.Cell) (key : Nat) (b : BitVec 8) : List Host.Cell := sput 0#8 m key b

/-- The canonical form of memory. -/
def Memory.wf (m : List Host.Cell) : Bool := swf 0#8 m

/-- n bytes of memory from a key, as a little-endian number (R4). -/
def memNum (m : List Host.Cell) : Nat → Nat → Nat
  | _, 0 => 0
  | key, n + 1 => (memByte m key).toNat + 256 * memNum m (key + 1) n

/-- Memory with the bytes of a list written from a key. -/
def memPut (m : List Host.Cell) : Nat → List (BitVec 8) → List Host.Cell
  | _, [] => m
  | key, b :: bs => memPut (memSet m key b) (key + 1) bs

/-- n bytes of memory from a key. -/
def memBytes (m : List Host.Cell) : Nat → Nat → List (BitVec 8)
  | _, 0 => []
  | key, n + 1 => memByte m key :: memBytes m (key + 1) n

/-- Memory with masked bytes written: (key, mask, value). -/
def memMasked (m : List Host.Cell) : List (Nat × BitVec 8 × BitVec 8) → List Host.Cell
  | [] => m
  | (k, mask, v) :: r => memMasked (memSet m k ((memByte m k &&& ~~~mask) ||| (v &&& mask))) r

/-- The state with memory replaced. -/
def setMem (s : State) (m : List Host.Cell) : State := { s with mem := m }

/-- Bytes at a physical address of this package, as a number. -/
def paNum (s : State) (pa n : Nat) : Nat := memNum s.mem (memKey s.pkg.toNat pa) n

/-- The state with a number of n bytes written at a physical address of this package. -/
def paPut (s : State) (pa n v : Nat) : State := setMem s (memPut s.mem (memKey s.pkg.toNat pa) (toBytes n v))

/-! ## What a read sees (R348) -/

/-- A byte of memory as the program of a context reads it: free once a race of that program exists on it (R348, R2). -/
def seenByte (s : State) (ctx key : Nat) : Nat :=
  if s.raced.contains (ctx, key) then (Config.freeWord (s.free + key)).toNat % 256 else (memByte s.mem key).toNat
/-- n bytes as the program of a context reads them. -/
def seenNum (s : State) (ctx : Nat) : Nat → Nat → Nat
  | _, 0 => 0
  | key, n + 1 => seenByte s ctx key + 256 * seenNum s ctx (key + 1) n

/-- Bytes at a physical address of this package as a context's structures in memory read: what software wrote where only the device
may write is free for that context (R2, R364, R382, R443). -/
def paSeen (s : State) (ctx pa n : Nat) : Nat := seenNum s ctx (memKey s.pkg.toNat pa) n

/-- A physical address in the first or second tier (R20). -/
def inTiers (pa n : Nat) : Bool :=
  pa + n ≤ 0x018000000000 || (0x040000000000 ≤ pa && pa + n ≤ 0x070000000000)

/-- The home slice of a line (R22). -/
def homeSlice (pa : Nat) : Nat := ((pa >>> 12) % 64) ^^^ ((pa >>> 18) % 64)

/-! ## Cores, clusters, contexts -/

/-- A core. -/
def coreOf (s : State) (c : Nat) : Core := sget Core.init s.cores c
/-- The state with a core replaced. -/
def setCore (s : State) (c : Nat) (x : Core) : State := { s with cores := sset s.cores c x }
/-- The state with a core changed. -/
def modCore (s : State) (c : Nat) (f : Core → Core) : State := setCore s c (f (coreOf s c))
/-- The cluster of a core (R16). -/
def clusterOfCore (c : Nat) : Nat := c / 2
/-- A cluster. -/
def clusterOf (s : State) (k : Nat) : Cluster := sget Cluster.init s.clusters k
/-- The state with a cluster replaced. -/
def setCluster (s : State) (k : Nat) (x : Cluster) : State := { s with clusters := sset s.clusters k x }
/-- The state with a cluster changed. -/
def modCluster (s : State) (k : Nat) (f : Cluster → Cluster) : State := setCluster s k (f (clusterOf s k))
/-- A context. -/
def ctxOf (s : State) (c : Nat) : Ctx := sget Ctx.init s.ctxs c
/-- The state with a context changed. -/
def modCtx (s : State) (c : Nat) (f : Ctx → Ctx) : State := { s with ctxs := sset s.ctxs c (f (ctxOf s c)) }
/-- A queue pair. -/
def qpOf (s : State) (c q : Nat) : Qp := sget Qp.init s.qps (64 * c + q)
/-- The state with a queue pair changed. -/
def modQp (s : State) (c q : Nat) (f : Qp → Qp) : State := { s with qps := sset s.qps (64 * c + q) (f (qpOf s c q)) }

/-- A fresh identity. -/
def freshId (s : State) : Nat × State := (s.fresh, { s with fresh := s.fresh + 1 })
/-- The next free value's counter. -/
def nextFree (s : State) : Nat × State := (s.free, { s with free := s.free + 1 })

/-- Bits of the context record (R140). -/
def recBits (s : State) (c hi lo : Nat) : Nat := bitsOf (ctxOf s c).rec_ hi lo
/-- `EVCNT` (R140). -/
def evCount (s : State) (c : Nat) : Nat := recBits s c 591 576
/-- An event index valid on this package (R444). -/
def eventOk (s : State) (c i : Nat) : Bool := 1 ≤ i && i < evCount s c

/-- The context of a core's task; a core without one acts in context 0. -/
def ctxOfCore (s : State) (c : Nat) : Nat := match (coreOf s c).task with | some t => t.ctx | none => 0

/-- The physical die that serves a logical die, if one is in service (R17). -/
def pdieOf (s : State) (ldie : Nat) : Option Nat :=
  (List.range 9).find? fun p => match s.dies[p]? with | some e => e.dstate = 0 && e.log = ldie | none => false

/-- A logical die that an in-service entry names (R17, R19). -/
def diePresent (s : State) (ldie : Nat) : Bool := (pdieOf s ldie).isSome

/-- `UNITID` of a core (R15). -/
def unitId (s : State) (c : Nat) : BitVec 64 :=
  BitVec.ofNat 64 (s.pkg.toNat * 2 ^ 16 + (pdieOf s (c / 64)).getD 0 * 2 ^ 9 + c % 512)

/-! ## Registers -/

/-- The physical register of a logical s register (R168). -/
def physS (rbase r : Nat) : Nat := if r < 16 then r else 16 + (r - 16 + rbase) % 16
/-- The physical register of a logical va or vb register (R168). -/
def physV (rbase r : Nat) : Nat := if r < 8 then r else 8 + (r - 8 + rbase) % 8

/-- A physical s register; s0 reads zero (R194). -/
def rawS (x : Core) (n : Nat) : BitVec 64 := if n = 0 then 0 else x.s[n]?.getD 0
/-- An s register by its logical name. -/
def rdS (x : Core) (r : Nat) : BitVec 64 := rawS x (physS x.rbase r)
/-- A predicate; p0 reads 1 (R194). -/
def rdP (x : Core) (n : Nat) : Bool := n = 0 || x.p[n]?.getD false
/-- p7 … p0 as bits [7:0] (R200). -/
def predByte (x : Core) : Nat := packFields 1 ((List.range 8).map fun n => b2n (rdP x n))
/-- A vector register of a slot's file by its logical name. -/
def rdV (x : Core) (vb : Bool) (r : Nat) : BitVec 1024 :=
  if vb then x.vb[physV x.rbase r]?.getD 0 else x.va[physV x.rbase r]?.getD 0
/-- A mask register of a slot's file; ma0 and mb0 read all ones (R227). -/
def rdM (x : Core) (vb : Bool) (n : Nat) : BitVec 64 :=
  if n = 0 then BitVec.allOnes 64 else if vb then x.mb[n]?.getD 0 else x.ma[n]?.getD 0
/-- A k register. -/
def rdK (x : Core) (n : Nat) : BitVec 256 := x.k[n]?.getD 0
/-- A kb register. -/
def rdKb (x : Core) (n : Nat) : BitVec 256 := x.kb[n]?.getD 0
/-- A copy descriptor register of a slot's file. -/
def rdE (x : Core) (eb : Bool) (n : Nat) : BitVec 256 := if eb then x.eb[n]?.getD 0 else x.ea[n]?.getD 0
/-- A head. -/
def headOf (x : Core) (h : Nat) : Head := x.heads[h]?.getD .unbound
/-- The core with a head replaced. -/
def setHead (x : Core) (h : Nat) (v : Head) : Core := { x with heads := x.heads.setIfInBounds h v }
/-- An iterator. -/
def itOf (x : Core) (n : Nat) : Iter := x.its[n]?.getD .zero
/-- The core with an iterator replaced. -/
def setIt (x : Core) (n : Nat) (v : Iter) : Core := { x with its := x.its.setIfInBounds n v }

/-- Whether the gate of a slot word is open (R166). -/
def gateOpen (x : Core) (g : Guard) : Bool := rdP x g.pg.toNat != g.pn

/-! ## Iterators (R170) -/

/-- The count of a level: 0 stands for 65,536. -/
def lvCount (l : ItLevel) : Nat := if l.count.toNat = 0 then 65536 else l.count.toNat
/-- The address that an iterator supplies. -/
def itAddr (i : Iter) : Nat :=
  let off (l : ItLevel) : Int := (l.idx.toNat : Int) * l.stride.toInt
  wrapTo 56 ((i.base.toNat : Int) + off i.l0 + off i.l1 + off i.l2 + off i.l3)
/-- One level stepped: the level, and the carry. -/
def lvStep (l : ItLevel) : ItLevel × Bool :=
  if l.idx.toNat + 1 ≥ lvCount l then ({ l with idx := 0 }, true) else ({ l with idx := l.idx + 1 }, false)
/-- An iterator stepped once. -/
def itStep (i : Iter) : Iter :=
  let (a, ca) := lvStep i.l0
  if !ca then { i with l0 := a } else
  let (b, cb) := lvStep i.l1
  if !cb then { i with l0 := a, l1 := b } else
  let (c, cc) := lvStep i.l2
  if !cc then { i with l0 := a, l1 := b, l2 := c } else
  let (d, _) := lvStep i.l3
  { i with l0 := a, l1 := b, l2 := c, l3 := d }
/-- n consecutive addresses of an iterator (R266). -/
def itWalk : Nat → Iter → List Nat
  | 0, _ => []
  | n + 1, i => itAddr i :: itWalk n (itStep i)
/-- An iterator stepped n times. -/
def itSteps : Nat → Iter → Iter
  | 0, i => i
  | n + 1, i => itSteps n (itStep i)
/-- Every index 0. -/
def itReset (i : Iter) : Iter :=
  { i with l0 := { i.l0 with idx := 0 }, l1 := { i.l1 with idx := 0 }, l2 := { i.l2 with idx := 0 },
           l3 := { i.l3 with idx := 0 } }
/-- ITREV (R171). -/
def itReverse (i : Iter) : Iter :=
  let span (l : ItLevel) : Int := ((lvCount l : Int) - 1) * l.stride.toInt
  let rev (l : ItLevel) : ItLevel := { l with stride := -l.stride, idx := 0 }
  { base := BitVec.ofInt 56 ((i.base.toNat : Int) + span i.l0 + span i.l1 + span i.l2 + span i.l3)
    l0 := rev i.l0, l1 := rev i.l1, l2 := rev i.l2, l3 := rev i.l3 }

/-! ## Results of operations -/

/-- A byte write of a scratchpad, or an atomic on it, taking effect at the end of the cycle (R207). -/
inductive SpEff where
  | write (cluster off : Nat) (mask v : BitVec 8)
  | amo (cluster off bytes op : Nat) (x cmp : Nat) (ret : Option Ret) (core : Nat)
  | vamo (cluster off op fmt rm rnd : Nat) (x : Nat) (ret : Option Ret) (core : Nat)
  deriving DecidableEq, Repr

/-- What an iterator write does after the step of its cycle (R170). -/
inductive ItWrite where
  | base (b : BitVec 56)
  | level (lv : Nat) (count : BitVec 16) (stride : BitVec 32)
  | count (lv : Nat) (count : BitVec 16)
  | indices (w : BitVec 64)
  | reset
  | reverse
  deriving DecidableEq, Repr

/-- What an operation of a repetition does at the end of that repetition, or of its bundle. -/
structure Effects where
  /-- iterators named as address sources (R170) -/
  steps : List Nat
  /-- iterators walked, and how many steps each takes (R266) -/
  walks : List (Nat × Nat)
  itWrites : List (Nat × ItWrite)
  sp : List SpEff
  /-- SADV: head, producer side, count (R321) -/
  sadv : List (Nat × Bool × Nat)
  /-- a taken transfer (R201) -/
  target : Option (BitVec 64)
  /-- LOOP: the new `LOOPCNT` (R202) -/
  loop : Option (BitVec 64)
  /-- LOOP: the new `LOOPEND` (R202) -/
  loopend : Option (BitVec 64)
  yield : Bool
  /-- EXIT (R204) -/
  exit : Bool
  /-- ERET, with its skip bit (R224) -/
  eret : Option Bool
  /-- DECPL (R360) -/
  decouple : Bool
  /-- FUSE: the new skew step (R360) -/
  step : Option Nat
  /-- GJOIN: the lines that the core joins for the next bundle cycle (R355) -/
  joins : List Nat
  /-- REJOIN: where the gang goes on (R360) -/
  place : Option (BitVec 64)
  /-- SYNC, EXIT: the repetition is about to wait, and its wait is kept (R402) -/
  waits : Bool
  deriving DecidableEq, Repr

/-- No effect. -/
def Effects.none : Effects := ⟨[], [], [], [], [], Option.none, Option.none, Option.none, false, false, Option.none, false, Option.none, [], Option.none, false⟩

/-- Two operations' effects, in slot order. -/
def Effects.add (a b : Effects) : Effects :=
  ⟨a.steps ++ b.steps, a.walks ++ b.walks, a.itWrites ++ b.itWrites, a.sp ++ b.sp, a.sadv ++ b.sadv,
   b.target.or a.target, b.loop.or a.loop, b.loopend.or a.loopend, a.yield || b.yield,
   a.exit || b.exit, b.eret.or a.eret, a.decouple || b.decouple, b.step.or a.step, a.joins ++ b.joins, b.place.or a.place,
   a.waits || b.waits⟩

/-- How an operation ends: it issues, its repetition traps, or it waits; a wait may leave a mark of what was asked. -/
inductive OpRes where
  | ok (s : State) (e : Effects)
  | trap (t : Trap)
  | stall (f : State → State)

/-- The bundle in which an operation issues: its header address and the address after it (R201). -/
structure Site where
  addr : BitVec 64
  next : BitVec 64
  deriving DecidableEq, Repr

/-- A trap without address. -/
def trapOf (cause detail : Nat) : Trap := ⟨cause, 0, detail, false, false⟩
/-- A trap at an address (R400, R255). -/
def trapAt (cause addr slot elem : Nat) : Trap := ⟨cause, addr, slot * 256 + elem % 256, false, false⟩
/-- An illegal slot op found at issue (0x02): TADDR is the header address. -/
def trapIllegal (at_ : BitVec 64) (slot : Nat) : Trap := ⟨0x02, at_.toNat, slot, false, false⟩
/-- A generation fault (0x08, R400). -/
def trapGen (slot : Nat) (handle : BitVec 64) : Trap := trapOf 0x08 (slot * 256 + bitsOf handle 15 0 * 2 ^ 16)

/-! ## Results in flight (R175, R195) -/

/-- A result that lands L issue cycles after this one. -/
def pushFlight (s : State) (c slot lat : Nat) (dst : Dest) (mask val flags gran : Nat) : State :=
  let (n, s) := freshId s
  modCore s c fun x =>
    { x with inflight := x.inflight ++ [⟨n, some (x.issueCount + lat), slot, dst, mask, val, flags, gran, 0⟩] }

/-- A result whose landing waits for data: its identity is returned; `left` values are to arrive (R176). -/
def pushPending (s : State) (c slot : Nat) (dst : Dest) (mask gran left : Nat) : Nat × State :=
  let (n, s) := freshId s
  (n, modCore s c fun x => { x with inflight := x.inflight ++ [⟨n, none, slot, dst, mask, 0, 0, gran, left⟩] })

/-- Mask of w ones. -/
def ones (w : Nat) : Nat := 2 ^ w - 1

/-- A result of the S slot for a logical s register; a result for s0 is discarded (R194). -/
def setS (s : State) (c slot lat r : Nat) (v : BitVec 64) : State :=
  let n := physS (coreOf s c).rbase r
  if n = 0 then s else pushFlight s c slot lat (.reg .s n) (ones 64) v.toNat 0 64

/-- A result for an s register whose data will come; one for s0 is discarded and keeps no place (R194, R405). -/
def pendS (s : State) (c r : Nat) : Nat × State :=
  let n := physS (coreOf s c).rbase r
  if n = 0 then freshId s else pushPending s c 0 (.reg .s n) (ones 64) 64 1

/-- A result for a predicate; p0 discards (R194). -/
def setP (s : State) (c slot lat n : Nat) (v : Bool) : State :=
  if n = 0 then s else pushFlight s c slot lat (.reg .p n) 1 (b2n v) 0 1

/-- A result for a vector register: `mask` marks the bits written (R228). -/
def setV (s : State) (c slot lat : Nat) (vb : Bool) (r mask val flags gran : Nat) : State :=
  pushFlight s c slot lat (.reg (if vb then .vb else .va) (physV (coreOf s c).rbase r)) mask val flags gran

/-- A result for a mask register; ma0 and mb0 discard it, but its flags are raised (R227, R36; log entry 47). -/
def setM (s : State) (c slot lat : Nat) (vb : Bool) (n val flags : Nat) : State :=
  if n = 0 && flags = 0 then s
  else pushFlight s c slot lat (.reg (if vb then .mb else .ma) n) (if n = 0 then 0 else ones 64) val flags 64

/-- The code of a file in `WCOLL.FILE` (R195). -/
def fileCode : RegFile → Nat
  | .s => 0 | .p => 1 | .va => 2 | .vb => 3 | .ma => 4 | .mb => 5 | .k => 6 | .kb => 7 | .ea => 8 | .eb => 9

/-- The file of a code of `WCOLL.FILE`. -/
def fileOf : Nat → RegFile
  | 0 => .s | 1 => .p | 2 => .va | 3 => .vb | 4 => .ma | 5 => .mb | 6 => .k | 7 => .kb | 8 => .ea | _ => .eb

/-- A masked value over an old one. -/
def merged (w old mask val : Nat) : Nat := ((old &&& (ones w ^^^ (mask &&& ones w))) ||| (val &&& mask)) % 2 ^ w

/-- A masked write of a physical register. -/
def writeReg (x : Core) (f : RegFile) (n mask val : Nat) : Core :=
  match f with
  | .s => { x with s := x.s.setIfInBounds n (BitVec.ofNat 64 (merged 64 (x.s[n]?.getD 0).toNat mask val)) }
  | .p => { x with p := x.p.setIfInBounds n (val % 2 = 1) }
  | .va => { x with va := x.va.setIfInBounds n (BitVec.ofNat 1024 (merged 1024 (x.va[n]?.getD 0).toNat mask val)) }
  | .vb => { x with vb := x.vb.setIfInBounds n (BitVec.ofNat 1024 (merged 1024 (x.vb[n]?.getD 0).toNat mask val)) }
  | .ma => { x with ma := x.ma.setIfInBounds n (BitVec.ofNat 64 (merged 64 (x.ma[n]?.getD 0).toNat mask val)) }
  | .mb => { x with mb := x.mb.setIfInBounds n (BitVec.ofNat 64 (merged 64 (x.mb[n]?.getD 0).toNat mask val)) }
  | .k => { x with k := x.k.setIfInBounds n (BitVec.ofNat 256 (merged 256 (x.k[n]?.getD 0).toNat mask val)) }
  | .kb => { x with kb := x.kb.setIfInBounds n (BitVec.ofNat 256 (merged 256 (x.kb[n]?.getD 0).toNat mask val)) }
  | .ea => { x with ea := x.ea.setIfInBounds n (BitVec.ofNat 256 (merged 256 (x.ea[n]?.getD 0).toNat mask val)) }
  | .eb => { x with eb := x.eb.setIfInBounds n (BitVec.ofNat 256 (merged 256 (x.eb[n]?.getD 0).toNat mask val)) }

/-- A collision recorded in WCOLL (R195). -/
def countCollision (x : Core) (f : RegFile) (n slot : Nat) : Core :=
  let cnt := satNat (bitsOf x.wcoll 63 32 + 1) (ones 32)
  { x with wcoll := BitVec.ofNat 64 (cnt * 2 ^ 32 + fileCode f * 2 ^ 8 + n * 2 ^ 3 + slot) }

/-- Of two results for one register, the one that is taken: the later slot, or in one slot the later issue (R195). -/
def laterOf (a b : Flight) : Bool := a.slot < b.slot || (a.slot = b.slot && a.id < b.id)

/-- A result that takes part in collisions: all but those that their register discards (R194, R227), also one whose lanes
are all inactive (log entry 47). -/
def collides (a : Flight) : Bool :=
  match a.dst with
  | .reg .s 0 | .reg .p 0 | .reg .ma 0 | .reg .mb 0 => false
  | _ => true

/-- The register results of one cycle, each landing whole or discarded whole (R195). `all` is the whole list. -/
def landRegs (all : List Flight) : List Flight → Core → Core
  | [], x => x
  | a :: r, x =>
    let x := { x with aflags := x.aflags ||| BitVec.ofNat 6 a.flags }
    match a.dst with
    | .reg f n =>
      if !collides a then landRegs all r x
      else
        let rivals := all.filter fun b => b.dst = a.dst && collides b && b.id ≠ a.id
        if rivals.all fun b => laterOf b a then
          let x := writeReg x f n a.mask a.val
          landRegs all r (if rivals.isEmpty then x else countCollision x f n a.slot)
        else landRegs all r x
    | _ => landRegs all r x

/-- `COUNT` of WCOLL written, its other fields kept (R195). -/
def writeWcoll (old w : BitVec 64) : BitVec 64 := BitVec.ofNat 64 (bitsOf w 63 32 * 2 ^ 32 + bitsOf old 31 0)

/-- A CSRW landing on the core (R221, R222): RO fields keep their values (R7). In handler state the task's shadowed
values are reached (R407). -/
def landCsr (x : Core) (i v : Nat) : Core :=
  let w := BitVec.ofNat 64 v
  match i, x.shadow with
  | 0x006, some sh => { x with shadow := some { sh with rbase := v % 16 } }
  | 0x006, none => { x with rbase := v % 16 }
  | 0x008, some sh => { x with shadow := some { sh with loopcnt := w } }
  | 0x008, none => { x with loopcnt := w }
  | 0x011, some sh => { x with tpc := BitVec.ofNat 64 (v % 2 ^ 56), shadow := some { sh with repidx := 0, skipS := false } }
  | 0x011, none => { x with tpc := BitVec.ofNat 64 (v % 2 ^ 56) }
  | 0x014, _ => { x with tvec := w }
  | 0x01A, _ => { x with seedkey := w }
  | 0x01B, some sh => { x with shadow := some { sh with wcoll := writeWcoll sh.wcoll w } }
  | 0x01B, none => { x with wcoll := writeWcoll x.wcoll w }
  | 0x021, _ => { x with spdeadline := BitVec.ofNat 64 (v % 2 ^ 32) }
  | 0x024, _ | 0x025, _ | 0x026, _ | 0x027, _ => { x with ufcnt := x.ufcnt.setIfInBounds (i - 0x024) w }
  | _, _ => x

/-- `CNT` and `LAST` after the counts of one result (R48, R238). -/
def addUfc (w : BitVec 64) (add last : Nat) : BitVec 64 :=
  BitVec.ofNat 64 (bitsOf w 63 48 * 2 ^ 48 + last % 2 ^ 16 * 2 ^ 32 + satNat (bitsOf w 31 0 + add) (ones 32))

/-- KUFC (R280). -/
def clearUfc (w : BitVec 64) (cnt last : Bool) : BitVec 64 :=
  BitVec.ofNat 64 (bitsOf w 63 48 * 2 ^ 48 + (if last then 0 else bitsOf w 47 32) * 2 ^ 32
    + (if cnt then 0 else bitsOf w 31 0))

/-- The landings of one cycle that are neither registers nor shared by the cluster, in their order: KUFC before counts
before a CSRW of the same counter (R280, R195); KSEED after a CSRW (R280). -/
def landState (fs : List Flight) (x : Core) : Core :=
  let x := fs.foldl (fun x a => match a.dst with
    | .kufc n c l => { x with ufcnt := x.ufcnt.setIfInBounds n (clearUfc (x.ufcnt[n]?.getD 0) c l) }
    | .swap => { x with swap := !x.swap }
    | _ => x) x
  let x := fs.foldl (fun x a => match a.dst with
    | .ufc n add last => { x with ufcnt := x.ufcnt.setIfInBounds n (addUfc (x.ufcnt[n]?.getD 0) add last) }
    | _ => x) x
  let x := fs.foldl (fun x a => match a.dst with
    | .csr i => landCsr x i a.val
    | .rbase => { x with rbase := a.val % 16 }
    | _ => x) x
  fs.foldl (fun x a => match a.dst with
    | .seed => { x with seedkey := BitVec.ofNat 64 a.val }
    | _ => x) x

/-- A W1C write of AFLAGS that lands with other flags (R36): bits cleared first, then the flags of the cycle set. -/
def landClears (fs : List Flight) (x : Core) : Core :=
  fs.foldl (fun x a => match a.dst with
    | .csr i =>
      if i = 0x01C then
        match x.shadow with
        | some sh => { x with shadow := some { sh with aflags := sh.aflags &&& ~~~(BitVec.ofNat 6 a.val) } }
        | none => { x with aflags := x.aflags &&& ~~~(BitVec.ofNat 6 a.val) }
      else x
    | _ => x) x

/-- The cluster with a tag entry set for a slot; any other entry with the key is invalidated (R216). -/
def tagInstall (k : Cluster) (slot : Nat) (key : TagKey) : Cluster :=
  { k with tags := sset (k.tags.filter fun e => e.2 ≠ key) slot key }

/-- The cluster after the landings that it shares (R216, R262, R326, R260). -/
def landShared (fs : List Flight) (k : Cluster) : Cluster :=
  fs.foldl (fun k a => match a.dst with
    | .tag slot (some key) => tagInstall k slot key
    | .tag slot none => { k with tags := sdel k.tags slot }
    | .tagKey key => { k with tags := k.tags.filter fun e => e.2 ≠ key }
    | .barrier b set =>
      let old := k.barriers[b]?.getD ⟨0, false⟩
      let v := BitVec.ofNat 48 a.val
      let new : Barrier :=
        if set then ⟨v, false⟩ else ⟨old.count + v, old.below || decide ((old.count + v).toInt < 0 ∧ 0 ≤ old.count.toInt)⟩
      { k with barriers := k.barriers.setIfInBounds b new }
    | .csr i =>
      if i = 0x018 then
        let clear := (a.val / 2 ^ 12) % 16
        let k := if a.val % 8 ≤ 4 then { k with modePending := some (a.val % 8) } else k
        { k with banks := k.banks.mapFinIdx fun j b _ => if clear.testBit j then { b with bovf := false } else b }
      else k
    | _ => k) k

/-- The results that land at issue count n. -/
def dueNow (x : Core) (n : Nat) : List Flight := x.inflight.filter fun a => decide (a.due = some n)

/-- Every result due at the core's issue count lands (R175). -/
def landNow (s : State) (c : Nat) : State :=
  let x := coreOf s c
  let fs := dueNow x x.issueCount
  let x := { x with inflight := x.inflight.filter fun a => decide (a.due ≠ some x.issueCount) }
  let s := setCore s c (landState fs (landRegs fs fs (landClears fs x)))
  modCluster s (clusterOfCore c) (landShared fs)

/-- n issue cycles pass without issue, results landing at each (R174). -/
def bubbles : Nat → State → Nat → State
  | 0, s, _ => s
  | n + 1, s, c => bubbles n (modCore (landNow s c) c fun x => { x with issueCount := x.issueCount + 1 }) c

/-- A value for a pending result arrived: it lands when its last value has (R176); `now` is the cycle it may land at. -/
def arrive (a : Flight) (lo width v flags now : Nat) : Flight :=
  let a := { a with val := a.val ||| ((v % 2 ^ width) <<< lo), flags := a.flags ||| flags, left := a.left - 1 }
  if a.left = 0 then { a with due := some now } else a

/-- The core with a value for one of its pending results, in flight or in the replay buffer (R404). A result in the
replay buffer then has 0 remaining cycles (R406). -/
def giveFlight (x : Core) (id lo width v flags : Nat) : Core :=
  { x with
    inflight := x.inflight.map fun a => if a.id = id then arrive a lo width v flags x.issueCount else a
    replay := x.replay.map fun a => if a.id = id then arrive a lo width v flags 0 else a }

/-- Flags that return with an acknowledgement (R36): into the task's own AFLAGS, shadowed while a handler runs, and those
of the handler's own operations into the handler's (R407). Those of a task that has failed return to none (R419). -/
def returnFlags (x : Core) (byHandler : Bool) (flags : Nat) : Core :=
  match x.shadow with
  | some sh =>
    if byHandler then { x with aflags := x.aflags ||| BitVec.ofNat 6 flags }
    else { x with shadow := some { sh with aflags := sh.aflags ||| BitVec.ofNat 6 flags } }
  | none => if byHandler then x else { x with aflags := x.aflags ||| BitVec.ofNat 6 flags }

/-! ## Scratchpad (R172, R207, R306) -/

/-- A byte of a cluster's scratchpad. -/
def spByte (s : State) (k off : Nat) : BitVec 8 := sget 0#8 (clusterOf s k).sp off
/-- n bytes of a scratchpad as a number. -/
def spNum (s : State) (k off n : Nat) : Nat := memNum (clusterOf s k).sp off n
/-- The state with masked bytes of a scratchpad written. -/
def spMasked (s : State) (k : Nat) (ws : List (Nat × BitVec 8 × BitVec 8)) : State :=
  modCluster s k fun x => { x with sp := memMasked x.sp ws }
/-- The state with a number of n bytes written into a scratchpad. -/
def spPut (s : State) (k off n v : Nat) : State :=
  modCluster s k fun x => { x with sp := memPut x.sp off (toBytes n v) }

/-- An address with bit 55 set names the scratchpad. -/
def isSp (va : Nat) : Bool := va.testBit 55
/-- The bounds of R172 for n bytes at an address. -/
def spBounds (va n : Nat) : Bool := (va >>> 56) = 0 && (va % 2 ^ 55) >>> 23 = 0 && va % 2 ^ 23 + n ≤ 2 ^ 23
/-- The offset of a scratchpad address. -/
def spOff (va : Nat) : Nat := va % 2 ^ 23

/-- The masked byte writes of a number of n bytes from an offset. -/
def wholeBytes : Nat → Nat → Nat → List (Nat × BitVec 8 × BitVec 8)
  | _, 0, _ => []
  | off, n + 1, v => (off, 0xFF#8, BitVec.ofNat 8 v) :: wholeBytes (off + 1) n (v / 256)

/-! ## Translation (R92 to R96) -/

/-- A page of a leaf lies wholly in memory that a context may map (R21). -/
def pageAllowed (pa size : Nat) : Bool := inTiers pa size

/-- The steps of a walk: low bit and width of the index, and the page-size code of a leaf there (3: none). -/
def walkSteps : List (Nat × Nat × Nat) := [(48, 7, 3), (39, 9, 3), (30, 9, 2), (21, 9, 1), (16, 5, 0)]

/-- The size of a page-size code (R93). -/
def pageSize (psz : Nat) : Nat := if psz = 0 then 2 ^ 16 else if psz = 1 then 2 ^ 21 else 2 ^ 30

/-- A leaf entry accepted as a translation (R92, R93). -/
def leafXlat (e va psz addr : Nat) : Option Xlat :=
  let size := pageSize psz
  let pa := ((e >>> 16) % 2 ^ 36) * 2 ^ 16
  let repl := (e >>> 5) % 4
  let role := (e >>> 1) % 4
  let ownk := (e >>> 7) % 4
  let rset := (e >>> 96) % 2 ^ 32
  if (e >>> 52) % 2 ^ 12 ≠ 0 || (e >>> 9) % 2 ^ 7 ≠ 0 || pa % size ≠ 0 || ownk = 3 || repl = 3
      || (repl = 1 && role ≠ 0) || (repl = 0 && rset ≠ 0) || !pageAllowed pa size then none
  else some ⟨va / size * size, size, pa, (e >>> 64) % 2 ^ 16, role, ownk, (e >>> 80) % 2 ^ 16, repl, rset, addr⟩

/-- A walk from a table (R92): `none` is a translation fault. -/
def walkFrom (s : State) (va : Nat) : List (Nat × Nat × Nat) → Nat → Option Xlat
  | [], _ => none
  | (lo, w, psz) :: rest, table =>
    let addr := table + 16 * ((va >>> lo) % 2 ^ w)
    let e := paNum s addr 16
    if e % 2 = 0 then none
    else if (e >>> 3) % 4 = 3 then
      if rest.isEmpty || e % 2 ^ 9 ≠ 0x19 || (e >>> 52) ≠ 0 then none
      else walkFrom s va rest (((e >>> 9) % 2 ^ 43) * 2 ^ 9)
    else if psz < 3 && (e >>> 3) % 4 = psz then leafXlat e va psz addr
    else none

/-- The walk of a context's tables for an address with bit 55 clear (R92). -/
def walk (s : State) (ctx va : Nat) : Option Xlat := walkFrom s va walkSteps (recBits s ctx 179 128)

/-- A translation that a cluster has cached (R94). -/
def cached (s : State) (k ctx va : Nat) : Option Xlat :=
  ((clusterOf s k).tlb.find? fun e => e.ctx = ctx && e.xlat.base ≤ va && va < e.xlat.base + e.xlat.size).map (·.xlat)

/-- The translation of an address for a cluster: the cached one, or a walk (R94). -/
def translate (s : State) (k ctx va : Nat) : Option Xlat :=
  if va ≥ 2 ^ 55 then none else (cached s k ctx va).or (walk s ctx va)

/-- The physical address of an address on a page. -/
def xlatPa (x : Xlat) (va : Nat) : Nat := x.ppn + (va - x.base)
/-- The home key of an address on a page (R96). -/
def xlatHome (x : Xlat) (va : Nat) : Nat := memKey x.home (xlatPa x va)

/-- A valid holder record of a replica set (R96): package and page address. -/
def holders (s : State) (ctx rset : Nat) : List (Nat × Nat) :=
  (List.range 64).filterMap fun j =>
    let r := paNum s (recBits s ctx 883 832 + 512 * rset + 8 * j) 8
    if r.testBit 63 then some (r % 2 ^ 16, ((r >>> 16) % 2 ^ 36) * 2 ^ 16) else none

/-- The hops to a package that the agent has found (R445); this package is 0 hops away. -/
def hopsTo (s : State) (p : Nat) : Nat :=
  if p = s.pkg.toNat then 0 else (s.routes.filter fun r => r.pkg = p).foldl (fun n r => min n r.hops) 256

/-- A package that a route reaches (R445). -/
def reaches (s : State) (p : Nat) : Bool := p = s.pkg.toNat || (s.routes.any fun r => r.pkg = p)

/-- Where a read of an address on a page goes (R96): the own copy, the nearest holder, or the home. R96 does not say where it goes when
the replica set entry has no valid holder record within reach; the model reads the home at the leaf's `PPN`. DESIGN CHOICE, log
entry 59. -/
def xlatRead (s : State) (ctx : Nat) (x : Xlat) (va : Nat) : Nat :=
  if x.repl ≠ 1 then xlatHome x va
  else
    let hs := holders s ctx x.rset
    let best := hs.foldl (fun (b : Option (Nat × Nat)) h => match b with
      | none => some h
      | some q => if hopsTo s h.1 < hopsTo s q.1 || (hopsTo s h.1 = hopsTo s q.1 && h.1 < q.1) then some h else some q) none
    match best with
    | some (p, pa) => if p = x.home then xlatHome x va else memKey p (pa + (va - x.base))
    | none => xlatHome x va

/-- The access classes of R71. -/
inductive Access where
  | load | store | atomic | accAdd | append | consume
  deriving DecidableEq, Repr

/-- The owner of an OWN page admits a core of this package (R72). -/
def admits (s : State) (x : Xlat) (c : Nat) : Bool :=
  match x.ownk with
  | 0 => x.home = s.pkg.toNat && x.owner = c
  | 1 => x.home = s.pkg.toNat && x.owner = c / 2
  | _ => x.owner = s.pkg.toNat

/-- The role check of R71 on a page, by a core: the TCAUSE of a rejected access. Writers of ACC and units of STR are
checked with their tensors (R74, R73). -/
def roleCheck (s : State) (x : Xlat) (c : Nat) (a : Access) : Option Nat :=
  match a, x.role with
  | .load, 0 => none
  | .consume, 0 => none
  | .consume, 1 => none
  | .store, 0 => some 0x06
  | .atomic, 0 => some 0x06
  | .accAdd, 0 => some 0x06
  | .append, 0 => some 0x06
  | .append, 1 => none
  | .accAdd, 2 => none
  | .load, 3 => if admits s x c then none else some 0x07
  | .store, 3 => if admits s x c then none else some 0x07
  | .atomic, 3 => if admits s x c then none else some 0x07
  | .consume, 3 => if admits s x c then none else some 0x07
  | _, _ => some 0x07

/-- Translation and role check of one access by a core (R71, R172): the page, or the trap. -/
def access (s : State) (c va : Nat) (a : Access) (slot elem : Nat) : Except Trap Xlat :=
  if va ≥ 2 ^ 56 then .error (trapAt 0x05 va slot elem)
  else match translate s (clusterOfCore c) (ctxOfCore s c) va with
    | none => .error (trapAt 0x05 va slot elem)
    | some x => match roleCheck s x c a with
      | none => .ok x
      | some cause => .error { trapAt cause va slot elem with store := decide (a = .store) }

/-! ## Handles and descriptors (R64 to R69, R441) -/

/-- A descriptor of a context's table (R66). -/
def descOf (s : State) (ctx index : Nat) : BitVec 512 :=
  BitVec.ofNat 512 (paNum s (recBits s ctx 115 64 + 64 * index) 64)

/-- A field of a descriptor. -/
def df (d : BitVec 512) (hi lo : Nat) : Nat := bitsOf d hi lo
/-- The state with a descriptor written whole at its home (R70). -/
def putDesc (s : State) (ctx index : Nat) (d : BitVec 512) : State :=
  paPut s (recBits s ctx 115 64 + 64 * index) 64 d.toNat

/-- An entry of the retained-generation table (R443); every entry is free once software has written the live table. -/
def rgEntry (s : State) (ctx j : Nat) : Nat :=
  let base := recBits s ctx 435 384
  if s.raced.contains (ctx, memKey s.pkg.toNat base) then (Config.freeWord (s.free + j)).toNat else paNum s (base + 32 * j) 32

/-- The entry of a retained generation (R79), if it is in use. -/
def rgFind (s : State) (ctx index gen : Nat) : Option Nat :=
  (List.range 256).find? fun j =>
    let e := rgEntry s ctx j
    e.testBit 16 && e % 2 ^ 16 = index && (e >>> 32) % 2 ^ 32 = gen

/-- A descriptor as a retained generation reads it: old base, format, scales, codebook (R79). -/
def rgDesc (d : BitVec 512) (e : Nat) : BitVec 512 :=
  let x := setBits d.toNat 55 0 ((e >>> 64) % 2 ^ 56)
  let x := setBits x 59 56 ((e >>> 120) % 16)
  let x := setBits x 159 144 ((e >>> 128) % 2 ^ 16)
  let x := setBits x 207 192 ((e >>> 144) % 2 ^ 16)
  -- every page of a retained generation is IMM: the role fields are 0, whatever the current generation holds
  let x := setBits (setBits (setBits x 62 60 0) 101 99 0) 126 104 0
  let x := setBits x 143 128 0
  BitVec.ofNat 512 (setBits x 191 160 ((e >>> 160) % 2 ^ 32))

/-- Handle fields (R64). -/
def hIndex (h : BitVec 64) : Nat := bitsOf h 15 0
/-- Generation of a handle. -/
def hGen (h : BitVec 64) : Nat := bitsOf h 47 16

/-- The descriptor that a handle names in a context, or `none` when the handle is invalid (R65). -/
def openHandle (s : State) (ctx : Nat) (h : BitVec 64) : Option (BitVec 512 × Bool) :=
  if bitsOf h 63 54 ≠ 0 || bitsOf h 53 48 ≠ ctx || hGen h = 0 then none
  else
    let d := descOf s ctx (hIndex h)
    if df d 63 63 = 0 then none
    else if df d 95 64 = hGen h then some (d, false)
    else match rgFind s ctx (hIndex h) (hGen h) with
      | some j => some (rgDesc d (rgEntry s ctx j), true)
      | none => none

/-- Extent i of a descriptor. -/
def dExt (d : BitVec 512) (i : Nat) : Nat := df d (247 + 24 * i) (224 + 24 * i)
/-- Signed stride i of a descriptor, in elements (R68). -/
def dStride (d : BitVec 512) (i : Nat) : Int :=
  let v := signedOf 32 (df d (375 + 32 * i) (344 + 32 * i))
  if i = 0 then v else v * (2 ^ df d 507 504 : Nat)
/-- Rank. -/
def dRank (d : BitVec 512) : Nat := df d 98 96
/-- The extents of the axes below the rank, i0 first. -/
def dExts (d : BitVec 512) : List Nat := (List.range (dRank d)).map (dExt d)
/-- Count of elements. -/
def dCount (d : BitVec 512) : Nat := (dExts d).foldl (· * ·) 1
/-- Format code. -/
def dFmt (d : BitVec 512) : Nat := df d 59 56
/-- Base. -/
def dBase (d : BitVec 512) : Nat := df d 55 0
/-- MIXED. -/
def dMixed (d : BitVec 512) : Bool := df d 62 62 = 1
/-- ROLE. -/
def dRole (d : BitVec 512) : Nat := df d 61 60
/-- E_LO, signed. -/
def dElo (d : BitVec 512) : Int := signedOf 16 (df d 119 104)
/-- COMB. -/
def dComb (d : BitVec 512) : Nat := df d 101 99
/-- WGRP. -/
def dWgrp (d : BitVec 512) : Nat := df d 126 122

/-- The coordinates of a linear element, i0 fastest. -/
def coords : List Nat → Nat → List Nat
  | [], _ => []
  | e :: es, i => i % (max e 1) :: coords es (i / (max e 1))

/-- The element offset of coordinates (R68). -/
def strideOff (d : BitVec 512) : Nat → List Nat → Int
  | _, [] => 0
  | ax, i :: is => (i : Int) * dStride d ax + strideOff d (ax + 1) is

/-- The holding size of an ACC element in bytes (R69). -/
def holdSize (d : BitVec 512) : Nat :=
  match fmtOf (dFmt d) with
  | some k => if isInt k then (if k = .i64 then 16 else 8)
              else if dComb d = 0 then 16 else fmtBits k / 8
  | none => 16

/-- The bit address of an element: R69 for a whole ACC tensor, else R68. -/
def elemBit (d : BitVec 512) (i : Nat) : Int :=
  if !dMixed d && dRole d = 2 then 8 * ((dBase d : Int) + i * (holdSize d))
  else 8 * (dBase d : Int) + strideOff d 0 (coords (dExts d) i) * (codeBits (dFmt d))

/-- The byte address of an element, in 64 bits (R172). -/
def elemVa (d : BitVec 512) (i : Nat) : Nat := (elemBit d i / 8 % 2 ^ 64).toNat

/-- The address to which an ACC add of an element goes (R211): a holding slot, or the R68 address of a mixed tensor. -/
def accVa (d : BitVec 512) (i : Nat) : Nat := if dMixed d then elemVa d i else dBase d + i * holdSize d

/-- The first and last byte addresses that the elements of a tensor reach (R68). -/
def dSpan (d : BitVec 512) : Nat × Nat :=
  if !dMixed d && dRole d = 2 then (dBase d, dBase d + dCount d * holdSize d - 1)
  else
    let b := codeBits (dFmt d)
    let lo := (List.range (dRank d)).foldl (fun a i => a + min 0 (((dExt d i : Int) - 1) * dStride d i)) 0
    let hi := (List.range (dRank d)).foldl (fun a i => a + max 0 (((dExt d i : Int) - 1) * dStride d i)) 0
    (((8 * (dBase d : Int) + lo * b) / 8).toNat, ((8 * (dBase d : Int) + (hi + 1) * b - 1) / 8).toNat)

/-- Regions of a tensor (R87): region k covers 64 KiB from align_down(BASE) + k × 64 KiB. -/
def regionCount (d : BitVec 512) : Nat := ((dSpan d).2 - dBase d / 2 ^ 16 * 2 ^ 16) / 2 ^ 16 + 1

/-- The role map bytes of a mixed tensor (R88). -/
def roleMap (s : State) (ctx : Nat) (d : BitVec 512) : List Nat :=
  (List.range (regionCount d)).map fun r => paNum s (recBits s ctx 243 192 + 64 * df d 223 208 + r) 1

/-- The roles that a descriptor gives its regions (R441): one for a whole tensor. -/
def rolesOf (s : State) (ctx : Nat) (d : BitVec 512) : List Nat :=
  if dMixed d then roleMap s ctx d else [dRole d]

/-- A dense STR layout (R68). -/
def strDense (d : BitVec 512) : Bool :=
  decide (dStride d 0 = 1) && (List.range (dRank d)).all fun i =>
    decide (dStride d i = (((dExts d).take i).foldl (· * ·) 1 : Nat))

/-- The checks of R67 on a valid descriptor: the class-0 cause of R134 (0x02, 0x03 or 0x06). A mixed tensor that has an STR region
counts as an STR tensor, which must be dense (R68): DEDUCED, log entry 59. An ACC tensor of format CB4 or
PBIT, which R56 does not list, passes and holds sums as XACC: DESIGN CHOICE, log entry 60. -/
def descCheck (d : BitVec 512) (roles : List Nat) : Option Nat :=
  let fmt := fmtOf (dFmt d)
  let rank := dRank d
  let has (r : Nat) : Bool := roles.any (· = r)
  let flt := match fmt with | some k => isFloat k || k = .xacc | none => false
  let scal := match fmt with | some k => isScalable k | none => false
  let b := codeBits (dFmt d)
  if df d 511 508 ≠ 0 || df d 127 127 ≠ 0 then some 0x02
  else if rank = 0 || rank > 5 || ((List.range 5).any fun i => (i < rank) = (dExt d i = 0)) || fmt.isNone
      || df d 103 102 = 3 || dComb d > 5 || df d 121 120 = 3 || dWgrp d > 19 || df d 55 55 = 1
      || roles.any (· > 3)
      || (!has 2 && (dComb d ≠ 0 || dWgrp d ≠ 0 || df d 119 104 ≠ 0))
      || (df d 119 104 ≠ 0 && !(flt && dComb d = 0))
      || (!has 3 && (df d 121 120 ≠ 0 || df d 143 128 ≠ 0))
      || (0xF2 ≤ df d 207 192 && df d 207 192 ≤ 0xFF)
      || (df d 103 102 ≠ 0 && !scal)
      || (has 2 && flt && 3 ≤ dComb d) || (has 2 && dFmt d = 13 && dComb d ≠ 0)
      || (b < 8 && !(!dMixed d && dRole d = 2) && (decide (dStride d 0 ≠ 1)
          || (List.range rank).any fun i => 1 ≤ i && decide (dStride d i % (if b = 4 then 2 else 8) ≠ 0)))
      || (has 1 && !strDense d) then some 0x03
  else if dBase d % (max 1 (b / 8)) ≠ 0 || (!dMixed d && dRole d = 2 && dBase d % 64 ≠ 0) then some 0x06
  else none

/-- The TCAUSE of a class-0 cause for a slot operation (R67). -/
def causeTrap (cause : Nat) : Nat := if cause = 0x06 then 0x09 else 0x02

/-- A handle used by a slot operation (R65, R67): its descriptor, or the trap. -/
def slotHandle (s : State) (c slot : Nat) (h : BitVec 64) : Except Trap (BitVec 512 × Bool) :=
  let ctx := ctxOfCore s c
  match openHandle s ctx h with
  | none => .error (trapGen slot h)
  | some (d, r) => match descCheck d (rolesOf s ctx d) with
    | none => .ok (d, r)
    | some cause => .error (if cause = 0x06 then trapAt 0x09 (dBase d) slot 0 else trapIllegal (coreOf s c).pc slot)

/-! ## State records of tensors (R73, R77) -/

/-- The record of a generation. -/
def recOf (s : State) (ctx index gen : Nat) : TensorRec :=
  (s.tensors.find? fun t => t.ctx = ctx && t.index = index && t.gen = gen).getD
    ⟨ctx, index, gen, 0, [], 0, 0, 0, 0, none, none, false, false⟩

/-- The state with the record of a generation replaced. -/
def putRec (s : State) (t : TensorRec) : State :=
  { s with tensors := t :: s.tensors.filter fun u => !(u.ctx = t.ctx && u.index = t.index && u.gen = t.gen) }

/-- The reader count of a generation, current or retained (R77, R79). -/
def readerCount (s : State) (ctx index gen : Nat) : Nat :=
  match rgFind s ctx index gen with
  | some j => (rgEntry s ctx j >>> 192) % 2 ^ 32
  | none => (recOf s ctx index gen).readers

/-! ## Events (R364, R365, R444) -/

/-- The address of an event entry. -/
def evAddr (s : State) (ctx i : Nat) : Nat := recBits s ctx 307 256 + 64 * i
/-- An event entry as a number. -/
def evEntry (s : State) (ctx i : Nat) : Nat := paSeen s ctx (evAddr s ctx i) 64
/-- The value of a counter. -/
def evValue (s : State) (ctx i : Nat) : Nat := evEntry s ctx i % 2 ^ 64

/-- Threshold t of an entry. -/
def evThr (e t : Nat) : Nat := (e >>> (128 + 64 * t)) % 2 ^ 64
/-- Chain t of an entry. -/
def evChain (e t : Nat) : Nat := (e >>> (384 + 32 * t)) % 2 ^ 32
/-- The arming rank of threshold t. -/
def evRank (e t : Nat) : Nat := (e >>> (72 + 2 * t)) % 4
/-- Threshold t is armed. -/
def evArmed (e t : Nat) : Bool := e.testBit (64 + t)

/-- Insert a threshold by threshold value, then rank. -/
def insThr (e t : Nat) : List Nat → List Nat
  | [] => [t]
  | u :: us => if evThr e t < evThr e u || (evThr e t = evThr e u && evRank e t < evRank e u) then t :: u :: us
               else u :: insThr e t us

/-- The armed thresholds, in the order of their ranks. -/
def armedByRank (e : Nat) : List Nat :=
  (List.range 4).flatMap fun r => (List.range 4).filter fun t => evArmed e t && evRank e t = r

/-- The ranks renumbered in a given order. -/
def reRank : Nat → List Nat → Nat → Nat
  | e, [], _ => e
  | e, t :: ts, r => reRank (setBits e (73 + 2 * t) (72 + 2 * t) r) ts (r + 1)

/-- One step at the counter: the new entry and the queued chains, in fire order (R365). -/
def incStep (e inc : Nat) : Nat × List (Nat × Nat) :=
  let old := e % 2 ^ 64
  let new := min (old + inc) (2 ^ 64 - 1)
  let e1 := setBits e 63 0 new
  let e1 := if old + inc > 2 ^ 64 - 1 then setBits e1 80 80 1 else e1
  let fired := (List.range 4).foldl (fun l t =>
    if evArmed e1 t && old < evThr e1 t && evThr e1 t ≤ new then insThr e1 t l else l) []
  let e2 := fired.foldl (fun e t => setBits (setBits e (64 + t) (64 + t) 0) (68 + t) (68 + t) 1) e1
  let e3 := reRank e2 ((armedByRank e1).filter fun t => !(fired.contains t)) 0
  (e3, fired.filterMap fun t => if evChain e1 t % 2 ^ 16 = 0 then none else some (evChain e1 t % 2 ^ 16, evChain e1 t / 2 ^ 16))

/-- An increment applied at its home (R365): the chains queue; one whose target is invalid is discarded (R444). -/
def applyInc (s : State) (ctx i inc : Nat) : State :=
  let (e, cs) := incStep (evEntry s ctx i) inc
  let s := paPut s (evAddr s ctx i) 64 e
  let cs := cs.filter fun q => eventOk s ctx q.1
  { s with chains := s.chains ++ cs.map fun q => ⟨s.pkg.toNat, ctx, q.1, q.2, none, [], none, none⟩ }

/-- An event of this package rises, unless it is event 0 (R102). -/
def raiseEvent (s : State) (ctx i inc : Nat) : State := if eventOk s ctx i then applyInc s ctx i inc else s

/-! ## Group lines (R353, R356) -/

/-- The die coordinate of a line for a core: lines 16 to 19 are package-wide. -/
def lineDie (c line : Nat) : Nat := if line < 16 then c / 64 else 0

/-- A group. -/
def groupOf (s : State) (ctx line die : Nat) : Group :=
  (s.groups.find? fun g => g.ctx = ctx && g.line = line && g.die = die).getD ⟨ctx, line, die, [], false, [], [], []⟩

/-- The state with a group replaced. -/
def putGroup (s : State) (g : Group) : State :=
  { s with groups := g :: s.groups.filter fun h => !(h.ctx = g.ctx && h.line = g.line && h.die = g.die) }

/-- A core is a member of a line. -/
def isMember (s : State) (c line : Nat) : Bool :=
  (groupOf s (ctxOfCore s c) line (lineDie c line)).members.contains c

/-- A group without a core: dropped from the required set, its assertion withdrawn (R355, R356). -/
def leaveGroup (c : Nat) (g : Group) : Group :=
  { g with members := g.members.filter (· ≠ c), required := g.required.filter (· ≠ c),
           asserted := g.asserted.filter (· ≠ c), heldAsserts := g.heldAsserts.filter (· ≠ c) }

/-- A core leaves every line of a context (R204, R353), and every required set of its pending recasts (R83). -/
def leaveCtx (s : State) (c ctx : Nat) : State :=
  { s with groups := s.groups.map fun g => if g.ctx = ctx then leaveGroup c g else g
           recasts := s.recasts.map fun r => if r.ctx = ctx then { r with required := r.required.filter (· ≠ c) } else r }

/-- A core leaves every line of its task's context. -/
def leaveAll (s : State) (c : Nat) : State := leaveCtx s c (ctxOfCore s c)

/-- The members of a tensor's writer group (R74): for a die-local line, over every die. -/
def writers (s : State) (ctx line : Nat) : List Nat :=
  (s.groups.filter fun g => g.ctx = ctx && g.line = line).flatMap (·.members)

/-! ## Pages and regions of tensors (R69, R87, R92, R441) -/

/-- The page of a context's address as its tables now stand (R92). -/
def pageOf (s : State) (ctx va : Nat) : Option Xlat := if 2 ^ 55 ≤ va then none else walk s ctx va

/-- The 64 KiB page that holds an address. -/
def pageBase (va : Nat) : Nat := va / 2 ^ 16 * 2 ^ 16

/-- The 64 KiB pages that a tensor spans. -/
def spanPages (d : BitVec 512) : List Nat :=
  let lo := pageBase (dSpan d).1
  (List.range (((dSpan d).2 - lo) / 2 ^ 16 + 1)).map fun k => lo + k * 2 ^ 16

/-- The role of the region of an element (R441). -/
def elemRole (o : Operand) (i : Nat) : Nat :=
  if dMixed o.desc then o.roles.getD (elemVa o.desc i / 2 ^ 16 - dBase o.desc / 2 ^ 16) 0 else dRole o.desc

/-- A handle of a generation of a context. -/
def mkHandle (ctx index gen : Nat) : BitVec 64 := BitVec.ofNat 64 (ctx * 2 ^ 48 + gen * 2 ^ 16 + index)

/-! ## Fault records and the end of a task (R132, R419) -/

/-- A class-1 or class-2 record of a core's task to its cluster (R419, R420). -/
def taskRecord (s : State) (c cls cause detail : Nat) : Option FaultRec :=
  let x := coreOf s c
  x.task.map fun t =>
    { level := 2, cls := cls, cause := cause, unit := unitId s c, tiid := t.tiid, ctx := t.ctx,
      detail := BitVec.ofNat 64 detail, baddr := x.tpc
      retries := ((s.pieces.find? fun p => p.id = t.piece).map (·.retries)).getD 0
      piece := t.piece
      tile := ((s.pieces.find? fun p => p.id = t.piece).map (·.tile)).getD 0 }

/-- The state with a fault record sent to the level above. -/
def sendFault (s : State) (f : Option FaultRec) : State :=
  match f with
  | some f => { s with faults := s.faults ++ [f] }
  | none => s

/-- The operations of a core in a context that its task leaves behind: they run to completion, but return no flags and fill
no head (R419). -/
def orphanOps (s : State) (c ctx : Nat) : State :=
  modCluster s (clusterOfCore c) fun k =>
    { k with engine := k.engine.map fun o => if o.core = c && o.ctx = ctx then { o with head := none, orphan := true } else o }

/-- A core no longer waits for an engine place (R312). -/
def leaveEngine (s : State) (c : Nat) : State :=
  modCluster s (clusterOfCore c) fun k => { k with waitEngine := k.waitEngine.filter (· ≠ c) }

/-- A core's task ends without retiring: it leaves its lines and the core is free; its queues run on (R419). -/
def dropTask (s : State) (c : Nat) : State :=
  let s := orphanOps (leaveAll s c) c (ctxOfCore s c)
  let s := leaveEngine { s with
                    asserts := s.asserts.filter fun a => a.core ≠ c
                    recastReqs := s.recastReqs.filter fun r => r.by_ ≠ .core c
                    bags := s.bags.map fun b => if b.1 = c then (b.1, { b.2 with byHandler := true }) else b } c
  modCore s c fun x =>
    { x with sq := x.sq.map (fun e => { e with byHandler := true })
             arrayQ := x.arrayQ.map (fun o => { o with byHandler := true })
             task := none, mode := .free, shadow := none, heads := Vector.replicate 8 .unbound, inflight := [], replay := [], syncWait := none, rejoinWait := false, stepWait := false, kept := [],
             gskew := 0, follow := [], haltReq := false, svc := none, resolved := false, answer := none, asked := false, vwaits := [], xfence := none, skipS := false,
             waiting := none, soft := false, hard := false, deadline := false }

/-- The cores of a core's gang, itself alone outside a gang. -/
def gangCores (s : State) (c : Nat) : List Nat :=
  match (coreOf s c).task with
  | some t => match t.gang with
    | some g => match s.gangs.find? (fun y => y.id = g) with
      | some y => y.members
      | none => [c]
    | none => [c]
  | none => [c]

/-- The gang of a core. -/
def gangOf (s : State) (c : Nat) : Option Gang :=
  match (coreOf s c).task with
  | some t => t.gang.bind fun g => s.gangs.find? fun y => y.id = g
  | none => none

/-- A task fails (R419): one record, its piece's staging discarded (R128), and every core of its gang ends (R361). -/
def failTask (s : State) (c cls cause detail : Nat) : State :=
  let s := sendFault s (taskRecord s c cls cause detail)
  let piece := match (coreOf s c).task with | some t => some t.piece | none => none
  let s := { s with
    pieces := s.pieces.map fun p =>
      if some p.id = piece then { p with staging := [], partials := [], state := .failed } else p }
  let cs := gangCores s c
  let g := (gangOf s c).map (·.id)
  let s := cs.foldl dropTask s
  let s := cs.foldl (fun s m => modCore s m fun x => { x with reserved := if x.reserved = piece then none else x.reserved }) s
  { s with gangs := s.gangs.filter fun y => some y.id ≠ g }

/-- The task of a core is aborted by a data error at an address: a class-2 record (R420). -/
def abortTask (s : State) (c pa : Nat) : State := if (coreOf s c).task.isNone then s else failTask s c 2 0x0E pa

/-! ## Freezing (R404, R405) -/

/-- A register result: what the replay buffer holds (R405). -/
def isRegResult (a : Flight) : Bool := match a.dst with | .reg _ _ => true | _ => false

/-- The counts of a VQNT, which land with its result (R238). -/
def isCounts (a : Flight) : Bool := match a.dst with | .ufc _ _ _ => true | _ => false

/-- Results with their remaining issue cycles (R405). -/
def remaining (n : Nat) (fs : List Flight) : List Flight := fs.map fun a => { a with due := a.due.map fun d => d - n }

/-- The results in flight at a freeze: register results move into the replay buffer with their remaining issue cycles (R405),
and the counts of VQNT are kept beside them; the others land (log entry 14). -/
def capture (s : State) (c : Nat) : State :=
  let x := coreOf s c
  let others := x.inflight.filter fun a => !isRegResult a && !isCounts a
  let x := landState others (landClears others { x with
    inflight := []
    replay := x.replay ++ remaining x.issueCount (x.inflight.filter isRegResult)
    kept := x.kept ++ remaining x.issueCount (x.inflight.filter isCounts) })
  let x := { x with replaycnt := min 128 x.replay.length }
  modCluster (setCore s c x) (clusterOfCore c) (landShared others)

/-- The replay entries put back in flight at the resumed repetition (R406). -/
def reinject (x : Core) : Core :=
  { x with inflight := x.inflight ++ (x.replay ++ x.kept).map (fun a => { a with due := a.due.map fun n => n + x.issueCount })
           replay := [], kept := [] }

/-- A result of the task that comes while the core's handler runs: it is held, and lands once the task has resumed (R407). -/
def holdResult (s : State) (c slot : Nat) (dst : Dest) (mask val gran : Nat) : State :=
  let (n, s) := freshId s
  modCore s c fun x => { x with replay := x.replay ++ [⟨n, some 0, slot, dst, mask, val, 0, gran, 0⟩] }

/-! ## Trace (R436) -/

/-- A trace entry of a core, when its context's debug mode is trace or halt; one that the memory path does not accept, which is free, is lost
and counted (R435, R436; log entry 41). Kinds 0 to 5 in the order taken transfer,
freeze, resume, halt, task start, EXIT. -/
def trace (s : State) (c kind addr : Nat) : State :=
  let ctx := ctxOfCore s c
  let y := ctxOf s ctx
  if y.dbgmode = 0 || (coreOf s c).task.isNone then s
  else if Config.freeBit s.free then
    modCtx { s with free := s.free + 1 } ctx fun y => { y with trdrop := BitVec.ofNat 16 (satNat (y.trdrop.toNat + 1) 0xFFFF) }
  else
    let s := { s with free := s.free + 1 }
    let at_ := y.trbase.toNat + 16 * (y.trcnt.toNat % 2 ^ y.trlog)
    let v := (addr % 2 ^ 56) * 2 ^ 72 + kind * 2 ^ 64 + c * 2 ^ 55 + (coreOf s c).issueCount % 2 ^ 55
    let s := paPut s at_ 16 v
    modCtx s ctx fun y => { y with trcnt := y.trcnt + 1 }

/-! ## Taking a trap (R400, R401, R407, R408) and returning (R409) -/

/-- The code region of a handler kernel (R407): an IMM UINT8 tensor of rank 1. -/
def kernelRegion (s : State) (ctx : Nat) (h : BitVec 64) : Option Region :=
  match openHandle s ctx h with
  | some (d, _) =>
    if dFmt d = 1 && dRank d = 1 && !dMixed d && dRole d = 0 && (descCheck d (rolesOf s ctx d)).isNone
    then some ⟨dBase d, dExt d 0⟩ else none
  | none => none

/-- The trap recorded in the task's CSRs (R400, R403). -/
def recordTrap (x : Core) (t : Trap) : Core :=
  { x with tcause := BitVec.ofNat 64 t.cause, tpc := BitVec.ofNat 64 (x.pc.toNat % 2 ^ 56),
           taddr := BitVec.ofNat 64 (t.addr % 2 ^ 56), tdetail := BitVec.ofNat 64 t.detail }

/-- Entry into the handler (R407): the task's held operations, s1 to s7, p1 to p7 and six CSRs are shadowed and cleared,
and fetch starts at the handler's base. -/
def enterHandler (x : Core) (r : Region) : Core :=
  { x with
    shadow := some ⟨x.held.toList, (List.range 7).map fun i => x.s[i + 1]?.getD 0, (List.range 7).map fun i => x.p[i + 1]?.getD false,
                    x.rbase, x.loopcnt, x.loopend, x.aflags, x.wcoll, x.issueCount, x.repidx, x.skipS⟩
    held := slotNops
    skipS := false
    s := (List.range 7).foldl (fun v i => v.setIfInBounds (i + 1) 0) x.s
    p := #v[true, false, false, false, false, false, false, false]
    rbase := 0, loopcnt := 0, loopend := 0, aflags := 0, wcoll := 0, issueCount := 0, repidx := 0
    pc := BitVec.ofNat 64 r.base
    handlerCode := r
    mode := .handler }

/-- A member of a fused gang freezes with it (R361). -/
def freezeMember (s : State) (m : Nat) : State :=
  if (coreOf s m).mode = .running then
    trace (modCore (leaveEngine s m) m fun x => { x with mode := .gangFrozen }) m 1 (coreOf s m).pc.toNat
  else s

/-- The other members of a fused gang freeze (R361). -/
def freezeGang (s : State) (c : Nat) : State :=
  match gangOf s c with
  | some g => if !g.fused then s else (g.members.filter fun m => m ≠ c).foldl freezeMember s
  | none => s

/-- A member of a gang of which one core has met a BRK halts, where it stands (R361, R436); one that has exited has ended. -/
def haltMember (s : State) (m : Nat) : State :=
  let x := coreOf s m
  let halt (x : Core) : State := trace (setCore (leaveEngine s m) m { x with mode := .halted, waiting := none }) m 3 x.pc.toNat
  match x.mode with
  | .running | .handler | .gangFrozen => halt x
  | .service => halt { x with svc := none, resolved := false }
  | .returning _ => setCore s m { x with haltReq := true }
  | _ => s

/-- A trap that no fault service resolves: in handler state the task fails (R408); otherwise the core freezes and the
handler runs, or the task fails when there is none (R407). A BRK halts under debug mode 2 (R436). -/
def deliverTrap (s : State) (c : Nat) (t : Trap) : State :=
  let x := coreOf s c
  if x.shadow.isSome then failTask s c 1 t.cause (if x.taddr ≠ 0 then x.taddr.toNat else x.tdetail.toNat)
  else
    let ctx := ctxOfCore s c
    let s := capture (setCore s c (recordTrap { x with waiting := none, stepWait := false, svc := none, resolved := false } t)) c
    let s := trace s c 1 x.pc.toNat
    if t.cause = 0x0C && (ctxOf s ctx).dbgmode = 2 then
      (gangCores s c).foldl haltMember (modCore s c fun x => { x with mode := .running, skipS := true })
    else
      match if x.tvec = 0 then none else kernelRegion s ctx x.tvec with
      | some r => freezeGang (modCore s c fun x => enterHandler x r) c
      | none => failTask s c 1 t.cause (if t.addr % 2 ^ 56 ≠ 0 then t.addr % 2 ^ 56 else t.detail % 2 ^ 64)

/-- A trap at a repetition (R401): translation and write-protection faults go first to the context's fault service
(R98), every other one is delivered. -/
def takeTrap (s : State) (c : Nat) (t : Trap) : State :=
  let s := leaveEngine { s with free := s.free + 1, recastReqs := s.recastReqs.filter fun r => r.by_ ≠ .core c } c
  let s := modCore s c fun x =>
    { x with asked := false, answer := none, vwaits := [], xfence := none, stepWait := false
             loads := x.loads.filter fun l => match l.dst with | .vec _ _ => false | _ => true }
  if t.cause = 0x05 || t.cause = 0x06 || t.fetch then
    modCore s c fun x => { x with mode := .service, svc := some t, resolved := false, waiting := none }
  else deliverTrap s c t

/-- The return from a handler (R409): the shadow restored, the task resuming at TPC and REPIDX under R406. -/
def leaveHandler (s : State) (c : Nat) (skip : Bool) : State :=
  let x := coreOf s c
  match x.shadow with
  | none => s
  | some sh =>
    let x := { x with
      held := Vector.ofFn fun i => (sh.held[i.val]?).getD (slotNops[i])
      s := (List.range 7).foldl (fun v i => v.setIfInBounds (i + 1) (sh.s[i]?.getD 0)) x.s
      p := (List.range 7).foldl (fun v i => v.setIfInBounds (i + 1) (sh.p[i]?.getD false)) x.p
      rbase := sh.rbase, loopcnt := sh.loopcnt, loopend := sh.loopend, aflags := sh.aflags, wcoll := sh.wcoll
      issueCount := sh.issueCount, repidx := sh.repidx
      shadow := none, mode := .running, pc := x.tpc, skipS := skip || sh.skipS, inflight := [], waiting := none }
    let s := trace (setCore s c (reinject x)) c 2 x.pc.toNat
    (gangCores s c).foldl (fun s m =>
      let y := coreOf s m
      if y.mode = .gangFrozen then trace (setCore s m { y with mode := .running }) m 2 y.pc.toNat else s) s

/-! ## The wrapper of a slot operation -/

/-- The effects of one issue cycle applied to a core's iterators: the steps, then the writes (R170). -/
def applyIters (x : Core) (e : Effects) : Core :=
  let x := e.steps.eraseDups.foldl (fun x n => setIt x n (itStep (itOf x n))) x
  let x := e.walks.foldl (fun x q => setIt x q.1 (itSteps q.2 (itOf x q.1))) x
  e.itWrites.foldl (fun x q =>
    let i := itOf x q.1
    let lvl (n : Nat) (f : ItLevel → ItLevel) (i : Iter) : Iter := match n with
      | 0 => { i with l0 := f i.l0 } | 1 => { i with l1 := f i.l1 } | 2 => { i with l2 := f i.l2 }
      | _ => { i with l3 := f i.l3 }
    setIt x q.1 (match q.2 with
      | .base b => itReset { i with base := b }
      | .level n c st => itReset (lvl n (fun l => { l with count := c, stride := st }) i)
      | .count n c => itReset (lvl n (fun l => { l with count := c }) i)
      | .indices w =>
        let ix (l : ItLevel) (k : Nat) : ItLevel := { l with idx := BitVec.ofNat 16 (fieldAt w.toNat 16 k % lvCount l) }
        { i with l0 := ix i.l0 0, l1 := ix i.l1 1, l2 := ix i.l2 2, l3 := ix i.l3 3 }
      | .reset => itReset i
      | .reverse => itReverse i)) x

end Sys2Proof.Machine
end

