-- ==== Sys2Proof/Machine/Operands.lean ====
section
/-!
DEFINITION. Operand forms: the slot of an operation and its issue kind (R162, R165), the registers it touches (R176), the
S-slot forms (R196, R206), vector elements, lane masks, head latches and conversions (R226 to R229, R236), and the
format of values.
-/
namespace Sys2Proof.Machine

/-- The slot number of VA or VB. -/
def vSlotNo : VSlot → Nat | .va => 1 | .vb => 2
/-- Whether a slot is VB. -/
def isVb : VSlot → Bool | .va => false | .vb => true
/-- The slot number of CA or CB. -/
def cSlotNo : CSlot → Nat | .ca => 5 | .cb => 6
/-- Whether a slot is CB. -/
def isCb : CSlot → Bool | .ca => false | .cb => true

/-- The slot of a slot operation: 0 S, 1 VA, 2 VB, 3 M, 4 K, 5 CA, 6 CB (R162, R189). -/
def slotOf (i : Instr) : Option Nat :=
  match i with
  | .nop | .add _ | .sub _ | .mul _ | .mulh _ | .mulhn _ | .div _ | .divn _ | .mod _ | .modn _ | .and _ | .or _
  | .xor _ | .shl _ | .shr _ | .sra _ | .min _ | .max _ | .minn _ | .maxn _ | .clz _ | .popc _ | .sext _ | .zext _
  | .addi _ | .andi _ | .ori _ | .xori _ | .shli _ | .shri _ | .srai _ | .li _ | .lih16 _ | .lih32 _ | .lih48 _
  | .cmp _ | .cmpi _ | .pand _ | .por _ | .pxor _ | .sel _ | .pmov _ | .pmovToS _ | .pmovFromS _ | .br _ | .jmp _
  | .call _ | .ret _ | .loop _ | .rbset _ | .exit _ | .yield _ | .ldl _ | .stl _ | .ldm _ | .stm _ | .amo _
  | .sacc _ | .sapp _ | .hld _ | .hview _ | .rcast _ | .hold _ | .rels _ | .hgen _ | .taglk _ | .tagset _
  | .tagclr _ | .tagclrK _ | .xsv _ | .xvs _ | .itset _ | .itget _ | .gjoin _ | .gleave _ | .sync _ | .fuse _
  | .decpl _ | .rejoin _ | .wstep _ | .evadd _ | .evarm _ | .evarmDis _ | .evwait _ | .evrd _ | .fence _
  | .xfence _ | .tis _ | .tiwait _ | .csrr _ | .csrw _ | .trap _ | .eret _ | .brk _ => some 0
  | .vnop x | .vadd x _ | .vsub x _ | .vmul x _ | .vfma x _ | .vfms x _ | .vfnma x _ | .vmin x _ | .vmax x _
  | .vabs x _ | .vneg x _ | .vdiv x _ | .vmulh x _ | .vsadd x _ | .vssub x _ | .vand x _ | .vor x _ | .vxor x _
  | .vnot x _ | .vshl x _ | .vshr x _ | .vsra x _ | .vpopc x _ | .vclz x _ | .vcmp x _ | .vsel x _ | .vmand x _
  | .vmor x _ | .vmxor x _ | .vmnot x _ | .vmcnt x _ | .vcvt x _ | .vqnt x _ | .vdqn x _ | .vcbx x _ | .vcbq x _
  | .vamax x _ | .vmov x _ | .vbcst x _ | .vperm x _ | .vshfl x _ | .viota x _ | .vcmps x _ | .vexpd x _ | .vxv x _
  | .vred x _ | .vscan x _ | .vdot x _ | .vexp2 x _ | .vlog2 x _ | .vrcp x _ | .vrsq x _ | .vsqrt x _ | .vsinpi x _
  | .vcospi x _ | .vtanh x _ | .vsigm x _ | .vld x _ | .vst x _ | .vgth x _ | .vsct x _ | .vacc x _ | .vamo x _
  | .vapp x _ => some (vSlotNo x)
  | .mnop | .mma _ | .mmag _ | .mmas _ | .mgth _ | .aclr _ | .aspl _ | .afil _ | .asw _ | .mdrn _ | .prja _
  | .mwait _ => some 3
  | .knop | .klds _ | .ksts _ | .kldc _ | .kmov _ | .kauto _ | .kufc _ | .itlvl _ | .itrst _ | .itrev _ | .itstep _
  | .kseed _ => some 4
  | .cnop x | .copy x _ | .cprf x _ | .cwb x _ | .sbind x _ | .sadv x _ | .swtf x _ | .swte x _ | .mcast x _
  | .csend x _ | .crecv x _ | .chks x _ | .cwait x _ | .carm x _ | .cstat x _ | .sclose x _ | .cdesc x _ => some (cSlotNo x)
  | .tnop _ | .tmm _ | .tmmg _ | .tconv _ | .tmap _ | .tred _ | .tscan _ | .tcopy _ | .tcast _ | .tprj _ | .tprja _
  | .tcol _ | .tfill _ | .tevt _ | .twait _ | .tchk _ | .tstep _ | .issueBundle _ | .moduleResetBoot
  | .dieFatalFault _ | .dieSwitchInComplete _ | .powerLimitExceeded | .powerLimitRecovered
  | .detClockChangeBoundary | .thermalTrip _ | .thermalDieFatal _ | .setPowerLimit _ | .dieIdleEntry _
  | .dataError _ _ | .sqtailWrite _ _ _ | .cqheadWrite _ _ _ | .ovrClear _ _ _ | .contextCreate _
  | .contextUpdate _ | .contextDestroy _ | .partitionWrite _ _ | .xinvWrite _ | .xinvDone | .preemptSoftRequest _ _
  | .preemptHardRequest _ _ | .cxsaveWrite _ _ | .readbackCore _ | .readbackCluster _ | .readbackScheduler _
  | .readbackEvent _ | .readbackCertChain _ | .readbackAttestation _ | .readbackDone | .debugModeWrite _ _
  | .debugHalt _ | .debugResume _ | .owndigWrite _ _ _ | .mgmtRegisterWrite _ _ | .hostApply _ | .hostRead _ _
  | .fetchEntry | .handOutPiece _ _ _ | .agingTick _ _ _ | .steal _ | .gangAdmit _ | .taskStart _ | .bankSpill _ _
  | .taskRetire _ | .pieceRetireMerge _ | .tileRetire _ | .completionRecordWrite _ _ | .faultRecordReceive _
  | .stallRelease _ | .watchdogExpiry _ | .preemptDeadlineExpiry _ | .hardPreemptFreeze _ | .freezeRecordSave _
  | .frozenTaskResume _ | .arrayOpStart _ | .arrayOpComplete _ | .mwinModeTakeEffect _ | .l0TileStart _
  | .l0TileRetire _ | .storeApply _ _ | .loadPerform _ _ | .accCombine _ | .pipeDeliver _ _
  | .threadLineAccess _ _ _ | .asyncMerge _ | .engineOpComplete _ _ | .pageWalkComplete _ _ _
  | .faultServiceResolve _ | .faultResolvedRetry _ | .recastArrival _ | .recastComplete _ | .eventIncrement _
  | .eventChainApply | .syncRelease _ _ _ | .rejoinRelease _ | .geyserTick | .geyserAlignMessage _
  | .noProgressTimeout _ _ | .recoveryWindowEnd _ | .headerFlit _ _ | .payloadFlit _ _ | .acknowledge _ _
  | .retryRequest _ _ | .idle _ _ | .flitCrcFail _ _ | .portFailure _ | .channelTileArrive _
  | .channelTileDeliver _ | .scratchpadTileReady _ | .fabricGroupConfigure _ _ _ | .fixedLatencyPacketRelease _ => none

/-- One-shot operations (R183 to R187); every other slot operation is held (R165). -/
def oneShot (i : Instr) : Bool :=
  match i with
  | .br _ | .jmp _ | .call _ | .ret _ | .loop _ | .rbset _ | .exit _ | .yield _ | .hld _ | .hview _ | .rcast _
  | .hold _ | .rels _ | .hgen _ | .taglk _ | .tagset _ | .tagclr _ | .tagclrK _ | .itset _ | .gjoin _ | .gleave _
  | .sync _ | .fuse _ | .decpl _ | .rejoin _ | .wstep _ | .evadd _ | .evarm _ | .evarmDis _ | .evwait _ | .evrd _
  | .fence _ | .xfence _ | .tis _ | .tiwait _ | .csrr _ | .csrw _ | .trap _ | .eret _ | .brk _ | .aclr _ | .aspl _
  | .afil _ | .asw _ | .mwait _ | .kufc _ | .itlvl _ | .itrst _ | .itrev _ | .kseed _ | .sbind _ _ | .swtf _ _
  | .swte _ _ | .chks _ _ | .cwait _ _ | .carm _ _ | .cstat _ _ | .sclose _ _ | .cdesc _ _ => true
  | .nop | .add _ | .sub _ | .mul _ | .mulh _ | .mulhn _ | .div _ | .divn _ | .mod _ | .modn _ | .and _ | .or _
  | .xor _ | .shl _ | .shr _ | .sra _ | .min _ | .max _ | .minn _ | .maxn _ | .clz _ | .popc _ | .sext _ | .zext _
  | .addi _ | .andi _ | .ori _ | .xori _ | .shli _ | .shri _ | .srai _ | .li _ | .lih16 _ | .lih32 _ | .lih48 _
  | .cmp _ | .cmpi _ | .pand _ | .por _ | .pxor _ | .sel _ | .pmov _ | .pmovToS _ | .pmovFromS _ | .ldl _ | .stl _
  | .ldm _ | .stm _ | .amo _ | .sacc _ | .sapp _ | .xsv _ | .xvs _ | .itget _ | .vnop _ | .vadd _ _ | .vsub _ _
  | .vmul _ _ | .vfma _ _ | .vfms _ _ | .vfnma _ _ | .vmin _ _ | .vmax _ _ | .vabs _ _ | .vneg _ _ | .vdiv _ _
  | .vmulh _ _ | .vsadd _ _ | .vssub _ _ | .vand _ _ | .vor _ _ | .vxor _ _ | .vnot _ _ | .vshl _ _ | .vshr _ _
  | .vsra _ _ | .vpopc _ _ | .vclz _ _ | .vcmp _ _ | .vsel _ _ | .vmand _ _ | .vmor _ _ | .vmxor _ _ | .vmnot _ _
  | .vmcnt _ _ | .vcvt _ _ | .vqnt _ _ | .vdqn _ _ | .vcbx _ _ | .vcbq _ _ | .vamax _ _ | .vmov _ _ | .vbcst _ _
  | .vperm _ _ | .vshfl _ _ | .viota _ _ | .vcmps _ _ | .vexpd _ _ | .vxv _ _ | .vred _ _ | .vscan _ _ | .vdot _ _
  | .vexp2 _ _ | .vlog2 _ _ | .vrcp _ _ | .vrsq _ _ | .vsqrt _ _ | .vsinpi _ _ | .vcospi _ _ | .vtanh _ _
  | .vsigm _ _ | .vld _ _ | .vst _ _ | .vgth _ _ | .vsct _ _ | .vacc _ _ | .vamo _ _ | .vapp _ _ | .mnop | .mma _
  | .mmag _ | .mmas _ | .mgth _ | .mdrn _ | .prja _ | .knop | .klds _ | .ksts _ | .kldc _ | .kmov _ | .kauto _
  | .itstep _ | .cnop _ | .copy _ _ | .cprf _ _ | .cwb _ _ | .sadv _ _ | .mcast _ _ | .csend _ _ | .crecv _ _
  | .tnop _ | .tmm _ | .tmmg _ | .tconv _ | .tmap _ | .tred _ | .tscan _ | .tcopy _ | .tcast _ | .tprj _ | .tprja _
  | .tcol _ | .tfill _ | .tevt _ | .twait _ | .tchk _ | .tstep _ | .issueBundle _ | .moduleResetBoot
  | .dieFatalFault _ | .dieSwitchInComplete _ | .powerLimitExceeded | .powerLimitRecovered
  | .detClockChangeBoundary | .thermalTrip _ | .thermalDieFatal _ | .setPowerLimit _ | .dieIdleEntry _
  | .dataError _ _ | .sqtailWrite _ _ _ | .cqheadWrite _ _ _ | .ovrClear _ _ _ | .contextCreate _
  | .contextUpdate _ | .contextDestroy _ | .partitionWrite _ _ | .xinvWrite _ | .xinvDone | .preemptSoftRequest _ _
  | .preemptHardRequest _ _ | .cxsaveWrite _ _ | .readbackCore _ | .readbackCluster _ | .readbackScheduler _
  | .readbackEvent _ | .readbackCertChain _ | .readbackAttestation _ | .readbackDone | .debugModeWrite _ _
  | .debugHalt _ | .debugResume _ | .owndigWrite _ _ _ | .mgmtRegisterWrite _ _ | .hostApply _ | .hostRead _ _
  | .fetchEntry | .handOutPiece _ _ _ | .agingTick _ _ _ | .steal _ | .gangAdmit _ | .taskStart _ | .bankSpill _ _
  | .taskRetire _ | .pieceRetireMerge _ | .tileRetire _ | .completionRecordWrite _ _ | .faultRecordReceive _
  | .stallRelease _ | .watchdogExpiry _ | .preemptDeadlineExpiry _ | .hardPreemptFreeze _ | .freezeRecordSave _
  | .frozenTaskResume _ | .arrayOpStart _ | .arrayOpComplete _ | .mwinModeTakeEffect _ | .l0TileStart _
  | .l0TileRetire _ | .storeApply _ _ | .loadPerform _ _ | .accCombine _ | .pipeDeliver _ _
  | .threadLineAccess _ _ _ | .asyncMerge _ | .engineOpComplete _ _ | .pageWalkComplete _ _ _
  | .faultServiceResolve _ | .faultResolvedRetry _ | .recastArrival _ | .recastComplete _ | .eventIncrement _
  | .eventChainApply | .syncRelease _ _ _ | .rejoinRelease _ | .geyserTick | .geyserAlignMessage _
  | .noProgressTimeout _ _ | .recoveryWindowEnd _ | .headerFlit _ _ | .payloadFlit _ _ | .acknowledge _ _
  | .retryRequest _ _ | .idle _ _ | .flitCrcFail _ _ | .portFailure _ | .channelTileArrive _
  | .channelTileDeliver _ | .scratchpadTileReady _ | .fabricGroupConfigure _ _ _ | .fixedLatencyPacketRelease _ => false

/-- The NOP of a slot. -/
def nopOf (slot : Nat) : Instr := (slotNops[slot]?).getD .nop

/-- Whether an operation is its slot's NOP, which occupies nothing (R173). -/
def isNop (i : Instr) : Bool := ((slotOf i).map fun k => decide (i = nopOf k)).getD false

/-! ## S-slot forms (R196, R206) -/

/-- The signed imm11. -/
def imm11 (f : SRI) : Word := f.imm.signExtend 64
/-- The signed imm16. -/
def imm16 (f : SI16) : Word := f.imm.signExtend 64
/-- A source of form RR. -/
def sA (x : Core) (f : SRR) : Word := rdS x f.a.toNat
/-- The second source of form RR. -/
def sB (x : Core) (f : SRR) : Word := rdS x f.b.toNat
/-- The destination of form RR read as a source. -/
def sD (x : Core) (f : SRR) : Word := rdS x f.d.toNat
/-- The target of form D21: the header address plus 4 × disp21 (R201). -/
def dTarget (at_ : Site) (f : SD21) : Word := at_.addr + 4 * f.disp.signExtend 64
/-- Access size in bytes of the S-slot memory forms: fn[1:0] (R206). -/
def sSize (f : SRR) : Nat := 2 ^ bitsOf f.fn 1 0
/-- Address of the S-slot memory forms: s[a] + off5 × size, carried in 64 bits (R206, R172). -/
def sAddr (x : Core) (f : SRR) : Nat := ((sA x f).toNat + f.b.toNat * sSize f) % 2 ^ 64
/-- A loaded value of n bytes, sign-extended when asked (R206). -/
def extendLoad (signed : Bool) (n v : Nat) : Word := if signed then sext64 (8 * n) v else BitVec.ofNat 64 v

/-! ## Vector forms (R226 to R230) -/

/-- Width in bits of an operation. -/
def vW (f : VF) : Nat := widthBits f.width
/-- Element size by `fmt`. -/
def vE (f : VF) : Nat := codeBits f.fmt.toNat
/-- `fmt`; a code that decode has refused reads as INT8. -/
def vF (f : VF) : Fmt := (fmtOf f.fmt.toNat).getD .i8
/-- `fmt2`. -/
def vF2 (f : VF) : Fmt := (fmtOf f.fmt2.toNat).getD .i8
/-- `rm`. -/
def vRm (f : VF) : RM := (rmOf f.rm.toNat).getD .rne
/-- The iterator of a memory operation: `imm`[13:10] (R248). -/
def vIt (f : VF) : Nat := bitsOf f.imm 13 10
/-- The lane mask (R227, R228). -/
def vMask (x : Core) (vb : Bool) (f : VF) : Nat := (rdM x vb f.mask.toNat).toNat
/-- Whether element i of n is active under a lane mask (R228). -/
def active (m n i : Nat) : Bool := if n ≤ 64 then m.testBit i else m.testBit (i / (n / 64))
/-- The bits that one governing mask bit covers for elements of e bits in width w (R228, R415). -/
def granOf (e w : Nat) : Nat := max e (w / 64)

/-- The latch of a head: the entry at `CPTR`, from the scratchpad (R318). -/
def headLatch (s : State) (c h : Nat) : Nat :=
  let y := headOf (coreOf s c) h
  spNum s (clusterOfCore c) (spOff y.base + y.ew * (y.cptr.toNat % (max y.nent 1))) y.ew
/-- Fill of a head (R318). -/
def headFill (y : Head) : Nat := (y.pptr - y.cptr).toNat
/-- Free count of a head (R318). -/
def headFree (y : Head) : Nat := y.nent - headFill y
/-- A head of a record (R329), with the allocations kept for it. -/
def headOfBits (v : Nat) (allocs : List HeadAlloc) : Head :=
  let f (hi lo : Nat) : Nat := (v >>> lo) % 2 ^ (hi + 1 - lo)
  { bound := v.testBit 101, base := f 55 0, nent := f 127 112 + 1
    ew := match f 99 98 with | 0 => 32 | 1 => 64 | _ => 128
    src := match f 97 96 with | 0 => .software | 1 => .str | 2 => .copy | _ => .channel
    srcv := BitVec.ofNat 64 (f 255 192), pptr := BitVec.ofNat 32 (f 191 160), cptr := BitVec.ofNat 32 (f 159 128)
    tailb := f 111 104, allocs := allocs }

/-- The physical address of a core's record in a context's save area (R415). -/
def recordPa (s : State) (ctx c : Nat) : Nat := (ctxOf s ctx).cxsave.toNat + 2 ^ 17 * c

/-- The task of a context that is frozen on a core and whose record stands in memory. -/
def savedTask (s : State) (ctx c : Nat) : Option FrozenTask := s.frozen.find? fun z => z.core = c && z.task.ctx = ctx

/-- A head of a saved task, as its record gives it. -/
def savedHead (s : State) (z : FrozenTask) (h : Nat) : Head :=
  headOfBits (paNum s (recordPa s z.task.ctx z.core + 0x1A80 + 32 * h) 32) (z.allocs.getD h [])

/-- A head of a core's task of a context, wherever it stands: a freeze leaves it where engine operations reach it (R312,
R404). -/
def headAt (s : State) (ctx c h : Nat) : Head :=
  match savedTask s ctx c with
  | some z => savedHead s z h
  | none => headOf (coreOf s c) h

/-- The state with the fill of such a head changed: `PPTR`, `TAILB` and its allocations. -/
def modHeadAt (s : State) (ctx c h : Nat) (f : Head → Head) : State :=
  match savedTask s ctx c with
  | some z =>
    let y := f (savedHead s z h)
    let s := paPut s (recordPa s ctx c + 0x1A80 + 32 * h + 20) 4 y.pptr.toNat
    let s := paPut s (recordPa s ctx c + 0x1A80 + 32 * h + 13) 1 y.tailb
    { s with frozen := s.frozen.map fun w => if w = z then { w with allocs := w.allocs.set h y.allocs } else w }
  | none => modCore s c fun x => setHead x h (f (headOf x h))

/-- The heads of the frozen tasks of core c that are saved while their context's data is in the cluster. -/
def savedHeads (s : State) (k c : Nat) : List Head :=
  (s.frozen.filter fun z => z.core = c && (clusterOf s k).spCtx = some z.task.ctx).flatMap fun z =>
    (List.range 8).map (savedHead s z)

/-- The saved task whose head an engine thread numbers h: from 8 on, eight numbers for each context, while the cluster holds the
context's data; 0 to 7 are the heads of the task on the core (R312, R404, R416). -/
def threadTask (s : State) (c h : Nat) : Option FrozenTask :=
  if h < 8 then none
  else (savedTask s (h / 8 - 1) c).filter fun z => (clusterOf s (clusterOfCore c)).spCtx = some z.task.ctx

/-- The head that an engine thread numbers so. -/
def threadHead (s : State) (c h : Nat) : Head :=
  if h < 8 then headOf (coreOf s c) h
  else match threadTask s c h with
    | some z => savedHead s z (h % 8)
    | none => .unbound

/-- The state with that head changed. -/
def setThreadHead (s : State) (c h : Nat) (y : Head) : State :=
  if h < 8 then modCore s c fun x => setHead x h y else modHeadAt s (h / 8 - 1) c (h % 8) fun _ => y

/-- The state as such a thread's accesses see it: its own task on the core. -/
def threadView (s : State) (c h : Nat) : State :=
  match threadTask s c h with
  | some z => modCore s c fun x => { x with task := some z.task }
  | none => s

/-- What a head that reads a tensor has fetched, what the tensor offers, and whether more may come. A core that consumes an STR
tensor shares the tensor's record (R73); a head over IMM or own OWN pages (R71) keeps its own place. -/
structure HeadSupply where
  desc : BitVec 512
  fetched : Nat
  offered : Nat
  closed : Bool
  stream : Bool

/-- Elements of an entry of a head over a tensor. -/
def headPer (y : Head) (d : BitVec 512) : Nat := y.ew * 8 / max (codeBits (dFmt d)) 1

/-- The supply of a head of core c over a tensor. -/
def headSupply (s : State) (c : Nat) (y : Head) : HeadSupply :=
  let ctx := ctxOfCore s c
  let t := recOf s ctx (hIndex y.srcv) (hGen y.srcv)
  if t.consumer = some c then ⟨descOf s ctx (hIndex y.srcv), t.fetched, t.appended, t.closed && decide (t.issued ≤ t.appended), true⟩
  else match openHandle s ctx y.srcv with
    | some (d, _) => ⟨d, min (dCount d) (y.pptr.toNat * headPer y d), dCount d, true, false⟩
    | none => ⟨0, 0, 0, false, false⟩

/-- The end of a head bound to a tensor (R322): the tensor is closed and every element has entered the head. -/
def headEnd (s : State) (c h : Nat) : Bool :=
  let y := headOf (coreOf s c) h
  let u := headSupply s c y
  y.src = .str && u.closed && decide (u.offered ≤ u.fetched)

/-- How a head stands toward a read or a pop: a trap (R229, R319, R322), or whether it must wait (R176). -/
def headUse (s : State) (c h : Nat) : Except Trap Bool :=
  let y := headOf (coreOf s c) h
  if !y.bound then .error (trapOf 0x0D h)
  else if headFill y = 0 then (if headEnd s c h then .error (trapOf 0x0D h) else .ok true)
  else .ok false

/-- The head check of a vector operation whose gate is open (R229): a trap, or whether it must wait. -/
def vHead (s : State) (c : Nat) (f : VF) : Except Trap Bool :=
  if f.hsub.toNat = 0 then .ok false
  else
    let h := f.head.toNat
    let y := headOf (coreOf s c) h
    if y.bound && decide (8 * y.ew ≠ vW f) then .error (trapOf 0x0D h) else headUse s c h

/-- A source of a vector operation: the register, or the latch that replaces it (R229). -/
def vSrc (s : State) (c : Nat) (vb : Bool) (f : VF) (which : Nat) (reg : BitVec 4) : Nat :=
  if f.hsub.toNat = which then headLatch s c f.head.toNat else (rdV (coreOf s c) vb reg.toNat).toNat
/-- Source a. -/
def vA (s : State) (c : Nat) (vb : Bool) (f : VF) : Nat := vSrc s c vb f 1 f.a
/-- Source b. -/
def vB (s : State) (c : Nat) (vb : Bool) (f : VF) : Nat := vSrc s c vb f 2 f.b
/-- Source c. -/
def vC (s : State) (c : Nat) (vb : Bool) (f : VF) : Nat := vSrc s c vb f 3 f.c

/-- A result of some elements: (place, bits) of e bits each, as a bit mask and a value. -/
def gather (e : Nat) (rs : List (Nat × Nat)) : Nat × Nat :=
  rs.foldl (fun q r => (q.1 ||| (ones e <<< (e * r.1)), q.2 ||| ((r.2 % 2 ^ e) <<< (e * r.1)))) (0, 0)

/-- A vector result: the elements that an operation computes, each with its flags, written to register d. -/
def vWrite (s : State) (c : Nat) (x : VSlot) (lat d e w : Nat) (rs : List (Nat × Nat × Nat)) : State :=
  let g := gather e (rs.map fun r => (r.1, r.2.1))
  setV s c (vSlotNo x) lat (isVb x) d g.1 g.2 (rs.foldl (fun a r => a ||| r.2.2) 0) (granOf e w)

/-- The elements below n that a lane mask makes active. -/
def actives (m n : Nat) : List Nat := (List.range n).filter fun i => active m n i

/-- The elements of a vector operation: their count n, and element i of each source (R226). -/
structure Elems where
  n : Nat
  m : Nat
  a : Nat → Nat
  b : Nat → Nat
  c : Nat → Nat

/-- The elements of an operation of one format (R226), after its head check (R229): a trap, or `none` while it waits. -/
def vElems (s : State) (c : Nat) (x : VSlot) (f : VF) : Except Trap (Option Elems) :=
  match vHead s c f with
  | .error t => .error t
  | .ok true => .ok none
  | .ok false =>
    let vb := isVb x
    let va := vA s c vb f
    let vbb := vB s c vb f
    let vc := vC s c vb f
    .ok (some ⟨elemCount (vW f) (vE f), vMask (coreOf s c) vb f, fun i => fieldAt va (vE f) i, fun i => fieldAt vbb (vE f) i,
      fun i => fieldAt vc (vE f) i⟩)

/-- The random bits of an element in the vector pipeline (R41, R230). -/
def vRnd (x : Core) (i : Nat) : Nat := laneRnd x.seedkey x.issueCount i

/-! ## Uses of the vector fields -/

/-- What an operation uses its register fields for: slot, fields, d, a, b, c. -/
structure VUse where
  x : VSlot
  f : VF
  d : Use
  a : Use
  b : Use
  c : Use

/-- The uses of each vector operation (R231 to R252). -/
def vUses (i : Instr) : Option VUse :=
  match i with
  | .vadd x f | .vsub x f | .vmul x f | .vmin x f | .vmax x f | .vdiv x f | .vmulh x f | .vsadd x f | .vssub x f
  | .vand x f | .vor x f | .vxor x f | .vsel x f | .vcbx x f | .vcbq x f | .vexpd x f =>
    some ⟨x, f, .vec, .vec, .vec, .no⟩
  | .vfma x f | .vfms x f | .vfnma x f | .vperm x f | .vdot x f => some ⟨x, f, .vec, .vec, .vec, .vec⟩
  | .vabs x f | .vneg x f | .vnot x f | .vpopc x f | .vclz x f | .vcvt x f | .vamax x f | .vmov x f | .vcmps x f
  | .vred x f | .vexp2 x f | .vlog2 x f | .vrcp x f | .vrsq x f | .vsqrt x f | .vsinpi x f | .vcospi x f | .vtanh x f
  | .vsigm x f => some ⟨x, f, .vec, .vec, .no, .no⟩
  | .vshl x f | .vshr x f | .vsra x f => some ⟨x, f, .vec, .vec, if bitOf f.imm 6 then .no else .vec, .no⟩
  | .vcmp x f => some ⟨x, f, .mreg, .vec, .vec, .no⟩
  | .vmand x f | .vmor x f | .vmxor x f => some ⟨x, f, .mreg, .mreg, .mreg, .no⟩
  | .vmnot x f => some ⟨x, f, .mreg, .mreg, .no, .no⟩
  | .vmcnt x f => some (if f.imm.toNat = 2 then ⟨x, f, .mreg, .vec, .no, .no⟩ else ⟨x, f, .vec, .mreg, .no, .no⟩)
  | .vqnt x f => some ⟨x, f, .vec, .vec, .vec, if f.fmt2.toNat = 12 then .vec else .no⟩
  | .vdqn x f => some ⟨x, f, .vec, .vec, .vec, if f.fmt.toNat = 12 then .vec else .no⟩
  | .vbcst x f => some ⟨x, f, .vec, if bitOf f.imm 13 then .no else .vec, .no, .no⟩
  | .vshfl x f => some ⟨x, f, .vec, .vec, if 2 ≤ bitsOf f.imm 2 0 && bitsOf f.imm 2 0 ≤ 6 then .vec else .no, .no⟩
  | .viota x f => some ⟨x, f, .vec, .no, .no, .no⟩
  | .vxv x f => some ⟨x, f, .no, .vec, .no, .no⟩
  | .vscan x f => some ⟨x, f, .vec, .vec, .no, if bitOf f.imm 5 then .mreg else .no⟩
  | .vld x f => some ⟨x, f, .vec, .no, .no, .no⟩
  | .vst x f => some ⟨x, f, .no, .vec, .no, .no⟩
  | .vgth x f => some ⟨x, f, .vec, .no, .vec, .no⟩
  | .vsct x f => some ⟨x, f, .no, .vec, .vec, .no⟩
  | .vacc x f | .vapp x f => some ⟨x, f, .no, .vec, .vec, .no⟩
  | .vamo x f =>
    some ⟨x, f, if bitOf f.imm 4 then .vec else .no, .vec,
          if bitsOf f.imm 3 0 = 7 && f.rm.toNat = 5 then .vec else .no, .no⟩
  | _ => none

/-- A physical register that an operation reads or writes. -/
abbrev Touch := RegFile × Nat

/-- The vector registers of a vector operation. -/
def vTouch (x : Core) (u : VUse) : List Touch :=
  let vb := isVb u.x
  let file : RegFile := if vb then .vb else .va
  let reg (use : Use) (which : Nat) (r : BitVec 4) : List Touch :=
    if use = .vec && (which = 0 || u.f.hsub.toNat ≠ which) then [(file, physV x.rbase r.toNat)] else []
  reg u.d 0 u.f.d ++ reg u.a 1 u.f.a ++ reg u.b 2 u.f.b ++ reg u.c 3 u.f.c

/-- S registers by logical name; s0 is no register (R194). -/
def sTouch (x : Core) (rs : List Nat) : List Touch :=
  (rs.filterMap fun r => if physS x.rbase r = 0 then none else some (.s, physS x.rbase r))
/-- Predicates; p0 is none. -/
def pTouch (ps : List Nat) : List Touch := ps.filterMap fun p => if p = 0 then none else some (.p, p)

/-- The VA registers of a drain or PRJA of `DST` 1: physical, in row order (R276). -/
def drainRegs (x : Core) (f : MF) : List Nat :=
  if bitsOf f.ext 16 15 = 1 then
    (List.range (rowRegs f.fa.toNat * count64 f.kc)).map fun i => physV x.rbase (f.ib.toNat + i)
  else []

/-- The registers that an operation reads or writes in its own fields, those that a pending result may name (R176). -/
def touches (x : Core) (i : Instr) : List Touch :=
  match i with
  | .add f | .sub f | .mul f | .mulh f | .mulhn f | .div f | .divn f | .mod f | .modn f | .and f | .or f | .xor f
  | .shl f | .shr f | .sra f | .min f | .max f | .minn f | .maxn f | .clz f | .popc f | .sext f | .zext f | .amo f
  | .sacc f | .sapp f | .hld f | .hview f | .hold f | .rels f | .hgen f | .taglk f | .tagset f | .tagclr f
  | .tagclrK f | .fuse f | .decpl f | .evadd f | .evarm f | .evarmDis f | .evwait f | .evrd f | .tis f | .tiwait f =>
    sTouch x [f.d.toNat, f.a.toNat, f.b.toNat]
  | .ldl f | .stl f | .stm f => sTouch x [f.d.toNat, f.a.toNat]
  | .ldm f => sTouch x [f.d.toNat, f.a.toNat] ++ (if bitOf f.fn 3 then [(.p, 7)] else [])
  | .addi f | .andi f | .ori f | .xori f | .shli f | .shri f | .srai f => sTouch x [f.d.toNat, f.a.toNat]
  | .li f | .lih16 f | .lih32 f | .lih48 f => sTouch x [f.d.toNat]
  | .cmp f => sTouch x [f.a.toNat, f.b.toNat] ++ pTouch [f.d.toNat % 8]
  | .cmpi f => sTouch x [f.a.toNat] ++ pTouch [f.d.toNat % 8]
  | .pand f | .por f | .pxor f => pTouch [f.d.toNat, f.a.toNat, f.b.toNat]
  | .pmov f => pTouch [f.d.toNat, f.a.toNat]
  | .pmovToS f => sTouch x [f.d.toNat] ++ pTouch [1, 2, 3, 4, 5, 6, 7]
  | .pmovFromS f => sTouch x [f.a.toNat] ++ pTouch [1, 2, 3, 4, 5, 6, 7]
  | .sel f => sTouch x [f.d.toNat, f.a.toNat, f.b.toNat] ++ pTouch [bitsOf f.fn 2 0]
  | .jmp f => sTouch x (f.a.toNat :: if bitOf f.fn 0 then [31] else [])
  | .call _ | .ret _ => sTouch x [31]
  | .rcast f => sTouch x [f.d.toNat, f.a.toNat, f.b.toNat, f.b.toNat + 1, f.b.toNat + 2]
  | .xsv f => sTouch x [f.a.toNat] ++ [(if bitOf f.d 4 then .vb else .va, physV x.rbase (f.d.toNat % 16))]
  | .xvs f => sTouch x [f.d.toNat] ++ [(if bitOf f.a 4 then .vb else .va, physV x.rbase (f.a.toNat % 16))]
  | .itset f => sTouch x [f.a.toNat]
  | .itget f => sTouch x [f.d.toNat]
  | .wstep f => sTouch x [f.a.toNat] ++ (if bitOf f.fn 0 then [(.p, 7)] else [])
  | .csrr f | .csrw f => sTouch x [f.d.toNat]
  | .vxv y f =>
    let src : Touch := (if isVb y then .vb else .va, physV x.rbase f.a.toNat)
    (if f.hsub.toNat = 1 then [] else [src]) ++ [(if isVb y then .va else .vb, physV x.rbase f.d.toNat)]
  | .mdrn f | .prja f => (drainRegs x f).map fun n => (RegFile.va, n)
  | i => match vUses i with | some u => vTouch x u | none => []

/-! ## Gates (R166) -/

/-- The gate of an operation; a NOP and an event have none. -/
def guardOf (i : Instr) : Guard :=
  match i with
  | .add f | .sub f | .mul f | .mulh f | .mulhn f | .div f | .divn f | .mod f | .modn f | .and f | .or f | .xor f
  | .shl f | .shr f | .sra f | .min f | .max f | .minn f | .maxn f | .clz f | .popc f | .sext f | .zext f | .amo f
  | .sacc f | .sapp f | .hld f | .hview f | .hold f | .rels f | .hgen f | .taglk f | .tagset f | .tagclr f
  | .tagclrK f | .fuse f | .decpl f | .evadd f | .evarm f | .evarmDis f | .evwait f | .evrd f | .tis f | .tiwait f
  | .ldl f | .stl f | .stm f | .ldm f | .cmp f | .pand f | .por f | .pxor f | .pmov f | .pmovToS f | .pmovFromS f
  | .sel f | .jmp f | .rcast f | .xsv f | .xvs f | .itset f | .itget f | .wstep f | .gjoin f | .gleave f | .sync f
  | .fence f | .xfence f | .eret f => f.g
  | .addi f | .andi f | .ori f | .xori f | .shli f | .shri f | .srai f | .cmpi f | .rbset f => f.g
  | .li f | .lih16 f | .lih32 f | .lih48 f | .trap f | .brk f => f.g
  | .br f | .call f | .loop f => f.g
  | .csrr f | .csrw f => f.g
  | .ret g | .exit g | .yield g | .rejoin g => g
  | .mma f | .mmag f | .mmas f | .mgth f | .aclr f | .aspl f | .afil f | .asw f | .mdrn f | .prja f | .mwait f => f.g
  | .klds f | .ksts f | .kldc f | .kmov f | .kauto f | .kufc f | .itlvl f | .itrst f | .itrev f | .itstep f
  | .kseed f => f.g
  | .copy _ f | .cprf _ f | .cwb _ f | .sbind _ f | .sadv _ f | .swtf _ f | .swte _ f | .mcast _ f | .csend _ f
  | .crecv _ f | .chks _ f | .cwait _ f | .carm _ f | .cstat _ f | .sclose _ f | .cdesc _ f => f.g
  | .vxv _ f => f.g
  | i => match vUses i with | some u => u.f.g | none => ⟨0, false⟩

/-- The walks of an M-slot operation: iterator and addresses taken (R266). -/
def walksOf (i : Instr) : List (Nat × Nat) :=
  let nb (f : MF) : Nat := if f.fa.toNat = 6 then 64 else 128
  match i with
  | .mma f | .mmas f => [(f.ia.toNat, 64 * count64 f.kc), (f.ib.toNat, nb f * count64 f.kc)]
  | .mmag f => [(f.ib.toNat, nb f * count64 f.kc)]
  | .mgth f => [(f.ia.toNat, 1), (f.ib.toNat, 1)]
  | .aspl f | .afil f => [(f.ia.toNat, 1)]
  | .mdrn f =>
    (if bitsOf f.ext 16 15 = 1 then [] else [(f.ib.toNat, count64 f.kc)])
      ++ (if f.sel.toNat = 0 then [] else [(f.ia.toNat, count64 f.kc)])
  | .prja f =>
    [(f.ia.toNat, count64 f.kc)] ++ (if bitsOf f.ext 16 15 = 0 then [(f.ib.toNat, count64 f.kc)] else [])
      ++ (if f.sel.toNat = 3 || f.sel.toNat = 4 then [(bitsOf f.ext 14 11, count64 f.kc)] else [])
  | _ => []

/-- The iterators that an operation names as single address sources (R170). -/
def namesOf (i : Instr) : List Nat :=
  match i with
  | .vld _ f | .vst _ f | .vgth _ f | .vsct _ f | .vacc _ f | .vamo _ f => [vIt f]
  | .klds f | .ksts f | .kldc f | .kauto f => [bitsOf f.imm 3 0]
  | .itstep f => [f.dst.toNat]
  | .copy _ f | .cprf _ f | .cwb _ f | .mcast _ f | .csend _ f | .crecv _ f | .chks _ f | .cstat _ f | .cdesc _ f
  | .cwait _ f => if bitOf f.opnds 37 then [f.iter.toNat] else []
  | _ => []

/-- The steps that an operation gives its iterators, its gate open or not (R166, R170, R266). -/
def stepsOf (i : Instr) : Effects := { Effects.none with steps := namesOf i, walks := walksOf i }

/-- The iterators that an operation reads or writes without naming them as address sources (R170). -/
def itersOf (i : Instr) : List Nat :=
  match i with
  | .itset f => [f.d.toNat % 16]
  | .itget f => [f.a.toNat % 16]
  | .itlvl f | .itrst f | .itrev f => [f.dst.toNat]
  | _ => []

/-- The iterator check of R266: an iterator in two walks, or in a walk and in any other operation of the bundle. -/
def walkClash (ops : List Instr) : Bool :=
  let walks := ops.flatMap fun i => (walksOf i).map (·.1)
  let names := ops.flatMap fun i => namesOf i ++ itersOf i
  walks.any fun k => 1 < walks.count k || names.contains k

/-- The bits that a vector operation adds to the lane groups (R173). -/
def laneBits (i : Instr) : Nat :=
  match i with
  | .vxv _ f => vW f
  | i => match vUses i with | some u => vW u.f | none => 0

end Sys2Proof.Machine
end

