-- ==== Sys2Proof/Machine/Slot.lean ====
section
/-!
DEFINITION. One repetition of a core (R167): its interlocks (R176), the gate and the iterator steps of each operation
(R166, R170), the atomics (R209, R251), what takes effect at the end of the repetition and of the bundle, the freeze at
a boundary (R169, R404), and the issue of one operation alone.
-/
namespace Sys2Proof.Machine

/-! ## Atomics (R209, R251) -/

/-- The new value of an AMO of w bits (R209): 0 swap, 1 cas, 2 add, 3 and, 4 or, 5 xor, 6 min, 7 max, 8 minn, 9 maxn. -/
def amoNew (op w old x cmp : Nat) : Nat :=
  let o := old % 2 ^ w
  let v := x % 2 ^ w
  match op with
  | 0 => v
  | 1 => if o = cmp % 2 ^ w then v else o
  | 2 => (o + v) % 2 ^ w
  | 3 => o &&& v
  | 4 => o ||| v
  | 5 => o ^^^ v
  | 6 => if signedOf w o < signedOf w v then o else v
  | 7 => if signedOf w o < signedOf w v then v else o
  | 8 => min o v
  | _ => max o v

/-- The new value of a VAMO element and its flags (R251): 0 swap, 1 add, 2 and, 3 or, 4 xor, 5 min, 6 max, 7 fadd. -/
def vamoNew (op : Nat) (f : Fmt) (rm : RM) (rnd old x : Nat) : Nat × Nat :=
  let w := fmtBits f
  match op with
  | 0 => (x % 2 ^ w, 0)
  | 1 => ((old + x) % 2 ^ w, 0)
  | 2 => (old &&& x, 0)
  | 3 => (old ||| x, 0)
  | 4 => (old ^^^ x, 0)
  | 5 => (if fmtInt f x < fmtInt f old then x else old, 0)
  | 6 => (if fmtInt f old < fmtInt f x then x else old, 0)
  | _ =>
    let (v, fl) := addVal (rm = .rdn) (floatVal f old) (floatVal f x)
    let (b, fr) := roundFloat f rm rnd false v
    (b, fl ||| fr)

/-- A value that returns to a core: to its result in flight, and flags to its AFLAGS. -/
def giveRet (s : State) (c : Nat) (byHandler : Bool) (ret : Option Ret) (v flags : Nat) : State :=
  modCore s c fun x =>
    let x := returnFlags x byHandler flags
    match ret with
    | some r => giveFlight x r.flight r.lo r.width v 0
    | none => x

/-- One scratchpad write or atomic of a cycle (R207). -/
def applySp (s : State) (e : SpEff) : State :=
  match e with
  | .write k off mask v => spMasked s k [(off, mask, v)]
  | .amo k off n op x cmp ret core =>
    let old := spNum s k off n
    let s := spPut s k off n (amoNew op (8 * n) old x cmp)
    giveRet s core false ret (sext64 (8 * n) old).toNat 0
  | .vamo k off op fm rm rnd x ret core =>
    let f := (fmtOf fm).getD .i8
    let n := fmtBits f / 8
    let old := spNum s k off n
    let (v, fl) := vamoNew op f ((rmOf rm).getD .rne) rnd old x
    let s := spPut s k off n v
    giveRet s core (coreOf s core).shadow.isSome ret old fl

/-- The scratchpad effects of a cycle, in order. -/
def applySps (s : State) (es : List SpEff) : State := es.foldl applySp s

/-! ## Interlocks (R176, R263, R312) -/

/-- The physical bank that a name stands for (R257): acc0 is the lower bank of the core, the higher one under SWAP. -/
def physBank (x : Core) (c bank : Nat) : Nat :=
  2 * (c % 2) + (if x.swap then 1 - bank % 2 else bank % 2)

/-- A bank of a cluster. -/
def bankOf (s : State) (k b : Nat) : Bank := (clusterOf s k).banks[b]?.getD .fresh

/-- The state with a bank of a cluster changed. -/
def modBank (s : State) (k b : Nat) (f : Bank → Bank) : State :=
  modCluster s k fun y => { y with banks := y.banks.setIfInBounds b (f (y.banks[b]?.getD .fresh)) }

/-- The busy bit of a physical bank (R263). -/
def bankBusy (s : State) (k b : Nat) : Bool :=
  (bankOf s k b).held ||
    [2 * k, 2 * k + 1].any fun c => (coreOf s c).arrayQ.any fun o =>
      o.bank = b && (o.vaDst ≠ [] || (match o.op with | .afil _ => true | _ => false))

/-- The accumulator bank that an M-slot operation names, if it names one. -/
def bankNamed (i : Instr) : Option Nat :=
  match i with
  | .mma f | .mmag f | .mmas f | .aclr f | .aspl f | .afil f | .mdrn f | .prja f => some f.bank.toNat
  | .mwait f => if f.sel.toNat = 1 then none else some f.bank.toNat
  | _ => none

/-- Operations that enter the array queue (R263). -/
def entersArray (i : Instr) : Bool :=
  match i with
  | .mma _ | .mmag _ | .mmas _ | .mgth _ | .aclr _ | .aspl _ | .afil _ | .mdrn _ | .prja _ => true
  | _ => false

/-- Operations that enter the engine (R312). -/
def entersEngine (i : Instr) : Bool :=
  match i with
  | .copy _ _ | .cprf _ _ | .cwb _ _ | .mcast _ _ | .csend _ _ | .crecv _ _ | .chks _ _ | .sclose _ _ => true
  | .sbind _ f => !bitOf f.opnds 27 && bitsOf f.opnds 31 30 = 1
  | _ => false

/-- Heads of a cluster's cores that are bound to STR sources, those of frozen tasks among them (R312, R416). -/
def strHeads (s : State) (k : Nat) : Nat :=
  ([2 * k, 2 * k + 1].map fun c =>
    (((coreOf s c).heads.toList ++ savedHeads s k c).filter fun h => h.bound && h.src = .str).length).sum

/-- A core waits for an engine place from now on, or since before (R312). -/
def awaitEngine (s : State) (c : Nat) : State :=
  modCluster s (clusterOfCore c) fun k => { k with waitEngine := if k.waitEngine.contains c then k.waitEngine else k.waitEngine ++ [c] }

/-- The engine places that are held: operations, and heads bound to STR sources (R312). -/
def enginePlaces (s : State) (k : Nat) : Nat :=
  (clusterOf s k).engine.length + strHeads s k

/-- A core may take a free engine place: it has waited longest, or core A when none waits (R312). -/
def engineTurn (s : State) (c : Nat) : Bool :=
  match (clusterOf s (clusterOfCore c)).waitEngine with
  | [] => true
  | w :: _ => w = c

/-- The registers that pending results and queued drains guard (R176, R263). -/
def guarded (x : Core) : List Touch :=
  (x.inflight.filterMap fun a => match a.due, a.dst with
    | none, .reg f n => some (f, n)
    | _, _ => none)
  ++ x.arrayQ.flatMap fun o => o.vaDst.map fun n => (RegFile.va, n)

/-- The VAMO operations with `.ret` whose old values have not all arrived (R251). -/
def vamosOut (x : Core) : Nat :=
  ((x.inflight ++ x.replay).filter fun a => a.due.isNone && (match a.dst with | .reg .va _ => true | .reg .vb _ => true | _ => false)).length

/-- The head of a vector operation is bound, not at its end, and empty. -/
def headWaits (s : State) (c : Nat) (i : Instr) : Bool :=
  match vUses i with
  | some u => match vHead s c u.f with | .ok w => w | .error _ => false
  | none => false

/-- A shared resource that an operation needs is full: the engine's 16 places (R312), or the four VAMO operations whose old values
are out (R251). -/
def fullFor (s : State) (c : Nat) (i : Instr) : Bool :=
  (entersEngine i && decide (16 ≤ enginePlaces s (clusterOfCore c)))
    || (match i with | .vamo _ f => bitOf f.imm 4 && decide (4 ≤ vamosOut (coreOf s c)) | _ => false)

/-- Whether an interlock holds an operation back (R176). The gate itself reads its predicate register. -/
def interlock (s : State) (c : Nat) (i : Instr) : Bool :=
  let x := coreOf s c
  let k := clusterOfCore c
  let g := guardOf i
  let guards := guarded x
  (pTouch [g.pg.toNat]).any guards.contains ||
    (gateOpen x g &&
      ((touches x i).any guards.contains || headWaits s c i
        || (match bankNamed i with
            | some b =>
              let p := physBank x c b
              bankBusy s k p || (bankOf s k p).resident.isSome
            | none => false)
        || (entersArray i && decide (4 ≤ x.arrayQ.length))
        || fullFor s c i || (entersEngine i && !engineTurn s c)))

/-! ## One operation of a repetition -/

/-- What an operation does in its slot: given the state after the landings of the cycle, the core and the bundle. -/
abbrev Act := State → Nat → Site → OpRes

/-- The effects of an operation whatever its gate: its iterators step (R166), and a LOOP records its place (R202). -/
def baseEffects (i : Instr) (at_ : Site) : Effects :=
  match i with
  | .loop _ => { stepsOf i with loopend := some at_.addr }
  | i => stepsOf i

/-- One operation issues under its gate (R166); ERET.skip gates the S operation of one issue off (R224). -/
def runOne (i : Instr) (act : Act) (s : State) (c : Nat) (at_ : Site) : OpRes :=
  let x := coreOf s c
  let base := baseEffects i at_
  if gateOpen x (guardOf i) && !(x.skipS && slotOf i = some 0) then
    match act s c at_ with
    | .ok s e => .ok s (base.add e)
    | r => r
  else .ok s base

/-- An operation waits as well when an earlier slot of its repetition took the last place of what it needs (R251, R312). -/
def runFull (i : Instr) (act : Act) (s : State) (c : Nat) (at_ : Site) : OpRes :=
  if fullFor s c i && gateOpen (coreOf s c) (guardOf i) then .stall fun s => if entersEngine i then awaitEngine s c else s
  else runOne i act s c at_

/-! ## End of a repetition -/

/-- A pop of a head at the end of a repetition (R318): an element that leaves a head over an STR tensor is consumed (R73). -/
def popHead (s : State) (c h : Nat) (n : Nat) : State :=
  let x := coreOf s c
  let y := headOf x h
  let s := setCore s c (setHead x h { y with cptr := y.cptr + BitVec.ofNat 32 n })
  let u := headSupply s c y
  if y.src = .str && u.stream then
    let t := recOf s (ctxOfCore s c) (hIndex y.srcv) (hGen y.srcv)
    putRec s { t with consumed := min t.fetched (t.consumed + n * headPer y u.desc) }
  else s

/-- SADV after the pops (R321). -/
def advHeads (s : State) (c : Nat) (e : Effects) : State :=
  e.sadv.foldl (fun s q =>
    if q.2.1 then
      let x := coreOf s c
      let h := headOf x q.1
      setCore s c (setHead x q.1 { h with pptr := h.pptr + BitVec.ofNat 32 q.2.2 })
    else popHead s c q.1 q.2.2) s

/-- The end of a repetition but for its scratchpad effects: iterators step, heads pop and advance, the issue count
rises (R167). -/
def finishRep (s : State) (c : Nat) (e : Effects) (pops : List Nat) : State :=
  let s := modCore s c fun x => applyIters x e
  let s := pops.foldl (fun s h => popHead s c h 1) s
  let s := advHeads s c e
  let s := modCore s c fun x => { x with issueCount := x.issueCount + 1, waiting := none, stepWait := false, skipS := false }
  leaveEngine s c

/-- A core freezes at a boundary (R404): results in flight are captured, and TPC names the bundle to resume. A cause is
recorded for a hard pre-emption (R411). -/
def freezeCore (s : State) (c : Nat) (cause : Option Nat) (mode : CoreMode) : State :=
  let s := leaveEngine (capture s c) c
  let s := modCore s c fun x =>
    let x := { x with mode := mode, waiting := none, stepWait := false, tpc := BitVec.ofNat 64 (x.pc.toNat % 2 ^ 56) }
    match cause with
    | some n => { x with tcause := BitVec.ofNat 64 n, taddr := 0, tdetail := 0 }
    | none => x
  trace s c 1 (coreOf s c).pc.toNat

/-- A core halts at a boundary (R436): its task freezes under R404, or its handler stops where it stands. -/
def haltCore (s : State) (c : Nat) : State :=
  let s := if (coreOf s c).shadow.isSome then modCore (leaveEngine s c) c fun x => { x with mode := .halted, waiting := none }
    else freezeCore s c none .halted
  trace (modCore s c fun x => { x with haltReq := false }) c 3 (coreOf s c).pc.toNat

/-- Operations of the handler whose acknowledgement returns flags and has not arrived (R409). -/
def handlerOwes (s : State) (c : Nat) : Bool :=
  let x := coreOf s c
  (x.sq.any fun e => e.byHandler && (match e.kind with | .vamo .. | .acc _ => true | _ => false))
    || (s.bags.any fun b => b.1 = c && b.2.byHandler)
    || (clusterOf s (clusterOfCore c)).engine.any fun o => o.core = c && o.byHandler && !o.orphan && decide (o.kind = .crecv)

/-- ERET completes (R409): once no result of the handler waits for data and no acknowledgement is due, its results land
and the task resumes. -/
def tryReturn (s : State) (c : Nat) : State :=
  let x := coreOf s c
  match x.mode with
  | .returning skip =>
    if handlerOwes s c || x.inflight.any (fun a => a.due.isNone) || x.arrayQ.any (·.byHandler) then s
    else
      let s := leaveHandler (bubbles 24 s c) c skip
      if (coreOf s c).haltReq then haltCore s c else s
  | _ => s

/-- The edge masks of a core's banks as issue sees them (R264), before and after nothing yet. -/
def issueMasks (s : State) (c : Nat) : List (Nat × (Nat × Nat) × (Nat × Nat)) :=
  [2 * (c % 2), 2 * (c % 2) + 1].map fun j => let b := bankOf s (clusterOfCore c) j; (j, (b.imr, b.imc), (b.imr, b.imc))

/-- A SYNC or an EXIT is about to wait: its repetition is kept, should the watchdog end the wait (R402). -/
def noteWait (s : State) (c : Nat) : State :=
  match (coreOf s c).task with
  | some t => { s with asserts := ⟨c, t.piece, coreOf s c, s.fresh, s.fresh, [], [], [], issueMasks s c, none, []⟩
      :: s.asserts.filter fun a => a.core ≠ c || a.piece ≠ t.piece }
  | none => s

/-- EXIT takes effect (R204): the task waits to retire, or fails in handler state. -/
def exitTask (s : State) (c : Nat) : State :=
  let x := coreOf s c
  if x.shadow.isSome then
    failTask s c 1 x.tcause.toNat (if x.taddr ≠ 0 then x.taddr.toNat else x.tdetail.toNat)
  else
    let s := trace (modCore s c fun x => { x with mode := .exiting }) c 5 x.pc.toNat
    match gangOf s c with
    | some g => { s with gangs := s.gangs.map fun y =>
        if y.id = g.id && !y.exited.contains c then { y with exited := c :: y.exited } else y }
    | none => s

/-- The gang of a core after FUSE, DECPL and REJOIN (R360). -/
def moveGang (s : State) (c : Nat) (e : Effects) : State :=
  match gangOf s c with
  | some g => { s with gangs := s.gangs.map fun y =>
      if y.id = g.id then
        { y with fused := y.fused && !e.decouple, step := e.step.getD y.step, joining := y.joining && e.place.isNone
                 rejoined := if e.place.isSome then [] else y.rejoined }
      else y }
  | none => s

/-- The members of a gang that have not exited. -/
def gangLeft (g : Gang) : List Nat := g.members.filter (!g.exited.contains ·)

/-- The skew of a core: `POS` × `STEP` bundle cycles in a fused gang, else 0 (R359). -/
def skewOf (s : State) (c : Nat) : Nat :=
  match gangOf s c with
  | some g => if g.fused then g.members.idxOf c * g.step else 0
  | none => 0

/-- The effects of the members of a fused gang that end a bundle together, the lead first: they take the lead's path (R358, R361).
After DECPL each goes its own way (R360). -/
def leadEffects : List Effects → List Effects
  | [] => []
  | e :: es => e :: es.map fun f =>
      if e.decouple || f.decouple then f else { f with target := e.target, exit := e.exit, yield := e.yield, step := e.step }

/-- The end of a bundle (R167): rotation, one-shot clearing, loop counter, transfer with its two bubble issues, the end of
a task or of its handler, and the safe point (R169, R205). -/
def finishBundle (s : State) (c : Nat) (at_ : Site) (e : Effects) (ops : List (Nat × Instr)) (rot sp : Bool) : State :=
  let s := modCore s c fun x =>
    { x with
      repidx := 0
      rbase := if rot then (x.rbase + 15) % 16 else x.rbase
      held := ops.foldl (fun v q => if oneShot q.2 then v.setIfInBounds q.1 (nopOf q.1) else v) x.held
      loopcnt := e.loop.getD x.loopcnt
      loopend := e.loopend.getD x.loopend
      pc := (e.place.or e.target).getD at_.next }
  let s := match e.target with
    | some t => trace (bubbles 2 s c) c 0 t.toNat
    | none => s
  let s := moveGang s c e
  let s := if e.step.isSome || e.place.isSome then modCore s c fun x => { x with gskew := skewOf s c } else s
  let x := coreOf s c
  if e.exit then exitTask s c
  else match e.eret with
    | some skip => tryReturn (modCore s c fun x => { x with mode := .returning skip }) c
    | none => if (sp || e.yield) && x.soft && x.mode = .running then freezeCore s c none .frozen else s

/-! ## One repetition of one core or of a fused gang -/

/-- The waits that a pre-emption lets complete first (R413). -/
def waitsFirst (i : Instr) : Bool :=
  match i with
  | .rcast _ | .hold _ | .rels _ | .gleave _ | .fence _ | .xfence _ | .evadd _ => true
  | .sbind _ _ | .vld _ _ | .vgth _ _ => true
  | _ => false

/-- A core's task is a firmware kernel (log entry 13). -/
def runsFirmware (x : Core) : Bool := match x.task with | some t => t.firmware | none => false

/-- A core waits in an operation that a pre-emption lets complete: no interlock of R176 holds it (R413). -/
def mustFinish (s : State) (c : Nat) : Bool :=
  match (coreOf s c).waiting with
  | some w => waitsFirst w.2 && !interlock s c w.2
  | none => false

/-- The cores that issue with a core: the members of a fused gang (R359), else the core alone. -/
def lockstep (s : State) (c : Nat) : List Nat :=
  match gangOf s c with
  | some g => if g.fused && (coreOf s c).shadow.isNone then gangLeft g else [c]
  | none => [c]

/-- A member of a fused gang has not reached the repetition at which its lead stands (R359). -/
def behind (s : State) (c : Nat) : Bool :=
  (coreOf s c).follow ≠ [] ||
    (match (lockstep s c).head? with
    | some l => l ≠ c && decide ((coreOf s c).repidx < (coreOf s l).repidx)
    | none => false)

/-- A core issues: it runs its task, not held back by a wait or a hard request, or its handler (R408, R411, R413). A member of a
skewed gang goes on to the repetition at which the lead is to freeze (R418). -/
def issuing (s : State) (c : Nat) : Bool :=
  let x := coreOf s c
  x.syncWait.isNone && !x.rejoinWait &&
    (x.mode = .handler || (x.mode = .running && !runsFirmware x && (!x.hard || mustFinish s c || behind s c)))

/-- A core waits in a slot: nothing of the repetition issues (R177). Cores that wait for the engine queue (R312). -/
def stalled (s : State) (c slot : Nat) (i : Instr) : State :=
  let s := modCore s c fun x => { x with waiting := some (slot, i) }
  if entersEngine i && (16 ≤ enginePlaces s (clusterOfCore c) || !engineTurn s c) then awaitEngine s c else s

/-- What a core issues in one repetition: its bundle, the operations in slot order with what they do, the heads that
pop. -/
structure Lane where
  core : Nat
  site : Site
  ops : List (Nat × Instr × Act)
  pops : List Nat

/-- How a repetition of a group of lanes ends. -/
inductive RepRes where
  | ok (s : State) (es : List Effects)
  | trap (c : Nat) (t : Trap)
  | stall (c slot : Nat) (i : Instr) (f : State → State)

/-- A pop of a head (R318, R319, R322): a trap, or whether it must wait. -/
def popsUse (s : State) (c : Nat) : List Nat → Except Trap Bool
  | [] => .ok false
  | h :: hs => match headUse s c h with
    | .error t => .error t
    | .ok w => match popsUse s c hs with
      | .error t => .error t
      | .ok v => .ok (w || v)

/-- The first operation of a lane that an interlock holds back (R176). -/
def laneWaits (s : State) (l : Lane) : Option (Nat × Instr) :=
  match l.ops.find? fun q => interlock s l.core q.2.1 with
  | some q => some (q.1, q.2.1)
  | none => match popsUse s l.core l.pops with
    | .ok true => some (7, .nop)
    | _ => none

/-- The operations of a lane in slot order (R401): the lowest slot that traps decides, and a wait leaves nothing done. -/
def runOps (s : State) (c : Nat) (at_ : Site) :
    List (Nat × Instr × Act) → Effects → Option (Nat × Instr × (State → State)) → RepRes
  | [], e, none => .ok s [e]
  | [], _, some (k, i, f) => .stall c k i f
  | (k, i, act) :: r, e, w =>
    match runFull i act s c at_ with
    | .trap t => .trap c t
    | .stall f => runOps s c at_ r e (w.or (some (k, i, f)))
    | .ok s e' => runOps s c at_ r (e.add e') w

/-- One lane: its operations in slot order, and after them the pops of its header, which counts as slot 7 (R401). -/
def runLane (s : State) (l : Lane) : RepRes :=
  match runOps s l.core l.site l.ops .none none, popsUse s l.core l.pops with
  | .trap c t, _ => .trap c t
  | _, .error t => .trap l.core t
  | r, .ok _ => r

/-- The lanes of a group, all of which issue or none (R359). -/
def runLanes (s : State) : List Lane → RepRes
  | [] => .ok s []
  | l :: ls =>
    match runLane s l with
    | .ok s es => match runLanes s ls with
      | .ok s es' => .ok s (es ++ es')
      | r => r
    | .trap c t => .trap c t
    | .stall c k i f => match runLanes s ls with
      | .trap c t => .trap c t
      | .stall _ _ _ g => .stall c k i fun s => g (f s)
      | .ok _ _ => .stall c k i f

/-- The results due of every core of a group land (R175). -/
def landLanes (s : State) (ls : List Lane) : State := ls.foldl (fun s l => landNow s l.core) s

/-- One repetition of a group on the state after the landings: interlocks first, then its operations. -/
def groupOps (s : State) (ls : List Lane) : RepRes :=
  match ls.findSome? fun l => (laneWaits s l).map fun w => (l.core, w) with
  | some (c, k, i) => .stall c k i id
  | none => runLanes s ls

/-- One repetition of a group: the results due land, then it issues. -/
def groupRep (s : State) (ls : List Lane) : RepRes := groupOps (landLanes s ls) ls

/-- A repetition that did not issue: the trap is taken, or the wait noted. -/
def notIssued (s : State) (r : RepRes) : State :=
  match r with
  | .trap c t => takeTrap s c t
  | .stall c k i f => stalled (f s) c k i
  | .ok s _ => s

/-- The joins of a core take effect, for the next bundle cycle (R355). -/
def joinLines (s : State) (c : Nat) (lines : List Nat) : State :=
  lines.foldl (fun s l =>
    let g := groupOf s (ctxOfCore s c) l (lineDie c l)
    putGroup s { g with members := c :: g.members }) s

/-- The joins of the lanes that issued on a cycle. -/
def joinEach (s : State) (ls : List Lane) (es : List Effects) : State :=
  (ls.zip es).foldl (fun s q => joinLines s q.1.core q.2.joins) s

/-- The byte of a scratchpad that an effect writes first, and how many. -/
def spPlace (e : SpEff) : Nat × Nat × Nat :=
  match e with
  | .write k off _ _ => (k, off, 1)
  | .amo k off n _ _ _ _ _ => (k, off, n)
  | .vamo k off _ fm _ _ _ _ _ => (k, off, fmtBits ((fmtOf fm).getD .i8) / 8)

/-- What a repetition that is about to wait has done is kept with its wait, for a watchdog that ends it (R402): `s0` and `s1` stand
before and after the scratchpad effects of the cycle. -/
def closeWait (s0 s1 : State) (c : Nat) (e : Effects) : State :=
  let x := coreOf s1 c
  if !e.waits then s1
  else { s1 with asserts := s1.asserts.map fun a =>
      if a.core = c && a.upto = a.mark && a.before.issueCount + 1 = x.issueCount then
        { a with
          upto := s1.fresh
          sp := e.sp.flatMap fun q =>
            let z := spPlace q
            (List.range z.2.2).map fun j => (z.1, z.2.1 + j, spByte s0 z.1 (z.2.1 + j), spByte s1 z.1 (z.2.1 + j))
          moved := (List.range 8).map fun h =>
            ((headOf x h).pptr - (headOf a.before h).pptr, (headOf x h).cptr - (headOf a.before h).cptr)
          masks := (a.masks.map fun q => let b := bankOf s1 (clusterOfCore c) q.1; (q.1, q.2.1, (b.imr, b.imc))).filter fun q =>
            q.2.1 ≠ q.2.2 }
      else a }

/-- The ends of a cycle for the lanes that issued: their joins, and what their waits keep. -/
def closeEach (s0 s1 : State) (ls : List Lane) (es : List Effects) : State :=
  (ls.zip es).foldl (fun s q => closeWait s0 s q.1.core q.2) (joinEach s1 ls es)

/-- The end of an issued repetition for every lane, its scratchpad effects last, core A's before core B's (R207). -/
def finishLanes (s : State) (ls : List Lane) (es : List Effects) : State :=
  let s := (ls.zip es).foldl (fun s q => finishRep s q.1.core q.2 q.1.pops) s
  closeEach s (applySps s (es.flatMap (·.sp))) ls es

/-! ## Issue of one operation alone -/

/-- The bundle of one operation alone: a header and the words of its slot, at the core's program address. -/
def soloSite (x : Core) (slot : Nat) : Site := ⟨x.pc, x.pc + BitVec.ofNat 64 (4 * (1 + slotWords slot))⟩

/-- The lane of one operation alone. -/
def soloLane (s : State) (slot : Nat) (i : Instr) (act : Act) (c : Nat) : Lane :=
  ⟨c, soloSite (coreOf s c) slot, [(slot, i, act)], []⟩

/-- The cores hold an operation in its slot: a bundle that has passed its decode checks holds its words before its first
repetition, whether that issues, waits or traps (R167, R189). -/
def begun (slot : Nat) (i : Instr) (cs : List Nat) (s : State) : State :=
  cs.foldl (fun s c => modCore s c fun x => { x with held := x.held.setIfInBounds slot i }) s

/-- One operation issues alone on the current core, and on every member of its gang when fused, as a quiet bundle of one
repetition that holds it (R161, R167; log entry 4): results due land, interlocks hold it back or it takes effect, and the
bundle ends. A core that is not issuing is unchanged (log entry 5). -/
def soloStep (slot : Nat) (i : Instr) (act : Act) (s : State) : State :=
  let cs := lockstep s s.cur
  if !(cs.all fun c => issuing s c) then s
  else
    let ls := cs.map (soloLane s slot i act)
    match groupRep s ls with
    | .ok s2 es =>
      let s4 := finishLanes (begun slot i cs s2) ls es
      (ls.zip (leadEffects es)).foldl (fun s q => finishBundle s q.1.core q.1.site q.2 [(slot, i)] false false) s4
    | r => notIssued (begun slot i cs s) r

/-- The step of one slot operation: its own bundle on the current core. -/
def issueSolo (slot : Nat) (i : Instr) (act : Act) (s : State) : Host.Outcome State Fault Refusal :=
  .next (soloStep slot i act s)

end Sys2Proof.Machine
end

