-- ==== Sys2Proof/Machine/Ordering.lean ====
section
/-!
DEFINITION. How accesses enter the ordering machine (R336), what a read of memory sees, the races of R348, and the
checks of ACC adds and appends that the slots share (R211, R212).
-/
namespace Sys2Proof.Machine

/-! ## Lines and homes (R22) -/

/-- The line of a byte. -/
def lineOf (key : Nat) : Nat := key / 64
/-- The package of a byte's home. -/
def keyPkg (key : Nat) : Nat := key / 2 ^ 52
/-- The home slice of a byte. -/
def keySlice (key : Nat) : Nat := homeSlice (key % 2 ^ 52)

/-- The package and slice at which an entry stands: that of its line, or of the descriptor line of an append's tensor. -/
def entryHome (s : State) (e : SqEntry) : Nat × Nat :=
  match e.line with
  | .mem l => (keyPkg (64 * l), keySlice (64 * l))
  | .tensor ctx index _ => (s.pkg.toNat, homeSlice (recBits s ctx 115 64 + 64 * index))

/-- A home lies in a scope of R345, as core c sees it: slices 8 × die + 2 × quadrant and the next are the quadrant's. -/
def inScope (s : State) (c scope : Nat) (home : Nat × Nat) : Bool :=
  match scope with
  | 0 | 1 => false
  | 2 => home.1 = s.pkg.toNat && home.2 / 2 = c / 16
  | 3 => home.1 = s.pkg.toNat && home.2 / 8 = c / 64
  | 4 => home.1 = s.pkg.toNat
  | _ => true

/-! ## Races (R348) -/

/-- A unit number that is no core: an engine thread races with every core (R348). -/
def noCore : Nat := 2 ^ 32

/-- A byte of an access: its key and the bits that it reads or writes. -/
abbrev Bits8 := Nat × Nat

/-- The bits of two accesses that meet. -/
def meet (as bs : List Bits8) : List Nat :=
  as.filterMap fun a => if bs.any fun b => b.1 = a.1 && (b.2 &&& a.2) ≠ 0 then some a.1 else none

/-- All bits of n bytes. -/
def wholeBits (key n : Nat) : List Bits8 := (List.range n).map fun i => (key + i, 255)

/-- The bytes of the spans of an engine operation that are not done. -/
def spanBits (spans : List Span) (done : List Nat) : List Bits8 :=
  ((List.range spans.length).zip spans).flatMap fun q => match q.2.loc with
    | .mem key => if done.contains q.1 then [] else (List.range q.2.len).map fun i => (key + i, q.2.mask)
    | .sp _ _ => []

/-- The bits that a load reads. -/
def loadEntryBits (l : LoadEntry) : List Bits8 := (List.range l.bytes).map fun i => (l.addr + i, l.mask)

/-- The bytes of loads that a core has in the machine. -/
def loadBits (x : Core) : List Bits8 := x.loads.flatMap loadEntryBits

/-- What a unit has in the machine: its context, the bytes that it stores plainly, and those that it loads or reaches
atomically. -/
structure UnitBits where
  ctx : Nat
  stores : List Bits8
  reads : List Bits8

/-- What an entry of a store queue has in the machine. -/
def entryUnit (e : SqEntry) : UnitBits :=
  match e.kind with
  | .store bits => ⟨e.ctx, bits.map fun b => (b.1, b.2.1.toNat), []⟩
  | .amo _ addr n _ _ _ => ⟨e.ctx, [], wholeBits addr n⟩
  | .vamo _ addr fmt _ _ _ _ => ⟨e.ctx, [], wholeBits addr (codeBits fmt / 8)⟩
  | _ => ⟨e.ctx, [], []⟩

/-- The units other than core c: entries and loads of cores, in the context of the task that issued them, threads of engines, and what
has left them for the async path. -/
def otherUnits (s : State) (c : Nat) : List UnitBits :=
  ((s.cores.filter fun y => y.1 ≠ c).flatMap fun y => y.2.sq.map entryUnit ++ y.2.loads.map fun l => ⟨l.ctx, [], loadEntryBits l⟩)
    ++ ((s.clusters.flatMap fun k => k.2.engine).map fun e => ⟨e.ctx, spanBits e.dst e.writeDone, spanBits e.src e.readDone⟩)
    ++ s.async.map fun e => ⟨e.ctx, e.bytes.map fun b => (b.1, 255), []⟩

/-- The state with bytes raced from now on, for the program of a context. -/
def addRaced (s : State) (ctx : Nat) (ks : List Nat) : State :=
  { s with raced := ks.foldl (fun l k => if l.contains (ctx, k) then l else (ctx, k) :: l) s.raced }

/-- An access of context ctx meets those of other units: their bytes race for the programs of both. -/
def raceWith (s : State) (ctx : Nat) (bits : List Bits8) (reads : Bool) (us : List UnitBits) : State :=
  us.foldl (fun s u =>
    let ks := meet bits (if reads then u.stores ++ u.reads else u.stores)
    addRaced (addRaced s ctx ks) u.ctx ks) s

/-! ## Tile instructions in flight (R105, R131, R152) -/

/-- The operand words of a tile instruction. -/
def tileWords (t : Tile) : List (BitVec 64) := [t.opa, t.opb, t.opc, t.opd]

/-- What an operand word holds (R105). -/
inductive OpdKind where
  /-- a handle read; it may be null -/
  | in_ (opt : Bool)
  | out (opt : Bool)
  /-- any handle or null -/
  | any
  /-- the tensor of a TCAST -/
  | cast
  | raw
  | none
  deriving DecidableEq, Repr

/-- The operand kinds of an opcode (R105). -/
def opdKinds (op : Nat) : List OpdKind :=
  match op with
  | 1 => [.in_ false, .in_ false, .out false, .in_ true]
  | 2 => [.in_ false, .in_ false, .out false, .in_ false]
  | 3 => [.in_ false, .in_ false, .out false, .none]
  | 4 => [.any, .any, .any, .any]
  | 5 => [.in_ false, .none, .out false, .none]
  | 6 => [.in_ false, .in_ true, .out false, .none]
  | 7 => [.in_ false, .none, .out false, .none]
  | 8 => [.cast, .raw, .raw, .raw]
  | 9 => [.in_ false, .in_ false, .out false, .out true]
  | 10 => [.in_ false, .in_ false, .out false, .in_ true]
  | 11 => [.in_ false, .none, .out false, .none]
  | 12 => [.none, .none, .out false, .none]
  | 15 => [.in_ false, .none, .out false, .none]
  | _ => [.none, .none, .none, .none]

/-- The kinds beside the words of an instruction, with the operand numbers. -/
def opdWords (t : Tile) : List (Nat × OpdKind × BitVec 64) :=
  (List.range 4).zip ((opdKinds (tileOp t)).zip (tileWords t))

/-- The event index of `WAITW` or `SIGW`. -/
def evIdx (w : BitVec 64) : Nat := bitsOf w 15 0
/-- The value of `WAITW` or `SIGW`. -/
def evVal (w : BitVec 64) : Nat := bitsOf w 63 16
/-- A wait of an instruction holds. -/
def waitHolds (s : State) (i : TileInst) : Bool :=
  evIdx i.tile.waitw = 0 || evVal i.tile.waitw ≤ evValue s i.ctx (evIdx i.tile.waitw)

/-- An earlier instruction of the same ring. -/
def earlier (i j : TileInst) : Bool := j.ctx = i.ctx && j.qp = i.qp && j.id < i.id

/-- An entry of the package is eligible: it is in flight, and no wait orders it after others. -/
def eligible (s : State) (i : TileInst) : Bool :=
  (i.state = .queued || i.state = .running) && waitHolds s i
    && !(s.tiles.any fun j => earlier i j && tileOp j.tile = 14 && j.state ≠ .done)

/-- The operands of an instruction with their numbers. -/
def opdList (i : TileInst) : List (Nat × Operand) :=
  ((List.range 4).zip [i.a, i.b, i.c, i.d]).filterMap fun q => q.2.map fun o => (q.1, o)

/-- An instruction writes an operand; a TMAP's kernel writes by its own accesses. -/
def writesOpd (t : Tile) (n : Nat) : Bool :=
  match (opdKinds (tileOp t))[n]? with
  | some (.out _) => true
  | _ => false

/-- The address of a tensor at which a byte of memory stands, if its pages hold it. -/
def tensorVa (s : State) (ctx : Nat) (d : BitVec 512) (key : Nat) : Option Nat :=
  (spanPages d).findSome? fun pg => match pageOf s ctx pg with
    | some x => let k0 := xlatHome x pg; if k0 ≤ key && key < k0 + 2 ^ 16 then some (pg + (key - k0)) else none
    | none => none

/-- A byte of memory belongs to an element of an OWN region of an operand. -/
def ownByte (s : State) (ctx : Nat) (o : Operand) (key : Nat) : Bool :=
  match (if o.roles.contains 3 then tensorVa s ctx o.desc key else none) with
  | some va => (List.range (dCount o.desc)).any fun e =>
      elemRole o e = 3 && decide (elemBit o.desc e < 8 * ((va : Int) + 1))
        && decide (8 * (va : Int) < elemBit o.desc e + (codeBits (dFmt o.desc) : Nat))
  | none => false

/-- What makes an access: a tile instruction, by its identity, and a level-0 instruction of its task, by core and ticket; for the host
neither. -/
structure Accessor where
  tile : Option Nat
  local_ : Option (Nat × Nat)
  deriving DecidableEq, Repr

/-- The tile instruction of a core's task. -/
def tileOfCore (s : State) (c : Nat) : Option Nat :=
  match (coreOf s c).task with
  | some t => (s.pieces.find? fun p => p.id = t.piece).map (·.tile)
  | none => none

/-- The accessor of an instruction whose leaf core c runs; one of level 0 has its ticket for its identity. -/
def accessorOf (s : State) (c : Nat) (i : TileInst) : Accessor :=
  if bitsOf i.tile.ctl 10 8 = 0 then ⟨tileOfCore s c, some (c, i.id)⟩ else ⟨some i.id, none⟩

/-- Two accessors are two instructions; a kernel and the level-0 instructions that it issues count as one. -/
def Accessor.differs (a b : Accessor) : Bool := a.tile ≠ b.tile || (a.local_ ≠ b.local_ && a.local_.isSome && b.local_.isSome)

/-- The tile instructions that have not ended, those of level 0 among them. -/
def allInsts (s : State) : List (Accessor × TileInst) :=
  (s.tiles.map fun i => (⟨some i.id, none⟩, i))
    ++ s.cores.flatMap fun q => (q.2.l0q.filter fun l => !l.done).map fun l => (⟨tileOfCore s q.1, some (q.1, l.ticket)⟩, l.inst)

/-- A wait orders instruction w after instruction r (R131): a TWAIT holds it, or its own wait does not hold yet and is for an event that r
signals, that an instruction ordered after r signals, or that no instruction signals. -/
def ordersAfter (s : State) : Nat → TileInst → Nat → Bool
  | 0, _, _ => true
  | n + 1, w, r =>
    (s.tiles.any fun j => earlier w j && tileOp j.tile = 14 && j.state ≠ .done)
      || (!waitHolds s w &&
        (let ts := s.tiles.filter fun t => t.id ≠ w.id && t.ctx = w.ctx && evIdx t.tile.sigw = evIdx w.tile.waitw && t.state ≠ .done
         ts.isEmpty || ts.any fun t => t.id = r || ordersAfter s n t r))

/-- An instruction in flight acts together with an access: it is another one, and no wait orders it after that of the access. -/
def actsWith (s : State) (a : Accessor) (q : Accessor × TileInst) : Bool :=
  a.differs q.1 &&
    (if q.1.local_.isSome then waitHolds s q.2
     else (q.2.state = .queued || q.2.state = .running) &&
       (eligible s q.2 || (match a.tile with | some r => !ordersAfter s s.tiles.length q.2 r | none => false)))

/-- An instruction reads or writes a byte, or has done so if it is a TMAP; `writes` says that the access that may meet it is a write. -/
def instMeets (s : State) (i : TileInst) (writes : Bool) (k : Nat) : Bool :=
  if tileOp i.tile = 4 then i.stored.contains k || (writes && i.loaded.contains k)
  else (opdList i).any fun o => (writes || writesOpd i.tile o.1) && ownByte s i.ctx o.2 k

/-- The bytes of an access that tile instructions in flight read or write, with the context of each (R131, R351). -/
def tileMeets (s : State) (keys : List Nat) (writes : Bool) (a : Accessor) : List (Nat × List Nat) :=
  ((allInsts s).filter (actsWith s a)).map fun q => (q.2.ctx, keys.filter (instMeets s q.2 writes))

/-- Bytes that an access of a context reaches while tile instructions in flight read or write them (R131): they race for the programs
of both. -/
def raceTiles (s : State) (ctx : Nat) (keys : List Nat) (writes : Bool) (a : Accessor) : State :=
  (tileMeets s keys writes a).foldl (fun s q => addRaced (addRaced s ctx q.2) q.1 q.2) s

/-- OWN bytes that the kernel of a TMAP reaches are noted with the instruction. -/
def noteTouch (s : State) (a : Accessor) (keys : List Nat) (writes : Bool) : State :=
  if keys.isEmpty then s
  else { s with tiles := s.tiles.map fun i =>
    if a.tile = some i.id && a.local_.isNone && tileOp i.tile = 4 then
      (if writes then { i with stored := keys ++ i.stored } else { i with loaded := keys ++ i.loaded })
    else i }

/-- An access of a core's program, or of an engine operation that it has issued, meets tile instructions. -/
def raceKernel (s : State) (c : Nat) (keys : List Nat) (writes : Bool) : State :=
  let a : Accessor := ⟨tileOfCore s c, none⟩
  noteTouch (raceTiles s (ctxOfCore s c) keys writes a) a keys writes

/-- The bytes of the OWN regions of a tensor. -/
def ownKeys (s : State) (ctx : Nat) (o : Operand) : List Nat :=
  if !o.roles.contains 3 then []
  else ((List.range (dCount o.desc)).filter fun e => elemRole o e = 3).flatMap fun e =>
    match pageOf s ctx (elemVa o.desc e) with
    | some x => (List.range (max 1 (codeBits (dFmt o.desc) / 8))).map (xlatHome x (elemVa o.desc e) + ·)
    | none => []

/-! ## Recasts in flight (R350) -/

/-- The home keys of the 64 KiB pages of the OWN regions that a pending recast converts. -/
def castOwnPages (s : State) (r : Recast) : List Nat :=
  let rs := if dMixed r.desc then r.roles else List.replicate (regionCount r.desc) (dRole r.desc)
  ((List.range rs.length).zip rs).filterMap fun q =>
    let va := pageBase (dBase r.desc) + q.1 * 2 ^ 16
    if q.2 = 3 then (pageOf s r.ctx va).map fun x => xlatHome x va else none

/-- A plain store that a unit other than the issuer of a recast from OWN issues while the recast is pending races with the conversion's
reading (R350). -/
def raceCasts (s : State) (c : Nat) (keys : List Nat) : State :=
  s.recasts.foldl (fun s r =>
    if r.req.by_ = .core c then s
    else
      let pages := castOwnPages s r
      addRaced s r.ctx (keys.filter fun k => pages.any fun pg => pg ≤ k && k < pg + 2 ^ 16)) s

/-! ## Accesses to OWN bytes (R348) -/

/-- A plain store of core c to OWN bytes is issued. -/
def raceStore (s : State) (c : Nat) (bits : List Bits8) : State :=
  let keys := bits.map (·.1)
  raceCasts (raceKernel (raceWith s (ctxOfCore s c) bits true (otherUnits s c)) c keys true) c keys
/-- A plain load or an atomic of core c of OWN bytes is issued. -/
def raceRead (s : State) (c : Nat) (bits : List Bits8) : State :=
  raceKernel (raceWith s (ctxOfCore s c) bits false (otherUnits s c)) c (bits.map (·.1)) false

/-- The host writes bytes of memory: they race for the programs of the contexts whose accesses and tile instructions they meet (R348,
R351). -/
def raceHost (s : State) (bits : List Bits8) : State :=
  let keys := bits.map (·.1)
  let s := (otherUnits s noCore).foldl (fun s u => addRaced s u.ctx (meet bits (u.stores ++ u.reads))) s
  raceCasts ((tileMeets s keys true ⟨none, none⟩).foldl (fun s q => addRaced s q.1 q.2) s) noCore keys

/-! ## What a waiting repetition has done (R402) -/

/-- The bytes in which two memories differ: place, before and after. -/
def memDiff (m n : List Host.Cell) : List (Nat × BitVec 8 × BitVec 8) :=
  (((m ++ n).map (·.1)).eraseDups.map fun k => (k, memByte m k, memByte n k)).filter fun q => q.2.1 ≠ q.2.2

/-- The waiting repetition of core c that took an identity, if its effects are kept for a watchdog that ends the wait. -/
def keptFor (s : State) (c id : Nat) : Option AssertAt := s.asserts.find? fun a => a.core = c && a.mark ≤ id && decide (id < a.upto)

/-- What an access or an operation of core c, known by an identity, has done between two states is kept with the waiting repetition that
it belongs to. The bytes of an access that is `whole` go back together or not at all. -/
def noteEffect (was now : State) (c id : Nat) (whole : Bool) : State :=
  match keptFor now c id with
  | none => now
  | some a =>
    let k := clusterOfCore c
    let d := memDiff was.mem now.mem
    let sp := (memDiff (clusterOf was k).sp (clusterOf now k).sp).map fun q => (k, q)
    let array := (coreOf was c).arrayQ.any fun o => o.id = id
    let z := { a with
      mem := if whole then a.mem ++ [d] else a.mem ++ d.map fun q => [q]
      sp := a.sp ++ sp
      arrays := if array then a.arrays.or (some (coreOf was c)) else a.arrays
      banks := if array && a.arrays.isNone then [2 * (c % 2), 2 * (c % 2) + 1].map fun j => (j, bankOf was k j) else a.banks }
    { now with asserts := now.asserts.map fun b => if b = a then z else b }

/-! ## Packages that no route reaches (R380) -/

/-- A memory key stands on a package that no route reaches. -/
def lostKey (s : State) (key : Nat) : Bool := !reaches s (keyPkg key)

/-- Where the code that a core fetches next stands. -/
def fetchKey (s : State) (c : Nat) : Option Nat :=
  let x := coreOf s c
  match x.mode with
  | .running | .handler => (translate s (clusterOfCore c) (ctxOfCore s c) x.pc.toNat).map fun p => xlatRead s (ctxOfCore s c) p x.pc.toNat
  | _ => none

/-- The first address of a core's pending accesses, or of its next fetch, that stands on a lost package. -/
def lostAccess (s : State) (c : Nat) (x : Core) : Option Nat :=
  ((x.loads.map (·.addr)) ++ (fetchKey s c).toList ++ x.sq.filterMap fun e => match e.line with | .mem l => some (64 * l) | .tensor .. => none).find? (lostKey s)

/-- A core access to a lost package takes a data error (R380, R420), and the accesses there are gone. -/
def failAccesses (s : State) : State :=
  s.cores.foldl (fun s q => match lostAccess s q.1 q.2 with
    | none => s
    | some key =>
      let s := modCore s q.1 fun x =>
        { x with loads := x.loads.filter (fun l => !lostKey s l.addr)
                 sq := x.sq.filter fun e => match e.line with | .mem l => !lostKey s (64 * l) | .tensor .. => true }
      abortTask s q.1 (key % 2 ^ 52)) s

/-! ## Structures that only the device may write (R364, R382, R443) -/

/-- An operation on a channel is in flight. -/
def channelBusy (s : State) (ctx ch : Nat) : Bool :=
  let uses (o : EngOp) : Bool := o.ctx = ctx && o.chan = ch && (o.kind = .csend || o.kind = .crecv)
  s.clusters.any (fun k => k.2.engine.any uses) || s.stoppedOps.any (fun o => uses o.2)
    || s.chanTiles.any (fun t => t.ctx = ctx && t.chan = ch)
    || s.tiles.any (fun i => i.ctx = ctx && tileOp i.tile = 11 && bitsOf i.tile.param 7 0 = ch && (i.state = .queued || i.state = .running))

/-- The bytes of a live context's structures that become free when a byte of memory at address pa is written by software: the value
and thresholds of an event, the entry of a channel in use, and the retained-generation table, for which its first byte stands. -/
def structBytes (s : State) (ctx pa : Nat) : List Nat :=
  let ev := recBits s ctx 307 256
  let ch := recBits s ctx 371 320
  let rg := recBits s ctx 435 384
  let own (at_ n : Nat) : List Nat := (List.range n).map fun i => memKey s.pkg.toNat (at_ + i)
  (if ev + 64 ≤ pa && pa < ev + 64 * evCount s ctx then own (ev + (pa - ev) / 64 * 64) 48 else [])
    ++ (if ch ≤ pa && pa < ch + 64 * 256 && channelBusy s ctx ((pa - ch) / 64) then own (ch + (pa - ch) / 64 * 64) 64 else [])
    ++ (if rg ≤ pa && pa < rg + 32 * 256 then own rg 1 else [])

/-- The state after software has written bytes of memory: where they belong to such structures, these are undefined for the
program of their context from now on (R2). -/
def softBytes (s : State) (keys : List Nat) : State :=
  s.ctxs.foldl (fun s q =>
    if q.2.state = 1 then
      addRaced s q.1 ((keys.filter fun k => keyPkg k = s.pkg.toNat).flatMap fun k => structBytes s q.1 (k % 2 ^ 52))
    else s) s

/-! ## The queue of a core -/

/-- A byte of a core as the plain stores of its queue leave it (R338). -/
def overStores (x : Core) (a : Nat) (b : BitVec 8) : BitVec 8 :=
  x.sq.foldl (fun b e => match e.kind with
    | .store bits => bits.foldl (fun b w => if w.1 = a then (b &&& ~~~w.2.1) ||| (w.2.2 &&& w.2.1) else b) b
    | _ => b) b

/-! ## Entering the machine (R336) -/

/-- An entry put last into SQ(c). -/
def enterSq (s : State) (c : Nat) (line : LineKey) (kind : SqKind) : State :=
  let (n, s) := freshId s
  modCore s c fun x => { x with sq := x.sq ++ [⟨n, line, kind, none, x.shadow.isSome, ctxOfCore s c⟩] }

/-- An entry whose value an array operation gives at its completion: its identity is returned. -/
def enterWait (s : State) (c op : Nat) (line : LineKey) (kind : SqKind) : Nat × State :=
  let (n, s) := freshId s
  (n, modCore s c fun x => { x with sq := x.sq ++ [⟨n, line, kind, some op, x.shadow.isSome, ctxOfCore s c⟩] })

/-- A load of the masked bits of n bytes put into L(c). -/
def enterLoadBits (s : State) (c addr n mask : Nat) (dst : LoadDst) : State :=
  let (m, s) := freshId s
  modCore s c fun x => { x with loads := x.loads ++ [⟨m, addr, n, mask, dst, ctxOfCore s c⟩] }

/-- A load of whole bytes put into L(c). -/
def enterLoad (s : State) (c addr n : Nat) (dst : LoadDst) : State := enterLoadBits s c addr n 255 dst

/-- A plain store of masked bytes on one line (R336). -/
def enterStore (s : State) (c : Nat) (bits : List (Nat × BitVec 8 × BitVec 8)) : State :=
  let s := raceStore s c (bits.map fun b => (b.1, b.2.1.toNat))
  match bits with
  | [] => s
  | b :: _ => enterSq s c (.mem (lineOf b.1)) (.store bits)

/-! ## ACC adds (R211, R250) -/

/-- Integer or floating, for the family check of R211; XACC is floating. -/
def isIntCode (fmt : Nat) : Bool := match fmtOf fmt with | some f => isInt f | none => false

/-- A value of one format may be added to an ACC tensor of another (R211, R250): of an integer or a floating family both, and CB4 and PBIT
are families of their own (R27). -/
def sameFamily (vf fmt : Nat) : Bool := isIntCode vf = isIntCode fmt && fmt ≠ 12 && fmt ≠ 14

/-- The writer check of R74 and R83 for a core: a member of the declared line, not arrived at a pending recast of the
generation and not outside its required set. -/
def mayAdd (s : State) (c ctx index gen wgrp : Nat) : Bool :=
  isMember s c wgrp && !(s.recasts.any fun r =>
    r.ctx = ctx && r.index = index && r.gen = gen && r.group && (r.arrived.contains c || !r.required.contains c))

/-- The page check of an ACC add at an address (R71), and the writer check, which is one of the handle's generation: its
`TADDR` is 0 (R400). -/
def accPage (s : State) (c slot elem ea index gen wgrp : Nat) : Except Trap Nat :=
  match access s c ea .accAdd slot elem with
  | .error t => .error t
  | .ok x =>
    if mayAdd s c (ctxOfCore s c) index gen wgrp then .ok (xlatHome x ea)
    else .error (trapAt 0x07 0 slot elem)

/-- The address of an add lies in the tensor's holding area, on a holding element: in a mixed tensor, at an element's address
(R69, R442). -/
def inHolding (d : BitVec 512) (va h : Nat) : Bool :=
  va % h = 0 &&
    if dMixed d then (dSpan d).1 ≤ va && va ≤ (dSpan d).2 && (List.range (dCount d)).any fun i => elemVa d i = va
    else dBase d ≤ va && va + h ≤ dBase d + dCount d * h

/-- The indices of the valid descriptors of a context, those that memory lists: `VALID` is bit 63 of an entry (R66). -/
def validDescs (s : State) (ctx : Nat) : List Nat :=
  let base := memKey s.pkg.toNat (recBits s ctx 115 64)
  s.mem.filterMap fun q =>
    if base ≤ q.1 && q.1 < base + 64 * 2 ^ 16 && (q.1 - base) % 64 = 7 && q.2.toNat.testBit 7 then some ((q.1 - base) / 64)
    else none

/-- The piece that stages the ACC contributions of a core's task to a tensor, under `CAR` (R115, R128): those to a tensor
that one of its operands names. -/
def stagesIn (s : State) (c index gen : Nat) : Option Nat :=
  match (coreOf s c).task with
  | some t =>
    let named := match s.pieces.find? fun p => p.id = t.piece with
      | some p => match s.tiles.find? fun i => i.id = p.tile with
        | some i => (tileWords i.tile).any fun h => h ≠ 0 && hIndex h = index && hGen h = gen
        | none => false
      | none => false
    if t.car && named then some t.piece else none
  | none => none

/-- An ACC add put into SQ(c) (R336). -/
def enterAcc (s : State) (c : Nat) (h : BitVec 64) (d : BitVec 512) (addr vfmt value : Nat) : State :=
  enterSq s c (.mem (lineOf addr))
    (.acc ⟨ctxOfCore s c, hIndex h, hGen h, addr, dComb d, dFmt d, dElo d, vfmt, value, stagesIn s c (hIndex h) (hGen h), none, (coreOf s c).shadow.isSome⟩)

/-- The engine operations that have not completed, those stopped with a saved cluster among them (R416). -/
def allOps (s : State) : List EngOp := s.clusters.flatMap (fun k => k.2.engine) ++ s.stoppedOps.map (·.2)

/-- The adds of a CRECV into an ACC tensor whose tiles have not been delivered (R71). -/
def accsLeft (o : EngOp) : List AccAdd :=
  let tiles := o.len / max o.tileBytes 1
  let n := o.accs.length / max tiles 1
  if o.accs.isEmpty then []
  else (List.range tiles).flatMap fun j => if o.sent.contains j then [] else (o.accs.drop (j * n)).take n

/-- ACC adds that a core has issued and that are not combined (R337), those of its receptions among them. -/
def accOwed (s : State) (c : Nat) : Bool :=
  let x := coreOf s c
  x.sq.any (fun e => match e.kind with | .acc _ => true | _ => false)
    || s.bags.any (fun b => b.1 = c)
    || (allOps s).any fun o => o.core = c && !(accsLeft o).isEmpty

/-! ## Appends (R212, R252) -/

/-- An append of n elements to the tensor of a handle by core c: its descriptor and record, or the trap. -/
def appendCheck (s : State) (c slot : Nat) (h : BitVec 64) (n : Nat) : Except Trap (BitVec 512 × TensorRec) :=
  match slotHandle s c slot h with
  | .error t => .error t
  | .ok (d, _) =>
    let t := recOf s (ctxOfCore s c) (hIndex h) (hGen h)
    let role := trapOf 0x07 (slot * 256)
    if dMixed d then .error role
    else if dRole d = 1 && dFmt d = 13 then .error (trapIllegal (coreOf s c).pc slot)
    else if dRole d = 0 then
      match access s c (elemVa d 0) .append slot 0 with
      | .error e => .error e
      | .ok _ => .error role
    else if dRole d ≠ 1 || t.closing || (t.producer.isSome && t.producer ≠ some c) || dCount d < t.issued + n then
      .error role
    else .ok (d, t)

/-- The places of appended elements, the first of them element `first`, checked against their pages (R71): their keys. A trap names
the lane that appends the element (R255). -/
def appendPages (s : State) (c slot : Nat) (d : BitVec 512) : Nat → List Nat → Except Trap (List Nat)
  | _, [] => .ok []
  | first, lane :: lanes => match access s c (elemVa d first) .append slot lane with
    | .error e => .error e
    | .ok x => match appendPages s c slot d (first + 1) lanes with
      | .error e => .error e
      | .ok ks => .ok (xlatHome x (elemVa d first) :: ks)

/-- The bytes of element i of a stream, its first byte at a key. -/
def streamBits (d : BitVec 512) (i key v : Nat) : List (Nat × BitVec 8 × BitVec 8) :=
  let b := codeBits (dFmt d)
  let sh := (elemBit d i % 8).toNat
  if b < 8 then [(key, BitVec.ofNat 8 (ones b <<< sh), BitVec.ofNat 8 (v <<< sh))] else wholeBytes key (b / 8) v

/-- Appends of elements by core c to a stream, which has it as its producer (R73); `ks` are the keys of their places. -/
def enterAppends (s : State) (c : Nat) (d : BitVec 512) (t : TensorRec) (ks vs : List Nat) : State :=
  let s := putRec s { t with issued := t.issued + vs.length, producer := some c }
  ((List.range vs.length).zip (ks.zip vs)).foldl (fun s q =>
    enterSq s c (.tensor t.ctx t.index t.gen)
      (.append t.ctx t.index t.gen (streamBits d (t.issued + q.1) q.2.1 q.2.2))) s

end Sys2Proof.Machine
end

