-- ==== Sys2Proof/Machine/OrderRun.lean ====
section
/-!
DEFINITION. The moves of the ordering machine on store queues, load sets, add bags and event counters (R337 to R340, R342,
R349, R365).
-/
namespace Sys2Proof.Machine

/-! ## Store queues (R337) -/

/-- The bytes of a store entry's kind that it covers. -/
def covers (e : SqEntry) : List Nat :=
  match e.kind with
  | .store bits => bits.map (·.1)
  | .amo _ addr n _ _ _ => (List.range n).map fun i => addr + i
  | .vamo _ addr fm _ _ _ _ => (List.range (codeBits fm / 8)).map fun i => addr + i
  | _ => []

/-- An entry's value is not known before it applies. -/
def unknownYet (e : SqEntry) : Bool :=
  e.wait.isSome || (match e.kind with | .amo .. | .vamo .. => true | _ => false)

/-- An entry may apply: no older entry of its queue stands on its line, and its value is known. -/
def mayApply (x : Core) (k : Nat) : Option SqEntry :=
  match x.sq[k]? with
  | some e => if e.wait.isNone && !((x.sq.take k).any fun f => f.line = e.line) then some e else none
  | none => none

/-- A core without an entry of its store queue. -/
def dropSq (s : State) (c id : Nat) : State := modCore s c fun x => { x with sq := x.sq.filter fun e => e.id ≠ id }

/-- The state with the counter of free values past a read of n bytes. -/
def pastFree (s : State) : State := { s with free := s.free + 2 ^ 72 }

/-- An atomic on memory (R209): reads, computes and writes; the old value returns. -/
def applyAmo (s : State) (c : Nat) (byHandler : Bool) (op addr n x cmp : Nat) (ret : Option Ret) : State :=
  let old := seenNum s (ctxOfCore s c) addr n
  let s := softBytes (setMem (pastFree s) (memPut s.mem addr (toBytes n (amoNew op (8 * n) old x cmp)))) [addr]
  giveRet s c byHandler ret (sext64 (8 * n) old).toNat 0

/-- An atomic of one element on memory (R251). -/
def applyVamo (s : State) (c : Nat) (byHandler : Bool) (op addr fm rm rnd x : Nat) (ret : Option Ret) : State :=
  let f := (fmtOf fm).getD .i8
  let n := fmtBits f / 8
  let old := seenNum s (ctxOfCore s c) addr n
  let v := vamoNew op f ((rmOf rm).getD .rne) rnd old x
  let s := softBytes (setMem (pastFree s) (memPut s.mem addr (toBytes n v.1))) [addr]
  giveRet s c byHandler ret old v.2

/-- An append reaches its pipe (R337, R340): the element stands in the tensor, where it translated at issue (R336), and the append
position rises. -/
def applyAppend (s : State) (ctx index gen : Nat) (bits : List (Nat × BitVec 8 × BitVec 8)) : State :=
  let t := recOf s ctx index gen
  putRec (softBytes (setMem s (memMasked s.mem bits)) (bits.map (·.1))) { t with appended := t.appended + 1 }

/-- An entry of core c has its effect at its home (R337). -/
def applyEntry (s : State) (c : Nat) (e : SqEntry) : State :=
  match e.kind with
  | .store bits => softBytes (setMem s (memMasked s.mem bits)) (bits.map (·.1))
  | .amo op addr n x cmp ret => applyAmo s c e.byHandler op addr n x cmp ret
  | .vamo op addr fm rm rnd x ret => applyVamo s c e.byHandler op addr fm rm rnd x ret
  | .acc a => { s with bags := s.bags ++ [(c, { a with array := a.array.or (some e.id) })] }
  | .append ctx index gen bits => applyAppend s ctx index gen bits

/-- STORE_APPLY (R337): entry k of a store queue applies when it is the oldest of its line. -/
def execStoreApply (c k : Nat) (s : State) : Host.Outcome State Fault Refusal :=
  match mayApply (coreOf s c) k with
  | some e => .next (tryReturn (noteEffect s (applyEntry (dropSq s c e.id) c e) c e.id (unknownYet e)) c)
  | none => .next s

/-! ## Load sets (R338) -/

/-- Load k of a core may perform. -/
def mayPerform (x : Core) (k : Nat) : Option LoadEntry :=
  match x.loads[k]? with
  | some l =>
    let hit (a : Nat) : Bool := l.addr ≤ a && a < l.addr + l.bytes
    if ((x.loads.take k).any fun m => m.addr < l.addr + l.bytes && l.addr < m.addr + m.bytes)
        || (x.sq.any fun e => unknownYet e && (covers e).any hit) then none
    else some l
  | none => none

/-- A byte as core c loads it: the newest covering store of its queue, else memory. -/
def loadByte (s : State) (c a : Nat) : Nat :=
  if s.raced.contains (ctxOfCore s c, a) then seenByte s (ctxOfCore s c) a
  else (overStores (coreOf s c) a (memByte s.mem a)).toNat

/-- n bytes as core c loads them. -/
def loadNum (s : State) (c : Nat) : Nat → Nat → Nat
  | _, 0 => 0
  | a, n + 1 => loadByte s c a + 256 * loadNum s c (a + 1) n

/-- A loaded value given to what waits for it. -/
def giveLoad (x : Core) (l : LoadEntry) (v : Nat) : Core :=
  match l.dst with
  | .flight f signed p7 =>
    let x := giveFlight x f 0 64 (extendLoad signed l.bytes v).toNat 0
    match p7 with
    | some p => giveFlight x p 0 1 1 0
    | none => x
  | .vec slot elem =>
    { x with vwaits := x.vwaits.map fun w =>
        if w.slot = slot then { w with out := w.out - 1, data := w.data ++ [(elem, v)] } else w }
  | .array op line =>
    { x with arrayQ := x.arrayQ.map fun o =>
        if o.id = op then { o with out := o.out - 1, data := o.data ++ [(line, v)] } else o }

/-- A value for a pending result of a frozen task whose record has been saved: its replay entry in the record takes it (R404,
R415). -/
def giveSaved (s : State) (c id v : Nat) : State :=
  match s.frozen.find? fun z => z.core = c && z.replay.any fun a => a.id = id && a.due.isNone with
  | none => s
  | some z =>
    let j := z.replay.findIdx fun a => a.id = id
    let pa := recordPa s z.task.ctx c + 0x5C80 + 160 * j
    let e := setBits (setBits (setBits (paNum s pa 160) 13 13 0) 23 16 0) 1279 256 v
    let s := paPut s pa 160 e
    { s with frozen := s.frozen.map fun w =>
        if w = z then { w with replay := w.replay.map fun a => if a.id = id then arrive a 0 64 v 0 0 else a } else w }

/-- What a load of a saved task waits for gets its value. -/
def giveLoadSaved (s : State) (c : Nat) (l : LoadEntry) (v : Nat) : State :=
  match l.dst with
  | .flight f signed p7 =>
    let s := giveSaved s c f (extendLoad signed l.bytes v).toNat
    match p7 with | some p => giveSaved s c p 1 | none => s
  | _ => s

/-- A load of a core performed. -/
def performLoad (s : State) (c : Nat) (l : LoadEntry) : State :=
  let v := loadNum s c l.addr l.bytes
  giveLoadSaved (modCore (pastFree s) c fun x => giveLoad { x with loads := x.loads.filter fun m => m.id ≠ l.id } l v) c l v

/-- LOAD_PERFORM (R338): load k of a core performs. -/
def execLoadPerform (c k : Nat) (s : State) : Host.Outcome State Fault Refusal :=
  match mayPerform (coreOf s c) k with
  | some l => .next (tryReturn (performLoad s c l) c)
  | none => .next s

/-! ## Add bags (R339) -/

/-- Bytes of a holding element. -/
def accBytes (a : AccAdd) : Nat := holdBits ((fmtOf a.fmt).getD .xacc) a.comb / 8

/-- An add combined into an element (R53, R56): the new element and its flags. -/
def combineAdd (a : AccAdd) (el : Nat) : Nat × Nat :=
  holdAdd ((fmtOf a.fmt).getD .xacc) a.comb a.elo el ((fmtOf a.vfmt).getD .i8) a.value

/-- A staged add combined in the staging of its piece (R128): the pieces and the flags. -/
def stageAdd (a : AccAdd) (p : Piece) : Piece × Nat :=
  let f := (fmtOf a.fmt).getD .xacc
  match p.staging.find? fun q => q.1 = a.addr with
  | some q =>
    let r := combineAdd a q.2.value
    ({ p with staging := p.staging.map fun z => if z.1 = a.addr then (z.1, { z.2 with value := r.1 }) else z }, r.2)
  | none =>
    let r := combineAdd a (holdIdentity f a.comb)
    ({ p with staging := p.staging ++ [(a.addr, { a with value := r.1 })] }, r.2)

/-- An add has its effect: in the element's home, or in a piece's staging. -/
def landAdd (s : State) (a : AccAdd) : State × Nat :=
  match a.staged with
  | none =>
    let r := combineAdd a (memNum s.mem a.addr (accBytes a))
    (setMem s (memPut s.mem a.addr (toBytes (accBytes a) r.1)), r.2)
  | some id => match s.pieces.find? fun p => p.id = id with
    | some p =>
      let r := stageAdd a p
      ({ s with pieces := s.pieces.map fun q => if q.id = id then r.1 else q }, r.2)
    | none => (s, 0)

/-- The flags of a combined add return: with the acknowledgement of the engine operation or of the die piece of a TCOL that it
belongs to (R341, R342), else to the task of its core (R36). -/
def ackAdd (s : State) (c : Nat) (a : AccAdd) (flags : Nat) : State :=
  let mine (o : EngOp) : Bool := a.array = some o.id
  if (clusterOf s (clusterOfCore c)).engine.any mine then
    modCluster s (clusterOfCore c) fun k =>
      { k with engine := k.engine.map fun o => if mine o then { o with flags := o.flags ||| flags } else o }
  else if s.pieces.any fun p => a.array = some p.id then
    { s with pieces := s.pieces.map fun p => if a.array = some p.id then { p with flags := p.flags ||| BitVec.ofNat 6 flags } else p }
  else modCore s c fun x => returnFlags x a.byHandler flags

/-- ACC_COMBINE (R339): add k of the bags is combined and acknowledged with its flags. -/
def execAccCombine (k : Nat) (s : State) : Host.Outcome State Fault Refusal :=
  match s.bags[k]? with
  | some b =>
    let r := landAdd { s with bags := s.bags.eraseIdx k } b.2
    .next (tryReturn (noteEffect s (ackAdd r.1 b.1 b.2 r.2) b.1 (b.2.array.getD 0) true) b.1)
  | none => .next s

/-! ## Async path (R342) -/

/-- ASYNC_MERGE (R342): entry k of the async path merges into memory. -/
def execAsyncMerge (k : Nat) (s : State) : Host.Outcome State Fault Refusal :=
  match s.async[k]? with
  | some e =>
    .next (softBytes (setMem { s with async := s.async.eraseIdx k } (memMasked s.mem (e.bytes.map fun b => (b.1, 0xFF#8, b.2))))
      (e.bytes.map (·.1)))
  | none => .next s

/-! ## Event counters (R349, R365) -/

/-- An increment may apply: every entry that its core issued before it has left the store queue (R349). -/
def mayRise (s : State) (i : EventInc) : Bool :=
  match i.core with
  | some c => !((coreOf s c).sq.any fun e => i.after.contains e.id)
  | none => true

/-- What an access to an event returns: the value before an increment, or the word that an EVRD reads (R366). -/
def incResult (s : State) (i : EventInc) : Nat :=
  match i.word with
  | some w => fieldAt (evEntry s i.ctx i.idx) 64 w
  | none => if i.pkg = s.pkg.toNat then evValue s i.ctx i.idx else (Config.remoteValue s.free).toNat

/-- An increment has its effect, and an EVRD none; the result returns to the core that asked (R366). -/
def landInc (s : State) (i : EventInc) : State :=
  let old := incResult s i
  let s := if i.word.isSome then s
    else if i.pkg = s.pkg.toNat then applyInc s i.ctx i.idx i.inc else { s with free := s.free + 1 }
  match i.core, i.ret with
  | some c, some f => tryReturn (giveSaved (modCore s c fun x => giveFlight x f 0 64 old 0) c f old) c
  | _, _ => s

/-- Another package raises a counter here, when that is what other packages do next: their increments stand in order with what came
before them there (R349, R365, R374). -/
def awayInc (s : State) : State :=
  match s.away with
  | .increment ctx idx inc :: r => if (ctxOf s ctx).state = 1 then raiseEvent { s with away := r } ctx idx inc else { s with away := r }
  | _ => s

/-- EVENT_INCREMENT (R349, R365): increment k applies at its counter's home; numbers above those of this package's increments stand for
another package's. -/
def execEventIncrement (k : Nat) (s : State) : Host.Outcome State Fault Refusal :=
  match s.incs[k]? with
  | some i => if mayRise s i then .next (landInc { s with incs := s.incs.eraseIdx k } i) else .next s
  | none => .next (awayInc s)

/-- EVENT_CHAIN_APPLY (R365): the oldest queued chain applies as its own increment. -/
def execEventChainApply (s : State) : Host.Outcome State Fault Refusal :=
  match s.chains with
  | i :: r => .next (applyInc { s with chains := r } i.ctx i.idx i.inc)
  | [] => .next s

end Sys2Proof.Machine
end

