-- ==== Sys2Proof/Machine/VectorArith.lean ====
section
/-!
DEFINITION. Vector arithmetic, logic, compares and masks (R231 to R235).
-/
namespace Sys2Proof.Machine

/-- An operation on the elements of its sources: what it does with them, given the core (R228, R229). -/
def onElems (x : VSlot) (f : VF) (k : State → Nat → Core → Elems → OpRes) : Act := fun s c _ =>
  match vElems s c x f with
  | .error t => .trap t
  | .ok none => .stall id
  | .ok (some e) => k s c (coreOf s c) e

/-- An elementwise operation: bits and flags of each active element, landing after a latency. -/
def vMap (x : VSlot) (f : VF) (lat : Nat) (op : Core → Elems → Nat → Nat × Nat) : Act :=
  onElems x f fun s c y e =>
    .ok (vWrite s c x lat f.d.toNat (vE f) (vW f) ((actives e.m e.n).map fun i => (i, op y e i))) .none

/-- An elementwise operation that raises no flag. -/
def vMapBits (x : VSlot) (f : VF) (lat : Nat) (op : Elems → Nat → Nat) : Act :=
  vMap x f lat fun _ e i => (op e i, 0)

/-- VNOP clears its slot. -/
def actVnop (_ : VSlot) : Act := fun s _ _ => .ok s .none

/-! ## Arithmetic (R231) -/

/-- A floating value of a source element. -/
def fv (f : VF) (x : Nat) : Val := floatVal (vF f) x
/-- An integer value of a source element. -/
def iv (f : VF) (x : Nat) : Int := fmtInt (vF f) x
/-- A floating result rounded by `rm`. -/
def fRes (f : VF) (y : Core) (i : Nat) (v : Val × Nat) : Nat × Nat :=
  let r := roundFloat (vF f) (vRm f) (vRnd y i) false v.1
  (r.1, v.2 ||| r.2)
/-- An exact floating result. -/
def fExact (f : VF) (v : Val × Nat) : Nat × Nat :=
  let r := roundFloat (vF f) .rne 0 false v.1
  (r.1, v.2 ||| r.2)
/-- An integer result, wrapped. -/
def iRes (f : VF) (v : Int) : Nat × Nat := (wrapTo (vE f) v, 0)
/-- Latency of the additive and multiplicative rows (R256). -/
def arithLat (f : VF) : Nat := if isInt (vF f) then 2 else 4
/-- The sign of an exact zero sum (R37). -/
def zeroNeg (f : VF) : Bool := vRm f = .rdn

/-- An arithmetic row: its floating and its integer form. -/
def vArithRow (x : VSlot) (f : VF) (fl : Elems → Nat → Val × Nat) (int : Elems → Nat → Int) : Act :=
  vMap x f (arithLat f) fun y e i => if isInt (vF f) then iRes f (int e i) else fRes f y i (fl e i)

/-- a + b. -/
def actVadd (x : VSlot) (f : VF) : Act :=
  vArithRow x f (fun e i => addVal (zeroNeg f) (fv f (e.a i)) (fv f (e.b i))) fun e i => iv f (e.a i) + iv f (e.b i)
/-- a − b. -/
def actVsub (x : VSlot) (f : VF) : Act :=
  vArithRow x f (fun e i => addVal (zeroNeg f) (fv f (e.a i)) (fv f (e.b i)).negate) fun e i => iv f (e.a i) - iv f (e.b i)
/-- a × b. -/
def actVmul (x : VSlot) (f : VF) : Act :=
  vArithRow x f (fun e i => mulVal (fv f (e.a i)) (fv f (e.b i))) fun e i => iv f (e.a i) * iv f (e.b i)
/-- a × b + c, one rounding. -/
def actVfma (x : VSlot) (f : VF) : Act :=
  vArithRow x f (fun e i => fmaVal (zeroNeg f) (fv f (e.a i)) (fv f (e.b i)) (fv f (e.c i)))
    fun e i => iv f (e.a i) * iv f (e.b i) + iv f (e.c i)
/-- a × b − c, one rounding. -/
def actVfms (x : VSlot) (f : VF) : Act :=
  vArithRow x f (fun e i => fmaVal (zeroNeg f) (fv f (e.a i)) (fv f (e.b i)) (fv f (e.c i)).negate)
    fun e i => iv f (e.a i) * iv f (e.b i) - iv f (e.c i)
/-- −(a × b) + c, one rounding. -/
def actVfnma (x : VSlot) (f : VF) : Act :=
  vArithRow x f (fun e i => fmaVal (zeroNeg f) (fv f (e.a i)).negate (fv f (e.b i)) (fv f (e.c i)))
    fun e i => -(iv f (e.a i) * iv f (e.b i)) + iv f (e.c i)

/-- The smaller or larger of two elements. -/
def minMaxElem (f : VF) (isMax : Bool) (a b : Nat) : Nat × Nat :=
  if isInt (vF f) then iRes f (if isMax then max (iv f a) (iv f b) else min (iv f a) (iv f b))
  else fExact f (minMaxVal isMax (fv f a) (fv f b))

/-- The smaller. -/
def actVmin (x : VSlot) (f : VF) : Act := vMap x f 2 fun _ e i => minMaxElem f false (e.a i) (e.b i)
/-- The larger. -/
def actVmax (x : VSlot) (f : VF) : Act := vMap x f 2 fun _ e i => minMaxElem f true (e.a i) (e.b i)
/-- The magnitude. -/
def actVabs (x : VSlot) (f : VF) : Act := vMap x f 2 fun _ e i =>
  if isInt (vF f) then iRes f ((iv f (e.a i)).natAbs : Int) else fExact f ((fv f (e.a i)).abs, 0)
/-- The negation. -/
def actVneg (x : VSlot) (f : VF) : Act := vMap x f 2 fun _ e i =>
  if isInt (vF f) then iRes f (-(iv f (e.a i))) else fExact f ((fv f (e.a i)).negate, 0)
/-- The quotient, correctly rounded. -/
def actVdiv (x : VSlot) (f : VF) : Act := vMap x f 20 fun y e i => fRes f y i (divVal (fv f (e.a i)) (fv f (e.b i)))
/-- The high half of the product. -/
def actVmulh (x : VSlot) (f : VF) : Act := vMap x f 2 fun _ e i =>
  iRes f (iv f (e.a i) * iv f (e.b i) / ((2 ^ vE f : Nat) : Int))

/-- A sum clamped to the format, with `SAT` when it was. -/
def satRes (f : VF) (v : Int) : Nat × Nat :=
  let w := satInt v (intMin (vF f)) (intMax (vF f))
  (wrapTo (vE f) w, if w = v then 0 else fSAT)

/-- The saturating sum. -/
def actVsadd (x : VSlot) (f : VF) : Act := vMap x f 2 fun _ e i => satRes f (iv f (e.a i) + iv f (e.b i))
/-- The saturating difference. -/
def actVssub (x : VSlot) (f : VF) : Act := vMap x f 2 fun _ e i => satRes f (iv f (e.a i) - iv f (e.b i))

/-! ## Logic, shifts and counts (R232) -/

/-- Bitwise and. -/
def actVand (x : VSlot) (f : VF) : Act := vMapBits x f 2 fun e i => e.a i &&& e.b i
/-- Bitwise or. -/
def actVor (x : VSlot) (f : VF) : Act := vMapBits x f 2 fun e i => e.a i ||| e.b i
/-- Bitwise exclusive or. -/
def actVxor (x : VSlot) (f : VF) : Act := vMapBits x f 2 fun e i => e.a i ^^^ e.b i
/-- Bitwise complement. -/
def actVnot (x : VSlot) (f : VF) : Act := vMapBits x f 2 fun e i => ones (vE f) ^^^ e.a i

/-- The shift count of an element: an immediate, or the low log2(e) bits of b. -/
def vShift (f : VF) (e : Elems) (i : Nat) : Nat := if bitOf f.imm 6 then bitsOf f.imm 5 0 else e.b i % vE f

/-- Shift left. -/
def actVshl (x : VSlot) (f : VF) : Act := vMapBits x f 2 fun e i => lowBits (vE f) (e.a i <<< vShift f e i)
/-- Logical shift right. -/
def actVshr (x : VSlot) (f : VF) : Act := vMapBits x f 2 fun e i => e.a i >>> vShift f e i
/-- Arithmetic shift right. -/
def actVsra (x : VSlot) (f : VF) : Act := vMapBits x f 2 fun e i => sraBits (vE f) (e.a i) (vShift f e i)
/-- Count of one bits. -/
def actVpopc (x : VSlot) (f : VF) : Act := vMapBits x f 2 fun e i => popCount (vE f) (e.a i)
/-- Count of leading zero bits. -/
def actVclz (x : VSlot) (f : VF) : Act := vMapBits x f 2 fun e i => leadingZeros (vE f) (e.a i)

/-! ## Compares and select (R233, R234) -/

/-- A compare of two elements (R233). -/
def vCond (cond : Nat) (a b : Val) : Bool :=
  match cond with
  | 0 => valEq a b
  | 1 => !valEq a b
  | 2 => valLt a b
  | 3 => valLt a b || valEq a b
  | 4 => valLt b a
  | 5 => valLt b a || valEq a b
  | _ => a.isNan || b.isNan

/-- A compare into a mask register. -/
def actVcmp (x : VSlot) (f : VF) : Act := onElems x f fun s c _ e =>
  let rs := (actives e.m e.n).map fun i =>
    let a := elemVal (vF f) (e.a i)
    let b := elemVal (vF f) (e.b i)
    (i, vCond (bitsOf f.imm 2 0) a b, a.sigInv ||| b.sigInv)
  .ok (setM s c (vSlotNo x) 2 (isVb x) (bitsOf f.d 2 0) (rs.foldl (fun v r => if r.2.1 then v ||| 2 ^ r.1 else v) 0)
    (rs.foldl (fun v r => v ||| r.2.2) 0)) .none

/-- a or b by the mask, for every element. -/
def actVsel (x : VSlot) (f : VF) : Act := onElems x f fun s c _ e =>
  .ok (vWrite s c x 2 f.d.toNat (vE f) (vW f)
    ((List.range e.n).map fun i => (i, if e.m.testBit i then e.a i else e.b i, 0))) .none

/-! ## Masks (R235) -/

/-- A mask source with its inversion. -/
def mSrc (y : Core) (x : VSlot) (r : BitVec 4) (inv : Bool) : Nat :=
  (rdM y (isVb x) (bitsOf r 2 0)).toNat ^^^ (if inv then ones 64 else 0)

/-- A mask result of two masks. -/
def vMask2 (x : VSlot) (f : VF) (op : Nat → Nat → Nat) : Act := onElems x f fun s c y _ =>
  .ok (setM s c (vSlotNo x) 1 (isVb x) (bitsOf f.d 2 0) (op (mSrc y x f.a (bitOf f.imm 0)) (mSrc y x f.b (bitOf f.imm 1))) 0) .none

/-- Mask and. -/
def actVmand (x : VSlot) (f : VF) : Act := vMask2 x f (· &&& ·)
/-- Mask or. -/
def actVmor (x : VSlot) (f : VF) : Act := vMask2 x f (· ||| ·)
/-- Mask exclusive or. -/
def actVmxor (x : VSlot) (f : VF) : Act := vMask2 x f (· ^^^ ·)
/-- Mask complement. -/
def actVmnot (x : VSlot) (f : VF) : Act := vMask2 x f fun a _ => ones 64 ^^^ a

/-- Masks to and from vector registers, and their count. -/
def actVmcnt (x : VSlot) (f : VF) : Act := onElems x f fun s c y e =>
  let ma := mSrc y x f.a false
  match bitsOf f.imm 1 0 with
  | 0 => .ok (setV s c (vSlotNo x) 2 (isVb x) f.d.toNat (ones 64) (popCount 64 ma) 0 64) .none
  | 1 => .ok (setV s c (vSlotNo x) 2 (isVb x) f.d.toNat (ones 64) ma 0 64) .none
  | _ => .ok (setM s c (vSlotNo x) 2 (isVb x) (bitsOf f.d 2 0) (e.a 0) 0) .none

/-! ## The operations -/

/-- VNOP (R184). -/
def execVnop (x : VSlot) (s : State) : Host.Outcome State Fault Refusal :=
  issueSolo (vSlotNo x) (.vnop x) (actVnop x) s

/-- VADD (R231). -/
def execVadd (x : VSlot) (f : VF) (s : State) : Host.Outcome State Fault Refusal :=
  issueSolo (vSlotNo x) (.vadd x f) (actVadd x f) s

/-- VSUB (R231). -/
def execVsub (x : VSlot) (f : VF) (s : State) : Host.Outcome State Fault Refusal :=
  issueSolo (vSlotNo x) (.vsub x f) (actVsub x f) s

/-- VMUL (R231). -/
def execVmul (x : VSlot) (f : VF) (s : State) : Host.Outcome State Fault Refusal :=
  issueSolo (vSlotNo x) (.vmul x f) (actVmul x f) s

/-- VFMA (R231). -/
def execVfma (x : VSlot) (f : VF) (s : State) : Host.Outcome State Fault Refusal :=
  issueSolo (vSlotNo x) (.vfma x f) (actVfma x f) s

/-- VFMS (R231). -/
def execVfms (x : VSlot) (f : VF) (s : State) : Host.Outcome State Fault Refusal :=
  issueSolo (vSlotNo x) (.vfms x f) (actVfms x f) s

/-- VFNMA (R231). -/
def execVfnma (x : VSlot) (f : VF) (s : State) : Host.Outcome State Fault Refusal :=
  issueSolo (vSlotNo x) (.vfnma x f) (actVfnma x f) s

/-- VMIN (R231). -/
def execVmin (x : VSlot) (f : VF) (s : State) : Host.Outcome State Fault Refusal :=
  issueSolo (vSlotNo x) (.vmin x f) (actVmin x f) s

/-- VMAX (R231). -/
def execVmax (x : VSlot) (f : VF) (s : State) : Host.Outcome State Fault Refusal :=
  issueSolo (vSlotNo x) (.vmax x f) (actVmax x f) s

/-- VABS (R231). -/
def execVabs (x : VSlot) (f : VF) (s : State) : Host.Outcome State Fault Refusal :=
  issueSolo (vSlotNo x) (.vabs x f) (actVabs x f) s

/-- VNEG (R231). -/
def execVneg (x : VSlot) (f : VF) (s : State) : Host.Outcome State Fault Refusal :=
  issueSolo (vSlotNo x) (.vneg x f) (actVneg x f) s

/-- VDIV (R231). -/
def execVdiv (x : VSlot) (f : VF) (s : State) : Host.Outcome State Fault Refusal :=
  issueSolo (vSlotNo x) (.vdiv x f) (actVdiv x f) s

/-- VMULH (R231). -/
def execVmulh (x : VSlot) (f : VF) (s : State) : Host.Outcome State Fault Refusal :=
  issueSolo (vSlotNo x) (.vmulh x f) (actVmulh x f) s

/-- VSADD (R231). -/
def execVsadd (x : VSlot) (f : VF) (s : State) : Host.Outcome State Fault Refusal :=
  issueSolo (vSlotNo x) (.vsadd x f) (actVsadd x f) s

/-- VSSUB (R231). -/
def execVssub (x : VSlot) (f : VF) (s : State) : Host.Outcome State Fault Refusal :=
  issueSolo (vSlotNo x) (.vssub x f) (actVssub x f) s

/-- VAND (R232). -/
def execVand (x : VSlot) (f : VF) (s : State) : Host.Outcome State Fault Refusal :=
  issueSolo (vSlotNo x) (.vand x f) (actVand x f) s

/-- VOR (R232). -/
def execVor (x : VSlot) (f : VF) (s : State) : Host.Outcome State Fault Refusal :=
  issueSolo (vSlotNo x) (.vor x f) (actVor x f) s

/-- VXOR (R232). -/
def execVxor (x : VSlot) (f : VF) (s : State) : Host.Outcome State Fault Refusal :=
  issueSolo (vSlotNo x) (.vxor x f) (actVxor x f) s

/-- VNOT (R232). -/
def execVnot (x : VSlot) (f : VF) (s : State) : Host.Outcome State Fault Refusal :=
  issueSolo (vSlotNo x) (.vnot x f) (actVnot x f) s

/-- VSHL (R232). -/
def execVshl (x : VSlot) (f : VF) (s : State) : Host.Outcome State Fault Refusal :=
  issueSolo (vSlotNo x) (.vshl x f) (actVshl x f) s

/-- VSHR (R232). -/
def execVshr (x : VSlot) (f : VF) (s : State) : Host.Outcome State Fault Refusal :=
  issueSolo (vSlotNo x) (.vshr x f) (actVshr x f) s

/-- VSRA (R232). -/
def execVsra (x : VSlot) (f : VF) (s : State) : Host.Outcome State Fault Refusal :=
  issueSolo (vSlotNo x) (.vsra x f) (actVsra x f) s

/-- VPOPC (R232). -/
def execVpopc (x : VSlot) (f : VF) (s : State) : Host.Outcome State Fault Refusal :=
  issueSolo (vSlotNo x) (.vpopc x f) (actVpopc x f) s

/-- VCLZ (R232). -/
def execVclz (x : VSlot) (f : VF) (s : State) : Host.Outcome State Fault Refusal :=
  issueSolo (vSlotNo x) (.vclz x f) (actVclz x f) s

/-- VCMP (R233). -/
def execVcmp (x : VSlot) (f : VF) (s : State) : Host.Outcome State Fault Refusal :=
  issueSolo (vSlotNo x) (.vcmp x f) (actVcmp x f) s

/-- VSEL (R234). -/
def execVsel (x : VSlot) (f : VF) (s : State) : Host.Outcome State Fault Refusal :=
  issueSolo (vSlotNo x) (.vsel x f) (actVsel x f) s

/-- VMAND (R235). -/
def execVmand (x : VSlot) (f : VF) (s : State) : Host.Outcome State Fault Refusal :=
  issueSolo (vSlotNo x) (.vmand x f) (actVmand x f) s

/-- VMOR (R235). -/
def execVmor (x : VSlot) (f : VF) (s : State) : Host.Outcome State Fault Refusal :=
  issueSolo (vSlotNo x) (.vmor x f) (actVmor x f) s

/-- VMXOR (R235). -/
def execVmxor (x : VSlot) (f : VF) (s : State) : Host.Outcome State Fault Refusal :=
  issueSolo (vSlotNo x) (.vmxor x f) (actVmxor x f) s

/-- VMNOT (R235). -/
def execVmnot (x : VSlot) (f : VF) (s : State) : Host.Outcome State Fault Refusal :=
  issueSolo (vSlotNo x) (.vmnot x f) (actVmnot x f) s

/-- VMCNT (R235). -/
def execVmcnt (x : VSlot) (f : VF) (s : State) : Host.Outcome State Fault Refusal :=
  issueSolo (vSlotNo x) (.vmcnt x f) (actVmcnt x f) s

end Sys2Proof.Machine
end

