-- ==== Sys2Proof/Machine/VectorMemory.lean ====
section
/-!
DEFINITION. Vector memory access (R248 to R255).
-/
namespace Sys2Proof.Machine

/-! ## Addresses of elements (R248) -/

/-- The byte address of element i of a contiguous form. -/
def contigVa (y : Core) (f : VF) (i : Nat) : Nat := itAddr (itOf y (vIt f)) + i * vE f / 8
/-- The byte address of element i of a gather or scatter: the index is a signed or unsigned integer of `fmt2`. -/
def indexVa (y : Core) (f : VF) (idx i : Nat) : Nat :=
  wrapTo 64 ((itAddr (itOf y (vIt f)) : Int) + fmtInt (vF2 f) (fieldAt idx (codeBits f.fmt2.toNat) i) * (vE f / 8 : Nat))
/-- The bytes of an element: 1 for CB4 and PBIT. -/
def elemBytes (f : VF) : Nat := max 1 (vE f / 8)
/-- The bit at which element i begins in its byte. -/
def elemShift (f : VF) (i : Nat) : Nat := if vE f < 8 then i * vE f % 8 else 0

/-- Where an element stands: scratchpad offset, or memory key and role of its page. -/
inductive Place where
  | sp (off : Nat)
  | mem (key role : Nat)

/-- The checks of an access of n bytes at an address: alignment, then R172 or R71. -/
def placeOf (s : State) (c slot i va n : Nat) (a : Access) : Except Trap Place :=
  if va % n ≠ 0 then .error (trapAt 0x09 va slot i)
  else if isSp va then (if spBounds va n then .ok (.sp (spOff va)) else .error (trapAt 0x0A va slot i))
  else match access s c va a slot i with
    | .error t => .error t
    | .ok x => .ok (.mem (match a with | .load => xlatRead s (ctxOfCore s c) x va | _ => xlatHome x va) x.role)

/-- The places of elements, the lowest faulting one deciding (R255). -/
def placesOf (s : State) (c slot n : Nat) (a : Access) (va : Nat → Nat) : List Nat → Except Trap (List (Nat × Place))
  | [] => .ok []
  | i :: is => match placeOf s c slot i (va i) n a with
    | .error t => .error t
    | .ok p => match placesOf s c slot n a va is with
      | .error t => .error t
      | .ok ps => .ok ((i, p) :: ps)

/-! ## Loads (R249, R253) -/

/-- An element's bits out of the bytes that hold it. -/
def elemBitsOf (f : VF) (i v : Nat) : Nat := lowBits (vE f) (v >>> elemShift f i)

/-- The loads of a waiting operation sent, and the wait noted; `mask` gives the bits of its byte that an element reads. -/
def sendLoads (c slot n : Nat) (mask : Nat → Nat) (ps : List (Nat × Place)) (s : State) : State :=
  let out := ps.filterMap fun q => match q.2 with | .mem k r => some (q.1, k, r) | .sp _ => none
  let s := out.foldl (fun s q =>
    let bits := (List.range n).map fun i => (q.2.1 + i, mask q.1)
    enterLoadBits (if q.2.2 = 3 then raceRead s c bits else s) c q.2.1 n (mask q.1) (.vec slot q.1)) s
  modCore s c fun x => { x with vwaits := x.vwaits ++ [⟨slot, out.length, out.map fun q => (q.1, q.2.1), []⟩] }

/-- The bits of a byte that an element reads: all, but for CB4 and PBIT (R254). -/
def elemMaskOf (f : VF) (i : Nat) : Nat := if vE f < 8 then ones (vE f) <<< elemShift f i else 255

/-- The data of a waiting operation as it issues: stores of earlier slots of its repetition stand over what has arrived (R254,
R338). -/
def overData (s : State) (c n : Nat) (w : VWait) : List (Nat × Nat) :=
  w.data.map fun q =>
    let key := ((w.places.find? fun z => z.1 = q.1).map (·.2)).getD 0
    (q.1, packFields 8 ((List.range n).map fun j =>
      let b := BitVec.ofNat 8 (fieldAt q.2 8 j)
      (if s.raced.contains (ctxOfCore s c, key + j) then b else overStores (coreOf s c) (key + j) b).toNat))

/-- The bytes that a waiting operation loads. -/
def waitBytes (n : Nat) (w : VWait) : List Nat := w.places.flatMap fun q => (List.range n).map (q.2 + ·)

/-- The entries of a core's store queue, in their order, that stand on one of some lines applied now; nothing while the value of one of
them is not known. -/
def applyLines (s : State) (c : Nat) (ls : List LineKey) : Option State :=
  ((coreOf s c).sq.filter fun e => ls.contains e.line).foldl (fun s e => match s with
    | some s => if e.wait.isSome then none else some (applyEntry (dropSq s c e.id) c e)
    | none => none) (some s)

/-- The loads of a core of some bytes, in their order, performed now; nothing while one of them may not be. -/
def performLoads (s : State) (c : Nat) (ks : List Nat) : Option State :=
  ((coreOf s c).loads.filter fun l => (loadEntryBits l).any fun b => ks.contains b.1).foldl (fun s l => match s with
    | some s => if (mayPerform (coreOf s c) ((coreOf s c).loads.idxOf l)).isSome then some (performLoad s c l) else none
    | none => none) (some s)

/-- The data with which a waiting load issues. Bytes that an atomic or a load of an earlier slot of its repetition reaches too are read
after that one: it has its effect, and they are read again, in the issue cycle (R254, R336, R338; log entry 52). Nothing while that
cannot be yet. -/
def arrivedData (s : State) (c n : Nat) (w : VWait) : Option (State × List (Nat × Nat)) :=
  let x := coreOf s c
  let ks := waitBytes n w
  let es := x.sq.filter fun e => unknownYet e && (covers e).any ks.contains
  if es.isEmpty && !(x.loads.any fun l => (loadEntryBits l).any fun b => ks.contains b.1) then some (s, overData s c n w)
  else match (applyLines s c (es.map (·.line))).bind fun s => performLoads s c ks with
    | some s => some (pastFree s, w.places.map fun q => (q.1, loadNum s c q.2 n))
    | none => none

/-- The result of a load whose data is at hand: from the scratchpad, or as it has arrived. -/
def loadResult (s : State) (c : Nat) (x : VSlot) (f : VF) (lat : Nat) (va : Nat → Nat) (data : List (Nat × Nat))
    (is : List Nat) : State :=
  vWrite s c x lat f.d.toNat (vE f) (vW f) (is.map fun i =>
    let v := if isSp (va i) then spNum s (clusterOfCore c) (spOff (va i)) (elemBytes f)
             else ((data.find? fun q => q.1 = i).map (·.2)).getD 0
    (i, elemBitsOf f i v, 0))

/-- A load of the active elements. -/
def vLoad (x : VSlot) (f : VF) (lat : Nat) (va : Nat → Nat) : Act := onElems x f fun s c y e =>
  let slot := vSlotNo x
  let is := actives e.m e.n
  match y.vwaits.find? fun w => w.slot = slot with
  | some w =>
    if w.out ≠ 0 then .stall id
    else
      match arrivedData (modCore s c fun y => { y with vwaits := y.vwaits.filter fun w => w.slot ≠ slot }) c (elemBytes f) w with
      | some r => .ok (loadResult r.1 c x f lat va r.2 is) .none
      | none => .stall id
  | none => match placesOf s c slot (elemBytes f) .load va is with
    | .error t => .trap t
    | .ok ps =>
      if is.all fun i => isSp (va i) then .ok (loadResult s c x f lat va [] is) .none
      else .stall (sendLoads c slot (elemBytes f) (elemMaskOf f) ps)

/-- A contiguous load. -/
def actVld (x : VSlot) (f : VF) : Act := fun s c at_ => vLoad x f 6 (contigVa (coreOf s c) f) s c at_
/-- A gather. -/
def actVgth (x : VSlot) (f : VF) : Act := fun s c at_ =>
  vLoad x f 10 (indexVa (coreOf s c) f (vB s c (isVb x) f)) s c at_

/-! ## Stores (R249, R254) -/

/-- The masked bytes of an element at a place. -/
def elemWrites (f : VF) (i at_ v : Nat) : List (Nat × BitVec 8 × BitVec 8) :=
  if vE f < 8 then
    [(at_, BitVec.ofNat 8 (ones (vE f) <<< elemShift f i), BitVec.ofNat 8 (v <<< elemShift f i))]
  else wholeBytes at_ (vE f / 8) v

/-- One element stored: into the scratchpad at the end of the cycle, or as an entry of the store queue. -/
def storeElem (c : Nat) (f : VF) (q : State × Effects) (r : Nat × Place × Nat) : State × Effects :=
  match r.2.1 with
  | .sp off => (q.1, { q.2 with sp := q.2.sp ++
      (elemWrites f r.1 off r.2.2).map fun w => .write (clusterOfCore c) w.1 w.2.1 w.2.2 })
  | .mem key _ => (enterStore q.1 c (elemWrites f r.1 key r.2.2), q.2)

/-- A store of the active elements. -/
def vStore (x : VSlot) (f : VF) (va : Nat → Nat) : Act := onElems x f fun s c _ e =>
  match placesOf s c (vSlotNo x) (elemBytes f) .store va (actives e.m e.n) with
  | .error t => .trap t
  | .ok ps =>
    let q := (ps.map fun p => (p.1, p.2, e.a p.1)).foldl (storeElem c f) (s, Effects.none)
    .ok q.1 q.2

/-- A contiguous store. -/
def actVst (x : VSlot) (f : VF) : Act := fun s c at_ => vStore x f (contigVa (coreOf s c) f) s c at_
/-- A scatter. -/
def actVsct (x : VSlot) (f : VF) : Act := fun s c at_ =>
  vStore x f (indexVa (coreOf s c) f (vB s c (isVb x) f)) s c at_

/-! ## ACC adds (R250) -/

/-- The handle in bits [63:0] of source b. -/
def handleB (s : State) (c : Nat) (x : VSlot) (f : VF) : Word := BitVec.ofNat 64 (vB s c (isVb x) f)

/-- The places of the adds of elements, the lowest faulting one deciding. -/
def accPlaces (s : State) (c slot : Nat) (h : Word) (d : BitVec 512) (va : Nat → Nat) : List Nat → Except Trap (List (Nat × Nat))
  | [] => .ok []
  | i :: is =>
    if !inHolding d (va i) (holdSize d) then .error { trapAt 0x07 (va i) slot i with detail := i }
    else match accPage s c slot i (va i) (hIndex h) (hGen h) (dWgrp d) with
      | .error t => .error t
      | .ok k => match accPlaces s c slot h d va is with
        | .error t => .error t
        | .ok ks => .ok ((i, k) :: ks)

/-- Adds of the active elements into an ACC tensor. -/
def actVacc (x : VSlot) (f : VF) : Act := onElems x f fun s c y e =>
  let slot := vSlotNo x
  let h := handleB s c x f
  match slotHandle s c slot h with
  | .error t => .trap t
  | .ok (d, _) =>
    if !sameFamily f.fmt.toNat (dFmt d) then .trap (trapOf 0x07 (slot * 256))
    else
      let va (i : Nat) : Nat := itAddr (itOf y (vIt f)) + i * holdSize d
      match accPlaces s c slot h d va (actives e.m e.n) with
      | .error t => .trap t
      | .ok ks => .ok (ks.foldl (fun s k => enterAcc s c h d k.2 f.fmt.toNat (e.a k.1)) s) .none

/-! ## Atomics (R251) -/

/-- One element of an atomic. -/
def amoElem (c : Nat) (f : VF) (key : Word) (va : Nat → Nat) (ret : Option Nat) (a : Nat → Nat)
    (q : State × Effects) (p : Nat × Place) : State × Effects :=
  let op := bitsOf f.imm 3 0
  let rnd := mix key.toNat (va p.1 % 2 ^ 56)
  let r : Option Ret := ret.map fun n => ⟨n, vE f * p.1, vE f⟩
  match p.2 with
  | .sp off => (q.1, { q.2 with sp := q.2.sp ++
      [.vamo (clusterOfCore c) off op f.fmt.toNat f.rm.toNat rnd (a p.1) r c] })
  | .mem k _ =>
    (enterSq (raceRead q.1 c (wholeBits k (elemBytes f))) c (.mem (lineOf k)) (.vamo op k f.fmt.toNat f.rm.toNat rnd (a p.1) r), q.2)

/-- The pending result of a value-returning atomic: one value for each active element. -/
def vamoRet (s : State) (c : Nat) (x : VSlot) (f : VF) (is : List Nat) : Option Nat × State :=
  if bitOf f.imm 4 && !is.isEmpty then
    let r := pushPending s c (vSlotNo x) (.reg (if isVb x then .vb else .va) (physV (coreOf s c).rbase f.d.toNat))
      (gather (vE f) (is.map fun i => (i, 0))).1 (granOf (vE f) (vW f)) is.length
    (some r.1, r.2)
  else (none, s)

/-- One atomic operation for each active element. -/
def actVamo (x : VSlot) (f : VF) : Act := onElems x f fun s c y e =>
  let is := actives e.m e.n
  let va := contigVa y f
  match placesOf s c (vSlotNo x) (elemBytes f) .atomic va is with
  | .error t => .trap t
  | .ok ps =>
    let r := vamoRet s c x f is
    let q := ps.foldl (amoElem c f (y.seedkey ^^^ handleB s c x f) va r.1 e.a) (r.2, Effects.none)
    .ok q.1 q.2

/-! ## Appends (R252) -/

/-- The active elements appended to a stream, in increasing index. -/
def actVapp (x : VSlot) (f : VF) : Act := onElems x f fun s c _ e =>
  let slot := vSlotNo x
  let h := handleB s c x f
  let is := actives e.m e.n
  match slotHandle s c slot h with
  | .error t => .trap t
  | .ok (d0, _) =>
    if dFmt d0 ≠ f.fmt.toNat then .trap (trapOf 0x07 2)
    else match appendCheck s c slot h is.length with
      | .error t => .trap t
      | .ok (d, t) => match appendPages s c slot d t.issued is with
        | .error e => .trap e
        | .ok ks => .ok (if is.isEmpty then s else enterAppends s c d t ks (is.map e.a)) .none

/-! ## The operations -/

/-- VLD (R249). -/
def execVld (x : VSlot) (f : VF) (s : State) : Host.Outcome State Fault Refusal :=
  issueSolo (vSlotNo x) (.vld x f) (actVld x f) s

/-- VGTH (R249). -/
def execVgth (x : VSlot) (f : VF) (s : State) : Host.Outcome State Fault Refusal :=
  issueSolo (vSlotNo x) (.vgth x f) (actVgth x f) s

/-- VST (R249). -/
def execVst (x : VSlot) (f : VF) (s : State) : Host.Outcome State Fault Refusal :=
  issueSolo (vSlotNo x) (.vst x f) (actVst x f) s

/-- VSCT (R249). -/
def execVsct (x : VSlot) (f : VF) (s : State) : Host.Outcome State Fault Refusal :=
  issueSolo (vSlotNo x) (.vsct x f) (actVsct x f) s

/-- VACC (R250). -/
def execVacc (x : VSlot) (f : VF) (s : State) : Host.Outcome State Fault Refusal :=
  issueSolo (vSlotNo x) (.vacc x f) (actVacc x f) s

/-- VAMO (R251). -/
def execVamo (x : VSlot) (f : VF) (s : State) : Host.Outcome State Fault Refusal :=
  issueSolo (vSlotNo x) (.vamo x f) (actVamo x f) s

/-- VAPP (R252). -/
def execVapp (x : VSlot) (f : VF) (s : State) : Host.Outcome State Fault Refusal :=
  issueSolo (vSlotNo x) (.vapp x f) (actVapp x f) s

end Sys2Proof.Machine
end

