-- ==== Sys2Proof/Machine/Matrix.lean ====
section
/-!
DEFINITION. The issue of M-slot operations (R257 to R277, R294): checks, and the operand values that they take (R264).
Their effects stand in ArrayRun.
-/
namespace Sys2Proof.Machine

/-! ## Checks of walks (R266) -/

/-- A trap of an M-slot operation at an address; the spec names no element (log entry 17). -/
def mTrap (s : State) (cause va : Nat) : Trap := trapAt cause va 3 (Config.freeWord s.free).toNat

/-- The check of n bytes at a walk address that must name the scratchpad, aligned to `al`. -/
def mLine (s : State) (va n al : Nat) : Option Trap :=
  if !isSp va || !spBounds va n then some (mTrap s 0x0A va)
  else if va % al ≠ 0 then some (mTrap s 0x09 va)
  else none

/-- Columns of a bank in a format: 64 for FP64 (R258). -/
def bankCols (fa : Nat) : Nat := if fa = 6 then 64 else 128

/-- The indices of a walk at which a line with an active row or column is read (R265): `per` addresses per K-block. -/
def activeLines (per lim kc : Nat) (trans : Bool) : List Nat :=
  (List.range (per * kc)).filter fun j => (if trans then j % per / 8 * 8 else j % per) < lim

/-- The first line of a feeder that fails its check: elements of e bits, e bytes a line. -/
def feederCheck (s : State) (walk : List Nat) (per lim kc e : Nat) (trans : Bool) : Option Trap :=
  (activeLines per lim kc trans).findSome? fun j => mLine s (walk.getD j 0) e (max 1 (e / 8))

/-! ## The queue entry (R264) -/

/-- An operation with the values that it takes at issue; `bank` 4 stands for no bank. -/
def arrayEntry (s : State) (c : Nat) (i : Instr) (bank : Nat) : ArrayOp :=
  let x := coreOf s c
  let b := bankOf s (clusterOfCore c) bank
  ⟨s.fresh, i, bank, [], [], [], x.k.toList, x.kb.toList, b.imr, b.imc, [], 0, [], [], 0, false, [], [], false, 0, x.shadow.isSome⟩

/-- The state with an operation queued, its identity taken. -/
def enqueue (s : State) (c : Nat) (o : ArrayOp) : State :=
  let s := if s.fresh = o.id then (freshId s).2 else s
  modCore s c fun x => { x with arrayQ := x.arrayQ ++ [o] }

/-- The physical bank that an operation names (R257). -/
def mBank (s : State) (c : Nat) (f : MF) : Nat := physBank (coreOf s c) c f.bank.toNat

/-! ## Accumulations (R267) -/

/-- The issue of an accumulation; `gathered` takes operand A from the latch. -/
def issueAccum (i : Instr) (f : MF) (gathered : Bool) : Act := fun s c at_ =>
  let x := coreOf s c
  let o := arrayEntry s c i (mBank s c f)
  let kc := count64 f.kc
  let nb := bankCols f.fa.toNat
  let wa := if gathered then [] else itWalk (64 * kc) (itOf x f.ia.toNat)
  let wb := itWalk (nb * kc) (itOf x f.ib.toNat)
  if gathered && (x.latch.fmt ≠ f.fa.toNat || x.latch.kc ≠ kc) then .trap (trapIllegal at_.addr 3)
  else
    let ta := if gathered then none else feederCheck s wa 64 o.mr kc (codeBits f.fa.toNat) (bitOf f.sel 0)
    match ta.or (feederCheck s wb nb (min o.mc nb) kc (codeBits f.fb.toNat) (bitOf f.sel 1)) with
    | some t => .trap t
    | none => .ok (enqueue s c { o with walkA := wa, walkB := wb }) .none

/-- An accumulation of A × B. -/
def actMma (f : MF) : Act := issueAccum (.mma f) f false
/-- An accumulation with A from the gather latch. -/
def actMmag (f : MF) : Act := issueAccum (.mmag f) f true
/-- An accumulation with a sparsity bitmap. -/
def actMmas (f : MF) : Act := issueAccum (.mmas f) f false

/-! ## The gather latch (R271) -/

/-- The first row of a gather that fails its check: `TDETAIL` names the row. -/
def gatherCheck (rows : List Nat) (n al : Nat) : Option Trap :=
  (List.range rows.length).findSome? fun g =>
    let va := rows.getD g 0
    if !isSp va || !spBounds va n then some (trapAt 0x0A va 3 g)
    else if va % al ≠ 0 then some (trapAt 0x09 va 3 g)
    else none

/-! ## Scratchpad writes of queued operations (R276, R279, R294) -/

/-- The rows of a drain window that are active: index in the window. -/
def activeRows (f : MF) (mr : Nat) : List Nat :=
  (List.range (count64 f.kc)).filter fun i => bitsOf f.ext 10 5 + i < mr

/-- A run of bytes cut at line bounds: offset and length. -/
def linePieces (off n : Nat) : List (Nat × Nat) :=
  (List.range (if n = 0 then 0 else (off + n - 1) / 64 - off / 64 + 1)).map fun j =>
    let lo := max off (64 * (off / 64 + j))
    (lo, min (off + n) (64 * (off / 64 + j + 1)) - lo)

/-- The scratchpad writes of an operation, each of one line or less: the row of a drain, offset and length. -/
def arrayWrites (o : ArrayOp) : List (Nat × Nat × Nat) :=
  let row (i : Nat) (va n : Nat) : List (Nat × Nat × Nat) := if isSp va then (linePieces (spOff va) n).map fun q => (i, q.1, q.2) else []
  let rows (f : MF) : List (Nat × Nat × Nat) :=
    if bitsOf f.ext 16 15 = 0 then (activeRows f o.mr).flatMap fun i =>
      row i (o.walkB.getD i 0) (min o.mc (bankCols f.fa.toNat) * (codeBits f.fa.toNat / 8))
    else []
  match o.op with
  | .mdrn f => rows f ++ (if f.sel.toNat = 0 then [] else (activeRows f o.mr).flatMap fun i => row i (o.walkA.getD i 0) 32)
  | .prja f => rows f
  | .aspl _ => row 0 (o.walkA.headD 0) 32832
  | _ => []

/-- An operation in the queue of core c has still to write bytes of a run of the scratchpad. -/
def writePending (s : State) (c off n : Nat) : Bool :=
  (coreOf s c).arrayQ.any fun o => !o.drained && ((List.range (arrayWrites o).length).zip (arrayWrites o)).any fun w =>
    !o.wrote.contains w.1 && w.2.2.1 < off + n && off < w.2.2.1 + w.2.2.2

/-! ## The gather (R271) -/

/-- The gather of 64 rows by an index list: the indices are read and every row address is checked at issue. It stalls while an earlier
operation of its queue has still to write the list, whose reads come after those writes (R279; log entry 45). -/
def actMgth (f : MF) : Act := fun s c _ =>
  let x := coreOf s c
  let base := itAddr (itOf x f.ia.toNat)
  let il := itAddr (itOf x f.ib.toNat)
  let e := codeBits f.fa.toNat
  let kc := count64 f.kc
  match (mLine s base (max 1 (e / 8)) (max 1 (e / 8))).or (mLine s il 256 4) with
  | some t => .trap t
  | none =>
    if writePending s c (spOff il) 256 then .stall id
    else
    let idx (g : Nat) : Int := signedOf 32 (spNum s (clusterOfCore c) (spOff il + 4 * g) 4)
    let rows := (List.range 64).map fun g => wrapTo 64 ((base : Int) + idx g * (bitsOf f.ext 26 11 : Nat))
    match gatherCheck rows (kc * e) (max 1 (e / 8)) with
    | some t => .trap t
    | none =>
      let s := modCore s c fun x => { x with latch := { x.latch with fmt := f.fa.toNat, kc := kc } }
      .ok (enqueue s c { arrayEntry s c (.mgth f) 4 with walkA := rows }) .none

/-! ## Banks (R272, R273) -/

/-- The edge mask set; later operations take it from now on (R264). -/
def actAclr (f : MF) : Act := fun s c _ =>
  let b := mBank s c f
  let mr := count64 (BitVec.ofNat 6 (bitsOf f.ext 12 7))
  let mc := if bitsOf f.ext 6 0 = 0 then 128 else bitsOf f.ext 6 0
  let s := modBank s (clusterOfCore c) b fun y => { y with imr := mr, imc := mc }
  .ok (enqueue s c (arrayEntry s c (.aclr f) b)) .none

/-- The names of the banks exchanged after one issue cycle. -/
def actAsw (_ : MF) : Act := fun s c _ => .ok (pushFlight s c 3 1 .swap 1 0 0 0) .none

/-- The lines of a translated image, checked under R71: their keys. -/
def imageLines (s : State) (c va : Nat) (a : Access) : Nat → Except Trap (List Nat)
  | 0 => .ok []
  | n + 1 => match imageLines s c va a n with
    | .error t => .error t
    | .ok ks => match access s c (va + 64 * n) a 3 (Config.freeWord s.free).toNat with
      | .error t => .error t
      | .ok x => .ok (ks ++ [match a with
          | .load => xlatRead s (ctxOfCore s c) x (va + 64 * n)
          | _ => xlatHome x (va + 64 * n)])

/-- The check of an image address: its lines in memory, none of them for the scratchpad. -/
def imageCheck (s : State) (c va : Nat) (a : Access) : Except Trap (List Nat) :=
  if va % 64 ≠ 0 then .error (mTrap s 0x09 va)
  else if isSp va then (if spBounds va 32832 then .ok [] else .error (mTrap s 0x0A va))
  else imageLines s c va a 513

/-- A line of n bytes with no value yet. -/
def blankLine (key n : Nat) : List (Nat × BitVec 8 × BitVec 8) := wholeBytes key n 0

/-- A plain store that array operation `op` will fill: its place, and its entry's identity. -/
def enterBlank (s : State) (c op : Nat) (bits : List (Nat × BitVec 8 × BitVec 8)) : Nat × State :=
  let s := raceStore s c (bits.map fun b => (b.1, b.2.1.toNat))
  enterWait s c op (.mem (lineOf ((bits.map (·.1)).headD 0))) (.store bits)

/-- The bank image written out. -/
def actAspl (f : MF) : Act := fun s c _ =>
  let va := itAddr (itOf (coreOf s c) f.ia.toNat)
  match imageCheck s c va .store with
  | .error t => .trap t
  | .ok ks =>
    let o := arrayEntry s c (.aspl f) (mBank s c f)
    let q := (List.range ks.length).foldl (fun (q : List (Nat × Nat × Nat) × State) j =>
      let r := enterBlank q.2 c o.id (blankLine (ks.getD j 0) 64)
      (q.1 ++ [(j, 0, r.1)], r.2)) ([], (freshId s).2)
    .ok (enqueue q.2 c { o with walkA := [va], outs := q.1 }) .none

/-- The bank image loaded. -/
def actAfil (f : MF) : Act := fun s c _ =>
  let va := itAddr (itOf (coreOf s c) f.ia.toNat)
  match imageCheck s c va .load with
  | .error t => .trap t
  | .ok ks =>
    let o := arrayEntry s c (.afil f) (mBank s c f)
    let s := (List.range ks.length).foldl (fun s j =>
      enterLoad (raceRead s c (wholeBits (ks.getD j 0) 64)) c (ks.getD j 0) 64 (.array o.id j)) (freshId s).2
    .ok (enqueue s c { o with walkA := [va], out := ks.length }) .none

/-! ## Drains (R274 to R276, R294) -/

/-- The places of the elements of one row at a translated address, the lowest faulting one deciding. -/
def rowKeys (s : State) (c va e : Nat) : Nat → Except Trap (List Nat)
  | 0 => .ok []
  | n + 1 => match rowKeys s c va e n with
    | .error t => .error t
    | .ok ks => match access s c (va + n * e) .store 3 (Config.freeWord s.free).toNat with
      | .error t => .error t
      | .ok x => .ok (ks ++ [xlatHome x (va + n * e)])

/-- The elements of the active rows of `DST` 0 that stand in translated memory: row, column, key; or the first trap. The
address of every row of the window is checked (R266). `sp` marks rows that must name the scratchpad (PRJA). -/
def drainKeys (s : State) (c e cols : Nat) (sp : Bool) (walk rows : List Nat) : List Nat → Except Trap (List (Nat × Nat × Nat))
  | [] => .ok []
  | i :: is =>
    let va := walk.getD i 0
    let row : Except Trap (List Nat) :=
      if isSp va || sp then (match mLine s va (cols * e) e with | some t => .error t | none => .ok [])
      else if va % e ≠ 0 then .error (mTrap s 0x09 va)
      else if rows.contains i then rowKeys s c va e cols
      else (access s c va .store 3 (Config.freeWord s.free).toNat).map fun _ => []
    match row with
    | .error t => .error t
    | .ok ks => match drainKeys s c e cols sp walk rows is with
      | .error t => .error t
      | .ok r => .ok (((List.range ks.length).map fun n => (i, n, ks.getD n 0)) ++ r)

/-- The elements of the active rows of `DST` 2: row, column, key of the holding; `TDETAIL` of R250 names the element. The address of every
row of the window is checked, that of an inactive row under R71 alone (R266). -/
def addKeys (s : State) (c : Nat) (h : Word) (d : BitVec 512) (cols : Nat) (walk rows : List Nat) :
    List Nat → Except Trap (List (Nat × Nat × Nat))
  | [] => .ok []
  | i :: is =>
    let va := walk.getD i 0
    let row : Except Trap (List (Nat × Nat)) :=
      if rows.contains i then accPlaces s c 3 h d (fun n => va + n * holdSize d) (List.range cols)
      else if isSp va then (match mLine s va 1 1 with | some t => .error t | none => .ok [])
      else (access s c va .accAdd 3 0).map fun _ => []
    match row with
    | .error t => .error t
    | .ok ks => match addKeys s c h d cols walk rows is with
      | .error t => .error t
      | .ok r => .ok ((ks.map fun q => (i, q.1, q.2)) ++ r)

/-- The first record or forward row that fails its check. -/
def rowsCheck (s : State) (walk : List Nat) (n al : Nat) (is : List Nat) : Option Trap :=
  is.findSome? fun i => mLine s (walk.getD i 0) n al

/-- Entries of the store queue for the elements of a drain, in row order (R336). -/
def drainEntries (s : State) (c op : Nat) (line : Nat → LineKey) (kind : Nat → SqKind) (store : Bool)
    (ks : List (Nat × Nat × Nat)) : List (Nat × Nat × Nat) × State :=
  ks.foldl (fun q k =>
    let s := match store, kind k.2.2 with
      | true, .store bits => raceStore q.2 c (bits.map fun b => (b.1, b.2.1.toNat))
      | _, _ => q.2
    let r := enterWait s c op (line k.2.2) (kind k.2.2)
    (q.1 ++ [(k.1, k.2.1, r.1)], r.2)) ([], s)

/-- The handle of a drain's target (R274). -/
def drainHandle (x : Core) (f : MF) : Word := BitVec.ofNat 64 ((rdK x (bitsOf f.ext 26 23)).toNat >>> 192)

/-- A drain into an ACC tensor: its checks and entries (R250, R276). -/
def drainAcc (s : State) (c : Nat) (o : ArrayOp) (f : MF) (rows : List Nat) : OpRes :=
  let h := drainHandle (coreOf s c) f
  match slotHandle s c 3 h with
  | .error t => .trap t
  | .ok (d, _) =>
    if !sameFamily f.fa.toNat (dFmt d) then .trap (trapOf 0x07 (3 * 256))
    else match addKeys s c h d (min o.mc (bankCols f.fa.toNat)) o.walkB rows (List.range (count64 f.kc)) with
      | .error t => .trap t
      | .ok ks =>
        let kind (k : Nat) : SqKind := .acc ⟨ctxOfCore s c, hIndex h, hGen h, k, dComb d, dFmt d, dElo d, f.fa.toNat, 0,
          stagesIn s c (hIndex h) (hGen h), some o.id, (coreOf s c).shadow.isSome⟩
        let q := drainEntries (freshId s).2 c o.id (fun k => .mem (lineOf k)) kind false ks
        .ok (enqueue q.2 c { o with outs := q.1, desc := d }) .none

/-- A drain through a walk: its checks and, for translated rows, its entries (R276). -/
def drainMem (s : State) (c : Nat) (o : ArrayOp) (f : MF) (sp : Bool) (rows : List Nat) : OpRes :=
  let e := codeBits f.fa.toNat / 8
  match drainKeys s c e (min o.mc (bankCols f.fa.toNat)) sp o.walkB rows (List.range (count64 f.kc)) with
  | .error t => .trap t
  | .ok ks =>
    let q := drainEntries (freshId s).2 c o.id (fun k => .mem (lineOf k)) (fun k => .store (blankLine k e)) true ks
    .ok (enqueue q.2 c { o with outs := q.1 }) .none

/-- The drain of a bank's rows. -/
def actMdrn (f : MF) : Act := fun s c _ =>
  let x := coreOf s c
  let cnt := count64 f.kc
  let o := { arrayEntry s c (.mdrn f) (mBank s c f) with
    walkA := if f.sel.toNat = 0 then [] else itWalk cnt (itOf x f.ia.toNat)
    walkB := if bitsOf f.ext 16 15 = 1 then [] else itWalk cnt (itOf x f.ib.toNat)
    vaDst := drainRegs x f }
  let rows := activeRows f o.mr
  match (if f.sel.toNat = 0 then none else rowsCheck s o.walkA 32 32 (List.range cnt)) with
  | some t => .trap t
  | none => match bitsOf f.ext 16 15 with
    | 0 => drainMem s c o f false rows
    | 2 => drainAcc s c o f rows
    | _ => .ok (enqueue s c o) .none

/-- The adjoint of a projection, row by row. -/
def actPrja (f : MF) : Act := fun s c _ =>
  let x := coreOf s c
  let cnt := count64 f.kc
  let fwd := f.sel.toNat = 3 || f.sel.toNat = 4
  let o := { arrayEntry s c (.prja f) (mBank s c f) with
    walkA := itWalk cnt (itOf x f.ia.toNat)
    walkB := if bitsOf f.ext 16 15 = 1 then [] else itWalk cnt (itOf x f.ib.toNat)
    walkC := if fwd then itWalk cnt (itOf x (bitsOf f.ext 14 11)) else []
    vaDst := drainRegs x f }
  let rows := activeRows f o.mr
  let window := List.range cnt
  let fb := codeBits f.fb.toNat / 8
  let cols := min o.mc (bankCols f.fa.toNat)
  match (rowsCheck s o.walkA 32 32 window).or (if fwd then rowsCheck s o.walkC (cols * fb) fb window else none) with
  | some t => .trap t
  | none => if bitsOf f.ext 16 15 = 1 then .ok (enqueue s c o) .none else drainMem s c o f true rows

/-! ## MWAIT (R277) -/

/-- A wait for the queued operations that name a bank, or for all. -/
def actMwait (f : MF) : Act := fun s c _ =>
  let q := (coreOf s c).arrayQ
  let busy := if f.sel.toNat = 1 then !q.isEmpty else q.any fun o => o.bank = mBank s c f
  if busy then .stall id else .ok s .none

/-- The M slot clears. -/
def actMnop : Act := fun s _ _ => .ok s .none

/-! ## The operations -/

/-- MMA (R269). -/
def execMma (f : MF) (s : State) : Host.Outcome State Fault Refusal :=
  issueSolo 3 (.mma f) (actMma f) s

/-- MMAG (R269). -/
def execMmag (f : MF) (s : State) : Host.Outcome State Fault Refusal :=
  issueSolo 3 (.mmag f) (actMmag f) s

/-- MMAS (R270). -/
def execMmas (f : MF) (s : State) : Host.Outcome State Fault Refusal :=
  issueSolo 3 (.mmas f) (actMmas f) s

/-- MGTH (R271). -/
def execMgth (f : MF) (s : State) : Host.Outcome State Fault Refusal :=
  issueSolo 3 (.mgth f) (actMgth f) s

/-- ACLR (R272). -/
def execAclr (f : MF) (s : State) : Host.Outcome State Fault Refusal :=
  issueSolo 3 (.aclr f) (actAclr f) s

/-- ASW (R272). -/
def execAsw (f : MF) (s : State) : Host.Outcome State Fault Refusal :=
  issueSolo 3 (.asw f) (actAsw f) s

/-- ASPL (R272). -/
def execAspl (f : MF) (s : State) : Host.Outcome State Fault Refusal :=
  issueSolo 3 (.aspl f) (actAspl f) s

/-- AFIL (R272). -/
def execAfil (f : MF) (s : State) : Host.Outcome State Fault Refusal :=
  issueSolo 3 (.afil f) (actAfil f) s

/-- MDRN (R275). -/
def execMdrn (f : MF) (s : State) : Host.Outcome State Fault Refusal :=
  issueSolo 3 (.mdrn f) (actMdrn f) s

/-- PRJA (R295). -/
def execPrja (f : MF) (s : State) : Host.Outcome State Fault Refusal :=
  issueSolo 3 (.prja f) (actPrja f) s

/-- MWAIT (R277). -/
def execMwait (f : MF) (s : State) : Host.Outcome State Fault Refusal :=
  issueSolo 3 (.mwait f) (actMwait f) s

/-- MNOP (R185). -/
def execMnop (s : State) : Host.Outcome State Fault Refusal :=
  issueSolo 3 .mnop actMnop s

end Sys2Proof.Machine
end

