-- ==== Sys2Proof/Machine/ArrayRun.lean ====
section
/-!
DEFINITION. The effects of queued array operations (R258, R259, R265 to R276, R283, R295) and the moves of the array
queue (R261 to R264, R277). Any line of a started operation may be read or written at any cycle up to its completion, which makes
the accesses that are left (R279).
-/
namespace Sys2Proof.Machine

/-! ## Bank words (R258) -/

/-- Word n of row m. -/
def wordAt (b : Bank) (m n : Nat) : Nat := (sget 0#32 b.words (128 * m + n)).toNat
/-- A bank with one word written. -/
def setWord (b : Bank) (m n v : Nat) : Bank := { b with words := sput 0#32 b.words (128 * m + n) (BitVec.ofNat 32 v) }
/-- An accumulator element. -/
def accAt (f64 : Bool) (b : Bank) (m n : Nat) : Nat :=
  if f64 then wordAt b m (2 * n) + 2 ^ 32 * wordAt b m (2 * n + 1) else wordAt b m n
/-- A bank with an accumulator element written. -/
def setAcc (f64 : Bool) (b : Bank) (m n v : Nat) : Bank :=
  if f64 then setWord (setWord b m (2 * n) v) m (2 * n + 1) (v / 2 ^ 32) else setWord b m n v

/-- The bank image of R273 as a number of 32,832 bytes. -/
def bankImage (b : Bank) : Nat :=
  b.words.foldl (fun a w => a + w.2.toNat * 2 ^ (32 * w.1)) 0
    + (b2n b.bovf + b.mr * 2 ^ 8 + b.mc * 2 ^ 16) * 2 ^ (8 * 32768)

/-- The bank of an image (R273): out-of-range counts read as 64 and 128. -/
def imageBank (v : Nat) : Bank :=
  let tail := v >>> (8 * 32768)
  let mr := fieldAt tail 8 1
  let mc := fieldAt tail 8 2
  let mr := if mr = 0 || 64 < mr then 64 else mr
  let mc := if mc = 0 || 128 < mc then 128 else mc
  { Bank.fresh with
    words := (List.range 8192).filterMap fun i =>
      if fieldAt v 32 i = 0 then none else some (i, BitVec.ofNat 32 (fieldAt v 32 i))
    mr := mr, mc := mc, imr := mr, imc := mc, bovf := tail.testBit 0 }

/-! ## Scratchpad reads (R265, R279) -/

/-- The lines of a feeder that are read: offset and length. -/
def feederReads (walk : List Nat) (per lim kc e : Nat) (trans : Bool) : List (Nat × Nat) :=
  (activeLines per lim kc trans).map fun j => (spOff (walk.getD j 0), e)

/-- The reads of one row of a PRJA: its record, and its forward row in the sets that use one. -/
def prjaReads (o : ArrayOp) (f : MF) (i : Nat) : List (Nat × Nat) :=
  let n := min o.mc (bankCols f.fa.toNat) * (codeBits f.fb.toNat / 8)
  (spOff (o.walkA.getD i 0), 32) :: (if f.sel.toNat = 3 || f.sel.toNat = 4 then linePieces (spOff (o.walkC.getD i 0)) n else [])

/-- The scratchpad reads of an operation, each of one line or less. -/
def arrayReads (o : ArrayOp) : List (Nat × Nat) :=
  let ofB (f : MF) : List (Nat × Nat) :=
    feederReads o.walkB (bankCols f.fa.toNat) (min o.mc (bankCols f.fa.toNat)) (count64 f.kc) (codeBits f.fb.toNat) (bitOf f.sel 1)
  match o.op with
  | .mma f | .mmas f =>
    feederReads o.walkA 64 o.mr (count64 f.kc) (codeBits f.fa.toNat) (bitOf f.sel 0) ++ ofB f
  | .mmag f => ofB f
  | .mgth f => o.walkA.flatMap fun va => linePieces (spOff va) (count64 f.kc * codeBits f.fa.toNat)
  | .afil _ => if isSp (o.walkA.headD 0) then linePieces (spOff (o.walkA.headD 0)) 32832 else []
  | .prja f => (activeRows f o.mr).flatMap (prjaReads o f)
  | _ => []

/-- n bytes at an offset that an operation has read as read i, or that it reads now. -/
def readVal (s : State) (k : Nat) (o : ArrayOp) (i off n : Nat) : Nat :=
  match o.seen.find? fun q => q.1 = i with
  | some q => q.2
  | none => spNum s k off n

/-- n bytes at an offset, read line by line, the first one as read i. -/
def runVal (s : State) (k : Nat) (o : ArrayOp) (i off n : Nat) : Nat :=
  if o.seen.isEmpty then spNum s k off n
  else
    let ps := linePieces off n
    ((List.range ps.length).zip ps).foldl (fun v q => v + readVal s k o (i + q.1) q.2.1 q.2.2 * 2 ^ (8 * (q.2.1 - off))) 0

/-- Line j of a feeder, of e bytes; `act` holds the lines that the feeder reads, the first one as read i. -/
def feederLine (s : State) (k : Nat) (o : ArrayOp) (walk : List Nat) (i e : Nat) (act : List Nat) (j : Nat) : Nat :=
  let off := spOff (walk.getD j 0)
  if o.seen.isEmpty then spNum s k off e else readVal s k o (i + act.idxOf j) off e

/-! ## Operand values (R265, R268, R269) -/

/-- The bits of element (r, k) of a feeder, r a row of A or a column of B, by its lines. -/
def feederBits (line : Nat → Nat) (per e : Nat) (trans : Bool) (r kk : Nat) : Nat :=
  let j := per * (kk / 8) + (if trans then r / 8 * 8 + kk % 8 else r)
  let i := if trans then r % 8 else kk % 8
  fieldAt (line j) e i

/-- The value of an element by its format, codebook and scale; scale 127 stands for none. -/
def feederVal (f : Fmt) (book : BitVec 256) (scale bits : Nat) : Val :=
  let v := if f = .cb4 then bookVal (bookOf book.toNat) bits else elemVal f bits
  if scale = 127 then v else dequant scale v

/-- Byte i of a k register taken at issue. -/
def scaleByte (o : ArrayOp) (r i : Nat) : Nat := fieldAt (o.ks.getD r 0).toNat 8 i

/-- The scale of A element (m, k) or B element (k, n) (R268). -/
def arrayScale (o : ArrayOp) (f : MF) (isB : Bool) (r k : Nat) : Nat :=
  let reg := if isB then bitsOf f.ext 22 19 else bitsOf f.ext 26 23
  match bitsOf f.ext 18 17 with
  | 1 => scaleByte o (reg + r / 32) (r % 32)
  | 2 => scaleByte o reg (r / 16 + (if isB then 8 else 4) * (k / 16))
  | _ => 127

/-- The sparsity bit of K-block b and column block h (R270). -/
def skipped (o : ArrayOp) (f : MF) (b h : Nat) : Bool :=
  let j := 16 * b + h
  bitOf (o.ks.getD (bitsOf f.ext 12 9 + j / 256) 0) (j % 256)

/-- A value of an integral number, or none. -/
def integral : Val → Option Int
  | .fin n m e =>
    let t := if 0 ≤ e then m * 2 ^ e.toNat else m / 2 ^ (-e).toNat
    if isIntegral m e then some (if n then -(t : Int) else t) else none
  | _ => none

/-- accumulate of R57 for INT8 and UINT8 on scaled products: none where a group sum is no integer, for which the spec
states no result (log entry 25). -/
def accumScaled (acc : Nat) (ps : List Val) : Option (Nat × Bool) :=
  (chunksOf 16 ps.length ps).foldl (fun q g => match q, integral (groupSum g) with
    | some (a, ov), some t =>
      let r := accumInt a [t]
      some (r.1, ov || r.2)
    | _, _ => none) (some (acc, false))

/-! ## Accumulation (R269) -/

/-- One accumulator element after an accumulation: bits, flags and overflow; `n` is its free-value number. -/
def accumulated (s : State) (fa : Fmt) (acc n : Nat) (a b : List Val) : Nat × Nat × Bool :=
  let pairs := a.zip b
  if isInt fa then
    match accumScaled acc (pairs.map fun p => (mulVal p.1 p.2).1) with
    | some r => (r.1, 0, r.2)
    | none =>
      let w := (Config.freeWord (s.free + n)).toNat
      (w % 2 ^ 32, 0, w.testBit 32)
  else
    let r := accumFloat fa acc pairs
    (r.1, r.2, false)

/-- The operand rows and columns of an accumulation: A by active row, B by active column. -/
def accumOperands (s : State) (c : Nat) (o : ArrayOp) (f : MF) (mc : Nat) (gathered sparse : Bool) : List (List Val) × List (List Val) :=
  let k := clusterOfCore c
  let fa := (fmtOf f.fa.toNat).getD .i8
  let fb := (fmtOf f.fb.toNat).getD .i8
  let ks := List.range (8 * count64 f.kc)
  let latch := (coreOf s c).latch.rows
  let bookA := o.kbs.getD (bitsOf f.ext 16 15) 0
  let bookB := o.kbs.getD (bitsOf f.ext 14 13) 0
  let actA := if gathered then [] else activeLines 64 o.mr (count64 f.kc) (bitOf f.sel 0)
  let actB := activeLines (bankCols f.fa.toNat) mc (count64 f.kc) (bitOf f.sel 1)
  let a := (List.range o.mr).map fun m => ks.map fun kk =>
    let bits := if gathered then fieldAt (latch.getD m 0) (fmtBits fa) kk
                else feederBits (feederLine s k o o.walkA 0 (fmtBits fa) actA) 64 (fmtBits fa) (bitOf f.sel 0) m kk
    feederVal fa bookA (arrayScale o f false m kk) bits
  let b := (List.range mc).map fun n => ks.map fun kk =>
    if sparse && skipped o f (kk / 8) (n / 8) then .fin false 0 0
    else feederVal fb bookB (arrayScale o f true n kk)
      (feederBits (feederLine s k o o.walkB actA.length (fmtBits fb) actB) (bankCols f.fa.toNat) (fmtBits fb) (bitOf f.sel 1) n kk)
  (a, b)

/-- Products of a skipped block are +0 whatever A holds (R58): A's values there replaced by +0. -/
def unskipped (o : ArrayOp) (f : MF) (sparse : Bool) (n : Nat) (a : List Val) : List Val :=
  if sparse then (List.range a.length).map fun kk => if skipped o f (kk / 8) (n / 8) then .fin false 0 0 else a.getD kk (.fin false 0 0)
  else a

/-- The task of a core notes that an INT32 accumulation of it has wrapped (R57, R428). -/
def noteWrap (x : Core) (o : ArrayOp) (wrapped : Bool) : Core :=
  if wrapped && (x.shadow.isSome || !o.byHandler) then { x with task := x.task.map fun t => { t with iovf := true } } else x

/-- The effect of MMA, MMAS or MMAG, and its flags. -/
def runAccum (s : State) (c : Nat) (o : ArrayOp) (f : MF) (gathered sparse : Bool) : State × Nat :=
  let fa := (fmtOf f.fa.toNat).getD .i8
  let f64 := f.fa.toNat = 6
  let mc := min o.mc (bankCols f.fa.toNat)
  let ab := accumOperands s c o f mc gathered sparse
  let z := bitOf f.sel 2
  let old := bankOf s (clusterOfCore c) o.bank
  let start : Bank × Nat × Bool := (if z then { old with bovf := false } else old, 0, false)
  let r := (List.range o.mr).foldl (fun q m => (List.range mc).foldl (fun (q : Bank × Nat × Bool) n =>
    let v := accumulated s fa (if z then 0 else accAt f64 old m n) (128 * m + n)
      (unskipped o f sparse n (ab.1.getD m [])) (ab.2.getD n [])
    let b := setAcc f64 q.1 m n v.1
    ({ b with bovf := b.bovf || v.2.2 }, q.2.1 ||| v.2.1, q.2.2 || v.2.2)) q) start
  let s := modBank { s with free := s.free + 8192 } (clusterOfCore c) o.bank fun _ => r.1
  (modCore s c fun x => noteWrap x o r.2.2, r.2.1)

/-! ## Bank housekeeping (R271 to R273) -/

/-- The effect of MGTH: the rows of the latch. -/
def runGather (s : State) (c : Nat) (o : ArrayOp) (f : MF) : State :=
  let n := count64 f.kc * codeBits f.fa.toNat
  modCore s c fun x => { x with latch := { x.latch with
    valid := true
    rows := ((List.range o.walkA.length).zip o.walkA).map fun q =>
      runVal s (clusterOfCore c) o (((o.walkA.take q.1).map fun va => (linePieces (spOff va) n).length).sum) (spOff q.2) n } }

/-- The effect of ACLR. -/
def runClear (s : State) (c : Nat) (o : ArrayOp) (f : MF) : State :=
  modBank s (clusterOfCore c) o.bank fun b =>
    let mr := count64 (BitVec.ofNat 6 (bitsOf f.ext 12 7))
    let mc := if bitsOf f.ext 6 0 = 0 then 128 else bitsOf f.ext 6 0
    let b := { b with mr := mr, mc := mc }
    if bitOf f.sel 0 then b
    else
      let n := if f.fa.toNat = 6 then 2 * min mc 64 else mc
      { b with bovf := false, words := b.words.filter fun w => !(w.1 / 128 < mr && w.1 % 128 < n) }

/-- The store-queue entry of a place filled with bits and free to apply. -/
def fillEntry (x : Core) (id : Nat) (v : Nat) : Core :=
  { x with sq := x.sq.map fun e =>
      if e.id = id then
        { e with wait := none, kind := match e.kind with
            | .store bits => .store ((List.range bits.length).zip bits |>.map fun q => (q.2.1, q.2.2.1, BitVec.ofNat 8 (v >>> (8 * q.1))))
            | .acc a => .acc { a with value := v }
            | k => k }
      else e }

/-- The effect of ASPL. -/
def runSpill (s : State) (c : Nat) (o : ArrayOp) : State :=
  let v := bankImage (bankOf s (clusterOfCore c) o.bank)
  if o.outs.isEmpty then spPut s (clusterOfCore c) (spOff (o.walkA.headD 0)) 32832 v
  else modCore s c fun x => o.outs.foldl (fun x q => fillEntry x q.2.2 (fieldAt v 512 q.1)) x

/-- The effect of AFIL. -/
def runFill (s : State) (c : Nat) (o : ArrayOp) : State :=
  let va := o.walkA.headD 0
  let v := if isSp va then runVal s (clusterOfCore c) o 0 (spOff va) 32832
           else o.data.foldl (fun a q => a + q.2 * 2 ^ (512 * q.1)) 0
  modBank s (clusterOfCore c) o.bank fun b => { imageBank v with held := b.held, resident := b.resident }

/-! ## Drains (R275, R276) -/

/-- The accumulator format that an output format selects (R274). -/
def accFmt (fa : Nat) : Fmt := if fa = 6 then .f64 else if fa ≤ 5 then .i32 else .f32

/-- Lane j of a k register taken at issue, as a number of FP32. -/
def kLane (o : ArrayOp) (k j : Nat) : Nat := fieldAt (o.ks.getD k 0).toNat 32 j

/-- A core takes results at its issue cycles. -/
def takesResults (x : Core) : Bool :=
  match x.mode with
  | .running | .handler | .returning _ => true
  | _ => false

/-- One row written to its destination (R276): element n, its bits. -/
def writeRow (s : State) (c : Nat) (o : ArrayOp) (f : MF) (i : Nat) (q : List (Nat × Nat)) : State :=
  let e := codeBits f.fa.toNat
  if bitsOf f.ext 16 15 = 1 then
    let r := rowRegs f.fa.toNat
    let w := gather e q
    (List.range r).foldl (fun s j =>
      let n := o.vaDst.getD (r * i + j) 0
      let mask := fieldAt w.1 1024 j
      if mask = 0 then s
      else if (coreOf s c).shadow.isSome && !o.byHandler then holdResult s c 1 (.reg .va n) mask (fieldAt w.2 1024 j) (granOf e 1024)
      else if takesResults (coreOf s c) then pushFlight s c 1 0 (.reg .va n) mask (fieldAt w.2 1024 j) 0 (granOf e 1024)
      else modCore s c fun x => writeReg x .va n mask (fieldAt w.2 1024 j)) s
  else
    q.foldl (fun s p => match o.outs.find? fun t => t.1 = i && t.2.1 = p.1 with
      | some t => modCore s c fun x => fillEntry x t.2.2 p.2
      | none => spPut s (clusterOfCore c) (spOff (o.walkB.getD i 0) + p.1 * (e / 8)) (e / 8) p.2) s

/-- An element converted to the output format (R275): an INT32 accumulator saturates with `SAT` alone. -/
def drainElem (fa : Nat) (rm : RM) (acc : Fmt) (bits : Nat) : Nat × Nat :=
  let f := (fmtOf fa).getD .i8
  let r := toFmt f rm 0 false (elemVal acc bits)
  if acc = .i32 then (r.1, r.2 &&& fSAT) else r

/-- The scale of a quantised element (R275). -/
def drainScale (o : ArrayOp) (f : MF) (i n : Nat) : Nat :=
  if bitsOf f.ext 14 13 = 1 then scaleByte o f.fb.toNat (4 * i + n / 32)
  else scaleByte o f.fb.toNat (8 * (i / 16) + n / 16)

/-- The block of a quantised element, in the order in which blocks are counted. -/
def drainBlock (f : MF) (i n : Nat) : Nat :=
  if bitsOf f.ext 14 13 = 1 then 4 * i + n / 32 else 8 * (i / 16) + n / 16

/-- What a drain has gathered so far: the state, its flags, and the underflows by block. -/
structure Draining where
  s : State
  flags : Nat
  unders : List Nat
  last : Nat

/-- One active row of an MDRN. -/
def drainRow (c : Nat) (o : ArrayOp) (f : MF) (d : Draining) (i : Nat) : Draining :=
  let fa := f.fa.toNat
  let acc := accFmt fa
  let m := bitsOf f.ext 10 5 + i
  let b := bankOf d.s (clusterOfCore c) o.bank
  let ns := List.range (min o.mc (bankCols fa))
  let dk := bitsOf f.ext 26 23
  let ti := bitsOf f.ext 22 21
  let y0 := ns.map fun n => (n, accAt (fa = 6) b m n)
  let temp := floatVal .f32 (kLane o dk ti)
  let y := if bitOf f.ext 20 then y0.map fun p =>
      let v := mulVal (floatVal acc p.2) temp
      let r := roundFloat acc .rne 0 false v.1
      (p.1, r.1, v.2 ||| r.2)
    else y0.map fun p => (p.1, p.2, 0)
  let fl := y.foldl (fun a p => a ||| p.2.2) d.flags
  let sel := f.sel.toNat
  let pr := project acc sel (y.map fun p => (p.1, floatVal acc p.2.1))
    (floatVal .f32 (kLane o dk (ti + 1))) (floatVal .f32 (kLane o dk (ti + 2)))
  let xs := if sel = 0 then y.map fun p => (p.1, p.2.1) else pr.xs
  let fl := if sel = 0 then fl else fl ||| pr.flags
  let rm := (rmOf (bitsOf f.ext 19 17)).getD .rne
  let q : List (Nat × Nat × Nat × Bool) := xs.map fun p =>
    if bitsOf f.ext 14 13 = 0 then
      let r := drainElem fa rm acc p.2
      (p.1, r.1, r.2, false)
    else
      let r := quantElem ((fmtOf fa).getD .i8) [] rm 0 (drainScale o f i p.1) (elemVal acc p.2)
      (p.1, r.1, r.2.1, r.2.2)
  let s := writeRow d.s c o f i (q.map fun p => (p.1, p.2.1))
  let s := if sel = 0 then s else spPut s (clusterOfCore c) (spOff (o.walkA.getD i 0)) 32 pr.record
  ⟨s, q.foldl (fun a p => a ||| p.2.2.1) fl,
   d.unders ++ (q.filterMap fun p => if p.2.2.2 then some (drainBlock f i p.1) else none),
   q.foldl (fun a p => max a (drainBlock f i p.1)) d.last⟩

/-- The effect of MDRN, and its flags. -/
def runDrain (s : State) (c : Nat) (o : ArrayOp) (f : MF) : State × Nat :=
  let rows := activeRows f o.mr
  let d := rows.foldl (drainRow c o f) ⟨s, 0, [], 0⟩
  (modCore d.s c fun x =>
    if bitsOf f.ext 14 13 = 0 || rows.isEmpty then x
    else
      let n := bitsOf f.ext 12 11
      { x with ufcnt := x.ufcnt.setIfInBounds n (addUfc (x.ufcnt[n]?.getD 0) d.unders.length (d.unders.count d.last)) }, d.flags)

/-- The reads of a PRJA before those of a row. -/
def readsBefore (o : ArrayOp) (f : MF) (i : Nat) : Nat :=
  (((activeRows f o.mr).takeWhile (· ≠ i)).map fun r => (prjaReads o f r).length).sum

/-- One active row of a PRJA (R295): the state and the flags so far. -/
def prjaRow (c : Nat) (o : ArrayOp) (f : MF) (d : State × Nat) (i : Nat) : State × Nat :=
  let fa := (fmtOf f.fa.toNat).getD .f32
  let acc := accFmt f.fa.toNat
  let m := bitsOf f.ext 10 5 + i
  let k := clusterOfCore c
  let b := bankOf d.1 k o.bank
  let ns := List.range (min o.mc (bankCols f.fa.toNat))
  let at_ := readsBefore o f i
  let rec_ := readVal d.1 k o at_ (spOff (o.walkA.getD i 0)) 32
  let gs := ns.map fun n => (n, floatVal acc (accAt (f.fa.toNat = 6) b m n))
  let sel := f.sel.toNat
  let fb := (fmtOf f.fb.toNat).getD .f32
  let row := runVal d.1 k o (at_ + 1) (spOff (o.walkC.getD i 0)) (ns.length * (fmtBits fb / 8))
  let fw := if sel = 3 || sel = 4 then ns.map fun n => (n, fieldAt row (fmtBits fb) n) else []
  let fs := fw.map fun q => (q.1, floatVal fb q.2)
  let negs := (fw.filter fun q => q.2.testBit (fmtBits fb - 1)).map (·.1)
  let dk := bitsOf f.ext 26 23
  let ti := bitsOf f.ext 22 21
  let t := if bitOf f.ext 20 then floatVal .f32 (kLane o dk ti) else intVal 1
  let rho := floatVal .f32 (kLane o dk (ti + 1))
  let rm := (rmOf (bitsOf f.ext 19 17)).getD .rne
  let nan := (layoutOf fa).nanBits
  let q : List (Nat × Nat × Nat) := ns.map fun n =>
    if rec_.testBit 156 then (n, nan, 0)
    else if (rec_ >>> 152) % 8 ≠ sel then (n, nan, fINV)
    else match adjoint (rm = .rdn) acc sel rec_ t gs fs negs rho n with
      | some v =>
        let r := roundFloat fa rm 0 false v.1
        (n, r.1, v.2 ||| r.2)
      | none => (n, (Config.freeWord (d.1.free + n)).toNat % 2 ^ fmtBits fa, 0)
  let s := writeRow { d.1 with free := d.1.free + 128 } c o f i (q.map fun p => (p.1, p.2.1))
  (s, q.foldl (fun a p => a ||| p.2.2) d.2)

/-- The effect of PRJA, and its flags. -/
def runPrja (s : State) (c : Nat) (o : ArrayOp) (f : MF) : State × Nat := (activeRows f o.mr).foldl (prjaRow c o f) (s, 0)

/-! ## The array queue (R261, R263, R277) -/

/-- The effect of a queued operation, and the flags that return with its completion (R264). -/
def runArray (s : State) (c : Nat) (o : ArrayOp) : State × Nat :=
  match o.op with
  | .mma f => runAccum s c o f false false
  | .mmag f => runAccum s c o f true false
  | .mmas f => runAccum s c o f false true
  | .mgth f => (runGather s c o f, 0)
  | .aclr f => (runClear s c o f, 0)
  | .aspl _ => (runSpill s c o, 0)
  | .afil _ => (runFill s c o, 0)
  | .mdrn f => runDrain s c o f
  | .prja f => runPrja s c o f
  | _ => (s, 0)

/-! ## Line accesses (R279) -/

/-- The window mode gives cycles to a core (R261). -/
def ownsCycles (s : State) (c : Nat) : Bool :=
  let m := (clusterOf s (clusterOfCore c)).mode
  if m < 2 then m = c % 2 else true

/-- An operation with some of its reads made now. -/
def lookNow (s : State) (k : Nat) (o : ArrayOp) (is : List Nat) : ArrayOp :=
  let rs := arrayReads o
  { o with seen := o.seen ++ is.map fun i => let r := rs.getD i (0, 0); (i, spNum s k r.1 r.2) }

/-- A scratchpad with the bytes of some writes of an operation taken from another one. -/
def spliceWrites (o : ArrayOp) (from_ to_ : List Host.Cell) (js : List Nat) : List Host.Cell :=
  let ws := arrayWrites o
  js.foldl (fun m j => let w := ws.getD j (0, 0, 0); memPut m w.2.1 (memBytes from_ w.2.1 w.2.2)) to_

/-- The accesses of an operation in the order that they keep: numbers of reads and of writes. The rows of a drain are processed one after
another, each row of a PRJA written once its record and forward row are read (R295, R299). -/
def arrayStages (o : ArrayOp) : List (List Nat × List Nat) :=
  let ws := arrayWrites o
  let writes (i : Nat) : List Nat := (List.range ws.length).filter fun j => (ws.getD j (0, 0, 0)).1 = i
  match o.op with
  | .mdrn f => (activeRows f o.mr).map fun i => ([], writes i)
  | .prja f => (activeRows f o.mr).flatMap fun i =>
    [((List.range (prjaReads o f i).length).map (readsBefore o f i + ·), []), ([], writes i)]
  | _ => [(List.range (arrayReads o).length, List.range ws.length)]

/-- Accesses of one stage that have not been made are made now, those that `pick` chooses among the reads and the writes; the last
component says that accesses of the stage before are left. -/
def touchStage (c : Nat) (pickR pickW : Nat → Bool) (q : State × ArrayOp × Bool) (st : List Nat × List Nat) : State × ArrayOp × Bool :=
  let s := q.1
  let o := q.2.1
  if q.2.2 then q
  else
    let k := clusterOfCore c
    let rs := st.1.filter fun i => !(o.seen.any fun z => z.1 = i)
    let ws := st.2.filter fun j => !o.wrote.contains j
    let o1 := lookNow s k o (rs.filter pickR)
    let now := ws.filter pickW
    let s := if now.isEmpty then s
      else modCluster s k fun y => { y with sp := spliceWrites o (clusterOf (runArray s c o1).1 k).sp y.sp now }
    (s, { o1 with wrote := o1.wrote ++ now }, !(rs.all pickR && ws.all pickW))

/-- A number of the accesses of the first operation of core c's queue, once it has started, are made now, free but for their order
(R279). -/
def touchQueue (s : State) (c : Nat) : State :=
  match (coreOf s c).arrayQ with
  | [] => s
  | o :: rest =>
    let nr := (arrayReads o).length
    let n := nr + (arrayWrites o).length
    if !o.started || o.drained || o.out ≠ 0 || !ownsCycles s c || n = 0 then s
    else
      let r := (arrayStages o).foldl
        (touchStage c (fun i => Config.freeBit (s.free + i)) fun j => Config.freeBit (s.free + nr + j)) (s, o, false)
      modCore (noteEffect s { r.1 with free := s.free + n } c o.id false) c fun x => { x with arrayQ := r.2.1 :: rest }

/-- Array operations of every core make a free set of their accesses. -/
def touchArrays (s : State) : State :=
  s.cores.foldl (fun s q => if q.2.arrayQ.isEmpty then s else touchQueue s q.1) s

/-- The effect of an operation at its completion: the accesses that it has not made yet are made, and its results land; with its
flags. -/
def finishArray (s : State) (c : Nat) (o : ArrayOp) : State × Nat :=
  if o.seen.isEmpty && o.wrote.isEmpty then runArray s c o
  else
    let k := clusterOfCore c
    let q := (arrayStages o).foldl (touchStage c (fun _ => true) fun _ => true) (s, o, false)
    let r := runArray q.1 c q.2.1
    (modCluster r.1 k fun y => { y with sp := (clusterOf q.1 k).sp }, r.2)

/-- An accumulation (R263). -/
def isAccum (i : Instr) : Bool :=
  match i with
  | .mma _ | .mmag _ | .mmas _ => true
  | _ => false

/-- The next operation of a queue that may start: the first one, or an accumulation that chains into the bank of the
accumulation before it (R263). -/
def mayStart : List ArrayOp → Option Nat
  | [] => none
  | o :: rest =>
    if !o.started then some o.id
    else if o.drained || !isAccum o.op then none
    else match rest with
      | [] => none
      | p :: _ => if p.started then mayStart rest
                  else if isAccum p.op && p.bank = o.bank then some p.id else none

/-- ARRAY_OP_START (R263): a queued operation starts. -/
def execArrayOpStart (c : Nat) (s : State) : Host.Outcome State Fault Refusal :=
  match mayStart (coreOf s c).arrayQ with
  | some id =>
    if ownsCycles s c then
      .next (modCore s c fun x => { x with arrayQ := x.arrayQ.map fun o => if o.id = id then { o with started := true } else o })
    else .next s
  | none => .next s

/-- The acknowledgements of an operation's entries that are out (R277). -/
def arrayOwes (s : State) (c : Nat) (o : ArrayOp) : Bool :=
  ((coreOf s c).sq.any fun e => o.outs.any fun q => q.2.2 = e.id)
    || s.bags.any fun b => b.1 = c && b.2.array = some o.id

/-- The first operation of a queue is complete: its flags return (R264), and it leaves the queue. A return from the handler that waited for
it completes (R409). -/
def leaveQueue (s : State) (c : Nat) (o : ArrayOp) (flags : Nat) : State :=
  tryReturn (modCore s c fun x =>
    returnFlags { x with arrayQ := x.arrayQ.filter fun p => p.id ≠ o.id } o.byHandler flags) c

/-- ARRAY_OP_COMPLETE (R264, R277): the first operation of a queue has its effect, and completes once the entries that it put into the store
queue are acknowledged. -/
def execArrayOpComplete (c : Nat) (s : State) : Host.Outcome State Fault Refusal :=
  let s := touchQueue s (c + 1 - 2 * (c % 2))
  match (coreOf s c).arrayQ with
  | [] => .next s
  | o :: _ =>
    if o.drained then (if arrayOwes s c o then .next s else .next (leaveQueue s c o o.flags))
    else if !o.started || !ownsCycles s c || o.out ≠ 0 then .next s
    else
      let f := finishArray s c o
      let r := (noteEffect s f.1 c o.id false, f.2)
      if o.outs.isEmpty then .next (leaveQueue r.1 c o r.2)
      else .next (modCore r.1 c fun x =>
        { x with arrayQ := x.arrayQ.map fun p => if p.id = o.id then { p with drained := true, flags := r.2 } else p })

/-- Every array queue of a cluster is empty and no level-0 tile instruction runs (R262). -/
def arrayIdle (s : State) (k : Nat) : Bool :=
  [2 * k, 2 * k + 1].all fun c => (coreOf s c).arrayQ.isEmpty && (coreOf s c).l0q.all fun l => !l.started || l.done

/-- MWIN_MODE_TAKE_EFFECT (R262): a pending `MODE` takes effect. -/
def execMwinModeTakeEffect (k : Nat) (s : State) : Host.Outcome State Fault Refusal :=
  match (clusterOf s k).modePending with
  | some m =>
    if arrayIdle s k then .next (modCluster s k fun y => { y with mode := m, modePending := none }) else .next s
  | none => .next s

end Sys2Proof.Machine
end

