-- ==== Sys2Proof/Machine/Control.lean ====
section
/-!
DEFINITION. Control transfer, loops and the end of a task (R201 to R205), CSR access (R221, R222) and software traps
(R223, R224).
-/
namespace Sys2Proof.Machine

/-! ## Transfers (R201) -/

/-- A taken transfer. -/
def goTo (t : Word) : Effects := { Effects.none with target := some t }

/-- To the header address plus 4 × disp21. -/
def actBr (f : SD21) : Act := fun s _ at_ => .ok s (goTo (dTarget at_ f))
/-- To s[a] as read at issue; with fn[0] the address after the bundle goes to s31. -/
def actJmp (f : SRR) : Act := fun s c at_ =>
  .ok (if bitOf f.fn 0 then setS s c 0 1 31 at_.next else s) (goTo (sA (coreOf s c) f))
/-- As BR, and the address after the bundle goes to s31. -/
def actCall (f : SD21) : Act := fun s c at_ => .ok (setS s c 0 1 31 at_.next) (goTo (dTarget at_ f))
/-- To s31 as read at issue. -/
def actRet (_ : Guard) : Act := fun s c _ => .ok s (goTo (rdS (coreOf s c) 31))
/-- A loop on `LOOPCNT` (R202); `LOOPEND` is written whatever the gate. -/
def actLoop (f : SD21) : Act := fun s c at_ =>
  let n := (coreOf s c).loopcnt
  if 2 ≤ n.toNat then .ok s { goTo (dTarget at_ f) with loop := some (n - 1) }
  else .ok s { Effects.none with loop := some 0 }
/-- `RBASE.BASE` := imm11[3:0] (R203). -/
def actRbset (f : SRI) : Act := fun s c _ =>
  .ok (pushFlight s c 0 1 .rbase 15 (f.imm.toNat % 16) 0 64) .none
/-- The task ends (R204). -/
def actExit (_ : Guard) : Act := fun s c _ => .ok (noteWait s c) { Effects.none with exit := true, waits := true }
/-- A safe point (R205). -/
def actYield (_ : Guard) : Act := fun s _ _ => .ok s { Effects.none with yield := true }

/-! ## CSRs (R222) -/

/-- `GANGPOS` (R358). -/
def gangPos (s : State) (c : Nat) : Nat :=
  match gangOf s c with
  | some g => 2 ^ 12 + b2n g.fused * 2 ^ 11 + g.step % 8 * 2 ^ 8 + (g.members.length - 1) % 16 * 2 ^ 4
      + (g.members.idxOf c) % 16
  | none => 0

/-- `MWIN` (R260). -/
def mwin (s : State) (c : Nat) : Nat :=
  let k := clusterOfCore c
  let y := clusterOf s k
  let bits (p : Nat → Bool) : Nat := packFields 1 ((List.range 4).map fun b => b2n (p b))
  bits (bankBusy s k) * 2 ^ 20 + (coreOf s c).arrayQ.length % 8 * 2 ^ 17 + bits (fun b => (bankOf s k b).bovf) * 2 ^ 12
    + b2n (coreOf s c).swap * 2 ^ 8 + y.mode % 8

/-- The members of a line as a core sees them: those of its die, or of the package (R353). -/
def gline (s : State) (c line : Nat) : Nat :=
  let g := groupOf s (ctxOfCore s c) line (lineDie c line)
  g.members.length % 1024 * 2 ^ 16 + b2n g.open_ * 4 + b2n (g.open_ && g.asserted.contains c) * 2 + b2n (g.members.contains c)

/-- A CSR as CSRR reads it; in handler state the values of the frozen task (R407). -/
def csrRead (s : State) (c i : Nat) : Word :=
  let x := coreOf s c
  let task (f : Task → Nat) : Word := BitVec.ofNat 64 ((x.task.map f).getD 0)
  match i with
  | 0x000 => task (·.ctx)
  | 0x001 => task fun t => t.tiid.toNat * 2 ^ 32 + t.number.toNat
  | 0x002 => unitId s c
  | 0x003 => task fun t => t.level * 2 ^ 32 + t.pieceNo.toNat
  | 0x004 => BitVec.ofNat 64 (gangPos s c)
  | 0x005 => s.geyser
  | 0x006 => BitVec.ofNat 64 ((x.shadow.map (·.rbase)).getD x.rbase)
  | 0x007 => BitVec.ofNat 64 ((x.shadow.map (·.repidx)).getD x.repidx)
  | 0x008 => (x.shadow.map (·.loopcnt)).getD x.loopcnt
  | 0x009 => BitVec.ofNat 64 (((x.shadow.map (·.loopend)).getD x.loopend).toNat % 2 ^ 56)
  | 0x010 => x.tcause
  | 0x011 => x.tpc
  | 0x012 => x.taddr
  | 0x013 => x.tdetail
  | 0x014 => x.tvec
  | 0x018 => BitVec.ofNat 64 (mwin s c)
  | 0x019 => task fun t => b2n t.det
  | 0x01A => x.seedkey
  | 0x01B => (x.shadow.map (·.wcoll)).getD x.wcoll
  | 0x01C => ((x.shadow.map (·.aflags)).getD x.aflags).zeroExtend 64
  | 0x020 => BitVec.ofNat 64 (b2n x.hard * 2 + b2n x.soft)
  | 0x021 => x.spdeadline
  | 0x022 => x.age
  | 0x024 | 0x025 | 0x026 | 0x027 => x.ufcnt[i - 0x024]?.getD 0
  | 0x028 => BitVec.ofNat 64 x.replaycnt
  | _ => BitVec.ofNat 64 (if 0x030 ≤ i && i ≤ 0x043 then gline s c (i - 0x030) else 0)

/-- s[d] := the CSR (R221). -/
def actCsrr (f : SC12) : Act := fun s c _ => .ok (setS s c 0 1 f.d.toNat (csrRead s c f.csr.toNat)) .none
/-- The CSR := s[d], landing after one issue cycle (R221). -/
def actCsrw (f : SC12) : Act := fun s c _ =>
  .ok (pushFlight s c 0 1 (.csr f.csr.toNat) (ones 64) (rdS (coreOf s c) f.d.toNat).toNat 0 64) .none

/-! ## Software traps (R223, R224) -/

/-- Cause 0x0B with the immediate. -/
def actTrap (f : SI16) : Act := fun _ _ _ => .trap (trapOf 0x0B f.imm.toNat)
/-- Cause 0x0C with the immediate. -/
def actBrk (f : SI16) : Act := fun _ _ _ => .trap (trapOf 0x0C f.imm.toNat)
/-- The return from a handler; outside one, an illegal slot op. -/
def actEret (f : SRR) : Act := fun s c at_ =>
  if (coreOf s c).shadow.isSome then .ok s { Effects.none with eret := some (bitOf f.fn 0) }
  else .trap (trapIllegal at_.addr 0)

/-! ## The operations -/

/-- BR (R201). -/
def execBr (f : SD21) (s : State) : Host.Outcome State Fault Refusal :=
  issueSolo 0 (.br f) (actBr f) s

/-- JMP (R201). -/
def execJmp (f : SRR) (s : State) : Host.Outcome State Fault Refusal :=
  issueSolo 0 (.jmp f) (actJmp f) s

/-- CALL (R201). -/
def execCall (f : SD21) (s : State) : Host.Outcome State Fault Refusal :=
  issueSolo 0 (.call f) (actCall f) s

/-- RET (R201). -/
def execRet (g : Guard) (s : State) : Host.Outcome State Fault Refusal :=
  issueSolo 0 (.ret g) (actRet g) s

/-- LOOP (R202). -/
def execLoop (f : SD21) (s : State) : Host.Outcome State Fault Refusal :=
  issueSolo 0 (.loop f) (actLoop f) s

/-- RBSET (R203). -/
def execRbset (f : SRI) (s : State) : Host.Outcome State Fault Refusal :=
  issueSolo 0 (.rbset f) (actRbset f) s

/-- EXIT (R204). -/
def execExit (g : Guard) (s : State) : Host.Outcome State Fault Refusal :=
  issueSolo 0 (.exit g) (actExit g) s

/-- YIELD (R205). -/
def execYield (g : Guard) (s : State) : Host.Outcome State Fault Refusal :=
  issueSolo 0 (.yield g) (actYield g) s

/-- CSRR (R221). -/
def execCsrr (f : SC12) (s : State) : Host.Outcome State Fault Refusal :=
  issueSolo 0 (.csrr f) (actCsrr f) s

/-- CSRW (R221). -/
def execCsrw (f : SC12) (s : State) : Host.Outcome State Fault Refusal :=
  issueSolo 0 (.csrw f) (actCsrw f) s

/-- TRAP (R223). -/
def execTrap (f : SI16) (s : State) : Host.Outcome State Fault Refusal :=
  issueSolo 0 (.trap f) (actTrap f) s

/-- BRK (R223). -/
def execBrk (f : SI16) (s : State) : Host.Outcome State Fault Refusal :=
  issueSolo 0 (.brk f) (actBrk f) s

/-- ERET (R224). -/
def execEret (f : SRR) (s : State) : Host.Outcome State Fault Refusal :=
  issueSolo 0 (.eret f) (actEret f) s

end Sys2Proof.Machine
end

