-- ==== Sys2Proof/Machine/Channel.lean ====
section
/-!
DEFINITION. Channels: the channel table and its checks (R382 to R384), walks (R387), and the arithmetic of combining and
delivering (R387, R388).
-/
namespace Sys2Proof.Machine

/-! ## The channel table (R382) -/

/-- The address of a channel entry. -/
def chAddr (s : State) (ctx ch : Nat) : Nat := recBits s ctx 371 320 + 64 * ch
/-- A channel entry. -/
def chEntry (s : State) (ctx ch : Nat) : BitVec 512 := BitVec.ofNat 512 (paSeen s ctx (chAddr s ctx ch) 64)
/-- `CKIND`. -/
def chKind (e : BitVec 512) : Nat := bitsOf e 62 60
/-- Element format. -/
def chFmt (e : BitVec 512) : Nat := bitsOf e 58 55
/-- Wire format. -/
def chWire (e : BitVec 512) : Nat := bitsOf e 54 51
/-- `WIDE`. -/
def chWide (e : BitVec 512) : Bool := bitOf e 50
/-- `COMB`. -/
def chComb (e : BitVec 512) : Nat := bitsOf e 49 47
/-- A combining channel. -/
def chCombines (e : BitVec 512) : Bool := chComb e ≠ 6
/-- `E_LO`, signed. -/
def chElo (e : BitVec 512) : Int := signedOf 16 (bitsOf e 127 112)
/-- Endpoint count. -/
def chCount (e : BitVec 512) : Nat := bitsOf e 43 34 + 1
/-- Elements of a tile. -/
def chElems (e : BitVec 512) : Nat := bitsOf e 88 76 * bitsOf e 95 89
/-- Bytes of a tile of the element format. -/
def chTile (e : BitVec 512) : Nat := chElems e * codeBits (chFmt e) / 8

/-- The endpoint list: entries of 4 bytes (R384). -/
def chEndpoints (s : State) (e : BitVec 512) : List Nat :=
  (List.range (chCount e)).map fun i => paNum s (bitsOf e 179 128 + 4 * i) 4

/-- The package and core of an endpoint entry. -/
def epPkg (x : Nat) : Nat := x / 2 ^ 16
/-- The core index of an endpoint entry. -/
def epCore (x : Nat) : Nat := x % 2 ^ 9

/-- The family of a format code (R27): signed integers, unsigned integers, floating formats; no family for a code that is no element
format of a channel. -/
def familyOf (fmt : Nat) : Nat :=
  if 11 < fmt then 3 else match fmtOf fmt with
    | some .n8 | some .n32 => 1
    | some f => if isInt f then 0 else 2
    | none => 3

/-- An entry is invalid (R383, R384). -/
def chBad (s : State) (e : BitVec 512) : Bool :=
  let fmt := chFmt e
  let kind := chKind e
  let comb := chComb e
  let eps := chEndpoints s e
  bitsOf e 511 224 ≠ 0 || bitsOf e 191 180 ≠ 0 || bitsOf e 111 96 ≠ 0 || bitsOf e 75 64 ≠ 0 || bitsOf e 26 0 ≠ 0
    || bitsOf e 130 128 ≠ 0 || !bitOf e 63 || kind > 4 || comb = 7
    || bitsOf e 88 76 = 0 || bitsOf e 88 76 > 4096 || bitsOf e 95 89 = 0 || bitsOf e 95 89 > 64
    || bitsOf e 33 27 = 0 || bitsOf e 33 27 > 64 || bitsOf e 43 34 = 0
    || fmt > 11 || chTile e % 64 ≠ 0 || chTile e > 4096
    || (kind = 0 && (bitsOf e 43 34 ≠ 1 || comb ≠ 6))
    || ((kind = 1 || kind = 2) && comb = 6) || ((kind = 3 || kind = 4) && comb ≠ 6)
    || (3 ≤ comb && comb ≤ 5 && !isIntCode fmt)
    || (chWide e && chWire e ≠ 0)
    || (!chWide e && comb ≠ 6 && (familyOf (chWire e) ≠ familyOf fmt || codeBits (chWire e) < codeBits fmt))
    || (bitsOf e 127 112 ≠ 0 && !(chWide e && comb = 0 && !isIntCode fmt))
    || (eps.any fun x => x / 2 ^ 9 % 2 ^ 7 ≠ 0 || (bitOf e 59 && epCore x ≠ 0))
    || decide (eps.eraseDups.length ≠ eps.length)

/-- The signature that tiles carry (R384): entry bits [127:0] and the endpoints. -/
def chSig (s : State) (e : BitVec 512) : List Nat := bitsOf e 127 0 :: chEndpoints s e

/-- The place of a core in the endpoint list of a channel between cores. -/
def chIndex (s : State) (e : BitVec 512) (c : Nat) : Option Nat :=
  if bitOf e 59 then none
  else (List.range (chCount e)).find? fun i =>
    let x := (chEndpoints s e).getD i 0
    epPkg x = s.pkg.toNat && epCore x = c

/-- The core of endpoint i when it is on this package. -/
def chLocal (s : State) (e : BitVec 512) (i : Nat) : Option Nat :=
  let x := (chEndpoints s e).getD i 0
  if epPkg x = s.pkg.toNat then some (epCore x) else none

/-- Endpoint i of n sends on a channel (R386). -/
def chSends (e : BitVec 512) (i : Nat) : Bool :=
  if chKind e = 0 || chKind e = 4 then i = 0 else true
/-- Endpoint i of n receives on a channel. -/
def chReceives (e : BitVec 512) (i : Nat) : Bool :=
  match chKind e with
  | 0 => i = 1
  | 4 => i ≠ 0
  | _ => true

/-- The walk of tile t (R387): endpoint at place p. -/
def walkAt (e : BitVec 512) (t p : Nat) : Nat := if bitOf e 44 then (t + 1 + p) % chCount e else p
/-- The place of an endpoint in the walk of tile t. -/
def walkPlace (e : BitVec 512) (t i : Nat) : Nat :=
  ((List.range (chCount e)).find? fun p => walkAt e t p = i).getD 0

/-- The receivers of a combined or carried tile (R386): endpoints. -/
def tileReceivers (e : BitVec 512) (t : Nat) : List Nat :=
  (List.range (chCount e)).filter fun i => chReceives e i && (chKind e ≠ 2 || t % chCount e = i)

/-- The tiles that receiver i gets of a round whose contributions have nt tiles, in the order of their places: origin
and tile (R386). -/
def receivedTiles (e : BitVec 512) (i nt : Nat) : List (Nat × Nat) :=
  match chKind e with
  | 2 => ((List.range nt).filter fun t => t % chCount e = i).map fun t => (0, t)
  | 3 => (List.range (chCount e)).flatMap fun j => (List.range nt).map fun t => (j, t)
  | _ => (List.range nt).map fun t => (0, t)

/-- The tiles of a contribution of which receiver i gets m tiles (R386). -/
def contributionTiles (e : BitVec 512) (i m : Nat) : Nat :=
  match chKind e with
  | 2 => if m = 0 then 0 else (m - 1) * chCount e + i + 1
  | 3 => m / chCount e
  | _ => m

/-! ## Combining (R387) -/

/-- One hop of a narrow channel on the bits of one element: the partial, its contribution in `FMT`, and whether the sum
leaves the wire format. -/
def narrowHop (comb : Nat) (w f : Fmt) (r x : Nat) : Nat × Bool :=
  if isInt w then
    let a := fmtInt w r
    let b := fmtInt f x
    let v := if comb = 0 then a + b else signedOf (fmtBits w + 1) (combineInt comb (fmtBits w + 1) a b)
    (wrapTo (fmtBits w) v, comb = 0 && (decide (v < intMin w) || decide (intMax w < v)))
  else if comb = 0 then
    let v := (addVal false (floatVal w r) (floatVal f x)).1
    let o := (roundFloat w .rne 0 false v).1
    (o, !(floatVal w o).isFin && (floatVal w r).isFin && (floatVal f x).isFin)
  else
    let v := (minMaxVal (comb = 2) (floatVal w r) (floatVal f x)).1
    ((roundFloat w .rne 0 false v).1, false)

/-- A contribution in the wire format. -/
def toWire (w f : Fmt) (x : Nat) : Nat :=
  if isInt w then wrapTo (fmtBits w) (fmtInt f x) else (roundFloat w .rne 0 false (floatVal f x)).1

/-- The element format of a channel. -/
def chF (e : BitVec 512) : Fmt := (fmtOf (chFmt e)).getD .i8
/-- The wire format of a channel. -/
def chW (e : BitVec 512) : Fmt := (fmtOf (chWire e)).getD .i8

/-- deliver of R388 for a partial of a narrow channel: the element in `FMT` and its flags. -/
def deliverNarrow (f w : Fmt) (r : Nat) (oor : Bool) : Nat × Nat :=
  if oor then (if isInt f then wrapTo (fmtBits f) (intMin f) else (layoutOf f).nanBits, fSAT)
  else toFmt f .rne 0 false (elemVal w r)

/-- deliver of R388 for a holding element of a wide channel; R55 raises no flag. -/
def deliverWide (f : Fmt) (comb : Nat) (elo : Int) (h : Nat) : Nat :=
  if isInt f then wrapTo (fmtBits f) (satInt (signedOf (holdBits f comb) h) (intMin f) (intMax f))
  else if comb = 0 then (xaccOut f h elo).1
  else h

/-! ## Transfers (R385) -/

/-- The key of a transfer number. -/
def transferKey (ctx ch ep : Nat) (recv : Bool) : Nat := ((ctx * 256 + ch) * 1024 + ep) * 2 + b2n recv

/-- The context of a transfer key. -/
def transferCtx (k : Nat) : Nat := k / (2 * 1024 * 256)

/-- The next transfer number of an endpoint, taken. -/
def nextTransfer (s : State) (ctx ch ep : Nat) (recv : Bool) : Nat × State :=
  let k := transferKey ctx ch ep recv
  let n := sget 0 s.transfers k
  (n, { s with transfers := sput 0 s.transfers k (n + 1) })

end Sys2Proof.Machine
end

