-- ==== Sys2Proof/Machine/RecastTerms.lean ====
section
/-!
DEFINITION. The terms of a recast (R123, R215): their checks (R81) and the descriptor that a recast leaves (R70, R88).
-/
namespace Sys2Proof.Machine

/-- The fields of a recast's terms: `PARAM`, the role word and the new base (R123, R215). -/
structure Terms where
  p : BitVec 64
  role : BitVec 64
  base : BitVec 64
  deriving DecidableEq, Repr

/-- Target role. -/
def Terms.to (t : Terms) : Nat := bitsOf t.p 1 0
/-- `KEEPF`. -/
def Terms.keep (t : Terms) : Bool := bitOf t.p 6
/-- `NOWAIT` (R78). -/
def Terms.nowait (t : Terms) : Bool := bitOf t.p 7
/-- `RELOC` (R79). -/
def Terms.reloc (t : Terms) : Bool := bitOf t.p 8
/-- `PART` (R87). -/
def Terms.part (t : Terms) : Bool := bitOf t.p 9
/-- `RFIRST`. -/
def Terms.first (t : Terms) : Nat := bitsOf t.p 39 16
/-- `RCOUNT`. -/
def Terms.count (t : Terms) : Nat := bitsOf t.p 63 40
/-- The target format: `FMT`, or the tensor's under `KEEPF`. -/
def Terms.fmt (t : Terms) (d : BitVec 512) : Nat := if t.keep then dFmt d else bitsOf t.p 5 2
/-- The regions that a recast names, of n. -/
def Terms.regions (t : Terms) (n : Nat) : List Nat :=
  if t.part then (List.range n).filter fun r => t.first ≤ r && r < t.first + t.count else List.range n

/-- A reserved bit is set in the terms (R123, R6). -/
def Terms.reserved (t : Terms) : Bool :=
  bitsOf t.p 15 10 ≠ 0
    || (match t.to with
        | 3 => bitsOf t.role 63 18 ≠ 0
        | 2 => bitsOf t.role 63 32 ≠ 0 || bitsOf t.role 15 8 ≠ 0
        | _ => t.role ≠ 0)
    || (t.reloc && bitsOf t.base 63 56 ≠ 0)

/-- The generation after one (R76). -/
def nextGen (g : Nat) : Nat := if g = 2 ^ 32 - 1 then 1 else g + 1

/-- The roles of a tensor's regions, one for each region. -/
def regionRoles (d : BitVec 512) (roles : List Nat) : List Nat :=
  if dMixed d then roles else List.replicate (regionCount d) (dRole d)

/-- The descriptor at the new base of a relocating recast. -/
def moved (d : BitVec 512) (t : Terms) : BitVec 512 :=
  if t.reloc then BitVec.ofNat 512 (setBits d.toNat 55 0 t.base.toNat) else d

/-- The roles of the regions before a recast, placed as the tensor stands after it: a relocating one starts from IMM. -/
def rolesBefore (d : BitVec 512) (roles : List Nat) (t : Terms) : List Nat :=
  if t.reloc then List.replicate (regionCount (moved d t)) 0 else regionRoles d roles

/-- The roles of the regions after a recast. -/
def rolesAfter (d : BitVec 512) (roles : List Nat) (t : Terms) : List Nat :=
  let rs := rolesBefore d roles t
  let named := t.regions rs.length
  ((List.range rs.length).zip rs).map fun q => if named.contains q.1 then t.to else q.2

/-- `MIXED` after a recast: regions of several roles, or all ACC by a partial recast (R88, R442). -/
def mixedAfter (d : BitVec 512) (roles : List Nat) (t : Terms) : Bool :=
  let rs := rolesAfter d roles t
  t.part && (rs.any (· ≠ t.to) || t.to = 2)

/-- The descriptor that a recast leaves (R70, R84). -/
def descAfter (d : BitVec 512) (roles : List Nat) (t : Terms) : BitVec 512 :=
  let rs := rolesAfter d roles t
  let mixed := mixedAfter d roles t
  let set (x hi lo v : Nat) : Nat := setBits x hi lo v
  let x := d.toNat
  let x := set x 95 64 (nextGen (df d 95 64))
  let x := set x 62 62 (b2n mixed)
  let x := if mixed then x else set x 61 60 t.to
  let x := set x 59 56 (t.fmt d)
  let x := if t.reloc then set x 55 0 t.base.toNat else x
  let x := if t.to = 2 then set (set (set x 101 99 (bitsOf t.role 2 0)) 126 122 (bitsOf t.role 7 3)) 119 104 (bitsOf t.role 31 16)
           else if rs.contains 2 then x else set (set (set x 101 99 0) 126 122 0) 119 104 0
  let x := if t.to = 3 && !mixed then set (set x 121 120 (bitsOf t.role 17 16)) 143 128 (bitsOf t.role 15 0)
           else set (set x 121 120 0) 143 128 0
  BitVec.ofNat 512 x

/-- The target format that R81 refuses: for an ACC source one of its family, 6 to 11 for a floating one. -/
def formatRefused (d : BitVec 512) (roles : List Nat) (t : Terms) : Bool :=
  let f := t.fmt d
  let fromAcc := (t.regions (regionRoles d roles).length).any fun r => (regionRoles d roles)[r]?.getD 0 = 2
  f = 15 || (t.keep && bitsOf t.p 5 2 ≠ 0)
    || (fromAcc && !t.keep && (if isIntCode (dFmt d) then !isIntCode f else !(6 ≤ f && f ≤ 11)))

/-- The class-0 cause (R134: 0x02, 0x03, 0x06) for which the terms of a recast are refused at issue or acceptance
(R81, R123, R215). A partial recast of a mixed tensor does not relocate while any region is not IMM, the un-named ones among
them: DESIGN CHOICE, log entry 60. -/
def termsBad (d : BitVec 512) (roles : List Nat) (t : Terms) : Option Nat :=
  if t.reserved then some 0x02
  else if (t.part && t.count = 0) || (!t.reloc && t.base ≠ 0) || formatRefused d roles t
      || (t.reloc && (roles.any (· ≠ 0)))
      || (t.to = 2 && (5 < bitsOf t.role 2 0 || 19 < bitsOf t.role 7 3)) || (t.to = 3 && bitsOf t.role 17 16 = 3) then some 0x03
  else descCheck (descAfter d roles t) (if mixedAfter d roles t then rolesAfter d roles t else [t.to])

end Sys2Proof.Machine
end

