-- ==== Sys2Proof/Machine/Handles.lean ====
section
/-!
DEFINITION. Handles, holds and the issue of a recast (R213 to R215), and the tag table (R216).
-/
namespace Sys2Proof.Machine

/-! ## Reading descriptors (R213) -/

/-- s[d] := one word of the descriptor as it stands at its home. -/
def actHld (f : SRR) : Act := fun s c _ =>
  let h := sA (coreOf s c) f
  match slotHandle s c 0 h with
  | .error t => .trap t
  | .ok _ =>
    let d := descOf s (ctxOfCore s c) (hIndex h)
    .ok (setS s c 0 1 f.d.toNat (BitVec.ofNat 64 (fieldAt d.toNat 64 (bitsOf f.fn 2 0)))) .none

/-- s[d] := the address of a linear element, or all ones past the last. -/
def actHview (f : SRR) : Act := fun s c _ =>
  let x := coreOf s c
  match slotHandle s c 0 (sA x f) with
  | .error t => .trap t
  | .ok (d, _) =>
    let i := (sB x f).toNat
    .ok (setS s c 0 1 f.d.toNat (if dCount d ≤ i then BitVec.allOnes 64 else BitVec.ofNat 64 (elemVa d i))) .none

/-- s[d] := the handle of a descriptor at its current generation. -/
def actHgen (f : SRR) : Act := fun s c _ =>
  let i := (sA (coreOf s c) f).toNat % 2 ^ 16
  let ctx := ctxOfCore s c
  let d := descOf s ctx i
  if df d 63 63 = 0 then .trap (trapOf 0x08 (i * 2 ^ 16))
  else .ok (setS s c 0 1 f.d.toNat (BitVec.ofNat 64 (ctx * 2 ^ 48 + df d 95 64 * 2 ^ 16 + i))) .none

/-! ## Reader counts (R77, R214) -/

/-- The state with the reader count of a generation changed: in the record of a current one, in the table of a
retained one, whose entry is freed and whose release event rises at 0 (R79). -/
def setReaders (s : State) (ctx index gen n : Nat) : State :=
  match rgFind s ctx index gen with
  | some j =>
    let e := rgEntry s ctx j
    let at_ := recBits s ctx 435 384 + 32 * j
    if n = 0 then raiseEvent (paPut s at_ 32 0) ctx ((e >>> 224) % 2 ^ 16) 1
    else paPut s at_ 32 (setBits e 223 192 n)
  | none => putRec s { recOf s ctx index gen with readers := n }

/-- The generations that a hold of one counts (R77): itself, its scale tensor's generation and its codebook's current
one. -/
def heldWith (s : State) (ctx : Nat) (d : BitVec 512) (index gen : Nat) : List (Nat × Nat) :=
  [(index, gen)]
    ++ (if df d 159 144 = 0 then [] else [(df d 159 144, df d 191 160)])
    ++ (if df d 207 192 = 0 || (0xF0 ≤ df d 207 192 && df d 207 192 ≤ 0xFF) then []
        else [(df d 207 192, df (descOf s ctx (df d 207 192)) 95 64)])

/-- Reader counts raised by 1, or `none` when one would pass 2^32 − 1 (R77). -/
def raiseReaders (s : State) (ctx : Nat) : List (Nat × Nat) → Option State
  | [] => some s
  | (i, g) :: r =>
    if readerCount s ctx i g = 2 ^ 32 - 1 then none
    else raiseReaders (setReaders s ctx i g (readerCount s ctx i g + 1)) ctx r

/-- Reader counts lowered by 1; a count of 0 stays. -/
def lowerReaders (s : State) (ctx : Nat) (l : List (Nat × Nat)) : State :=
  l.foldl (fun s q => setReaders s ctx q.1 q.2 (readerCount s ctx q.1 q.2 - 1)) s

/-- Whether a generation counts as IMM for holds (R77). -/
def countsImm (s : State) (ctx : Nat) (d : BitVec 512) (retained : Bool) : Bool :=
  retained || (rolesOf s ctx d).contains 0

/-- A hold noted with the generations that it counted (R77: it ends at RELS or at the destruction of the context). -/
def addHold (s : State) (ctx index gen : Nat) (counted : List (Nat × Nat)) : State :=
  let t := recOf s ctx index gen
  putRec s { t with holds := t.holds ++ [counted] }

/-- The generations that the RELS of a generation lowers (R77): those that its oldest hold counted, else, for a count that no hold
raised, those that a hold would count now (log entry 51). -/
def relsWith (s : State) (ctx : Nat) (d : BitVec 512) (index gen : Nat) : List (Nat × Nat) :=
  (recOf s ctx index gen).holds.headD (heldWith s ctx d index gen)

/-- The state without the oldest hold of a generation. -/
def dropHold (s : State) (ctx index gen : Nat) : State :=
  let t := recOf s ctx index gen
  putRec s { t with holds := t.holds.tail }

/-- The reader count raised for the context. -/
def actHold (f : SRR) : Act := fun s c _ =>
  let h := sA (coreOf s c) f
  let ctx := ctxOfCore s c
  match slotHandle s c 0 h with
  | .error t => .trap t
  | .ok (d, r) =>
    if !countsImm s ctx d r then .trap (trapGen 0 h)
    else
      let counted := heldWith s ctx d (hIndex h) (hGen h)
      match raiseReaders s ctx counted with
      | none => .trap (trapGen 0 h)
      | some s => .ok (addHold s ctx (hIndex h) (hGen h) counted) .none

/-- The reader count lowered for the context. -/
def actRels (f : SRR) : Act := fun s c _ =>
  let h := sA (coreOf s c) f
  let ctx := ctxOfCore s c
  match slotHandle s c 0 h with
  | .error t => .trap t
  | .ok (d, r) =>
    if !countsImm s ctx d r || readerCount s ctx (hIndex h) (hGen h) = 0 then .trap (trapGen 0 h)
    else
      let counted := relsWith s ctx d (hIndex h) (hGen h)
      .ok (lowerReaders (dropHold s ctx (hIndex h) (hGen h)) ctx counted) .none

/-! ## RCAST (R215) -/

/-- The first invalid event index of the event word of an RCAST (R444). -/
def rcastEvent (s : State) (ctx : Nat) (ev : Word) : Option Nat :=
  [bitsOf ev 15 0, bitsOf ev 31 16].find? fun e => e ≠ 0 && !eventOk s ctx e

/-- The issue of a recast: its checks, then a stall until the home slice has answered (R82). -/
def actRcast (f : SRR) : Act := fun s c at_ =>
  let x := coreOf s c
  let ctx := ctxOfCore s c
  let h := sA x f
  let ev := sD x f
  let t : Terms := ⟨sB x f, rdS x (f.b.toNat + 1), rdS x (f.b.toNat + 2)⟩
  match x.answer with
  | some .accepted => .ok (modCore s c fun x => { x with answer := none, asked := false }) .none
  | some (.refused cause ea) =>
    .trap (if cause = 0x08 then trapGen 0 h else if cause = 0x02 then trapIllegal at_.addr 0 else trapAt cause ea 0 0)
  | none =>
    if x.asked then .stall id
    else match slotHandle s c 0 h with
      | .error t => .trap t
      | .ok (d, _) =>
        if bitsOf ev 63 32 ≠ 0 then .trap (trapIllegal at_.addr 0)
        else match termsBad d (rolesOf s ctx d) t with
          | some cause => .trap (if cause = 0x06 then trapAt 0x09 t.base.toNat 0 0 else trapIllegal at_.addr 0)
          | none => match rcastEvent s ctx ev with
            | some e => .trap (trapOf 0x11 e)
            | none => .stall fun s =>
              { modCore s c (fun x => { x with asked := true }) with
                recastReqs := s.recastReqs ++ [⟨.core c, ctx, h, t.p, t.role, t.base, bitsOf ev 15 0, 1, bitsOf ev 31 16⟩] }

/-! ## Tag table (R216) -/

/-- The key of a handle and an address. -/
def tagKeyOf (ctx : Nat) (h va : Word) : TagKey := ⟨ctx, hIndex h, hGen h, bitsOf va 54 12⟩

/-- The slot that holds a key. -/
def tagFind (k : Cluster) (key : TagKey) : Option Nat := (k.tags.find? fun e => e.2 = key).map (·.1)

/-- A slot number out of the table takes a scratchpad-bounds trap; no address is named (log entry 17). -/
def tagBounds (s : State) : OpRes := .trap (trapAt 0x0A (Config.freeWord s.free).toNat 0 0)

/-- s[d] := the slot of a key, or all ones. -/
def actTaglk (f : SRR) : Act := fun s c _ =>
  let x := coreOf s c
  match slotHandle s c 0 (sA x f) with
  | .error t => .trap t
  | .ok _ =>
    let v := match tagFind (clusterOf s (clusterOfCore c)) (tagKeyOf (ctxOfCore s c) (sA x f) (sB x f)) with
      | some n => BitVec.ofNat 64 n
      | none => BitVec.allOnes 64
    .ok (setS s c 0 3 f.d.toNat v) .none

/-- A key installed in the entry of slot s[d]. -/
def actTagset (f : SRR) : Act := fun s c _ =>
  let x := coreOf s c
  match slotHandle s c 0 (sA x f) with
  | .error t => .trap t
  | .ok _ =>
    if 2048 ≤ (sD x f).toNat then tagBounds s
    else .ok (pushFlight s c 0 1 (.tag (sD x f).toNat (some (tagKeyOf (ctxOfCore s c) (sA x f) (sB x f)))) 1 0 0 64) .none

/-- The entry of slot s[d] invalidated. -/
def actTagclr (f : SRR) : Act := fun s c _ =>
  let n := (sD (coreOf s c) f).toNat
  if 2048 ≤ n then tagBounds s else .ok (pushFlight s c 0 1 (.tag n none) 1 0 0 64) .none

/-- The entry with a key invalidated. -/
def actTagclrK (f : SRR) : Act := fun s c _ =>
  let x := coreOf s c
  match slotHandle s c 0 (sA x f) with
  | .error t => .trap t
  | .ok _ => .ok (pushFlight s c 0 1 (.tagKey (tagKeyOf (ctxOfCore s c) (sA x f) (sB x f))) 1 0 0 64) .none

/-! ## The operations -/

/-- HLD (R213). -/
def execHld (f : SRR) (s : State) : Host.Outcome State Fault Refusal :=
  issueSolo 0 (.hld f) (actHld f) s

/-- HVIEW (R213). -/
def execHview (f : SRR) (s : State) : Host.Outcome State Fault Refusal :=
  issueSolo 0 (.hview f) (actHview f) s

/-- HGEN (R213). -/
def execHgen (f : SRR) (s : State) : Host.Outcome State Fault Refusal :=
  issueSolo 0 (.hgen f) (actHgen f) s

/-- HOLD (R214). -/
def execHold (f : SRR) (s : State) : Host.Outcome State Fault Refusal :=
  issueSolo 0 (.hold f) (actHold f) s

/-- RELS (R214). -/
def execRels (f : SRR) (s : State) : Host.Outcome State Fault Refusal :=
  issueSolo 0 (.rels f) (actRels f) s

/-- RCAST (R215). -/
def execRcast (f : SRR) (s : State) : Host.Outcome State Fault Refusal :=
  issueSolo 0 (.rcast f) (actRcast f) s

/-- TAGLK (R216). -/
def execTaglk (f : SRR) (s : State) : Host.Outcome State Fault Refusal :=
  issueSolo 0 (.taglk f) (actTaglk f) s

/-- TAGSET (R216). -/
def execTagset (f : SRR) (s : State) : Host.Outcome State Fault Refusal :=
  issueSolo 0 (.tagset f) (actTagset f) s

/-- TAGCLR (R216). -/
def execTagclr (f : SRR) (s : State) : Host.Outcome State Fault Refusal :=
  issueSolo 0 (.tagclr f) (actTagclr f) s

/-- TAGCLR_K (R216). -/
def execTagclrK (f : SRR) (s : State) : Host.Outcome State Fault Refusal :=
  issueSolo 0 (.tagclrK f) (actTagclrK f) s

end Sys2Proof.Machine
end

