-- ==== Sys2Proof/Machine/Memory.lean ====
section
/-!
DEFINITION. The S-slot loads and stores (R206 to R209), ACC adds (R211) and appends (R212).
-/
namespace Sys2Proof.Machine

/-! ## Scratchpad and memory by address (R206, R208) -/

/-- A trap of the S slot at an address. -/
def sTrap (cause va : Nat) : OpRes := .trap (trapAt cause va 0 0)

/-- A scratchpad load; alignment is checked first, as R208 has it (log entry 48). -/
def actLdl (f : SRR) : Act := fun s c _ =>
  let va := sAddr (coreOf s c) f
  let n := sSize f
  if va % n ≠ 0 then sTrap 0x09 va
  else if !isSp va || !spBounds va n then sTrap 0x0A va
  else .ok (setS s c 0 4 f.d.toNat (extendLoad (bitOf f.fn 2) n (spNum s (clusterOfCore c) (spOff va) n))) .none

/-- The byte writes of a scratchpad store. -/
def spWrites (k off n v : Nat) : List SpEff := (wholeBytes off n v).map fun w => .write k w.1 w.2.1 w.2.2

/-- A scratchpad store; alignment is checked first (log entry 48). -/
def actStl (f : SRR) : Act := fun s c _ =>
  let va := sAddr (coreOf s c) f
  let n := sSize f
  if va % n ≠ 0 then sTrap 0x09 va
  else if !isSp va || !spBounds va n then sTrap 0x0A va
  else .ok s { Effects.none with sp := spWrites (clusterOfCore c) (spOff va) n (sD (coreOf s c) f).toNat }

/-- A load by address, optionally as a probe (R208). -/
def actLdm (f : SRR) : Act := fun s c _ =>
  let va := sAddr (coreOf s c) f
  let n := sSize f
  let probe := bitOf f.fn 3
  if va % n ≠ 0 then sTrap 0x09 va
  else if isSp va then
    if !spBounds va n then sTrap 0x0A va
    else
      let s1 := setS s c 0 1 f.d.toNat (extendLoad (bitOf f.fn 2) n (spNum s (clusterOfCore c) (spOff va) n))
      .ok (if probe then setP s1 c 0 1 7 true else s1) .none
  else match access s c va .load 0 0 with
    | .error t => if probe && t.cause = 0x07 then .ok (setP s c 0 1 7 false) .none else .trap t
    | .ok x =>
      let key := xlatRead s (ctxOfCore s c) x va
      let s1 := if x.role = 3 then raceRead s c (wholeBits key n) else s
      let r := pendS s1 c f.d.toNat
      if probe then
        let q := pushPending r.2 c 0 (.reg .p 7) 1 1 1
        .ok (enterLoad q.2 c key n (.flight r.1 (bitOf f.fn 2) (some q.1))) .none
      else .ok (enterLoad r.2 c key n (.flight r.1 (bitOf f.fn 2) none)) .none

/-- A store by address (R208). -/
def actStm (f : SRR) : Act := fun s c _ =>
  let va := sAddr (coreOf s c) f
  let n := sSize f
  let v := (sD (coreOf s c) f).toNat
  if va % n ≠ 0 then sTrap 0x09 va
  else if isSp va then
    if !spBounds va n then sTrap 0x0A va
    else .ok s { Effects.none with sp := spWrites (clusterOfCore c) (spOff va) n v }
  else match access s c va .store 0 0 with
    | .error t => .trap t
    | .ok x => .ok (enterStore s c (wholeBytes (xlatHome x va) n v)) .none

/-- The pending result of a value-returning atomic (R209), if it returns one. -/
def amoRet (f : SRR) (s : State) (c : Nat) : Option Ret × State :=
  if bitOf f.fn 1 then
    let r := pendS s c f.d.toNat
    (some ⟨r.1, 0, 64⟩, r.2)
  else (none, s)

/-- One atomic operation (R209). -/
def actAmo (f : SRR) : Act := fun s c _ =>
  let x := coreOf s c
  let va := (sA x f).toNat
  let n := if bitOf f.fn 0 then 8 else 4
  let op := bitsOf f.fn 5 2
  let v := (sB x f).toNat
  let cmp := (sD x f).toNat
  if va % n ≠ 0 then sTrap 0x09 va
  else if isSp va then
    if !spBounds va n then sTrap 0x0A va
    else
      let r := amoRet f s c
      .ok r.2 { Effects.none with sp := [.amo (clusterOfCore c) (spOff va) n op v cmp r.1 c] }
  else match access s c va .atomic 0 0 with
    | .error t => .trap t
    | .ok y =>
      let key := xlatHome y va
      let r := amoRet f (raceRead s c (wholeBits key n)) c
      .ok (enterSq r.2 c (.mem (lineOf key)) (.amo op key n v cmp r.1)) .none

/-! ## ACC adds and appends (R211, R212) -/

/-- One add into an ACC element (R211). -/
def actSacc (f : SRR) : Act := fun s c _ =>
  let x := coreOf s c
  let h := sA x f
  let i := (sB x f).toNat
  let vf := bitsOf f.fn 3 0
  match slotHandle s c 0 h with
  | .error t => .trap t
  | .ok (d, _) =>
    if dCount d ≤ i then .trap (trapOf 0x07 1)
    else if !sameFamily vf (dFmt d) then .trap (trapOf 0x07 0)
    else match accPage s c 0 0 (accVa d i) (hIndex h) (hGen h) (dWgrp d) with
      | .error t => .trap t
      | .ok key => .ok (enterAcc s c h d key vf (lowBits (codeBits vf) (sD x f).toNat)) .none

/-- One append to a stream (R212). -/
def actSapp (f : SRR) : Act := fun s c _ =>
  let x := coreOf s c
  match appendCheck s c 0 (sA x f) 1 with
  | .error t => .trap t
  | .ok (d, t) => match appendPages s c 0 d t.issued [0] with
    | .error e => .trap e
    | .ok ks => .ok (enterAppends s c d t ks [lowBits (codeBits (dFmt d)) (sD x f).toNat]) .none

/-! ## The operations -/

/-- LDL (R206). -/
def execLdl (f : SRR) (s : State) : Host.Outcome State Fault Refusal :=
  issueSolo 0 (.ldl f) (actLdl f) s

/-- STL (R206). -/
def execStl (f : SRR) (s : State) : Host.Outcome State Fault Refusal :=
  issueSolo 0 (.stl f) (actStl f) s

/-- LDM (R208). -/
def execLdm (f : SRR) (s : State) : Host.Outcome State Fault Refusal :=
  issueSolo 0 (.ldm f) (actLdm f) s

/-- STM (R208). -/
def execStm (f : SRR) (s : State) : Host.Outcome State Fault Refusal :=
  issueSolo 0 (.stm f) (actStm f) s

/-- AMO (R209). -/
def execAmo (f : SRR) (s : State) : Host.Outcome State Fault Refusal :=
  issueSolo 0 (.amo f) (actAmo f) s

/-- SACC (R211). -/
def execSacc (f : SRR) (s : State) : Host.Outcome State Fault Refusal :=
  issueSolo 0 (.sacc f) (actSacc f) s

/-- SAPP (R212). -/
def execSapp (f : SRR) (s : State) : Host.Outcome State Fault Refusal :=
  issueSolo 0 (.sapp f) (actSapp f) s

end Sys2Proof.Machine
end

