-- ==== Sys2Proof/Machine/Engine.lean ====
section
/-!
DEFINITION. The C slots (R306 to R330): descriptor pairs, the issue of copy-engine operations, stream heads, byte
barriers and status. What a forked operation does stands in EngineRun.
-/
namespace Sys2Proof.Machine

/-! ## Descriptor pairs (R308, R309) -/

/-- The terms of a descriptor pair. -/
structure CDesc where
  len : Nat
  mask : Nat
  mdie : Nat
  ben : Bool
  bar : Nat
  cmpl : Nat
  evidx : Nat
  cwoff : Nat
  dst : Nat
  src : Nat

/-- The pair that an operation names, checked (R309). -/
def pairOf (s : State) (c : Nat) (y : CSlot) (f : CF) (at_ : Site) : Except Trap CDesc :=
  let x := coreOf s c
  let a := rdE x (isCb y) f.desc.toNat
  let b := rdE x (isCb y) (f.desc.toNat + 1)
  let d : CDesc :=
    { len := bitsOf a 127 96, mask := bitsOf a 255 224, mdie := bitsOf a 218 216, ben := bitOf a 211, bar := bitsOf a 210 208,
      cmpl := bitsOf a 207 206, evidx := bitsOf a 191 176, cwoff := bitsOf a 159 137, dst := bitsOf b 127 64,
      src := bitsOf b 63 0 }
  if bitsOf a 223 219 ≠ 0 || bitsOf a 215 212 ≠ 0 || bitsOf a 205 192 ≠ 0 || bitsOf a 175 160 ≠ 0 || bitsOf a 136 128 ≠ 0
      || bitsOf a 95 0 ≠ 0 || bitsOf b 255 128 ≠ 0 || (d.cmpl % 2 = 1 && d.evidx = 0) || d.cwoff % 8 ≠ 0 then
    .error (trapIllegal at_.addr (cSlotNo y))
  else if d.cmpl % 2 = 1 && !eventOk s (ctxOfCore s c) d.evidx then .error (trapOf 0x11 d.evidx)
  else .ok d

/-! ## Sides (R311, R313) -/

/-- The walk address of an operation (R311). -/
def cWalk (x : Core) (f : CF) : Nat := itAddr (itOf x f.iter.toNat)
/-- A walk address replaces the scratchpad side. -/
def cIw (f : CF) : Bool := bitOf f.opnds 37

/-- Pieces of a span no longer than a 64-byte line. -/
def cutSpan : Nat → Span → List Span
  | 0, _ => []
  | fuel + 1, p =>
    let a := match p.loc with | .sp _ o => o | .mem k => k
    let n := min p.len (64 - a % 64)
    if p.len = 0 then []
    else
      let next := match p.loc with | .sp k o => Loc.sp k (o + n) | .mem k => Loc.mem (k + n)
      ⟨p.off, n, p.loc, p.mask⟩ :: cutSpan fuel ⟨p.off + n, p.len - n, next, p.mask⟩

/-- Spans cut at line bounds. -/
def cutSpans (ps : List Span) : List Span := ps.flatMap fun p => cutSpan (p.len / 64 + 2) p

/-- The pages of a translated side, the lowest faulting address deciding (R313). -/
def sidePages (s : State) (c slot va : Nat) (a : Access) : Nat → Nat → Nat → Except Trap (List Span)
  | 0, _, _ => .ok []
  | fuel + 1, off, n =>
    if n = 0 then .ok []
    else match access s c (va + off) a slot 0 with
      | .error t => .error t
      | .ok x =>
        let k := min n (x.base + x.size - (va + off))
        let key := match a with | .load => xlatRead s (ctxOfCore s c) x (va + off) | _ => xlatHome x (va + off)
        match sidePages s c slot va a fuel (off + k) (n - k) with
        | .error t => .error t
        | .ok ps => .ok (⟨off, k, .mem key, 255⟩ :: ps)

/-- A side of n bytes at an address: in the scratchpad under R172, or translated and checked (R313). -/
def sideOf (s : State) (c slot va n : Nat) (a : Access) : Except Trap (List Span) :=
  if isSp va then
    if spBounds va n then .ok (cutSpans [⟨0, n, .sp (clusterOfCore c) (spOff va), 255⟩]) else .error (trapAt 0x0A va slot 0)
  else match sidePages s c slot va a (n / 2 ^ 16 + 2) 0 n with
    | .error t => .error t
    | .ok ps => .ok (cutSpans ps)

/-- The check of n bytes at a scratchpad address, aligned. -/
def cSpot (va n al slot : Nat) : Option Trap :=
  if !isSp va || !spBounds va n then some (trapAt 0x0A va slot 0)
  else if va % al ≠ 0 then some (trapAt 0x09 va slot 0)
  else none

/-- Two places have a byte in common. -/
def meets (p q : Span) : Bool :=
  match p.loc, q.loc with
  | .sp k a, .sp l b => k = l && a < b + q.len && b < a + p.len
  | .mem a, .mem b => a < b + q.len && b < a + p.len
  | _, _ => false

/-! ## Forking (R312, R341) -/

/-- An operation of a core with its descriptor's terms, before its own fields. -/
def blankOp (s : State) (c : Nat) (k : EngKind) (d : CDesc) (src dst : List Span) : EngOp :=
  { id := s.fresh, core := c, ctx := ctxOfCore s c, kind := k, len := d.len, src := src, dst := dst, readDone := [],
    writeDone := [], whole := src.any fun p => dst.any fun q => meets p q, buf := [], head := none, cmpl := d.cmpl,
    evidx := d.evidx, cwoff := d.cwoff, ben := d.ben, bar := d.bar, tag := none, chan := 0, round := 0, endpoint := 0,
    tileBytes := 0, sent := [], tiles := [], result := 0, cont := false, desc := 0, first := 0, accs := [], handle := 0, fail := none,
    written := 0, flags := 0, byHandler := (coreOf s c).shadow.isSome, orphan := false }

/-- A span stands on a package that no route reaches. -/
def lostSpan (s : State) (p : Span) : Bool := match p.loc with | .mem key => lostKey s key | .sp _ _ => false

/-- An operation that cannot reach a package that it reads, writes, adds to or sends to, as it completes: with `FAIL` and cause 0x11
(R380); it moves no byte, so it changes no tag entry (R317). -/
def cutLost (s : State) (o : EngOp) : EngOp :=
  let sendsAway := o.kind = .csend && (chEndpoints s (chEntry s o.ctx o.chan)).any fun e => !reaches s (epPkg e)
  if o.src.any (lostSpan s) || o.dst.any (lostSpan s) || (o.accs.any fun a => lostKey s a.addr) || sendsAway then
    { o with fail := some 0x11, len := 0, src := [], dst := [], readDone := [], writeDone := [], sent := [], accs := [], tag := none }
  else o

/-- The state with an operation forked: its identity taken, its races noted. -/
def addOp (s : State) (o : EngOp) : State :=
  let o := cutLost s o
  let us := otherUnits s noCore
  let src := spanBits o.src []
  let dst := spanBits o.dst []
  let s := raceKernel (raceWith s o.ctx src false us) o.core (src.map (·.1)) false
  let s := raceCasts (raceKernel (raceWith s o.ctx dst true us) o.core (dst.map (·.1)) true) o.core (dst.map (·.1))
  modCluster (freshId s).2 (clusterOfCore o.core) fun k => { k with engine := k.engine ++ [o] }

/-- An operation forks, or the issue stalls while the engine is full (R312). -/
def fork (s : State) (o : EngOp) : OpRes :=
  if 16 ≤ enginePlaces s (clusterOfCore o.core) then .stall fun s => awaitEngine s o.core else .ok (addOp s o) .none

/-- `ADV` (R310): the sides that advance by n, landing after 1 issue cycle. -/
def advance (s : State) (c : Nat) (y : CSlot) (f : CF) (n : Nat) (src dst : Bool) : State :=
  if bitOf f.opnds 36 && (src || dst) then
    let r := rdE (coreOf s c) (isCb y) (f.desc.toNat + 1)
    let word (on : Bool) (hi lo : Nat) : Nat × Nat :=
      if on then (ones 64 <<< lo, ((bitsOf r hi lo + n) % 2 ^ 64) <<< lo) else (0, 0)
    let a := word src 63 0
    let b := word dst 127 64
    pushFlight s c (cSlotNo y) 1 (.reg (if isCb y then .eb else .ea) (f.desc.toNat + 1)) (a.1 ||| b.1) (a.2 ||| b.2) 0 64
  else s

/-! ## Head allocation (R316, R320) -/

/-- The first entry that a new allocation of a head takes. -/
def nextEntry (y : Head) : Nat :=
  match y.allocs.getLast? with
  | some a => (a.first + a.count) % 2 ^ 32
  | none => y.pptr.toNat

/-- The buffer places of n entries from one, as spans of a stream. -/
def entrySpans (c : Nat) (y : Head) (first n : Nat) : List Span :=
  cutSpans ((List.range n).map fun j =>
    ⟨j * y.ew, y.ew, .sp (clusterOfCore c) (spOff y.base + y.ew * ((first + j) % 2 ^ 32 % max y.nent 1)), 255⟩)

/-- The state with entries of a head allocated to an operation. -/
def allocHead (s : State) (c h op n : Nat) : State :=
  modCore s c fun x =>
    let y := headOf x h
    setHead x h { y with allocs := y.allocs ++ [⟨op, nextEntry y, n, []⟩] }

/-- The head of an operation. -/
def cHead (f : CF) : Nat := bitsOf f.opnds 35 33
/-- The destination is a head. -/
def toHead (f : CF) : Bool := bitOf f.opnds 32

/-! ## Copies and slots (R316, R317) -/

/-- A copy of `LEN` bytes, or into a head. -/
def actCopy (y : CSlot) (f : CF) : Act := fun s c at_ =>
  let slot := cSlotNo y
  match pairOf s c y f at_ with
  | .error t => .trap t
  | .ok d => match sideOf s c slot d.src d.len .load with
    | .error t => .trap t
    | .ok src =>
      if toHead f then
        let h := cHead f
        let q := headOf (coreOf s c) h
        if !q.bound || q.src ≠ .copy || d.len % max q.ew 1 ≠ 0 || q.nent < d.len / max q.ew 1 then .trap (trapOf 0x0D h)
        else
          let n := d.len / q.ew
          let o := { blankOp s c .copy d src (entrySpans c q (nextEntry q) n) with head := some h }
          if 16 ≤ enginePlaces s (clusterOfCore c) then .stall id
          else .ok (advance (allocHead (addOp s o) c h o.id n) c y f d.len (!isSp d.src) false) .none
      else
        let dva := if cIw f then cWalk (coreOf s c) f else d.dst
        match (if cIw f then cSpot dva d.len 1 slot else none) with
        | some t => .trap t
        | none => match sideOf s c slot dva d.len .store with
          | .error t => .trap t
          | .ok dst => fork (advance s c y f d.len (!isSp d.src) (!cIw f && !isSp d.dst)) (blankOp s c .copy d src dst)

/-- A 4 KiB page prefetched into a slot. -/
def actCprf (y : CSlot) (f : CF) : Act := fun s c at_ =>
  let slot := cSlotNo y
  let wa := cWalk (coreOf s c) f
  match pairOf s c y f at_ with
  | .error t => .trap t
  | .ok d =>
    if d.len ≠ 4096 then .trap (trapIllegal at_.addr slot)
    else if d.src % 4096 ≠ 0 then .trap (trapAt 0x09 d.src slot 0)
    else match cSpot wa 4096 4096 slot with
    | some t => .trap t
    | none => match sideOf s c slot d.src 4096 .load with
      | .error t => .trap t
      | .ok src =>
        let h := BitVec.ofNat 64 d.dst
        if bitOf f.opnds 0 && (openHandle s (ctxOfCore s c) h).isNone then .trap (trapGen slot h)
        else
          let tag := if bitOf f.opnds 0 then some (spOff wa / 4096, some (tagKeyOf (ctxOfCore s c) h (BitVec.ofNat 64 d.src))) else none
          fork (advance s c y f 4096 (!isSp d.src) false)
            { blankOp s c .cprf d src (cutSpans [⟨0, 4096, .sp (clusterOfCore c) (spOff wa), 255⟩]) with tag := tag }

/-- A 4 KiB slot written back. -/
def actCwb (y : CSlot) (f : CF) : Act := fun s c at_ =>
  let slot := cSlotNo y
  let wa := cWalk (coreOf s c) f
  match pairOf s c y f at_ with
  | .error t => .trap t
  | .ok d =>
    if d.len ≠ 4096 then .trap (trapIllegal at_.addr slot)
    else if d.dst % 4096 ≠ 0 then .trap (trapAt 0x09 d.dst slot 0)
    else match cSpot wa 4096 4096 slot with
    | some t => .trap t
    | none => match sideOf s c slot d.dst 4096 .store with
      | .error t => .trap t
      | .ok dst =>
        fork (advance s c y f 4096 false (!isSp d.dst))
          { blankOp s c .cwb d (cutSpans [⟨0, 4096, .sp (clusterOfCore c) (spOff wa), 255⟩]) dst with
            tag := if bitOf f.opnds 0 then some (spOff wa / 4096, none) else none }

/-! ## Stream heads (R318 to R322) -/

/-- A head without its binding; the elements fetched into it count as consumed (R319). -/
def unbindHead (s : State) (c h : Nat) : State :=
  let y := headOf (coreOf s c) h
  let s := if y.bound && y.src = .str && (headSupply s c y).stream then
      let t := recOf s (ctxOfCore s c) (hIndex y.srcv) (hGen y.srcv)
      putRec s { t with consumed := t.fetched }
    else s
  modCore s c fun x => setHead x h .unbound

/-- An operation that fills a head has not completed. -/
def headFilling (s : State) (c h : Nat) : Bool :=
  (clusterOf s (clusterOfCore c)).engine.any fun o => o.core = c && o.head = some h

/-- The check of the buffer of a binding (R319). -/
def bufferCheck (base n ew : Nat) (at_ : Site) (slot : Nat) : Option Trap :=
  if !isSp base || !spBounds base 0 || base % ew ≠ 0 then some (trapAt 0x09 base slot 0)
  else if n = 0 || n % ew ≠ 0 || 65536 < n / ew then some (trapIllegal at_.addr slot)
  else if !spBounds base n then some (trapAt 0x0A base slot 0)
  else none

/-- The source of a binding checked (R319): the record of an STR tensor, which takes the core as its consumer; a tensor of IMM pages
or of own OWN pages admits heads as R71 gives. -/
def sourceCheck (s : State) (c : Nat) (y : CSlot) (f : CF) (kind : Nat) (d : CDesc) (at_ : Site) : Except Trap (Option TensorRec) :=
  let slot := cSlotNo y
  match kind with
  | 1 =>
    let h := BitVec.ofNat 64 d.src
    match slotHandle s c slot h with
    | .error t => .error t
    | .ok (e, _) => match access s c (dBase e) .consume slot 0 with
      | .error t => .error t
      | .ok _ =>
        let t := recOf s (ctxOfCore s c) (hIndex h) (hGen h)
        if dMixed e || dRole e = 2 || (dRole e = 1 && t.consumer.isSome && t.consumer ≠ some c) then .error (trapOf 0x07 (slot * 256))
        else .ok (if dRole e = 1 then some t else none)
  | 3 =>
    let e := chEntry s (ctxOfCore s c) f.chan.toNat
    if d.src ≠ 0 then .error (trapIllegal at_.addr slot)
    else if chBad s e || (chIndex s e c).isNone then .error (trapOf 0x12 f.chan.toNat)
    else .ok none
  | _ => if d.src ≠ 0 then .error (trapIllegal at_.addr slot) else .ok none

/-- A head bound or unbound. -/
def actSbind (y : CSlot) (f : CF) : Act := fun s c at_ =>
  let h := cHead f
  if bitOf f.opnds 27 then (if headFilling s c h then .stall id else .ok (unbindHead s c h) .none)
  else match pairOf s c y f at_ with
    | .error t => .trap t
    | .ok d =>
      let kind := bitsOf f.opnds 31 30
      let ew := 32 * 2 ^ bitsOf f.opnds 29 28
      match bufferCheck d.dst d.len ew at_ (cSlotNo y) with
      | some t => .trap t
      | none => match sourceCheck s c y f kind d at_ with
        | .error t => .trap t
        | .ok r =>
          if headFilling s c h then .stall id
          else
            let s := unbindHead s c h
            let s := match r with
              | some t => putRec s { recOf s t.ctx t.index t.gen with consumer := some c }
              | none => s
            let src : HeadSrc := match kind with | 1 => .str | 2 => .copy | 3 => .channel | _ => .software
            let srcv := if kind = 1 then BitVec.ofNat 64 d.src else if kind = 3 then BitVec.ofNat 64 f.chan.toNat else 0
            .ok (modCore s c fun x => setHead x h ⟨true, d.dst, d.len / ew, ew, src, srcv, 0, 0, 0, []⟩) .none

/-- The count of SADV, SWTF and SWTE. -/
def cCount (f : CF) : Nat := bitsOf f.opnds 15 0

/-- A head's producer or consumer count advances at the end of the repetition (R321). -/
def actSadv (_ : CSlot) (f : CF) : Act := fun s c _ =>
  let h := cHead f
  let q := headOf (coreOf s c) h
  let n := cCount f
  let prod := bitOf f.opnds 31
  if !q.bound || n = 0 || q.nent < n || (prod && q.src ≠ .software) then .trap (trapOf 0x0D h)
  else if prod then (if headFree q < n then .stall id else .ok s { Effects.none with sadv := [(h, true, n)] })
  else if headFill q < n then (if headFill q = 0 && headEnd s c h then .trap (trapOf 0x0D h) else .stall id)
  else .ok s { Effects.none with sadv := [(h, false, n)] }

/-- A wait for a fill. -/
def actSwtf (_ : CSlot) (f : CF) : Act := fun s c _ =>
  let h := cHead f
  let q := headOf (coreOf s c) h
  let n := cCount f
  if n = 0 then .ok s .none
  else if !q.bound || q.nent < n then .trap (trapOf 0x0D h)
  else if n ≤ headFill q then .ok s .none
  else if headEnd s c h then .trap (trapOf 0x0D h)
  else .stall id

/-- A wait for a free count. -/
def actSwte (_ : CSlot) (f : CF) : Act := fun s c _ =>
  let h := cHead f
  let q := headOf (coreOf s c) h
  if cCount f = 0 then .ok s .none
  else if !q.bound || q.nent < cCount f then .trap (trapOf 0x0D h)
  else if cCount f ≤ headFree q then .ok s .none
  else .stall id

/-- An STR tensor closes (R323). -/
def actSclose (y : CSlot) (f : CF) : Act := fun s c at_ =>
  match pairOf s c y f at_ with
  | .error t => .trap t
  | .ok d =>
    let h := BitVec.ofNat 64 d.src
    match slotHandle s c (cSlotNo y) h with
    | .error t => .trap t
    | .ok (e, _) =>
      let t := recOf s (ctxOfCore s c) (hIndex h) (hGen h)
      if dMixed e || dRole e ≠ 1 || t.closing || t.producer ≠ some c then .trap (trapOf 0x07 (cSlotNo y * 256))
      else fork (putRec s { t with closing := true }) { blankOp s c .sclose d [] [] with handle := h }

/-! ## Multicast and barriers (R324 to R326) -/

/-- The clusters that `MASK` selects. -/
def receivers (d : CDesc) : List Nat := ((List.range 32).filter fun j => d.mask.testBit j).map fun j => 32 * d.mdie + j

/-- A multicast into the scratchpads of selected clusters. -/
def actMcast (y : CSlot) (f : CF) : Act := fun s c at_ =>
  let slot := cSlotNo y
  match pairOf s c y f at_ with
  | .error t => .trap t
  | .ok d =>
    let dva := if cIw f then cWalk (coreOf s c) f else d.dst
    if d.mask = 0 then .trap (trapIllegal at_.addr slot)
    else match cSpot dva d.len 1 slot with
      | some t => .trap t
      | none => match sideOf s c slot d.src d.len .load with
        | .error t => .trap t
        | .ok src =>
          let dst := cutSpans ((receivers d).map fun k => ⟨0, d.len, .sp k (spOff dva), 255⟩)
          fork s (blankOp s c .mcast d src dst)

/-- A barrier armed. -/
def actCarm (y : CSlot) (f : CF) : Act := fun s c at_ =>
  match pairOf s c y f at_ with
  | .error t => .trap t
  | .ok d => .ok (pushFlight s c (cSlotNo y) 1 (.barrier (bitsOf f.opnds 2 0) (bitOf f.opnds 31)) (ones 48) (d.dst % 2 ^ 48) 0 0) .none

/-- A wait on a barrier, a completion word or every engine operation of the core. -/
def actCwait (y : CSlot) (f : CF) : Act := fun s c _ =>
  let k := clusterOf s (clusterOfCore c)
  match bitsOf f.opnds 31 30 with
  | 0 => if (k.barriers[bitsOf f.opnds 2 0]?.getD ⟨0, false⟩).count.toInt ≤ 0 then .ok s .none else .stall id
  | 1 =>
    let wa := cWalk (coreOf s c) f
    match cSpot wa 8 1 (cSlotNo y) with
    | some t => .trap t
    | none => if (spNum s (clusterOfCore c) (spOff wa) 8).testBit 63 then .ok s .none else .stall id
  | _ => if k.engine.any fun o => o.core = c then .stall id else .ok s .none

/-! ## Channels (R327) -/

/-- The channel of a transfer checked: its entry and the core's endpoint. -/
def chanCheck (s : State) (c : Nat) (f : CF) (len : Nat) (recv : Bool) : Except Trap (BitVec 512 × Nat) :=
  let e := chEntry s (ctxOfCore s c) f.chan.toNat
  let bad := trapOf 0x12 f.chan.toNat
  if chBad s e || len % chTile e ≠ 0 then .error bad
  else match chIndex s e c with
    | none => .error bad
    | some i => if (if recv then chReceives e i else chSends e i) then .ok (e, i) else .error bad

/-- Free elements of a tile (R387; log entry 15). -/
def freeElems (s : State) (e : BitVec 512) (t : Nat) : List Nat :=
  (List.range (chElems e)).map fun k => (Config.freeWord (s.free + 4096 * t + k)).toNat % 2 ^ codeBits (chFmt e)

/-- The mailboxes to which a contribution of endpoint j for tile t goes first: its own in a narrow combining channel, else those of the
receivers (R387). -/
def firstBoxes (e : BitVec 512) (j t : Nat) : List Nat :=
  if chCombines e && !chWide e then [j] else tileReceivers e t

/-- The contribution of an endpoint of another package for a tile: its elements are free values, and whether its package holds the same
entry is free too (R384; log entry 15). -/
def remoteTile (s : State) (ctx ch : Nat) (e : BitVec 512) (round t j to_ : Nat) : ChanTile :=
  { ctx := ctx, chan := ch, round := round, tile := t, origin := j, to_ := to_, count := 1, moving := true, complete := false
    sig := if Config.freeBit (s.free + j) then [] else chSig s e
    elems := freeElems s e (t * chCount e + j), oor := List.replicate (chElems e) false, flags := 0, senders := [] }

/-- The endpoints of other packages that contribute to a channel. -/
def remoteSenders (s : State) (e : BitVec 512) : List Nat :=
  (List.range (chCount e)).filter fun j => (chLocal s e j).isNone && chSends e j

/-- The tiles of a round for which other packages' contributions are under way. -/
def roundTiles (s : State) (ctx ch round : Nat) : Nat :=
  match s.chanRounds.find? fun r => r.ctx = ctx && r.chan = ch && r.round = round with
  | some r => r.tiles
  | none => 0

/-- A transfer of a round whose contributions have nt tiles is issued: the other packages' contributions to those of its tiles that have
none yet are on their way, one contribution of an endpoint for all receivers (R390). In a channel whose first mailbox is a receiver's, only
those to this package are tiles of this machine. -/
def addRemote (s : State) (c ch : Nat) (e : BitVec 512) (round nt : Nat) : State :=
  let ctx := ctxOfCore s c
  let old := roundTiles s ctx ch round
  let new := ((List.range nt).drop old).flatMap fun t => (remoteSenders s e).flatMap fun j =>
    ((firstBoxes e j t).filter fun r => (chCombines e && !chWide e) || (chLocal s e r).isSome).map fun r => remoteTile s ctx ch e round t j r
  let other (r : ChanRound) : Bool := !(r.ctx = ctx && r.chan = ch && r.round = round)
  { s with chanTiles := s.chanTiles ++ new, free := s.free + 4096 * (nt + 1) * (chCount e + 1)
           chanRounds := s.chanRounds.filter other ++ [⟨ctx, ch, round, max old nt⟩] }

/-- Bytes sent on a channel. -/
def actCsend (y : CSlot) (f : CF) : Act := fun s c at_ =>
  let slot := cSlotNo y
  match pairOf s c y f at_ with
  | .error t => .trap t
  | .ok d => match chanCheck s c f d.len false with
    | .error t => .trap t
    | .ok (e, i) =>
      let sva := if cIw f then cWalk (coreOf s c) f else d.src
      match (if cIw f then cSpot sva d.len 1 slot else none) with
      | some t => .trap t
      | none => match sideOf s c slot sva d.len .load with
        | .error t => .trap t
        | .ok src =>
          if 16 ≤ enginePlaces s (clusterOfCore c) then .stall id
          else
            let r := nextTransfer s (ctxOfCore s c) f.chan.toNat i false
            let o := { blankOp r.2 c .csend d src [] with
              chan := f.chan.toNat, round := r.1, endpoint := i, tileBytes := chTile e }
            let s := addRemote (addOp r.2 o) c f.chan.toNat e r.1 (d.len / chTile e)
            .ok (advance s c y f d.len (!cIw f && !isSp d.src) false) .none

/-- The tensor of a context whose holding area contains an address, on an element of it (R69, R442): the first in the order of the
table. -/
def accTensor (s : State) (ctx va : Nat) : Option (Nat × BitVec 512) :=
  ((validDescs s ctx).map fun i => (i, descOf s ctx i)).find? fun q =>
    (dMixed q.2 || dRole q.2 = 2) && inHolding q.2 va (holdSize q.2)

/-- A CRECV into an ACC tensor (R71): an add of each element of n, at consecutive holding elements from an address; the lowest
faulting one decides. -/
def accAdds (s : State) (c slot fmt : Nat) (q : Nat × BitVec 512) (va : Nat) : Nat → Except Trap (List AccAdd)
  | 0 => .ok []
  | n + 1 =>
    let h := holdSize q.2
    let ea := va + n * h
    let gen := df q.2 95 64
    match accAdds s c slot fmt q va n with
    | .error t => .error t
    | .ok as =>
      if !inHolding q.2 ea h then .error (trapAt 0x07 ea slot 0)
      else match accPage s c slot 0 ea q.1 gen (dWgrp q.2) with
        | .error t => .error t
        | .ok key => .ok (as ++ [⟨ctxOfCore s c, q.1, gen, key, dComb q.2, dFmt q.2, dElo q.2, fmt, 0,
            stagesIn s c q.1 gen, none, (coreOf s c).shadow.isSome⟩])

/-- The destination of a CRECV in translated memory or the scratchpad (R313, R71): a place for each byte of its stream, or the adds of
its elements. -/
def recvDst (s : State) (c slot va len fmt : Nat) : Except Trap (List Span × List AccAdd) :=
  let acc := if isSp va then none else
    match translate s (clusterOfCore c) (ctxOfCore s c) va with
    | some x => if x.role = 2 then accTensor s (ctxOfCore s c) va else none
    | none => none
  match acc with
  | some q =>
    if !sameFamily fmt (dFmt q.2) then .error (trapAt 0x07 va slot 0)
    else match accAdds s c slot fmt q va (8 * len / max 1 (codeBits fmt)) with
      | .error t => .error t
      | .ok as => .ok ([], as)
  | none => match sideOf s c slot va len .store with
    | .error t => .error t
    | .ok ps => .ok (ps, [])

/-- Combined bytes of a channel received. -/
def actCrecv (y : CSlot) (f : CF) : Act := fun s c at_ =>
  let slot := cSlotNo y
  match pairOf s c y f at_ with
  | .error t => .trap t
  | .ok d => match chanCheck s c f d.len true with
    | .error t => .trap t
    | .ok (e, i) =>
      let h := cHead f
      let q := headOf (coreOf s c) h
      let dva := if cIw f then cWalk (coreOf s c) f else d.dst
      let dst : Except Trap (List Span × List AccAdd) :=
        if toHead f then
          if !q.bound || q.src ≠ .channel || q.srcv.toNat ≠ f.chan.toNat then .error (trapOf 0x0D h)
          else if chTile e % q.ew ≠ 0 then .error (trapOf 0x12 f.chan.toNat)
          else .ok (entrySpans c q (nextEntry q) (d.len / q.ew), [])
        else match (if cIw f then cSpot dva d.len 1 slot else none) with
          | some t => .error t
          | none => recvDst s c slot dva d.len (chFmt e)
      match dst with
      | .error t => .trap t
      | .ok dst =>
        if 16 ≤ enginePlaces s (clusterOfCore c) then .stall id
        else
          let r := nextTransfer s (ctxOfCore s c) f.chan.toNat i true
          let o := { blankOp r.2 c .crecv d [] dst.1 with
            accs := dst.2.map fun a => { a with array := some r.2.fresh }
            chan := f.chan.toNat, round := r.1, endpoint := i, tileBytes := chTile e, head := if toHead f then some h else none }
          let s := addOp r.2 o
          let s := if toHead f then allocHead s c h o.id (d.len / q.ew) else s
          let s := addRemote s c f.chan.toNat e r.1 (contributionTiles e i (d.len / chTile e))
          .ok (advance s c y f d.len false (!toHead f && !cIw f && !isSp d.dst)) .none

/-! ## Checksums (R328) -/

/-- Of two traps, the one at the lower address (R313). -/
def lowerTrap (t u : Trap) : Trap := if u.addr < t.addr then u else t

/-- The bits of its byte that an element takes (R348). -/
def tensorMask (d : BitVec 512) (i : Nat) : Nat :=
  let b := codeBits (dFmt d)
  if b < 8 then ones b <<< (elemBit d i % 8).toNat else 255

/-- The places of elements of a tensor, one span each, checked as plain loads; the lowest faulting address decides (R313). -/
def elemSpans (s : State) (c slot : Nat) (d : BitVec 512) (first : Nat) : Nat → Except Trap (List Span)
  | 0 => .ok []
  | n + 1 =>
    let b := max 1 (codeBits (dFmt d) / 8)
    match elemSpans s c slot d first n, sideOf s c slot (elemVa d (first + n)) b .load with
    | .error t, .error u => .error (lowerTrap t u)
    | .error t, _ => .error t
    | _, .error u => .error u
    | .ok ps, .ok qs => .ok (ps ++ qs.map fun q => { q with off := n * b + q.off, mask := tensorMask d (first + n) })

/-- The CRC-64 of a tensor span. -/
def actChks (y : CSlot) (f : CF) : Act := fun s c at_ =>
  let slot := cSlotNo y
  let wa := cWalk (coreOf s c) f
  match pairOf s c y f at_ with
  | .error t => .trap t
  | .ok d =>
    let h := BitVec.ofNat 64 d.src
    match slotHandle s c slot h with
    | .error t => .trap t
    | .ok (e, _) =>
      match cSpot wa 8 8 slot with
      | some t => .trap t
      | none =>
        if (!dMixed e && (dRole e = 1 || dRole e = 2)) || dFmt e = 13 then .trap (trapOf 0x07 (slot * 256))
        else if dCount e < d.dst + d.len then .trap (trapOf 0x07 1)
        else match elemSpans s c slot e d.dst d.len with
          | .error t => .trap t
          | .ok src =>
            fork s { blankOp s c .chks d src [] with
              result := spOff wa, cont := bitOf f.opnds 0, desc := e, first := d.dst }

/-! ## Status and descriptor transfers (R329, R330) -/

/-- The record of a head. -/
def headRecord (s : State) (c h : Nat) : Nat :=
  let y := headOf (coreOf s c) h
  let closed := y.src = .str && (recOf s (ctxOfCore s c) (hIndex y.srcv) (hGen y.srcv)).closed
  let ew := if y.ew = 128 then 2 else if y.ew = 64 then 1 else 0
  let src := match y.src with | .software => 0 | .str => 1 | .copy => 2 | .channel => 3
  y.srcv.toNat * 2 ^ 192 + y.pptr.toNat * 2 ^ 160 + y.cptr.toNat * 2 ^ 128 + (y.nent - 1) % 2 ^ 16 * 2 ^ 112
    + y.tailb % 2 ^ 8 * 2 ^ 104 + b2n (y.bound && headEnd s c h) * 2 ^ 103 + b2n (y.bound && closed) * 2 ^ 102
    + b2n y.bound * 2 ^ 101 + ew * 2 ^ 98 + src * 2 ^ 96 + y.base % 2 ^ 56

/-- The record of four barriers from one. -/
def barrierRecord (k : Cluster) (first : Nat) : Nat :=
  packFields 64 ((List.range 4).map fun j =>
    let b := k.barriers[first + j]?.getD ⟨0, false⟩
    b2n b.below * 2 ^ 63 + b.count.toNat)

/-- The record of the engine. -/
def engineRecord (s : State) (k : Nat) : Nat :=
  let y := clusterOf s k
  packFields 8 [y.engine.length, y.waitEngine.count (2 * k), y.waitEngine.count (2 * k + 1), strHeads s k]

/-- A snapshot at the walk address. -/
def actCstat (y : CSlot) (f : CF) : Act := fun s c _ =>
  let wa := cWalk (coreOf s c) f
  let k := clusterOfCore c
  match cSpot wa 32 32 (cSlotNo y) with
  | some t => .trap t
  | none =>
    let v := match bitsOf f.opnds 31 29 with
      | 0 => headRecord s c (cHead f)
      | 1 => barrierRecord (clusterOf s k) 0
      | 2 => barrierRecord (clusterOf s k) 4
      | _ => engineRecord s k
    .ok s { Effects.none with sp := spWrites k (spOff wa) 32 v }

/-- One descriptor register loaded or stored. -/
def actCdesc (y : CSlot) (f : CF) : Act := fun s c _ =>
  let wa := cWalk (coreOf s c) f
  match cSpot wa 32 32 (cSlotNo y) with
  | some t => .trap t
  | none =>
    if bitOf f.opnds 0 then
      .ok s { Effects.none with sp := spWrites (clusterOfCore c) (spOff wa) 32 (rdE (coreOf s c) (isCb y) f.desc.toNat).toNat }
    else
      .ok (pushFlight s c (cSlotNo y) 5 (.reg (if isCb y then .eb else .ea) f.desc.toNat) (ones 256)
        (spNum s (clusterOfCore c) (spOff wa) 32) 0 256) .none

/-- The slot clears. -/
def actCnop (_ : CSlot) : Act := fun s _ _ => .ok s .none

/-! ## The operations -/

/-- COPY (R316). -/
def execCopy (x : CSlot) (f : CF) (s : State) : Host.Outcome State Fault Refusal :=
  issueSolo (cSlotNo x) (.copy x f) (actCopy x f) s

/-- CPRF (R317). -/
def execCprf (x : CSlot) (f : CF) (s : State) : Host.Outcome State Fault Refusal :=
  issueSolo (cSlotNo x) (.cprf x f) (actCprf x f) s

/-- CWB (R317). -/
def execCwb (x : CSlot) (f : CF) (s : State) : Host.Outcome State Fault Refusal :=
  issueSolo (cSlotNo x) (.cwb x f) (actCwb x f) s

/-- SBIND (R319). -/
def execSbind (x : CSlot) (f : CF) (s : State) : Host.Outcome State Fault Refusal :=
  issueSolo (cSlotNo x) (.sbind x f) (actSbind x f) s

/-- SADV (R321). -/
def execSadv (x : CSlot) (f : CF) (s : State) : Host.Outcome State Fault Refusal :=
  issueSolo (cSlotNo x) (.sadv x f) (actSadv x f) s

/-- SWTF (R321). -/
def execSwtf (x : CSlot) (f : CF) (s : State) : Host.Outcome State Fault Refusal :=
  issueSolo (cSlotNo x) (.swtf x f) (actSwtf x f) s

/-- SWTE (R321). -/
def execSwte (x : CSlot) (f : CF) (s : State) : Host.Outcome State Fault Refusal :=
  issueSolo (cSlotNo x) (.swte x f) (actSwte x f) s

/-- SCLOSE (R323). -/
def execSclose (x : CSlot) (f : CF) (s : State) : Host.Outcome State Fault Refusal :=
  issueSolo (cSlotNo x) (.sclose x f) (actSclose x f) s

/-- MCAST (R325). -/
def execMcast (x : CSlot) (f : CF) (s : State) : Host.Outcome State Fault Refusal :=
  issueSolo (cSlotNo x) (.mcast x f) (actMcast x f) s

/-- CARM (R326). -/
def execCarm (x : CSlot) (f : CF) (s : State) : Host.Outcome State Fault Refusal :=
  issueSolo (cSlotNo x) (.carm x f) (actCarm x f) s

/-- CWAIT (R326). -/
def execCwait (x : CSlot) (f : CF) (s : State) : Host.Outcome State Fault Refusal :=
  issueSolo (cSlotNo x) (.cwait x f) (actCwait x f) s

/-- CSEND (R327). -/
def execCsend (x : CSlot) (f : CF) (s : State) : Host.Outcome State Fault Refusal :=
  issueSolo (cSlotNo x) (.csend x f) (actCsend x f) s

/-- CRECV (R327). -/
def execCrecv (x : CSlot) (f : CF) (s : State) : Host.Outcome State Fault Refusal :=
  issueSolo (cSlotNo x) (.crecv x f) (actCrecv x f) s

/-- CHKS (R328). -/
def execChks (x : CSlot) (f : CF) (s : State) : Host.Outcome State Fault Refusal :=
  issueSolo (cSlotNo x) (.chks x f) (actChks x f) s

/-- CSTAT (R329). -/
def execCstat (x : CSlot) (f : CF) (s : State) : Host.Outcome State Fault Refusal :=
  issueSolo (cSlotNo x) (.cstat x f) (actCstat x f) s

/-- CDESC (R330). -/
def execCdesc (x : CSlot) (f : CF) (s : State) : Host.Outcome State Fault Refusal :=
  issueSolo (cSlotNo x) (.cdesc x f) (actCdesc x f) s

/-- CNOP (R187). -/
def execCnop (x : CSlot) (s : State) : Host.Outcome State Fault Refusal :=
  issueSolo (cSlotNo x) (.cnop x) (actCnop x) s

end Sys2Proof.Machine
end

