-- ==== Sys2Proof/Machine/EngineRun.lean ====
section
/-!
DEFINITION. What forked engine operations do (R314, R315, R320, R324, R341), the filling of heads from STR tensors (R340),
and the tiles of channels (R387 to R390).
-/
namespace Sys2Proof.Machine

/-! ## Operations of an engine -/

/-- An operation of a cluster's engine by its identity. -/
def engFind (s : State) (k id : Nat) : Option EngOp := (clusterOf s k).engine.find? fun o => o.id = id

/-- The state with an engine operation replaced. -/
def engSet (s : State) (k : Nat) (o : EngOp) : State :=
  modCluster s k fun y => { y with engine := y.engine.map fun p => if p.id = o.id then o else p }

/-- Byte of an operation's stream. -/
def bufByte (o : EngOp) (i : Nat) : BitVec 8 := sget 0#8 o.buf i
/-- n bytes of an operation's stream. -/
def bufNum (o : EngOp) (i n : Nat) : Nat := memNum o.buf i n

/-- Every byte of a range of the stream has been read. -/
def streamed (o : EngOp) (lo n : Nat) : Bool :=
  (List.range o.src.length).all fun j => match o.src[j]? with
    | some p => o.readDone.contains j || p.off + p.len ≤ lo || lo + n ≤ p.off
    | none => true

/-- The contents of a line as a thread reads it. -/
def spanNum (s : State) (ctx : Nat) (p : Span) : Nat :=
  match p.loc with
  | .sp k o => spNum s k o p.len
  | .mem key => seenNum s ctx key p.len

/-! ## Barriers (R324) -/

/-- A barrier lowered by n bytes. -/
def lowerBarrier (s : State) (k b n : Nat) : State :=
  modCluster s k fun y =>
    let old := y.barriers[b]?.getD ⟨0, false⟩
    let v := old.count - BitVec.ofNat 48 n
    { y with barriers := y.barriers.setIfInBounds b ⟨v, old.below || decide (v.toInt < 0)⟩ }

/-- Bytes written into a scratchpad by an operation, and counted. -/
def engSp (s : State) (o : EngOp) (k off n v : Nat) : State :=
  let s := spPut s k off n v
  if o.ben then lowerBarrier s k o.bar n else s

/-- A cluster runs a task of a context (R325). -/
def runsContext (s : State) (k ctx : Nat) : Bool :=
  [2 * k, 2 * k + 1].any fun c => match (coreOf s c).task with | some t => t.ctx = ctx | none => false

/-! ## Heads (R318, R320) -/

/-- `PPTR` moved past the entries that are written with every entry before them. -/
def headAdvance : Nat → Head → Head
  | 0, y => y
  | fuel + 1, y => match y.allocs with
    | [] => y
    | a :: r =>
      let i := (y.pptr.toNat + 2 ^ 32 - a.first) % 2 ^ 32
      if a.count ≤ i then headAdvance fuel { y with allocs := r }
      else if a.written.contains i then headAdvance fuel { y with pptr := y.pptr + 1 }
      else y

/-- Steps enough for every allocated entry. -/
def headFuel (y : Head) : Nat := y.allocs.length + (y.allocs.map (·.count)).sum + 1

/-- The head that an operation fills. -/
def opHead (s : State) (o : EngOp) (h : Nat) : Head := headAt s o.ctx o.core h

/-- The state with entries of an operation's allocation written (R320); the heads of a failed task are gone. -/
def fillEntries (s : State) (o : EngOp) (h : Nat) (es : List Nat) : State :=
  if o.orphan then s
  else modHeadAt s o.ctx o.core h fun y =>
    let y := { y with allocs := y.allocs.map fun a => if a.op = o.id then { a with written := a.written ++ es } else a }
    headAdvance (headFuel y) y

/-- The buffer entry of an operation's entry j is free (R316). -/
def entryFree (s : State) (o : EngOp) (h j : Nat) : Bool :=
  let y := opHead s o h
  match y.allocs.find? fun a => a.op = o.id with
  | some a => (a.first + j + 2 ^ 32 - y.cptr.toNat) % 2 ^ 32 < y.nent
  | none => o.orphan

/-! ## Channel tiles that a sender forks (R387) -/

/-- Elements of a tile out of an operation's stream. -/
def tileElems (e : BitVec 512) (o : EngOp) (t : Nat) : List Nat :=
  let n := codeBits (chFmt e) / 8
  (List.range (chElems e)).map fun k => bufNum o (t * o.tileBytes + k * n) n

/-- A contribution of endpoint i leaves its sender: to its own mailbox in a narrow channel, else to every receiver. -/
def contribution (s : State) (e : BitVec 512) (o : EngOp) (t : Nat) : List ChanTile :=
  let tile (dest : Nat) : ChanTile :=
    { ctx := o.ctx, chan := o.chan, round := o.round, tile := t, origin := o.endpoint, to_ := dest, count := 1, moving := true,
      complete := false, sig := chSig s e, elems := tileElems e o t, oor := List.replicate (chElems e) false, flags := 0,
      senders := [o.id] }
  (firstBoxes e o.endpoint t).map tile

/-- The tiles whose bytes have all been read and that have not been sent. -/
def readyToSend (o : EngOp) : List Nat :=
  (List.range (o.len / max o.tileBytes 1)).filter fun t => !o.sent.contains t && streamed o (t * o.tileBytes) o.tileBytes

/-- Tiles sent once their bytes have been read. -/
def sendTiles (s : State) (k : Nat) (o : EngOp) : State :=
  if o.kind = .csend then
    let e := chEntry s o.ctx o.chan
    let ts := readyToSend o
    engSet { s with chanTiles := s.chanTiles ++ ts.flatMap (contribution s e o) } k { o with sent := o.sent ++ ts }
  else engSet s k o

/-! ## Lines of a thread (R341) -/

/-- A thread reads line j of its source. -/
def readLine (s : State) (k : Nat) (o : EngOp) (j : Nat) (p : Span) : State :=
  let v := spanNum s o.ctx p
  sendTiles (pastFree s) k { o with buf := memPut o.buf p.off (toBytes p.len v), readDone := j :: o.readDone }

/-- A thread may write a line: its bytes are read, every byte where the ranges overlap, and its head entry is free. -/
def mayWrite (s : State) (o : EngOp) (p : Span) : Bool :=
  (if o.whole then o.readDone.length = o.src.length else streamed o p.off p.len)
    && (match o.head with
        | some h => entryFree s o h (p.off / max (opHead s o h).ew 1)
        | none => true)

/-- The entries of a head that a thread fills once its last line is written: who observes the fill observes every byte of the operation
(R314, R320). -/
def filledEntries (o : EngOp) (ew : Nat) : List Nat :=
  if o.writeDone.length = o.dst.length then List.range (o.len / max ew 1) else []

/-- A thread writes line j of its destination: a receiver of a multicast that runs no task of the context gets nothing
(R325). -/
def writeLine (s : State) (k : Nat) (o : EngOp) (j : Nat) (p : Span) : State :=
  let v := bufNum o p.off p.len
  let o := { o with writeDone := j :: o.writeDone }
  match p.loc with
  | .mem key =>
    engSet (softBytes (setMem s (memPut s.mem key (toBytes p.len v))) ((List.range p.len).map (key + ·))) k
      { o with written := o.written + p.len }
  | .sp l off =>
    if o.kind = .mcast && !runsContext s l o.ctx then engSet s k { o with fail := some 0x11 }
    else
      let s := engSet (engSp s o l off p.len v) k { o with written := o.written + p.len }
      match o.head with
      | some h => fillEntries s o h (filledEntries o (opHead s o h).ew)
      | none => s

/-- Kinds whose destination is written line by line by their thread. -/
def writesLines (o : EngOp) : Bool :=
  match o.kind with
  | .copy | .cprf | .cwb | .mcast => true
  | _ => false

/-- THREAD_LINE_ACCESS (R341): an engine operation performs one line read, or one line write; `line` numbers its reads,
then its writes. -/
def execThreadLineAccess (k op line : Nat) (s : State) : Host.Outcome State Fault Refusal :=
  let s := touchArrays s
  match engFind s k op with
  | none => .next s
  | some o =>
    if line < o.src.length then
      match o.src[line]? with
      | some p => if o.readDone.contains line then .next s else .next (readLine s k o line p)
      | none => .next s
    else
      let j := line - o.src.length
      match o.dst[j]? with
      | some p => if !writesLines o || o.writeDone.contains j || !mayWrite s o p then .next s
        else .next (noteEffect s (writeLine s k o j p) o.core o.id false)
      | none => .next s

/-! ## Completion (R314) -/

/-- Every line of an operation is done; the appends before an SCLOSE are acknowledged (R323); the tiles of a CSEND have
left their mailbox hop, and those of a CRECV have arrived and, into an ACC tensor, are combined (R390, R341). -/
def engDone (s : State) (o : EngOp) : Bool :=
  let reads := decide (o.readDone.length = o.src.length)
  match o.kind with
  | .csend => reads && decide (o.sent.length = o.len / max o.tileBytes 1) && !(s.chanTiles.any fun t => t.senders.contains o.id)
  | .crecv => decide (o.tiles.length = o.len / max o.tileBytes 1) && !(s.bags.any fun b => b.2.array = some o.id)
  | .sclose => !((coreOf s o.core).sq.any fun e => e.line = .tensor o.ctx (hIndex o.handle) (hGen o.handle))
  | _ => reads && (!writesLines o || decide (o.writeDone.length = o.dst.length))

/-- One byte of a CRC-64 (R328). -/
def crcByte (c b : Nat) : Nat :=
  (List.range 8).foldl (fun c _ => if c % 2 = 1 then (c / 2) ^^^ 0xC96C5795D7870F42 else c / 2) (c ^^^ b)

/-- The CRC-64 of bytes, continued from a previous word. -/
def crc64 (bytes : List Nat) (cont : Bool) (prev : Nat) : Nat :=
  let c := if cont then 2 ^ 64 - 1 - prev else 2 ^ 64 - 1
  2 ^ 64 - 1 - bytes.foldl crcByte c

/-- The dense byte stream of the elements that a CHKS has read (R328). -/
def denseBytes (o : EngOp) : List Nat :=
  let b := codeBits (dFmt o.desc)
  let n := max 1 (b / 8)
  let elems := (List.range o.len).map fun i =>
    lowBits b (bufNum o (i * n) n >>> (if b < 8 then (elemBit o.desc (o.first + i) % 8).toNat else 0))
  let v := packFields b elems
  (List.range (ceilDiv (b * o.len) 8)).map fun i => fieldAt v 8 i

/-- The completion word (R309). -/
def completionWord (o : EngOp) : Nat :=
  2 ^ 63 + (match o.fail with | some f => 2 ^ 62 + f * 2 ^ 32 | none => 0) + satNat o.written (2 ^ 32 - 1)

/-- What an operation does as it completes, before its completion objects. -/
def engFinish (s : State) (k : Nat) (o : EngOp) : State × EngOp :=
  match o.kind with
  | .chks =>
    let c := crc64 (denseBytes o) o.cont (spNum s k o.result 8)
    (engSp s o k o.result 8 c, { o with written := 8 })
  | .sclose =>
    let t := recOf s o.ctx (hIndex o.handle) (hGen o.handle)
    (putRec s { t with closed := true }, o)
  | _ => match o.tag with
    | some (slot, some key) => (modCluster s k fun y => tagInstall y slot key, o)
    | some (slot, none) => (modCluster s k fun y => { y with tags := sdel y.tags slot }, o)
    | none => (s, o)

/-- The flags of a completed operation return to its task (R36): into the record when the task is frozen (R415), to nobody
when it has failed. -/
def returnOpFlags (s : State) (o : EngOp) : State :=
  if o.orphan then s
  else if s.frozen.any fun z => z.core = o.core && z.task.ctx = o.ctx then
    let at_ := recordPa s o.ctx o.core + 0x1BD8
    paPut s at_ 8 (paNum s at_ 8 ||| o.flags)
  else modCore s o.core fun x => returnFlags x o.byHandler o.flags

/-- ENGINE_OP_COMPLETE (R314): the completion word is written, and the event rises unless the operation failed. -/
def execEngineOpComplete (k op : Nat) (s : State) : Host.Outcome State Fault Refusal :=
  let s := touchArrays s
  match engFind s k op with
  | none => .next s
  | some o =>
    if !engDone s o && !(o.kind = .csend && o.fail.isSome) then .next s
    else
      let s0 := s
      let r := engFinish s k o
      let s := modCluster r.1 k fun y => { y with engine := y.engine.filter fun p => p.id ≠ op }
      let s := if o.cmpl / 2 % 2 = 1 then spPut s k o.cwoff 8 (completionWord r.2) else s
      let s := if o.cmpl % 2 = 1 && o.fail.isNone then raiseEvent s o.ctx o.evidx 1 else s
      .next (tryReturn (noteEffect s0 (returnOpFlags s o) o.core o.id false) o.core)

/-! ## STR sources (R320, R322, R340) -/

/-- The bits of consecutive elements of a tensor as a head of core c fetches them (R340, R71): their keys and bits, or nothing while a
page of theirs does not admit it. -/
def fetchElems (s : State) (c : Nat) (d : BitVec 512) (first : Nat) : Nat → Option (List Bits8 × List Nat)
  | 0 => some ([], [])
  | n + 1 =>
    let va := elemVa d (first + n)
    let b := codeBits (dFmt d)
    let sh := (elemBit d (first + n) % 8).toNat
    match fetchElems s c d first n, access s c va .consume 0 0 with
    | some (ks, vs), .ok x =>
      let key := xlatRead s (ctxOfCore s c) x va
      let v := (seenNum s (ctxOfCore s c) key (max 1 (b / 8)) >>> (if b < 8 then sh else 0)) % 2 ^ b
      some (ks ++ (if b < 8 then [(key, ones b <<< sh)] else wholeBits key (b / 8)), vs ++ [v])
    | _, _ => none

/-- PIPE_DELIVER (R340): the engine moves the next entry of a tensor into a head that has room: of an STR tensor, of IMM pages or of
own OWN pages (R71). From 8 on the number names a head of a saved task, whose thread runs on (R404, R416). -/
def execPipeDeliver (c h : Nat) (s : State) : Host.Outcome State Fault Refusal :=
  let s := touchArrays s
  let y := threadHead s c h
  let w := threadView s c h
  let ctx := ctxOfCore w c
  let u := headSupply w c y
  let per := headPer y u.desc
  let take := min per (u.offered - u.fetched)
  if !y.bound || y.src ≠ .str || headFree y = 0 || take = 0 || (take < per && !u.closed) then .next s
  else match fetchElems w c u.desc u.fetched take with
    | none => .next s
    | some q =>
      let b := codeBits (dFmt u.desc)
      let s := raceWith (pastFree s) ctx q.1 false (otherUnits s noCore)
      let s := spPut s (clusterOfCore c) (spOff y.base + y.ew * (y.pptr.toNat % max y.nent 1)) y.ew (packFields b q.2)
      let s := if u.stream then
          let t := recOf s ctx (hIndex y.srcv) (hGen y.srcv)
          putRec s { t with fetched := t.fetched + take }
        else s
      .next (setThreadHead s c h { y with pptr := y.pptr + 1, tailb := if take < per then ceilDiv (take * b) 8 else 0 })

/-! ## Channel tiles (R387 to R389) -/

/-- Two tiles meet in one mailbox: same channel, round, tile and endpoint. -/
def sameBox (a b : ChanTile) : Bool :=
  a.ctx = b.ctx && a.chan = b.chan && a.round = b.round && a.tile = b.tile && a.to_ = b.to_

/-- A partial with q contributions leaves hop q − 1: to the next hop, or complete to its receivers (R387). -/
def forwardPartial (e : BitVec 512) (x : ChanTile) : List ChanTile :=
  if x.count = chCount e then (tileReceivers e x.tile).map fun r => { x with to_ := r, moving := true, complete := true }
  else [{ x with origin := walkAt e x.tile (x.count - 1), to_ := walkAt e x.tile x.count, moving := true }]

/-- A partial combined with the contribution of its hop. -/
def hopTile (e : BitVec 512) (r x : ChanTile) : ChanTile :=
  let vs := (r.elems.zip x.elems).map fun p => narrowHop (chComb e) (chW e) (chF e) p.1 p.2
  { r with elems := vs.map (·.1), oor := (r.oor.zip vs).map fun p => p.1 || p.2.2, count := r.count + 1, sig := x.sig }

/-- A narrow tile arrives (R387): the tiles that take its place, beside those held. A partial has left the hop that sent it; the
contribution of this hop leaves it with the partial that goes on (R390). -/
def arriveNarrow (e : BitVec 512) (x : ChanTile) (rest : List ChanTile) : List ChanTile :=
  let own := decide (x.origin = x.to_)
  if own && walkPlace e x.tile x.to_ = 0 then
    rest ++ forwardPartial e { x with elems := x.elems.map (toWire (chW e) (chF e)), count := 1 }
  else
    let x := if own then x else { x with senders := [] }
    match rest.find? fun y => !y.moving && !y.complete && sameBox x y with
    | some y =>
      let z := { (if own then hopTile e y x else hopTile e x y) with senders := x.senders ++ y.senders }
      (rest.filter fun t => t ≠ y) ++ forwardPartial e z
    | none => rest ++ [{ x with moving := false }]

/-- A wide tile arrives and is combined into the holding tile (R387). -/
def arriveWide (e : BitVec 512) (x : ChanTile) (rest : List ChanTile) : List ChanTile :=
  let held := rest.find? fun y => !y.moving && !y.complete && sameBox x y
  let h := held.getD { x with elems := x.elems.map fun _ => 0, count := 0, flags := 0 }
  let vs := (h.elems.zip x.elems).map fun p => holdAdd (chF e) (chComb e) (chElo e) p.1 (chF e) p.2
  let z := { h with elems := vs.map (·.1), flags := vs.foldl (fun a v => a ||| v.2) h.flags, count := h.count + 1,
                    moving := false, complete := decide (h.count + 1 = chCount e),
                    senders := (if held.isSome then h.senders else []) ++ x.senders }
  (match held with | some y => rest.filter fun t => t ≠ y | none => rest) ++ [z]

/-- The operations that sent a tile fail. -/
def failSender (s : State) (x : ChanTile) (cause : Nat) : State :=
  { s with clusters := s.clusters.map fun k =>
      (k.1, { k.2 with engine := k.2.engine.map fun o => if x.senders.contains o.id then { o with fail := some cause } else o }) }

/-- The order in which tiles of a channel are due: by round, then by tile. -/
def tileBefore (r t : Nat) (x : ChanTile) : Bool := r < x.round || (r = x.round && t < x.tile)

/-- No tile of the channel that is on its way to the same mailbox, that may pass through it as a partial, or that is not yet sent is due
before a tile (R385). -/
def dueFirst (s : State) (e : BitVec 512) (x : ChanTile) : Bool :=
  let here (y : ChanTile) : Bool := y.ctx = x.ctx && y.chan = x.chan
  let held (y : ChanTile) : Bool := !y.moving && y.to_ = x.to_
  let comes (y : ChanTile) : Bool := y.to_ = x.to_ || (!y.complete && chCombines e && !chWide e)
  !(s.chanTiles.any fun y => here y && !held y && comes y && tileBefore y.round y.tile x)
    && !(s.clusters.any fun k => k.2.engine.any fun o => o.kind = .csend && o.ctx = x.ctx && o.chan = x.chan && o.fail.isNone &&
      ((List.range (o.len / max o.tileBytes 1)).any fun t => !o.sent.contains t && tileBefore o.round t x))

/-- A mailbox has room for a tile (R385): the tile is to meet one that stands there, or fewer than `DEPTH` stand there, partials and
completed ones together; the last place is for the tile that is due first, so that waiting for room changes time alone. -/
def mayBox (s : State) (e : BitVec 512) (x : ChanTile) : Bool :=
  let there (y : ChanTile) : Bool := y.ctx = x.ctx && y.chan = x.chan && y.to_ = x.to_ && !y.moving
  let n := (s.chanTiles.filter there).length
  let depth := bitsOf e 33 27
  (chCombines e && s.chanTiles.any fun y => there y && y.complete = x.complete && sameBox x y)
    || (decide (n < depth) && (decide (n + 1 < depth) || dueFirst s e x))

/-- A tile arrives at a mailbox of another package (R384, R387): a free value says whether its entry differs from a tile of another endpoint
(log entry 15). A partial is combined with that endpoint's contribution and goes on; a tile for a receiver there has arrived. -/
def arriveAway (s : State) (e : BitVec 512) (x : ChanTile) (rest : List ChanTile) : State :=
  let s := { s with free := s.free + 1 }
  if x.origin ≠ x.to_ && Config.freeBit (s.free - 1) then failSender { s with chanTiles := rest } x 0x12
  else { s with chanTiles := if chCombines e && !chWide e && !x.complete then arriveNarrow e x rest else rest }

/-- CHANNEL_TILE_ARRIVE (R387): tile k arrives at a mailbox that has room and is combined, or discarded on another signature. -/
def execChannelTileArrive (k : Nat) (s : State) : Host.Outcome State Fault Refusal :=
  match s.chanTiles[k]? with
  | none => .next s
  | some x =>
    let rest := s.chanTiles.eraseIdx k
    let e := chEntry s x.ctx x.chan
    if !x.moving then .next s
    else if (chLocal s e x.to_).isNone then .next (arriveAway s e x rest)
    else if x.sig ≠ chSig s e then .next (failSender { s with chanTiles := rest } x 0x12)
    else if !mayBox s e x then .next s
    else
      let new := if x.complete then rest ++ [{ x with moving := false, senders := [] }]
        else if !chCombines e then rest ++ [{ x with moving := false, complete := true }]
        else if chWide e then arriveWide e x rest
        else arriveNarrow e x rest
      .next { s with chanTiles := new }

/-- The place of a tile among those that an operation receives. -/
def tilePlace (e : BitVec 512) (o : EngOp) (x : ChanTile) : Option Nat :=
  let nt := contributionTiles e o.endpoint (o.len / max o.tileBytes 1)
  let key := (if chKind e = 3 then x.origin else 0, x.tile)
  let l := receivedTiles e o.endpoint nt
  (List.range l.length).find? fun j => l[j]? = some key

/-- Every tile of a lower number has been delivered, of any contributor (R389). -/
def inTurn (e : BitVec 512) (o : EngOp) (j : Nat) : Bool :=
  let nt := contributionTiles e o.endpoint (o.len / max o.tileBytes 1)
  let l := receivedTiles e o.endpoint nt
  (List.range l.length).all fun i => decide ((l.getD j (0, 0)).2 ≤ (l.getD i (0, 0)).2) || o.sent.contains i

/-- A tile in `FMT` (R388), with the flags of its delivery. -/
def tileBits (e : BitVec 512) (x : ChanTile) : List Nat × Nat :=
  if !chCombines e then (x.elems, 0)
  else if chWide e then (x.elems.map (deliverWide (chF e) (chComb e) (chElo e)), 0)
  else
    let vs := (x.elems.zip x.oor).map fun p => deliverNarrow (chF e) (chW e) p.1 p.2
    (vs.map (·.1), vs.foldl (fun a v => a ||| v.2) 0)

/-- The entry of a channel was written while the channel was in use: its results are undefined for the program (R382). -/
def chDisturbed (s : State) (ctx ch : Nat) : Bool := s.raced.contains (ctx, memKey s.pkg.toNat (chAddr s ctx ch))

/-- The elements of a tile as they are delivered: free ones on a disturbed channel. -/
def deliveredBits (s : State) (e : BitVec 512) (x : ChanTile) : List Nat × Nat :=
  if chDisturbed s x.ctx x.chan then (freeElems s e x.tile, 0) else tileBits e x

/-- `OORCNT` raised by n, saturating (R388). -/
def raiseOor (s : State) (ctx ch n : Nat) : State :=
  if n = 0 then s
  else
    let v := chEntry s ctx ch
    paPut s (chAddr s ctx ch) 64 (setBits v.toNat 223 192 (satNat (bitsOf v 223 192 + n) (2 ^ 32 - 1)))

/-- A place n bytes further. -/
def locPast (l : Loc) (n : Nat) : Loc := match l with
  | .sp k off => .sp k (off + n)
  | .mem key => .mem (key + n)

/-- The part of a span that lies in n bytes of the stream from a place. -/
def clipSpan (lo n : Nat) (p : Span) : Option Span :=
  let a := max p.off lo
  let b := min (p.off + p.len) (lo + n)
  if a < b then some { p with off := a, len := b - a, loc := locPast p.loc (a - p.off) } else none

/-- One line of a delivered tile: into the scratchpad, counted, or onto the async path (R389, R342). -/
def deliverLine (o : EngOp) (v base : Nat) (s : State) (p : Span) : State :=
  let n := (v >>> (8 * (p.off - base))) % 2 ^ (8 * p.len)
  match p.loc with
  | .sp k off => engSp s o k off p.len n
  | .mem key =>
    let r := freshId s
    { r.2 with async := r.2.async ++ [⟨r.1, ((List.range p.len).map (key + ·)).zip (toBytes p.len n), o.id, some o.core, o.ctx, o.core / 64⟩] }

/-- The lines of place j of an operation's destination, of a line that two tiles share the part of this one. -/
def tileLines (o : EngOp) (j : Nat) : List Span := o.dst.filterMap (clipSpan (j * o.tileBytes) o.tileBytes)

/-- Endpoint i of a channel, on this package, has issued its reception of a round and nothing of it is in flight any more. -/
def received (s : State) (ctx ch round i : Nat) : Bool :=
  let mine (o : EngOp) : Bool := o.kind = .crecv && o.ctx = ctx && o.chan = ch && o.endpoint = i && o.round = round
  decide (round < sget 0 s.transfers (transferKey ctx ch i true))
    && !(allOps s).any mine

/-- The transfers of an earlier round of a channel stay behind (R386): a reception waits for its tiles, or a tile is left over that its
receiver no longer awaits. -/
def roundBehind (s : State) (e : BitVec 512) (ctx ch round : Nat) : Bool :=
  let here (o : EngOp) (k : EngKind) : Bool := o.kind = k && o.ctx = ctx && o.chan = ch && o.round < round
  let leftOver (r t : Nat) (to_ : List Nat) : Bool := to_.any fun i => (tileReceivers e t).contains i && received s ctx ch r i
  (allOps s).any (fun o => here o .crecv || (here o .csend && o.fail.isNone && (List.range (o.len / max o.tileBytes 1)).any fun t =>
      !o.sent.contains t && leftOver o.round t (tileReceivers e t)))
    || s.chanTiles.any fun y => y.ctx = ctx && y.chan = ch && y.round < round
      && leftOver y.round y.tile (if y.complete || chWide e || !chCombines e then [y.to_] else tileReceivers e y.tile)

/-- The head entries of place j are free. -/
def tileRoom (s : State) (o : EngOp) (j : Nat) : Bool :=
  match o.head with
  | some h =>
    let ew := max (opHead s o h).ew 1
    (List.range (o.tileBytes / ew)).all fun i => entryFree s o h (j * (o.tileBytes / ew) + i)
  | none => true

/-- The adds of place j of a CRECV into an ACC tensor, with the elements of its tile. -/
def tileAdds (o : EngOp) (j : Nat) (bits : List Nat) : List (Nat × AccAdd) :=
  ((o.accs.drop (j * bits.length)).zip bits).map fun q => (o.core, { q.1 with value := q.2 })

/-- A completed tile delivered to place j of its receiver's operation. -/
def deliverTile (s : State) (k : Nat) (e : BitVec 512) (o : EngOp) (x : ChanTile) (j : Nat) : State :=
  let bits := deliveredBits s e x
  let s := { pastFree s with bags := s.bags ++ tileAdds o j bits.1 }
  let v := packFields (codeBits (chFmt e)) bits.1
  let lines := tileLines o j
  let oor := if chCombines e && !chWide e then (x.oor.filter id).length else 0
  let s := lines.foldl (deliverLine o v (j * o.tileBytes)) (raiseOor s x.ctx x.chan oor)
  let inMem := o.accs ≠ [] || lines.any fun p => match p.loc with | .mem _ => true | .sp _ _ => false
  let o := { o with sent := o.sent ++ [j], written := o.written + o.tileBytes,
                    flags := o.flags ||| x.flags ||| bits.2,
                    tiles := if inMem then o.tiles ++ [j] else o.tiles }
  let s := engSet s k o
  if inMem then s else { s with readyTiles := s.readyTiles ++ [⟨o.core, o.id, j⟩] }

/-- CHANNEL_TILE_DELIVER (R388, R389): completed tile k reaches the operation that waits for it. -/
def execChannelTileDeliver (k : Nat) (s : State) : Host.Outcome State Fault Refusal :=
  let s := touchArrays s
  match s.chanTiles[k]? with
  | none => .next s
  | some x =>
    let e := chEntry s x.ctx x.chan
    match (if x.complete && !x.moving then chLocal s e x.to_ else none) with
    | none => .next s
    | some c =>
      let cl := clusterOfCore c
      let waits (o : EngOp) : Bool := o.kind = .crecv && o.core = c && o.ctx = x.ctx && o.chan = x.chan
      let eng := (clusterOf s cl).engine
      match eng.find? fun o => waits o && o.round = x.round with
      | none => .next s
      | some o => match tilePlace e o x with
        | none => .next s
        | some j =>
          if o.sent.contains j || !inTurn e o j || roundBehind s e x.ctx x.chan o.round || !tileRoom s o j then .next s
          else .next (deliverTile { s with chanTiles := s.chanTiles.eraseIdx k } cl e o x j)

/-- SCRATCHPAD_TILE_READY (R389): the words of tile k are counted, its ready flag rises, and its head entries fill. -/
def execScratchpadTileReady (k : Nat) (s : State) : Host.Outcome State Fault Refusal :=
  match s.readyTiles[k]? with
  | none => .next s
  | some r =>
    let s := { s with readyTiles := s.readyTiles.eraseIdx k }
    match engFind s (clusterOfCore r.core) r.op with
    | none => .next s
    | some o =>
      let s := engSet s (clusterOfCore r.core) { o with tiles := o.tiles ++ [r.tile] }
      match o.head with
      | some h =>
        let n := o.tileBytes / max (opHead s o h).ew 1
        .next (fillEntries s o h ((List.range n).map fun i => r.tile * n + i))
      | none => .next s

end Sys2Proof.Machine
end

