-- ==== Sys2Proof/Machine/TileTerms.lean ====
section
/-!
DEFINITION. Tile instructions (R99 to R105): their fields, the operands that they name, and the checks of acceptance
(R101).
-/
namespace Sys2Proof.Machine

/-! ## Fields (R100, R102) -/

/-- `TIID`. -/
def tTiid (t : Tile) : BitVec 32 := t.ctl.extractLsb' 32 32
/-- `GANG`. -/
def tGang (t : Tile) : Nat := bitsOf t.ctl 26 23
/-- `CTX`. -/
def tCtx (t : Tile) : Nat := bitsOf t.ctl 22 17
/-- `KSPLIT`. -/
def tKs (t : Tile) : Bool := bitOf t.ctl 16
/-- `CAR`. -/
def tCar (t : Tile) : Bool := bitOf t.ctl 15
/-- `DET`. -/
def tDet (t : Tile) : Bool := bitOf t.ctl 14
/-- `RPLY`. -/
def tRply (t : Tile) : Bool := bitOf t.ctl 13
/-- `PRI`. -/
def tPri (t : Tile) : Nat := bitsOf t.ctl 12 11
/-- `LEVEL`. -/
def tLevel (t : Tile) : Nat := bitsOf t.ctl 10 8
/-- A field of `PARAM`. -/
def tp (t : Tile) (hi lo : Nat) : Nat := bitsOf t.param hi lo
/-- The rounding mode of `PARAM`, whose place depends on the opcode (R105). -/
def tRm (t : Tile) : RM := (rmOf (if tileOp t = 9 then tp t 5 3 else tp t 2 0)).getD .rne

/-- The assigned bits of `PARAM` (R105). -/
def paramMask (op : Nat) : Nat :=
  match op with
  | 1 => 0x7F
  | 2 => 0x17
  | 3 => 2 ^ 51 - 1
  | 5 => 2 ^ 13 - 1
  | 6 => 2 ^ 14 - 1
  | 7 => 7
  | 8 => 0x3FF + (2 ^ 48 - 1) * 2 ^ 16
  | 9 => 0x3F
  | 10 => 7
  | 11 => 0x7FF
  | 14 => 1
  | 4 | 12 | 13 | 16 => 2 ^ 64 - 1
  | _ => 0

/-- A word is used as a handle operand. -/
def isHandleOpd (q : Nat × OpdKind × BitVec 64) : Bool :=
  match q.2.1 with
  | .in_ opt | .out opt => !opt || q.2.2 ≠ 0
  | .any => q.2.2 ≠ 0
  | .cast => true
  | .raw | .none => false

/-- An operand of an instruction by its number. -/
abbrev Opds := List (Option Operand)

/-- Operand i. -/
def opd (os : Opds) (i : Nat) : Option Operand := (os[i]?).join

/-- The result of a check: a class-0 cause (R134) with its detail where the spec gives one. -/
abbrev Check := Except (Nat × Option Nat) Unit

/-- A check that fails with a cause. -/
def need (ok : Bool) (cause : Nat) : Check := if ok then .ok () else .error (cause, none)

/-! ## Roles and formats of operands -/

/-- An operand has a region of a role (R441). -/
def hasRole (o : Option Operand) (r : Nat) : Bool := match o with | some o => o.roles.contains r | none => false
/-- Every region of an operand has a role. -/
def allRole (o : Option Operand) (r : Nat) : Bool := match o with | some o => o.roles.all (· = r) | none => true
/-- The format code of an operand. -/
def oFmt (o : Option Operand) : Nat := match o with | some o => dFmt o.desc | none => 15
/-- The rank of an operand. -/
def oRank (o : Option Operand) : Nat := match o with | some o => dRank o.desc | none => 0
/-- Extent i of an operand, 1 above its rank. -/
def oExt (o : Option Operand) (i : Nat) : Nat :=
  match o with
  | some o => if i < dRank o.desc then dExt o.desc i else 1
  | none => 1
/-- The extents of an operand over the five axes. -/
def oExts (o : Option Operand) : List Nat := (List.range 5).map (oExt o)

/-- The accumulator format of a matrix operand format (R57, R112). -/
def tileAcc (fmt : Nat) : Fmt := if fmt = 6 then .f64 else if fmt = 0 || fmt = 1 then .i32 else .f32

/-- The format family of a matrix operand (R112), or `none`. -/
def matFamily (fmt : Nat) : Option Nat :=
  match fmt with
  | 7 => some 0
  | 6 => some 1
  | 8 | 9 => some 2
  | 10 | 11 => some 3
  | 0 | 1 => some 4
  | 12 => some 5
  | _ => none

/-- A format every value of which converts exactly into an accumulation format (R116). -/
def exactInto (acc : Fmt) (fmt : Nat) : Bool :=
  match acc with
  | .f32 => [0, 1, 2, 7, 8, 9, 10, 11, 12].contains fmt
  | .f64 => [0, 1, 2, 3, 5, 6, 7, 8, 9, 10, 11, 12].contains fmt
  | .i32 => [0, 1, 2, 3].contains fmt
  | .i64 => [0, 1, 2, 3, 4, 5].contains fmt
  | _ => false

/-- An input that a TRED or TSCAN accepts (R116): it converts exactly, and floating and integer are not mixed. -/
def redInto (acc : Fmt) (fmt : Nat) : Bool := exactInto acc fmt && isIntCode fmt = isInt acc

/-- The accumulation format of a TRED or TSCAN (R116), if `ACCF` names one. -/
def redAcc (t : Tile) : Option Fmt :=
  match tp t 12 9 with
  | 3 => some .i32 | 4 => some .i64 | 6 => some .f64 | 7 => some .f32 | _ => none

/-- Output formats and families (R112, R116): an OWN output's format is `most` at most, 11 for a product, 12 where the rule has the result
converted to the output's format, which may be CB4 (R45), of TPRJ too (R121 lists no formats; DESIGN CHOICE, log entry 63); an ACC output is of the accumulator's family. -/
def outOk (most : Nat) (acc : Fmt) (o : Option Operand) : Bool :=
  (!hasRole o 3 || oFmt o ≤ most) && (!hasRole o 2 || (isIntCode (oFmt o) = isInt acc && oFmt o ≠ 14 && oFmt o ≠ 12))

/-! ## The role map and descriptors of operands (R70, R441) -/

/-- The owners of the OWN regions of a tensor (R72, R127): kind and unit, as its descriptor names them, or, for a mixed tensor, as the
pages of those regions do. -/
def ownersOf (s : State) (ctx : Nat) (d : BitVec 512) (roles : List Nat) : List (Nat × Nat) :=
  if dMixed d then
    (((List.range roles.length).zip roles).filterMap fun q =>
      if q.2 = 3 then (pageOf s ctx (pageBase (dBase d) + q.1 * 2 ^ 16)).map fun x => (x.ownk, x.owner) else none).eraseDups
  else if dRole d = 3 then [(df d 121 120, df d 143 128)] else []

/-- A handle opened as an operand (R65, R70, R441). -/
def openOperand (s : State) (ctx : Nat) (h : BitVec 64) : Option Operand :=
  (openHandle s ctx h).map fun q =>
    let roles := rolesOf s ctx q.1
    ⟨h, q.1, roles, q.2, ownersOf s ctx q.1 roles⟩

/-- Check 5 (R101): each handle operand is valid; the detail is the operand number. -/
def check5 (s : State) (ctx : Nat) : List (Nat × OpdKind × BitVec 64) → Except (Nat × Option Nat) Opds
  | [] => .ok []
  | q :: r =>
    if isHandleOpd q then
      match openOperand s ctx q.2.2 with
      | none => .error (0x04, some q.1)
      | some o => (check5 s ctx r).map (some o :: ·)
    else (check5 s ctx r).map (none :: ·)

/-- Check 6 (R101): every operand descriptor passes R67. -/
def check6 (os : Opds) : Check :=
  match os.findSome? fun o => o.bind fun o => descCheck o.desc o.roles with
  | some cause => .error (cause, none)
  | none => .ok ()

/-! ## Check 7 (R101): flags, `GANG`, parameter values and event indices -/

/-- The output operands of an instruction (R103): for a TMAP every operand; a TCAST has none. -/
def outputs (t : Tile) (os : Opds) : List (Option Operand) :=
  ((opdWords t).zip os).filterMap fun q => match q.1.2.1 with | .out _ | .any => some q.2 | _ => none

/-- The flags (R103). -/
def flagsOk (t : Tile) (os : Opds) : Bool :=
  (!tKs t || [1, 3, 5, 6].contains (tileOp t))
    && (!tRply t || ((tCar t || !((outputs t os).any fun o => hasRole o 2)) && !(os.any fun o => hasRole o 1)))

/-- The kernel of a TMAP (R115). -/
def kernelOk (s : State) (ctx : Nat) (t : Tile) : Bool := (kernelRegion s ctx t.param).isSome

/-- The terms of a TCAST (R123). -/
def castTerms (t : Tile) : Terms := ⟨t.param, t.opb, t.opc⟩

/-- An element of an IMM tensor as acceptance reads it, by a walk (R121); `none` where its page is absent. -/
def peekElem (s : State) (ctx : Nat) (o : Operand) (i : Nat) : Option Nat :=
  let va := elemVa o.desc i
  (walk s ctx va).map fun x => seenNum s ctx (xlatRead s ctx x va) (codeBits (dFmt o.desc) / 8)

/-- The reserved values of an opcode's own rule: its cause, if one is met. TPRJ's fourth parameter counts as nonzero by its bits, so -0 does,
and TPRJA's is not looked at: DESIGN CHOICE, log entry 63. -/
def valueBad (s : State) (ctx : Nat) (t : Tile) (os : Opds) : Option Nat :=
  let op := tileOp t
  let a := opd os 0
  let c := opd os 2
  let bad (b : Bool) : Option Nat := if b then some 0x03 else none
  match op with
  | 1 => bad (bitOf t.param 5 && bitOf t.param 6)
  | 3 => bad (tp t 6 3 = 0 || tp t 10 7 = 0 || tp t 14 11 = 0 || tp t 18 15 = 0)
  | 4 => if kernelOk s ctx t then none else some 0x0B
  | 5 | 6 => match redAcc t with
    | none => some 0x03
    | some acc => bad (tp t 8 6 = 7 || 4 < tp t 5 3 || (3 ≤ tp t 8 6 && tp t 8 6 ≤ 5 && !isInt acc) || !redInto acc (oFmt a))
  | 7 => bad (oFmt a = 13 || oFmt c = 13)
  | 8 => match a with
    | some o =>
      match termsBad o.desc o.roles (castTerms t) with
      | some cause => some cause
      | none => bad ((!bitOf t.param 8 && t.opd ≠ 0) || (t.opd ≠ 0 && !eventOk s ctx (evIdx t.opd)))
    | none => none
  | 9 => match opd os 1 with
    | some o => bad (tp t 2 0 = 0 || tp t 2 0 = 7
        || (dFmt o.desc = 7 && dRank o.desc = 1 && dExt o.desc 0 = 4 && (peekElem s ctx o 3).getD 0 ≠ 0))
    | none => none
  | 10 => bad (tp t 2 0 = 0 || tp t 2 0 = 7 || tp t 2 0 = 3 || tp t 2 0 = 4)
  | 11 => bad (3 < tp t 10 8 || chBad s (chEntry s ctx (tp t 7 0)))
  | 12 => bad ((t.param.toNat >>> codeBits (oFmt c)) ≠ 0 || (hasRole c 2 && t.param ≠ 0))
  | 13 =>
    let p := tp t 31 16
    bad ((p = 0xFFFF || p = s.pkg.toNat) && !eventOk s ctx (tp t 15 0))
  | _ => none

/-- An `RM` field of 5 or 7 (R105). -/
def rmBad (t : Tile) : Bool :=
  let rm := match tileOp t with
    | 1 | 2 | 3 | 5 | 6 | 7 => tp t 2 0
    | 9 => tp t 5 3
    | _ => 0
  rm = 5 || rm = 7

/-- Check 7 of an instruction. -/
def check7 (s : State) (ctx : Nat) (t : Tile) (os : Opds) : Check :=
  if !flagsOk t os then .error (0x08, none)
  else if (tGang t ≠ 0 && tileOp t ≠ 4) || rmBad t
      || ([t.waitw, t.sigw].any fun w => evIdx w ≠ 0 && !eventOk s ctx (evIdx w)) then .error (0x03, none)
  else match valueBad s ctx t os with
    | some cause => .error (cause, none)
    | none => .ok ()

/-! ## Check 8 (R101): roles -/

/-- The owners that OWN operands, whole or in part, name (R127): kind and unit. -/
def owners (os : Opds) : List (Nat × Nat) := ((os.filterMap id).flatMap (·.owns)).eraseDups

/-- The role of one operand (R105, R119, R126). -/
def opdRoleOk (op : Nat) (k : OpdKind) (o : Option Operand) : Bool :=
  let str := hasRole o 1
  let mixed := match o with | some o => dMixed o.desc | none => false
  match op with
  | 4 | 8 => true
  | _ => !(str && (op ≠ 7 || mixed)) && (match k with
      | .in_ _ => !hasRole o 2
      | .out _ => op = 15 || !hasRole o 0
      | _ => true)

/-- Roles that single opcodes ask for (R113, R119, R121, R298). -/
def ownRolesOk (op : Nat) (os : Opds) : Bool :=
  match op with
  | 2 => allRole (opd os 3) 0
  | 9 => allRole (opd os 1) 0 && allRole (opd os 3) 3
  | 10 => allRole (opd os 3) 0
  | _ => true

/-- Check 8 of an instruction. -/
def check8 (t : Tile) (os : Opds) : Check :=
  need ((((opdKinds (tileOp t)).zip os).all fun q => opdRoleOk (tileOp t) q.1 q.2) && ownRolesOk (tileOp t) os
    && (owners os).length ≤ 1) 0x05

/-! ## Check 9 (R101): formats and extents -/

/-- A 1-D-scaled operand whose axis 0 is not K (R46, R112). -/
def scaledAcross (o : Option Operand) (transposed : Bool) : Bool :=
  transposed && (match o with | some o => df o.desc 103 102 = 1 | none => false)

/-- A matrix product (R112): operands, M, N and K agree. One that names a bias or a structure in OPD and has none there is a shape fault:
DESIGN CHOICE, log entry 63. -/
def productOk (t : Tile) (os : Opds) (ta : Bool) : Bool :=
  let a := opd os 0
  let b := opd os 1
  let c := opd os 2
  let x := opd os 3
  let tb := bitOf t.param 4
  let k := oExt a (b2n ta)
  let m := oExt a (1 - b2n ta)
  let n := oExt b (1 - b2n tb)
  let acc := tileAcc (oFmt a)
  (matFamily (oFmt a)).isSome && matFamily (oFmt a) = matFamily (oFmt b) && k = oExt b (b2n tb)
    && oExt c 0 = n && outOk 11 acc c && !scaledAcross a ta && !scaledAcross b tb
    && ([2, 3, 4].all fun i => oExt c i = oExt a i && (oExt b i = 1 || oExt b i = oExt a i))
    && (if tileOp t = 2 then oFmt x = 3 && oRank x = 1 && oExt c 1 = oExt x 0
        else oExt c 1 = m
          && (!bitOf t.param 5 || (x.isSome && oExt x 0 = n && (oExt x 1 = m || oExt x 1 = 1) && exactInto acc (oFmt x)))
          && (!bitOf t.param 6 || (x.isSome && oFmt x = 14 && oExt x 0 = ceilDiv n 8 && oExt x 1 = ceilDiv k 8)))

/-- The output extents of a TCONV, H' and W' (R114), 0 where none fits. -/
def convOut (t : Tile) (os : Opds) : Nat × Nat :=
  let a := opd os 0
  let b := opd os 1
  let out (n r pad d st : Nat) : Nat := if n + pad < d * (r - 1) + 1 then 0 else (n + pad - (d * (r - 1) + 1)) / max st 1 + 1
  (out (oExt a 2) (oExt b 2) (tp t 26 19 + tp t 34 27) (tp t 14 11) (tp t 6 3),
   out (oExt a 1) (oExt b 1) (tp t 42 35 + tp t 50 43) (tp t 18 15) (tp t 10 7))

/-- The formats of projected rows and gradients (R298). -/
def rowFmt (fmt : Nat) : Bool := 6 ≤ fmt && fmt ≤ 9

/-- A parameter tensor of TPRJ (R121). -/
def prjParams (o : Option Operand) : Bool := o.isNone || (oFmt o = 7 && oRank o = 1 && oExt o 0 = 4)

/-- The rows of a tensor: the product of the extents above axis 0. -/
def rowCount (o : Option Operand) : Nat := ((oExts o).drop 1).foldl (· * ·) 1

/-- Elements of an operand. -/
def oCount (o : Option Operand) : Nat := (oExts o).foldl (· * ·) 1

/-- This package's place in the endpoint list of a channel between packages (R391). -/
def chMine (s : State) (e : BitVec 512) : Option Nat :=
  (List.range (chCount e)).find? fun i => epPkg ((chEndpoints s e).getD i 0) = s.pkg.toNat

/-- Elements that endpoint i receives of contributions of el elements (R386). -/
def collectCount (e : BitVec 512) (i el : Nat) : Nat :=
  let nt := el / max 1 (chElems e)
  if chKind e = 4 then el else (receivedTiles e i nt).length * chElems e

/-- The shape of an instruction. A TCOPY between PBIT and another format is a shape fault: DESIGN CHOICE, log entry 63. -/
def shapeOk (s : State) (ctx : Nat) (t : Tile) (os : Opds) : Bool :=
  let a := opd os 0
  let b := opd os 1
  let c := opd os 2
  let d := opd os 3
  match tileOp t with
  | 1 => productOk t os (bitOf t.param 3)
  | 2 => productOk t os false
  | 3 =>
    let hw := convOut t os
    (matFamily (oFmt a)).isSome && matFamily (oFmt a) = matFamily (oFmt b) && oExt a 0 = oExt b 0
      && outOk 11 (tileAcc (oFmt a)) c && 1 ≤ hw.1 && 1 ≤ hw.2
      && oExts c = [oExt b 3, hw.2, hw.1, oExt a 3, 1] && oExt a 4 = 1 && oExt b 4 = 1
  | 5 | 6 =>
    let ax := tp t 5 3
    let same (i : Nat) : Bool := oExt c i = (if tileOp t = 5 && i = ax then 1 else oExt a i)
    oRank c = oRank a && ax < oRank a && ((List.range 5).all same) && outOk 12 ((redAcc t).getD .f32) c
      && (b.isNone || (oFmt b = 14 && oRank b = oRank a && oExts b = oExts a))
  | 7 => oRank c = oRank a && oExts c = oExts a && ((oFmt a = 14) = (oFmt c = 14))
  | 9 => rowFmt (oFmt a) && oExt a 0 ≤ 128 && oRank c = oRank a && oExts c = oExts a && outOk 12 .f64 c && prjParams b
      && (d.isNone || (oFmt d = 1 && oRank d = 2 && oExt d 0 = 32 && oExt d 1 = rowCount a))
  | 10 => rowFmt (oFmt b) && rowFmt (oFmt c) && oExt b 0 ≤ 128 && oRank c = oRank b && oExts c = oExts b
      && oFmt a = 1 && oRank a = 2 && oExt a 0 = 32 && oExt a 1 = rowCount b && prjParams d
  | 11 =>
    let e := chEntry s ctx (tp t 7 0)
    let el := oCount a
    bitOf e 59 && chKind e = tp t 10 8 + 1 && oFmt a = chFmt e && oFmt c = chFmt e && el % max 1 (chElems e) = 0
      && (match chMine s e with
          | some i => decide (oCount c = collectCount e i el)
          | none => false)
  | 15 => !(match c with | some o => dMixed o.desc | none => true) && allRole c 3
      && ((oFmt c = 4 && 1 ≤ oCount c) || (oFmt c = 1 && 8 ≤ oCount c))
  | _ => true

/-! ## Acceptance (R101) -/

/-- Reserved bits of the words (check 2). -/
def reservedSet (t : Tile) : Bool :=
  bitsOf t.ctl 31 27 ≠ 0 || t.param.toNat &&& (2 ^ 64 - 1 - paramMask (tileOp t)) ≠ 0
    || ((opdWords t).any fun q => q.2.1 = .none && q.2.2 ≠ 0)
    || (tileOp t = 8 && ((castTerms t).reserved || (bitOf t.param 8 && bitsOf t.opd 63 16 ≠ 0)))

/-- The opcodes that level 0 accepts (R101). -/
def level0Op (op : Nat) : Bool := [0, 1, 2, 3, 9, 10].contains op

/-- The checks of R101 in their order: the operands, or the cause with its detail. -/
def acceptCheck (s : State) (ctx level : Nat) (t : Tile) : Except (Nat × Option Nat) Opds := do
  if (decodeTile t).isNone then .error (0x01, some (tileOp t))
  need (!reservedSet t) 0x02
  need (tLevel t = level && (level ≠ 0 || level0Op (tileOp t))) 0x09
  need (tCtx t = ctx) 0x0A
  let os ← check5 s ctx (opdWords t)
  need (tileOp t ≠ 4 || (openHandle s ctx t.param).isSome) 0x04
  check6 os
  check7 s ctx t os
  check8 t os
  need (shapeOk s ctx t os) 0x07
  .ok os

/-! ## Index space (R107) -/

/-- An instruction whose operands make it one piece at every level (R118, R125, R126). -/
def isWhole (t : Tile) (os : Opds) : Bool :=
  (tileOp t = 4 && tGang t ≠ 0) || ((tileOp t = 4 || tileOp t = 7) && os.any fun o => hasRole o 1)

/-- The tensor of the index space (R107). -/
def spaceOf (t : Tile) (os : Opds) : Option Operand :=
  if tileOp t = 4 then (opd os 2).or ((opd os 0).or ((opd os 1).or (opd os 3))) else opd os 2

/-- Rows, columns and batch extents of the index space (R107, R114, R120). -/
def indexSpace (t : Tile) (os : Opds) : Nat × Nat × List Nat :=
  let o := spaceOf t os
  match tileOp t with
  | 3 => ((oExts o).drop 1 |>.foldl (· * ·) 1, oExt o 0, [1, 1, 1])
  | 15 => (ceilDiv (oCount (opd os 0) * codeBits (oFmt (opd os 0))) 8, 1, [1, 1, 1])
  | _ => (oExt o 1, oExt o 0, [oExt o 2, oExt o 3, oExt o 4])

/-- Chunks of the K axis (R110): C of R107. -/
def chunkCount (t : Tile) (os : Opds) : Nat :=
  if !tKs t then 1
  else match tileOp t with
    | 1 => ceilDiv (oExt (opd os 0) (b2n (bitOf t.param 3))) 4096
    | 3 => ceilDiv (oExt (opd os 1) 2 * oExt (opd os 1) 1 * oExt (opd os 0) 0) 4096
    | 5 | 6 => ceilDiv (oExt (opd os 0) (tp t 5 3)) 4096
    | _ => 1

end Sys2Proof.Machine
end

