-- ==== Sys2Proof/Machine/VectorMove.lean ====
section
/-!
DEFINITION. Moves and permutes (R242, R243), reductions, scans and dot products (R244 to R246).
-/
namespace Sys2Proof.Machine

/-! ## Moves (R242) -/

/-- A copy. -/
def actVmov (x : VSlot) (f : VF) : Act := vMapBits x f 2 fun e i => e.a i
/-- One element or an immediate in every element. -/
def actVbcst (x : VSlot) (f : VF) : Act := vMapBits x f 2 fun e _ =>
  if bitOf f.imm 13 then wrapTo (vE f) (signedOf 12 f.imm.toNat) else e.a (bitsOf f.imm 6 0)
/-- An immediate plus the index. -/
def actViota (x : VSlot) (f : VF) : Act := vMapBits x f 2 fun _ i => wrapTo (vE f) (signedOf 14 f.imm.toNat + i)
/-- Elements of a then c by the index in b. -/
def actVperm (x : VSlot) (f : VF) : Act := vMapBits x f 3 fun e i =>
  let j := e.b i
  if j < e.n then e.a j else if j < 2 * e.n then e.c (j - e.n) else 0

/-- Results for every element below n. -/
def vAll (x : VSlot) (f : VF) (lat : Nat) (op : Elems → Nat → Nat) : Act := onElems x f fun s c _ e =>
  .ok (vWrite s c x lat f.d.toNat (vE f) (vW f) ((List.range e.n).map fun i => (i, op e i, 0))) .none

/-- The selected elements in order, then zeros. -/
def actVcmps (x : VSlot) (f : VF) : Act := vAll x f 3 fun e i =>
  match ((List.range e.n).filter fun j => e.m.testBit j)[i]? with
  | some j => e.a j
  | none => 0
/-- Elements of a placed at the selected positions. -/
def actVexpd (x : VSlot) (f : VF) : Act := vAll x f 3 fun e i =>
  if e.m.testBit i then e.a (popCount i e.m) else e.b i

/-- A register copied to the other slot's file. -/
def actVxv (x : VSlot) (f : VF) : Act := onElems x f fun s c _ e =>
  let g := gather (vE f) ((actives e.m e.n).map fun i => (i, e.a i))
  .ok (setV s c (vSlotNo x) 2 (!isVb x) f.d.toNat g.1 g.2 0 (granOf (vE f) (vW f))) .none

/-- The rearrangements (R243). -/
def shuffle (mode k n : Nat) (a b : Nat → Nat) (i : Nat) : Nat :=
  let seq (j : Nat) : Nat := if j < n then a j else b (j - n)
  match mode with
  | 0 => a ((i + k) % n)
  | 1 => if i + k < n then a (i + k) else 0
  | 2 => if k ≤ i then a (i - k) else b (n - k + i)
  | 3 => if i % 2 = 0 then a (i / 2) else b (i / 2)
  | 4 => if i % 2 = 0 then a (n / 2 + i / 2) else b (n / 2 + i / 2)
  | 5 => seq (2 * i)
  | 6 => seq (2 * i + 1)
  | _ => a (n - 1 - i)

/-- A rearrangement. -/
def actVshfl (x : VSlot) (f : VF) : Act := vMapBits x f 3 fun e i =>
  shuffle (bitsOf f.imm 2 0) (bitsOf f.imm 9 3) e.n e.a e.b i

/-! ## Reductions and scans (R244, R245) -/

/-- The operation of a reduction in the numbering of R60: 0 add, 1 mul, 2 min, 3 max, 4 and, 5 or, 6 xor. -/
def redOp (n : Nat) : Nat :=
  match n with
  | 0 => 0 | 1 => 2 | 2 => 3 | 3 => 4 | 4 => 5 | 5 => 6 | _ => 1

/-- The lanes of a tree in a format: active elements, converted exactly when they widen; identities elsewhere. -/
def redLanes (f : VF) (fmt : Fmt) (op : Nat) (e : Elems) : List (Nat × Nat) :=
  (List.range e.n).map fun i =>
    if active e.m e.n i then (if fmt = vF f then (e.a i, 0) else toFmt fmt .rne 0 false (elemVal (vF f) (e.a i)))
    else (identityOf fmt op, 0)

/-- A reduction by the fixed tree. -/
def actVred (x : VSlot) (f : VF) : Act := onElems x f fun s c _ e =>
  let op := redOp (bitsOf f.imm 2 0)
  let fmt := if bitOf f.imm 4 then vF2 f else vF f
  .ok (vWrite s c x 6 f.d.toNat (fmtBits fmt) (vW f)
    [(0, treeReduce (combineFmt fmt op (vRm f)) e.n.log2 (redLanes f fmt op e))]) .none

/-- The first element of the segment that holds element j. -/
def segStart (heads : Nat) : Nat → Nat
  | 0 => 0
  | j + 1 => if heads.testBit (j + 1) then j + 1 else segStart heads j

/-- A scan in the order of the fixed tree. -/
def actVscan (x : VSlot) (f : VF) : Act := onElems x f fun s c y e =>
  let op := redOp (bitsOf f.imm 2 0)
  let comb := combineFmt (vF f) op (vRm f)
  let heads := if bitOf f.imm 5 then (rdM y (isVb x) (bitsOf f.c 2 0)).toNat else 0
  let lanes := redLanes f (vF f) op e
  let k := e.n.log2
  .ok (vWrite s c x 8 f.d.toNat (vE f) (vW f) ((actives e.m e.n).map fun j =>
    let h := segStart heads j
    if bitOf f.imm 3 && j = h then (j, identityOf (vF f) op, 0)
    else
      let r := scanLane comb (treeLevels comb k (lanes.drop h)) k (if bitOf f.imm 3 then j - h - 1 else j - h)
      (j, canonLane (vF f) r.1, r.2))) .none

/-! ## Dot products (R246) -/

/-- One floating group: its exact sum plus c, rounded once. -/
def dotFloat (f : VF) (cj : Nat) (ps : List (Val × Nat)) : Nat × Nat :=
  let g := ps.map (·.1)
  let sum := if g.isEmpty then .fin false 0 0 else groupSum g
  let fl := ps.foldl (fun a p => a ||| p.2) (if sum.isNan && !(g.any (·.isNan)) then fINV else 0)
  let r := addVal (vRm f = .rdn) (floatVal .f32 cj) sum
  let o := roundFloat .f32 (vRm f) 0 false r.1
  (o.1, fl ||| r.2 ||| o.2)

/-- Grouped dot products. -/
def actVdot (x : VSlot) (f : VF) : Act := onElems x f fun s c _ e =>
  let g := 2 ^ bitsOf f.imm 2 0
  let vc := vC s c (isVb x) f
  .ok (vWrite s c x 6 f.d.toNat 32 (vW f) ((List.range (e.n / g)).map fun j =>
    let cj := fieldAt vc 32 j
    let is := (actives e.m e.n).filter fun i => i / g = j
    if isInt (vF f) then (j, wrapTo 32 (signedOf 32 cj + (is.map fun i => iv f (e.a i) * iv f (e.b i)).foldl (· + ·) 0), 0)
    else (j, dotFloat f cj (is.map fun i => mulVal (fv f (e.a i)) (fv f (e.b i)))))) .none

/-! ## The operations -/

/-- VMOV (R242). -/
def execVmov (x : VSlot) (f : VF) (s : State) : Host.Outcome State Fault Refusal :=
  issueSolo (vSlotNo x) (.vmov x f) (actVmov x f) s

/-- VBCST (R242). -/
def execVbcst (x : VSlot) (f : VF) (s : State) : Host.Outcome State Fault Refusal :=
  issueSolo (vSlotNo x) (.vbcst x f) (actVbcst x f) s

/-- VIOTA (R242). -/
def execViota (x : VSlot) (f : VF) (s : State) : Host.Outcome State Fault Refusal :=
  issueSolo (vSlotNo x) (.viota x f) (actViota x f) s

/-- VPERM (R242). -/
def execVperm (x : VSlot) (f : VF) (s : State) : Host.Outcome State Fault Refusal :=
  issueSolo (vSlotNo x) (.vperm x f) (actVperm x f) s

/-- VCMPS (R242). -/
def execVcmps (x : VSlot) (f : VF) (s : State) : Host.Outcome State Fault Refusal :=
  issueSolo (vSlotNo x) (.vcmps x f) (actVcmps x f) s

/-- VEXPD (R242). -/
def execVexpd (x : VSlot) (f : VF) (s : State) : Host.Outcome State Fault Refusal :=
  issueSolo (vSlotNo x) (.vexpd x f) (actVexpd x f) s

/-- VXV (R242). -/
def execVxv (x : VSlot) (f : VF) (s : State) : Host.Outcome State Fault Refusal :=
  issueSolo (vSlotNo x) (.vxv x f) (actVxv x f) s

/-- VSHFL (R243). -/
def execVshfl (x : VSlot) (f : VF) (s : State) : Host.Outcome State Fault Refusal :=
  issueSolo (vSlotNo x) (.vshfl x f) (actVshfl x f) s

/-- VRED (R244). -/
def execVred (x : VSlot) (f : VF) (s : State) : Host.Outcome State Fault Refusal :=
  issueSolo (vSlotNo x) (.vred x f) (actVred x f) s

/-- VSCAN (R245). -/
def execVscan (x : VSlot) (f : VF) (s : State) : Host.Outcome State Fault Refusal :=
  issueSolo (vSlotNo x) (.vscan x f) (actVscan x f) s

/-- VDOT (R246). -/
def execVdot (x : VSlot) (f : VF) (s : State) : Host.Outcome State Fault Refusal :=
  issueSolo (vSlotNo x) (.vdot x f) (actVdot x f) s

end Sys2Proof.Machine
end

