-- ==== Sys2Proof/Machine/Leaf.lean ====
section
/-!
DEFINITION. What the built-in opcodes compute on one piece (R112 to R121): the firmware kernel of a leaf task as one step
(log entry 13), and a level-0 tile instruction (R219).
-/
namespace Sys2Proof.Machine

/-! ## Elements of operands (R43, R46, R47, R68) -/

/-- The linear number of coordinates in extents, axis 0 fastest. -/
def linOf : List Nat → List Nat → Nat
  | e :: es, i :: is => i + e * linOf es is
  | _, _ => 0

/-- The element of an operand at coordinates over its rank. -/
def elemAt (o : Operand) (cs : List Nat) : Nat := linOf (dExts o.desc) cs

/-- The bits of an element of an operand, read by core c under the check of R71: a plain load, or the consumption of a
stream (R118). The page must have the role of the element's region in the copy that the instruction uses (R71, R441). -/
def elemBits (s : State) (c : Nat) (o : Operand) (i : Nat) : Except Trap Nat :=
  let d := o.desc
  let va := elemVa d i
  let b := codeBits (dFmt d)
  match access s c va (if !dMixed d && dRole d = 1 then .consume else .load) 0 0 with
  | .error t => .error t
  | .ok x =>
    if x.role ≠ elemRole o i then .error (trapAt 0x07 va 0 0)
    else .ok ((seenNum s (ctxOfCore s c) (xlatRead s (ctxOfCore s c) x va) (max 1 (b / 8)) >>> (elemBit d i % 8).toNat) % 2 ^ b)

/-- The block scale of an element (R46): `none` for an unscaled tensor. A tensor that names no scale tensor has a free
scale. DESIGN CHOICE (log entry 58): no rule says what a scale tensor with other extents than those of R46 does; nothing is rejected, and
the scale is the element of that tensor that its own extents and strides give for the block's coordinates. -/
def elemScale (s : State) (c : Nat) (d : BitVec 512) (i : Nat) : Except Trap (Option Nat) :=
  let mode := df d 103 102
  if mode = 0 then .ok none
  else if df d 159 144 = 0 then .ok (some ((Config.freeWord s.free).toNat % 256))
  else
    let h := mkHandle (ctxOfCore s c) (df d 159 144) (df d 191 160)
    match openOperand s (ctxOfCore s c) h with
    | none => .error (trapGen 0 h)
    | some so =>
      let cs := coords (dExts d) i
      let block := if mode = 1 then (cs.headD 0) / 32 :: cs.drop 1
        else (cs.take 2).map (· / 16) ++ cs.drop 2
      (elemBits s c so (linOf (dExts so.desc) block)).map some

/-- The codebook of a CB4 tensor (R43): preset, or an IMM tensor of 32 bytes; one of another role takes a role fault. Its
32 bytes are read at its base whatever its valid bit, format and size say, and a mixed one takes the role fault: DESIGN CHOICE, log entry
23. -/
def tensorBook (s : State) (c : Nat) (d : BitVec 512) : Except Trap (List Nat) :=
  let n := df d 207 192
  if dFmt d ≠ 12 then .ok []
  else if n = 0xF0 then .ok bookF0
  else if n = 0xF1 then .ok bookF1
  else if n = 0 then .ok ((List.range 16).map fun i => (Config.freeWord (s.free + i)).toNat % 2 ^ 16)
  else
    let cd := descOf s (ctxOfCore s c) n
    if dMixed cd || dRole cd ≠ 0 then .error (trapAt 0x07 (dBase cd) 0 0)
    else match access s c (dBase cd) .load 0 0 with
      | .error t => .error t
      | .ok x => if x.role ≠ 0 then .error (trapAt 0x07 (dBase cd) 0 0) else .ok (bookOf (seenNum s (ctxOfCore s c) (xlatRead s (ctxOfCore s c) x (dBase cd)) 32))

/-- The value of an element with its scale and codebook (R43, R47), exact. -/
def elemValue (s : State) (c : Nat) (o : Operand) (i : Nat) : Except Trap Val :=
  let d := o.desc
  match elemBits s c o i, elemScale s c d i, tensorBook s c d with
  | .ok b, .ok sc, .ok book =>
    let v := if dFmt d = 12 then bookVal book b else elemVal ((fmtOf (dFmt d)).getD .i8) b
    .ok (match sc with | some z => dequant z v | none => v)
  | .error t, _, _ => .error t
  | _, .error t, _ => .error t
  | _, _, .error t => .error t

/-- A value converted to an element of a descriptor (R34, R38, R39, R45, R48): bits and flags. Between integer formats the
value saturates with `SAT` alone, as R275 has it. -/
def toElem (s : State) (c : Nat) (d : BitVec 512) (i : Nat) (rm : RM) (fromInt : Bool) (v : Val) : Except Trap (Nat × Nat) :=
  let f := (fmtOf (dFmt d)).getD .i8
  match elemScale s c d i, tensorBook s c d with
  | .error t, _ => .error t
  | _, .error t => .error t
  | .ok sc, .ok book => match sc with
    | some z => let r := quantElem f book rm 0 z v; .ok (r.1, r.2.1)
    | none =>
      if f = .cb4 then .ok (quantCb4 book v)
      else
        let r := toFmt f rm 0 false v
        .ok (if fromInt && isInt f then (r.1, r.2 &&& fSAT) else r)

/-! ## Outputs of a leaf -/

/-- What a leaf leaves: an add into an element of `OPC`, the bits of an element of an operand, the all-zero holding form of
an element (R119), or the partial of a chunk or a span (R111, R120). -/
inductive LeafOut where
  | add (elem : Nat) (vf : Nat) (bits : Nat)
  | put (opd elem bits : Nat)
  | hold (elem : Nat)
  | part (elem chunk bits : Nat)
  deriving DecidableEq, Repr

/-- What a leaf computed: outputs, flags, the sticky overflow, and the accumulators of its last accumulation by row and
column (R219). -/
structure LeafRes where
  outs : List LeafOut
  flags : Nat
  iovf : Bool
  acc : List (Nat × Nat × Nat)
  deriving DecidableEq, Repr

/-- Nothing computed. -/
def LeafRes.none : LeafRes := ⟨[], 0, false, []⟩

/-- Two results, in order. -/
def LeafRes.join (a b : LeafRes) : LeafRes :=
  ⟨a.outs ++ b.outs, a.flags ||| b.flags, a.iovf || b.iovf, a.acc ++ b.acc⟩

/-- The results of several parts, joined; the first trap decides. -/
def joinAll {α : Type} (f : α → Except Trap LeafRes) : List α → Except Trap LeafRes
  | [] => .ok .none
  | x :: r => match f x, joinAll f r with
    | .ok a, .ok b => .ok (a.join b)
    | .error t, _ => .error t
    | _, .error t => .error t

/-- Results of several parts; the first trap decides. -/
def allOf {α β : Type} (f : α → Except Trap β) : List α → Except Trap (List β)
  | [] => .ok []
  | x :: r => match f x, allOf f r with
    | .ok a, .ok b => .ok (a :: b)
    | .error t, _ => .error t
    | _, .error t => .error t

/-- The output of an accumulator-format value for an element of `OPC` (R112, R116): an add in an ACC region, else its
conversion. -/
def settle (s : State) (c : Nat) (o : Operand) (rm : RM) (acc : Fmt) (elem bits : Nat) : Except Trap LeafRes :=
  if elemRole o elem = 2 then .ok ⟨[.add elem (fmtCode acc) bits], 0, false, []⟩
  else match toElem s c o.desc elem rm (isInt acc) (elemVal acc bits) with
    | .ok r => .ok ⟨[.put 2 elem r.1], r.2, false, []⟩
    | .error t => .error t

/-! ## Matrix products (R112 to R114) -/

/-- An operand of an instruction that acceptance has found present. -/
def opdI (i : TileInst) (n : Nat) : Option Operand := match n with | 0 => i.a | 1 => i.b | 2 => i.c | _ => i.d

/-- The operands of an accepted instruction. -/
def opdsI (i : TileInst) : Opds := [i.a, i.b, i.c, i.d]

/-- Coordinates of an operand: two axes and the batch indices, a batch extent of 1 broadcast (R112). -/
def batched (o : Operand) (x y : Nat) (batch : List Nat) : List Nat :=
  (([x, y] ++ ((List.range 3).zip batch).map fun q => if oExt (some o) (2 + q.1) = 1 then 0 else q.2)).take (dRank o.desc)

/-- The batch indices of a batch number (R107). -/
def batchIdx (exts : List Nat) (b : Nat) : List Nat := coords exts b

/-- What a matrix product reads and writes: its terms as elements. -/
structure Product where
  k : Nat
  /-- element of A at row m and contraction index k, if any -/
  aAt : Nat → Nat → Option Nat
  /-- element of B at contraction index k and column n -/
  bAt : Nat → Nat → Nat
  /-- element of C at row m and column n -/
  cAt : Nat → Nat → Nat
  /-- element of the bias at row m and column n -/
  bias : Nat → Nat → Option Nat
  /-- element of the sparsity bitmap of contraction index k and column n -/
  skip : Nat → Nat → Option Nat

/-- The terms of TMM and TMMG (R112, R113); `rowOf` maps a row of C to a row of A. -/
def matTerms (i : TileInst) (a b c : Operand) (batch : Nat) (rowOf : Nat → Nat) : Product :=
  let t := i.tile
  let gathered := tileOp t = 2
  let ta := bitOf t.param 3 && !gathered
  let tb := bitOf t.param 4
  let bi := batchIdx (indexSpace t (opdsI i)).2.2 batch
  { k := oExt (some a) (b2n ta)
    aAt := fun m k => some (elemAt a (if ta then batched a (rowOf m) k bi else batched a k (rowOf m) bi))
    bAt := fun k n => elemAt b (if tb then batched b n k bi else batched b k n bi)
    cAt := fun m n => elemAt c (batched c n m bi)
    bias := fun m n => if !gathered && bitOf t.param 5
      then i.d.map fun x => elemAt x ([n, if oExt (some x) 1 = 1 then 0 else m].take (dRank x.desc)) else none
    skip := fun k n => if !gathered && bitOf t.param 6
      then i.d.map fun x => elemAt x ([n / 8, k / 8].take (dRank x.desc)) else none }

/-- The terms of TCONV (R114). -/
def convTerms (i : TileInst) (a b c : Operand) : Product :=
  let t := i.tile
  let hw := convOut t (opdsI i)
  let ch := max 1 (oExt (some a) 0)
  let sN := max 1 (oExt (some b) 1)
  let at_ (m : Nat) : Nat × Nat × Nat := (m / (hw.1 * hw.2), m / hw.2 % hw.1, m % hw.2)
  { k := oExt (some b) 2 * oExt (some b) 1 * oExt (some a) 0
    aAt := fun m k =>
      let q := at_ m
      let y : Int := (q.2.1 * tp t 6 3 + k / ch / sN * tp t 14 11 : Nat) - (tp t 26 19 : Int)
      let x : Int := (q.2.2 * tp t 10 7 + k / ch % sN * tp t 18 15 : Nat) - (tp t 42 35 : Int)
      if 0 ≤ y && y < (oExt (some a) 2 : Int) && 0 ≤ x && x < (oExt (some a) 1 : Int)
      then some (elemAt a ([k % ch, x.toNat, y.toNat, q.1].take (dRank a.desc))) else none
    bAt := fun k n => elemAt b ([k % ch, k / ch % sN, k / ch / sN, n].take (dRank b.desc))
    cAt := fun m n =>
      let q := at_ m
      elemAt c ([n, q.2.2, q.2.1, q.1].take (dRank c.desc))
    bias := fun _ _ => none
    skip := fun _ _ => none }

/-- One pair of a contraction: a term outside the image or in a skipped block is +0 × +0 (R58, R114). -/
def pairAt (s : State) (c : Nat) (a b : Operand) (x : Option Operand) (p : Product) (m n k : Nat) : Except Trap (Val × Val) :=
  let zero : Val := .fin false 0 0
  let skipped : Except Trap Bool := match x, p.skip k n with
    | some x, some e => (elemBits s c x e).map fun v => decide (v = 1)
    | _, _ => .ok false
  match skipped, p.aAt m k with
  | .error t, _ => .error t
  | .ok true, _ => .ok (zero, zero)
  | .ok false, none => .ok (zero, zero)
  | .ok false, some e => match elemValue s c a e, elemValue s c b (p.bAt k n) with
    | .ok u, .ok v => .ok (u, v)
    | .error t, _ => .error t
    | _, .error t => .error t

/-- tmm_element of R112: the partial of a chunk, its flags and its overflow. -/
def productElem (s : State) (c : Nat) (i : TileInst) (a b : Operand) (p : Product) (chunk m n : Nat) : Except Trap (Nat × Nat × Bool) :=
  let fa := (fmtOf (dFmt a.desc)).getD .i8
  let acc := tileAcc (dFmt a.desc)
  let split := tKs i.tile
  let k0 := if split then 4096 * chunk else 0
  let kn := if split then min (k0 + 4096) p.k else p.k
  let start : Except Trap Nat := match i.d, (if chunk = 0 then p.bias m n else none) with
    | some x, some e => (elemValue s c x e).map fun v => (toFmt acc .rne 0 false v).1
    | _, _ => .ok 0
  match start, allOf (pairAt s c a b i.d p m n) ((List.range (kn - k0)).map (k0 + ·)) with
  | .ok z, .ok ps => .ok (accumulated s fa z (128 * m + n) (ps.map (·.1)) (ps.map (·.2)))
  | .error t, _ => .error t
  | _, .error t => .error t

/-- The rows and columns of a piece. -/
def cells (p : Piece) : List (Nat × Nat) :=
  (List.range p.rows).flatMap fun r => (List.range p.cols).map fun k => (p.row0 + r, p.col0 + k)

/-- The product of one piece (R112): an ACC output takes each chunk's partial; a split OWN output stages it (R111). -/
def leafProduct (s : State) (c : Nat) (i : TileInst) (a b o : Operand) (q : Product) (p : Piece) : Except Trap LeafRes :=
  joinAll (fun mn =>
    match productElem s c i a b q p.chunk mn.1 mn.2 with
    | .error t => .error t
    | .ok v =>
      let e := q.cAt mn.1 mn.2
      let acc := [(mn.1 - p.row0, mn.2 - p.col0, v.1)]
      let part : Bool := decide (1 < chunkCount i.tile (opdsI i)) && decide (elemRole o e ≠ 2)
      if part then .ok ⟨[.part e p.chunk v.1], v.2.1, v.2.2, acc⟩
      else (settle s c o (tRm i.tile) (tileAcc (dFmt a.desc)) e v.1).map fun r =>
        ⟨r.outs, r.flags ||| v.2.1, v.2.2, acc⟩) (cells p)

/-- The row of A that each row of C of a piece takes (R113); an index outside A ends the piece with cause 0x0B. -/
def gatherRows (s : State) (c : Nat) (a x : Operand) (p : Piece) : Except Trap (List (Nat × Nat)) :=
  allOf (fun g => match elemBits s c x g with
    | .error t => .error t
    | .ok v =>
      if 0 ≤ signedOf 32 v && signedOf 32 v < (oExt (some a) 1 : Int) then .ok (g, v)
      else .error (trapOf 0x0B g)) ((List.range p.rows).map (p.row0 + ·))

/-! ## Reductions and scans (R116, R117) -/

/-- The combine operation of `OP` in the order of `combineFmt`. -/
def tileRedOp (t : Tile) : Nat := [0, 2, 3, 4, 5, 6, 1].getD (tp t 8 6) 0

/-- The fixed tree of R111 over partials. -/
def fixedTree (acc : Fmt) (op : Nat) (ps : List Nat) : Nat × Nat :=
  treeReduce (combineFmt acc op .rne) ps.length (ps.map fun p => (p, 0))

/-- The input values of an axis in the accumulation format, for an index range, with the flags of their conversion. -/
def axisVals (s : State) (c : Nat) (a : Operand) (acc : Fmt) (ax : Nat) (cs : List Nat) (lo n : Nat) : Except Trap (List (Nat × Nat)) :=
  allOf (fun j => (elemValue s c a (elemAt a (cs.set ax (lo + j)))).map fun v => toFmt acc .rne 0 false v) (List.range n)

/-- The coordinates of an element of the index space: column, row and batch indices. -/
def cellCoords (i : TileInst) (p : Piece) (o : Operand) (mn : Nat × Nat) : List Nat :=
  ([mn.2, mn.1] ++ batchIdx (indexSpace i.tile (opdsI i)).2.2 p.batch).take (dRank o.desc)

/-- One chunk of a TRED (R59, R60): absent lanes are identities. -/
def redChunk (acc : Fmt) (op : Nat) (vs : List (Nat × Nat)) : Nat × Nat :=
  treeReduce (combineFmt acc op .rne) 12 (vs ++ List.replicate (4096 - vs.length) (identityOf acc op, 0))

/-- TRED on one piece. -/
def leafRed (s : State) (c : Nat) (i : TileInst) (a o : Operand) (p : Piece) : Except Trap LeafRes :=
  let acc := (redAcc i.tile).getD .f32
  let op := tileRedOp i.tile
  let ax := tp i.tile 5 3
  let n := oExt (some a) ax
  let all := ceilDiv n 4096
  joinAll (fun mn =>
    let cs := cellCoords i p o mn
    let chunks := if tKs i.tile then [p.chunk] else List.range all
    match allOf (fun ch => (axisVals s c a acc ax cs (4096 * ch) (min 4096 (n - 4096 * ch))).map (redChunk acc op)) chunks with
    | .error t => .error t
    | .ok ps =>
      let e := elemAt o cs
      let fl := ps.foldl (fun x q => x ||| q.2) 0
      if tKs i.tile && decide (1 < all) then .ok ⟨[.part e p.chunk (ps.headD (0, 0)).1], fl, false, []⟩
      else
        let v := fixedTree acc op (ps.map (·.1))
        (settle s c o (tRm i.tile) acc e v.1).map fun r => { r with flags := r.flags ||| fl ||| v.2 }) (cells p)

/-- The inclusive results of a chunk with its carry (R117): heads, values, the carry before it. -/
def scanChunk (acc : Fmt) (op heads : Nat) (vs : List (Nat × Nat)) (carry : Option (Nat × Nat)) : List (Nat × Nat) :=
  let first := (List.range vs.length).find? heads.testBit
  (List.range vs.length).map fun j =>
    let h := segStart heads j
    let lv := treeLevels (combineFmt acc op .rne) 13 ((vs.drop h).take (j + 1 - h))
    let l0 := scanLane (combineFmt acc op .rne) lv 12 (j - h)
    let l := (canonLane acc l0.1, l0.2)
    match carry with
    | none => l
    | some q =>
      if first.getD vs.length ≤ j then l
      else
        let r := combineFmt acc op .rne q.1 l.1
        (r.1, r.2 ||| l.2 ||| q.2)

/-- The inclusive results of an axis, chunk after chunk. -/
def scanAxis (acc : Fmt) (op : Nat) : List (Nat × List (Nat × Nat)) → Option (Nat × Nat) → List (Nat × Nat)
  | [], _ => []
  | (heads, vs) :: r, carry =>
    let out := scanChunk acc op heads vs carry
    out ++ scanAxis acc op r (out.getLast?.or carry)

/-- The head bits of a chunk. -/
def headBits (s : State) (c : Nat) (b : Option Operand) (ax : Nat) (cs : List Nat) (lo n : Nat) : Except Trap Nat :=
  match b with
  | none => .ok 0
  | some b => (allOf (fun j => elemBits s c b (elemAt b (cs.set ax (lo + j)))) (List.range n)).map (packFields 1)

/-- TSCAN on one piece: of a split axis, the elements of its own chunk. -/
def leafScan (s : State) (c : Nat) (i : TileInst) (a o : Operand) (p : Piece) : Except Trap LeafRes :=
  let acc := (redAcc i.tile).getD .f32
  let op := tileRedOp i.tile
  let ax := tp i.tile 5 3
  let n := oExt (some a) ax
  joinAll (fun mn =>
    let cs := cellCoords i p o mn
    let j := cs.getD ax 0
    if tKs i.tile && j / 4096 ≠ p.chunk then .ok .none
    else match allOf (fun ch =>
        match headBits s c i.b ax cs (4096 * ch) (min 4096 (n - 4096 * ch)), axisVals s c a acc ax cs (4096 * ch) (min 4096 (n - 4096 * ch)) with
        | .ok h, .ok v => .ok (h, v)
        | .error t, _ => .error t
        | _, .error t => .error t) (List.range (j / 4096 + 1)) with
      | .error t => .error t
      | .ok cks =>
        let incl := scanAxis acc op cks none
        let starts : Bool := decide (j = 0) || ((cks.getD (j / 4096) (0, [])).1).testBit (j % 4096)
        let v : Nat × Nat :=
          if !bitOf i.tile.param 13 then incl.getD j (0, 0)
          else if starts then (identityOf acc op, 0)
          else incl.getD (j - 1) (0, 0)
        (settle s c o (tRm i.tile) acc (elemAt o cs) v.1).map fun r => { r with flags := r.flags ||| v.2 }) (cells p)

/-! ## Copies, fills and checks (R118 to R120) -/

/-- The source is integer, for conversions between integer formats. -/
def copyElem (s : State) (c : Nat) (t : Tile) (a o : Operand) (e : Nat) : Except Trap LeafRes :=
  if dFmt a.desc = 14 then (elemBits s c a e).map fun b => ⟨[.put 2 e b], 0, false, []⟩
  else match elemValue s c a e with
    | .error t => .error t
    | .ok v => match toElem s c o.desc e (tRm t) (isIntCode (dFmt a.desc) && df a.desc 103 102 = 0) v with
      | .error t => .error t
      | .ok r => .ok ⟨[if elemRole o e = 2 then .add e (dFmt o.desc) r.1 else .put 2 e r.1], r.2, false, []⟩

/-- TFILL of one element (R119). -/
def fillElem (t : Tile) (o : Operand) (e : Nat) : LeafRes :=
  ⟨[if elemRole o e = 2 then .hold e else .put 2 e (lowBits (codeBits (dFmt o.desc)) t.param.toNat)], 0, false, []⟩

/-- Byte j of the canonical byte sequence of a tensor (R328). -/
def canonByte (s : State) (c : Nat) (o : Operand) (j : Nat) : Except Trap Nat :=
  let d := o.desc
  let b := codeBits (dFmt d)
  if 8 ≤ b then (elemBits s c o (j / (b / 8))).map fun v => fieldAt v 8 (j % (b / 8))
  else
    let n := 8 / max b 1
    (allOf (fun k => if n * j + k < dCount d then elemBits s c o (n * j + k) else .ok 0) (List.range n)).map (packFields b)

/-- TCHK of a span (R120). -/
def leafChk (s : State) (c : Nat) (a : Operand) (p : Piece) : Except Trap LeafRes :=
  (allOf (canonByte s c a) ((List.range p.rows).map (p.row0 + ·))).map fun bs =>
    ⟨[.part 0 p.row0 (crc64 bs false 0)], 0, false, []⟩

/-! ## Projections (R121, R298) -/

/-- The working format of rows (R298). -/
def rowAcc (fmt : Nat) : Fmt := if fmt = 6 then .f64 else .f32

/-- Entry j of a parameter tensor. -/
def prjParam (s : State) (c : Nat) (o : Option Operand) (j : Nat) (dflt : Val) : Except Trap Val :=
  match o with
  | some o => (elemBits s c o j).map (floatVal .f32)
  | none => .ok dflt

/-- A value of a projected row or gradient as an output of `OPC`. -/
def rowOut (s : State) (c : Nat) (o : Operand) (rm : RM) (e : Nat) (v : Val) : Except Trap LeafRes :=
  if elemRole o e = 2 && dFmt o.desc = 13 then
    let r := roundFloat .f64 .rne 0 false v
    .ok ⟨[.add e 6 r.1], 0, false, []⟩
  else (toElem s c o.desc e rm false v).map fun r =>
    ⟨[if elemRole o e = 2 then .add e (dFmt o.desc) r.1 else .put 2 e r.1], r.2, false, []⟩

/-- The linear number of a row of the index space. -/
def rowNumber (i : TileInst) (p : Piece) (m : Nat) : Nat := p.batch * (indexSpace i.tile (opdsI i)).1 + m

/-- The 32 bytes of a record as elements of a record tensor. -/
def recordOuts (opd row rec_ : Nat) : List LeafOut :=
  (List.range 32).map fun b => .put opd (32 * row + b) (fieldAt rec_ 8 b)

/-- TPRJ of one row. -/
def prjRow (s : State) (c : Nat) (i : TileInst) (a o : Operand) (p : Piece) (m : Nat) : Except Trap LeafRes :=
  let acc := rowAcc (dFmt a.desc)
  let n := p.cols
  let el (k : Nat) : Nat := elemAt o (cellCoords i p o (m, p.col0 + k))
  let zero : Val := .fin false 0 0
  match allOf (fun k => elemValue s c a (elemAt a (cellCoords i p a (m, p.col0 + k)))) (List.range n),
      allOf (fun j => prjParam s c i.b j zero) [0, 1, 2] with
  | .ok xs, .ok ps =>
    let ys := ((List.range n).zip xs).map fun q =>
      let v := mulVal q.2 (ps.getD 0 zero)
      let r := roundFloat acc .rne 0 false v.1
      (q.1, r.1, v.2 ||| r.2)
    let pr := project acc (tp i.tile 2 0) (ys.map fun y => (y.1, floatVal acc y.2.1)) (ps.getD 1 zero) (ps.getD 2 zero)
    let fl := ys.foldl (fun x y => x ||| y.2.2) pr.flags
    match joinAll (fun (x : Nat × Nat) => rowOut s c o (tRm i.tile) (el x.1) (floatVal acc x.2)) pr.xs with
    | .error t => .error t
    | .ok r => .ok { r with flags := r.flags ||| fl
                            outs := r.outs ++ (if i.d.isSome then recordOuts 3 (rowNumber i p m) pr.record else []) }
  | .error t, _ => .error t
  | _, .error t => .error t

/-- TPRJA of one row. -/
def prjaTileRow (s : State) (c : Nat) (i : TileInst) (a b o : Operand) (p : Piece) (m : Nat) : Except Trap LeafRes :=
  let acc := rowAcc (dFmt b.desc)
  let set := tp i.tile 2 0
  let ns := List.range p.cols
  match allOf (fun k => elemBits s c a (32 * rowNumber i p m + k)) (List.range 32),
      allOf (fun n => (elemValue s c b (elemAt b (cellCoords i p b (m, p.col0 + n)))).map fun v => (n, v)) ns,
      prjParam s c i.d 0 (intVal 1) with
  | .ok bs, .ok gs, .ok t =>
    let rec_ := packFields 8 bs
    joinAll (fun n =>
      let e := elemAt o (cellCoords i p o (m, p.col0 + n))
      if rec_.testBit 156 then rowOut s c o .rne e (.nan false)
      else if (rec_ >>> 152) % 8 ≠ set then (rowOut s c o .rne e (.nan false)).map fun r => { r with flags := r.flags ||| fINV }
      else match adjoint false acc set rec_ t gs [] [] (.fin false 0 0) n with
        | some v => (rowOut s c o .rne e v.1).map fun r => { r with flags := r.flags ||| v.2 }
        | none => .ok ⟨[.put 2 e ((Config.freeWord (s.free + n)).toNat % 2 ^ codeBits (dFmt o.desc))], 0, false, []⟩) ns
  | .error t, _, _ => .error t
  | _, .error t, _ => .error t
  | _, _, .error t => .error t

/-! ## The leaf of an opcode -/

/-- What the leaf of a built-in opcode computes on a piece. -/
def leafOf (s : State) (c : Nat) (i : TileInst) (p : Piece) : Except Trap LeafRes :=
  let rows := (List.range p.rows).map (p.row0 + ·)
  match tileOp i.tile, i.a, i.b, i.c with
  | 1, some a, some b, some o => leafProduct s c i a b o (matTerms i a b o p.batch id) p
  | 2, some a, some b, some o => match i.d with
    | some x => match gatherRows s c a x p with
      | .error t => .error t
      | .ok g => leafProduct s c i a b o (matTerms i a b o p.batch fun m => ((g.find? fun q => q.1 = m).map (·.2)).getD 0) p
    | none => .ok .none
  | 3, some a, some b, some o => leafProduct s c i a b o (convTerms i a b o) p
  | 5, some a, _, some o => leafRed s c i a o p
  | 6, some a, _, some o => leafScan s c i a o p
  | 7, some a, _, some o => joinAll (fun mn => copyElem s c i.tile a o (elemAt o (cellCoords i p o mn))) (cells p)
  | 9, some a, _, some o => joinAll (prjRow s c i a o p) rows
  | 10, some a, some b, some o => joinAll (prjaTileRow s c i a b o p) rows
  | 12, _, _, some o => joinAll (fun mn => .ok (fillElem i.tile o (elemAt o (cellCoords i p o mn)))) (cells p)
  | 15, some a, _, _ => leafChk s c a p
  | _, _, _, _ => .ok .none

/-! ## Its outputs taking effect (R71, R128) -/

/-- An output with the place that R71 gives it: masked bytes, or an ACC add. -/
inductive Placed where
  | bytes (ws : List (Nat × BitVec 8 × BitVec 8))
  | add (a : AccAdd)
  | part (elem chunk bits : Nat)
  deriving DecidableEq, Repr

/-- The masked bytes of an element's bits at a home key. -/
def elemWrite (d : BitVec 512) (i key bits : Nat) : List (Nat × BitVec 8 × BitVec 8) :=
  let b := codeBits (dFmt d)
  let sh := (elemBit d i % 8).toNat
  if b < 8 then [(key, BitVec.ofNat 8 (ones b <<< sh), BitVec.ofNat 8 (bits <<< sh))] else wholeBytes key (b / 8) bits

/-- An ACC add of a tensor's element at a home key. -/
def addOf (o : Operand) (ctx key vf bits : Nat) (staged : Option Nat) : AccAdd :=
  ⟨ctx, hIndex o.handle, hGen o.handle, key, dComb o.desc, dFmt o.desc, dElo o.desc, vf, bits, staged, none, false⟩

/-- The check of an OWN output element against its page: one that is IMM by now disagrees with the copy that the instruction uses, a
role fault at staging (R71, R441). -/
def placeOwn (s : State) (c va : Nat) : Except Trap Xlat :=
  match access s c va .store 0 0 with
  | .error t => .error (if t.cause = 0x06 then trapAt 0x07 va 0 0 else t)
  | .ok x => .ok x

/-- An output checked against its pages by a core (R71). -/
def place (s : State) (c : Nat) (i : TileInst) (staged : Option Nat) (u : LeafOut) : Except Trap Placed :=
  match u with
  | .part e ch b => .ok (.part e ch b)
  | .put n e b => match opdI i n with
    | some o => (placeOwn s c (elemVa o.desc e)).map fun x => .bytes (elemWrite o.desc e (xlatHome x (elemVa o.desc e)) b)
    | none => .ok (.bytes [])
  | .hold e => match i.c with
    | some o => (access s c (elemVa o.desc e) .accAdd 0 0).map fun x => .bytes (wholeBytes (xlatHome x (elemVa o.desc e)) (holdSize o.desc) 0)
    | none => .ok (.bytes [])
  | .add e vf b => match i.c with
    | some o => (access s c (elemVa o.desc e) .accAdd 0 0).map fun x => .add (addOf o i.ctx (xlatHome x (elemVa o.desc e)) vf b staged)
    | none => .ok (.bytes [])

/-- The races of a leaf's outputs with other units' accesses (R348): the bytes that it stores. -/
def raceOuts (s : State) (c : Nat) (us : List Placed) : State :=
  let bits := us.flatMap fun u => match u with | .bytes ws => ws.map fun w => (w.1, w.2.1.toNat) | _ => []
  raceCasts (raceWith s (ctxOfCore s c) bits true (otherUnits s c)) c (bits.map (·.1))

/-- The races of an instruction that reads and writes tensors in place, noted before its leaf reads: OWN tensors that it shares with
another instruction in flight, one of the two writing (R131), and OWN inputs that other units are storing to (R348). -/
def raceLeaf (s : State) (c : Nat) (i : TileInst) : State :=
  let a := accessorOf s c i
  let s := (opdList i).foldl (fun s o =>
    if (allInsts s).any (actsWith s a) then raceTiles s i.ctx (ownKeys s i.ctx o.2) (writesOpd i.tile o.1) a else s) s
  let us := (otherUnits s c).filter fun u => !u.stores.isEmpty
  if us.isEmpty then s
  else raceWith s i.ctx ((opdList i).flatMap fun o => if writesOpd i.tile o.1 then [] else (ownKeys s i.ctx o.2).map fun k => (k, 255)) false us

/-- A placed output takes effect: the state and the flags of an add. -/
def landPlaced (piece : Nat) (q : State × Nat) (u : Placed) : State × Nat :=
  match u with
  | .bytes ws => (softBytes (setMem q.1 (memMasked q.1.mem ws)) (ws.map (·.1)), q.2)
  | .add a => let r := landAdd q.1 a; (r.1, q.2 ||| r.2)
  | .part e ch b =>
    ({ q.1 with pieces := q.1.pieces.map fun p => if p.id = piece then { p with partials := p.partials ++ [(e, ch, b)] } else p }, q.2)

/-- The outputs of a leaf take effect, all or none. -/
def commitLeaf (s : State) (c : Nat) (i : TileInst) (p : Piece) (r : LeafRes) : Except Trap (State × Nat) :=
  match allOf (place s c i (if tCar i.tile then some p.id else none)) r.outs with
  | .error t => .error t
  | .ok us => .ok (us.foldl (landPlaced p.id) (raceOuts s c us, r.flags))

/-- The counter of free values past what a leaf may take. -/
def pastLeaf (s : State) : State := { s with free := s.free + 2 ^ 72 }

end Sys2Proof.Machine
end

