-- ==== Sys2Proof/Machine/Place.lean ====
section
/-!
DEFINITION. Pieces and their placement (R107, R108, R127, R148 to R157), the staging that merges upward (R128), and the
records of faults and completions (R132, R146, R147, R428, R429).
-/
namespace Sys2Proof.Machine

/-! ## Pieces (R107, R108) -/

/-- The extent of child pieces at a level: rows and columns, or bytes of a TCHK (R120). -/
def childExtent (op lvl : Nat) : Nat × Nat :=
  if op = 15 then (2 ^ (16 + 2 * lvl), 1)
  else match lvl with
    | 4 => (1024, 1024)
    | 3 => (512, 512)
    | 2 => (128, 128)
    | _ => (64, 128)

/-- The children that a piece is cut into: rows of pieces, columns of pieces, batches, chunks. -/
def cutOf (i : TileInst) (p : Piece) : Nat × Nat × Nat × Nat :=
  if isWhole i.tile (opdsI i) then (1, 1, 1, 1)
  else
    let e := childExtent (tileOp i.tile) (p.level - 1)
    let root := decide (p.level = 5)
    (ceilDiv p.rows e.1, ceilDiv p.cols e.2,
     if root then (indexSpace i.tile (opdsI i)).2.2.foldl (· * ·) 1 else 1,
     if root then chunkCount i.tile (opdsI i) else 1)

/-- How many children a piece has. -/
def childCount (i : TileInst) (p : Piece) : Nat :=
  let k := cutOf i p
  k.1 * k.2.1 * k.2.2.1 * k.2.2.2

/-- Child number n of a piece (R107), received by a unit, with a fresh identity and place. -/
def childPiece (i : TileInst) (p : Piece) (n unit id seq : Nat) : Piece :=
  let k := cutOf i p
  let whole := isWhole i.tile (opdsI i)
  let root := decide (p.level = 5)
  let c := n % k.2.2.2
  let ij := n / k.2.2.2 % (k.1 * k.2.1)
  let b := n / k.2.2.2 / (k.1 * k.2.1)
  let e := childExtent (tileOp i.tile) (p.level - 1)
  let r := ij / k.2.1
  let q := ij % k.2.1
  { id := id, tile := i.id, parent := p.id, level := p.level - 1, number := n
    row0 := if whole then p.row0 else p.row0 + r * e.1
    rows := if whole then p.rows else min e.1 (p.rows - r * e.1)
    col0 := if whole then p.col0 else p.col0 + q * e.2
    cols := if whole then p.cols else min e.2 (p.cols - q * e.2)
    batch := if root && !whole then b else p.batch
    chunk := if root && !whole then c else p.chunk
    unit := unit, next := 0, state := .queued, pri := i.pri, aged := 0, seq := seq, retries := p.retries, pin := none
    staging := [], partials := [], flags := 0, iovf := false }

/-- The piece of the whole index space, held by the package (R107). -/
def rootPiece (i : TileInst) (id seq : Nat) : Piece :=
  let sp := indexSpace i.tile (opdsI i)
  { id := id, tile := i.id, parent := id, level := 5, number := 0, row0 := 0, rows := sp.1, col0 := 0, cols := sp.2.1
    batch := 0, chunk := 0, unit := 0, next := 0, state := .queued, pri := i.pri, aged := 0, seq := seq, retries := 0, pin := none
    staging := [], partials := [], flags := 0, iovf := false }

/-- The instruction of a piece. -/
def tileOf (s : State) (id : Nat) : Option TileInst := s.tiles.find? fun i => i.id = id
/-- A piece by its identity. -/
def pieceOf (s : State) (id : Nat) : Option Piece := s.pieces.find? fun p => p.id = id
/-- The state with a piece replaced. -/
def putPiece (s : State) (p : Piece) : State := { s with pieces := s.pieces.map fun q => if q.id = p.id then p else q }
/-- The state with an instruction replaced. -/
def putTile (s : State) (i : TileInst) : State := { s with tiles := s.tiles.map fun j => if j.id = i.id then i else j }

/-- The effective priority of an entry (R153). -/
def effPri (p : Piece) : Nat := min 3 (p.pri + min 2 p.aged)

/-- Of two entries, the one served first (R152): the higher effective priority, then the older. -/
def servedFirst (a b : Piece) : Bool := effPri b < effPri a || (effPri a = effPri b && a.seq < b.seq)

/-- The entry that a queue serves. -/
def served : List Piece → Option Piece
  | [] => none
  | p :: r => match served r with
    | none => some p
    | some q => if servedFirst q p then some q else some p

/-! ## Units that an instruction may use (R127, R148, R150) -/

/-- `QMASK` of a partition. -/
def partMask (s : State) (p : Nat) : Nat := (sget 0#32 s.parts p).toNat

/-- The present quadrants of a pool: 0 the shared pool, p + 1 partition p (R148, R150). -/
def poolQuads (s : State) (pool : Nat) : List Nat :=
  (List.range 32).filter fun q => diePresent s (q / 4) &&
    (if pool = 0 then (List.range 16).all fun p => !(partMask s p).testBit q else (partMask s (pool - 1)).testBit q)

/-- An instruction runs as a gang. -/
def isGang (i : TileInst) : Bool := tileOp i.tile = 4 && tGang i.tile ≠ 0

/-- The cores to which an owner of kind core or cluster confines an instruction (R127). -/
def confined (i : TileInst) : Option (List Nat) :=
  match owners (opdsI i) with
  | [(0, c)] => some [c]
  | [(1, k)] => some [2 * k, 2 * k + 1]
  | _ => none

/-- Cores of a unit at a level. -/
def unitCores (lvl : Nat) : Nat := match lvl with | 4 => 64 | 3 => 16 | 2 => 2 | _ => 1

/-- A unit that may take pieces of an instruction. -/
def unitOk (s : State) (i : TileInst) (lvl u : Nat) : Bool :=
  let n := unitCores lvl
  ((poolQuads s i.pool).any fun q => if lvl = 4 then q / 4 = u else u * n / 16 = q)
    && (match confined i with | some cs => cs.any fun c => c / n = u | none => true)

/-- The children of a unit that may take pieces of an instruction, in ascending logical index. -/
def childUnits (s : State) (i : TileInst) (lvl unit : Nat) : List Nat :=
  let all := match lvl with
    | 5 => List.range 8
    | 4 => (List.range 4).map (4 * unit + ·)
    | 3 => (List.range 8).map (8 * unit + ·)
    | _ => [2 * unit, 2 * unit + 1]
  all.filter (unitOk s i (lvl - 1))

/-- A piece that no scheduler hands out: a TCAST, which the package carries out, or a die piece of a TCOL, which its die does. -/
def carriedOut (i : TileInst) (p : Piece) : Bool := tileOp i.tile = 8 || (tileOp i.tile = 11 && p.level = 4)

/-- A piece still holds a place in the queue of its unit: it has children to hand out, or waits to run. -/
def inQueue (s : State) (p : Piece) : Bool :=
  p.state = .queued && (match tileOf s p.tile with
    | some i => p.level = 1 || carriedOut i p || p.next < childCount i p || (s.pieces.any fun q => q.parent = p.id && q.state = .unplaced)
    | none => false)

/-- The pieces in the queue of a unit, for one pool; the local queue of a core is one (R151). -/
def queueAt (s : State) (lvl unit pool : Nat) : List Piece :=
  s.pieces.filter fun p => p.level = lvl && p.unit = unit && inQueue s p
    && (lvl = 1 || (match tileOf s p.tile with | some i => i.pool = pool | none => false))

/-- A child has room for a piece (R151); a core that a gang has reserved takes none (R157), nor does a die that is being
switched in (R18). -/
def hasRoom (s : State) (lvl unit pool : Nat) : Bool :=
  if lvl = 1 then
    (queueAt s 1 unit pool).length + (s.frozen.filter fun z => z.core = unit).length < 4 && (coreOf s unit).reserved.isNone
  else (queueAt s lvl unit pool).length < 256 && (lvl ≠ 4 || (match pdieOf s unit with | some p => !s.switching.contains p | none => false))

/-- Bytes of staging that a piece of an instruction takes: its output extent in holding form, where its contributions or the partials
of its chunks are staged (R128, R111, R129). -/
def stageNeed (i : TileInst) (rows cols : Nat) : Nat :=
  let accs := (outputs i.tile (opdsI i)).filterMap fun o => o.bind fun o => if o.roles.contains 2 then some (holdSize o.desc) else none
  let partials : Bool := match tileOp i.tile with
    | 1 | 3 => i.c.any fun o => o.roles.any (· ≠ 2)
    | 5 => true
    | _ => false
  if tileOp i.tile = 15 || tileOp i.tile = 12 then 0
  else if tCar i.tile && !accs.isEmpty then rows * cols * accs.foldl max 0
  else if partials && decide (1 < chunkCount i.tile (opdsI i)) then rows * cols * 8
  else 0

/-- The slices in which the children at a level stage (R129): of a die for die and quadrant children, of a quadrant for the others. -/
def stageRegion (lvl unit : Nat) : Nat := match lvl with | 4 => unit | 3 => unit / 4 | 2 => unit / 8 | _ => unit / 16

/-- Bytes that a level's staging may take in a region: 4 MiB of each of its slices, the levels counted apart (R129; log entry
43). -/
def stageLimit (lvl : Nat) : Nat := (if 3 ≤ lvl then 8 else 2) * 2 ^ 22

/-- The staging region of a child has room for a piece (R129). -/
def stageRoom (s : State) (lvl unit need : Nat) : Bool :=
  need = 0 ||
    decide ((((s.pieces.filter fun q => q.level = lvl && q.state ≠ .unplaced && stageRegion lvl q.unit = stageRegion lvl unit).map fun q =>
      match tileOf s q.tile with | some j => stageNeed j q.rows q.cols | none => 0).sum) + need ≤ stageLimit lvl)

/-- A child may receive a piece: its queue has room, and so has its staging region (R151). -/
def mayReceive (s : State) (i : TileInst) (lvl need u : Nat) : Bool := hasRoom s lvl u i.pool && stageRoom s lvl u need

/-- The child that a piece of a number goes to (R154, R155). -/
def chooseChild (s : State) (i : TileInst) (lvl unit number need : Nat) : Option Nat :=
  let kids := childUnits s i lvl unit
  if tDet i.tile then
    (kids[number % max 1 kids.length]?).filter (mayReceive s i (lvl - 1) need)
  else
    let open_ := kids.filter (mayReceive s i (lvl - 1) need)
    let ptr := sget 0 s.pointers (2 ^ 16 * lvl + unit)
    (open_.find? fun u => ptr ≤ u).or open_.head?

/-- The next piece that an entry hands out: one taken back (R136), or the lowest-numbered one not handed out (R152). -/
def nextPiece (s : State) (i : TileInst) (p : Piece) : Option (Sum Piece Nat) :=
  let back := s.pieces.filter fun q => q.parent = p.id && q.state = .unplaced
  let least := back.foldl (fun (b : Option Piece) q => match b with
    | none => some q
    | some r => if q.number < r.number then some q else some r) none
  match least with
  | some q => if p.next < childCount i p && p.next < q.number then some (.inr p.next) else some (.inl q)
  | none => if p.next < childCount i p then some (.inr p.next) else none

/-- The piece that an entry hands out, as a child of its unit. -/
def handedPiece (i : TileInst) (p : Piece) : Sum Piece Nat → Piece
  | .inl q => q
  | .inr n => childPiece i p n 0 0 0

/-- The unit that takes a piece: the one that it must go to (R137), or the chosen child. -/
def takerOf (s : State) (i : TileInst) (p : Piece) (x : Sum Piece Nat) : Option Nat :=
  let q := handedPiece i p x
  let need := stageNeed i q.rows q.cols
  match q.pin with
  | some u => if mayReceive s i (p.level - 1) need u then some u else none
  | none => chooseChild s i p.level p.unit q.number need

/-- The power state of a physical die that is in service and at work (R25, R438). -/
def workState (s : State) : Nat := if s.reduced then 1 else 0

/-- A logical die wakes when a piece is placed on it (R438). -/
def wakeDie (s : State) (ldie : Nat) : State :=
  match pdieOf s ldie with
  | some p => match s.dies[p]? with
    | some e => if e.pstate = 2 then { s with dies := s.dies.setIfInBounds p { e with pstate := workState s } } else s
    | none => s
  | none => s

/-- A piece handed out to a child of its unit (R154: the pointer moves past it); a die wakes for it. -/
def handTo (s : State) (i : TileInst) (p : Piece) (x : Sum Piece Nat) (u : Nat) : State :=
  let (seq, s) := freshId s
  let s := if p.level = 5 then wakeDie s u else s
  let s := if tDet i.tile then s else { s with pointers := sput 0 s.pointers (2 ^ 16 * p.level + p.unit) (u + 1) }
  match x with
  | .inl q => putPiece s { q with unit := u, state := .queued, seq := seq, aged := 0, pin := none }
  | .inr n =>
    let (id, s) := freshId s
    let s := putPiece s { p with next := n + 1 }
    { s with pieces := s.pieces ++ [childPiece i p n u id seq] }

/-! ## Eligibility (R102, R124, R152) -/

/-- The control opcodes, which take no place in a piece queue: TNOP, TEVT, TWAIT, TSTEP. -/
def packageOp (op : Nat) : Bool := [0, 13, 14, 16].contains op

/-- The pieces of a scheduler's queue that it may serve. -/
def eligiblePieces (s : State) (lvl unit pool : Nat) : List Piece :=
  (queueAt s lvl unit pool).filter fun p => match tileOf s p.tile with
    | some i => lvl ≠ 5 || eligible s i
    | none => false

/-! ## Fault and completion records (R132, R146, R147, R428, R429) -/

/-- The 256 bits of a fault record (R132). -/
def faultBits (f : FaultRec) : Nat :=
  f.detail.toNat * 2 ^ 192 + f.baddr.toNat * 2 ^ 128 + f.unit.toNat * 2 ^ 64 + f.tiid.toNat * 2 ^ 32
    + satNat f.retries 255 * 2 ^ 24 + f.cause % 256 * 2 ^ 16 + f.cls % 16 * 2 ^ 12 + (f.level - 1) % 8 * 2 ^ 9 + f.ctx % 64 * 2 ^ 3

/-- A record written to the fault ring of its context (R147): the state and its number. -/
def writeFault (s : State) (f : FaultRec) : State × Nat :=
  let y := ctxOf s f.ctx
  let n := y.frcnt.toNat
  let size := 2 ^ recBits s f.ctx 599 592
  let s := paPut s (recBits s f.ctx 499 448 + 32 * (n % size)) 32 (faultBits f)
  (modCtx s f.ctx fun y =>
    { y with frcnt := y.frcnt + 1
             frfull := y.frfull || decide (size ≤ n + 1)
             frlost := if y.frfull then BitVec.ofNat 32 (satNat (y.frlost.toNat + 1) (2 ^ 32 - 1)) else y.frlost }, n)

/-- There is room for the next record of a completion ring (R146). -/
def cqRoom (q : Qp) : Bool := (q.cqtail - q.cqhead).toNat < 2 ^ q.cqlog

/-- `CQFULL` as it stands (R146). -/
def refreshFull (s : State) (ctx qp : Nat) : State :=
  modQp s ctx qp fun q => { q with cqfull := (s.cqes.any fun e => e.ctx = ctx && e.qp = qp) && !cqRoom q }

/-- A completion record handed to its queue pair. -/
def pushCqe (s : State) (ctx qp : Nat) (bits : Nat) : State :=
  refreshFull { s with cqes := s.cqes ++ [⟨ctx, qp, BitVec.ofNat 256 bits⟩] } ctx qp

/-- The fields of a completion record but its phase (R428). -/
def cqeBits (i : TileInst) (fail : Bool) : Nat :=
  i.xcnt % 2 ^ 32 * 2 ^ 224 + (if fail then i.failIdx % 2 ^ 32 else 0) * 2 ^ 192 + i.sqidx.toNat * 2 ^ 96
    + (tTiid i.tile).toNat * 2 ^ 64 + (if fail then i.failCause % 256 else 0) * 2 ^ 56
    + (if fail then i.failClass % 16 else 0) * 2 ^ 52 + i.flags.toNat * 2 ^ 46 + satNat i.retries 255 * 2 ^ 38
    + b2n i.iovf * 2 ^ 37 + b2n i.subst * 2 ^ 36 + b2n i.xrec * 2 ^ 35 + b2n fail * 2 ^ 34

/-- `UNITID` of the package scheduler (R132: fields below its level are 0). -/
def unitPkg (s : State) : BitVec 64 := BitVec.ofNat 64 (s.pkg.toNat * 2 ^ 16)

/-- A record that the package produces (R101, R133): a detail that the spec does not give is free (log entry 17). -/
def packageFault (s : State) (ctx cls cause : Nat) (detail : Option Nat) (tiid : BitVec 32) (tile : Nat) : FaultRec :=
  { level := 6, cls := cls, cause := cause, unit := unitPkg s, tiid := tiid, ctx := ctx
    detail := match detail with | some d => BitVec.ofNat 64 d | none => Config.freeWord s.free
    baddr := 0, retries := 0, piece := 0, tile := tile }

/-! ## The end of an instruction (R130, R136, R427) -/

/-- The cores that run a task of an instruction. -/
def tileCores (s : State) (ti : Nat) : List Nat :=
  s.cores.filterMap fun q => match q.2.task with
    | some t => match pieceOf s t.piece with
      | some p => if p.tile = ti then some q.1 else none
      | none => none
    | none => none

/-- The windows that gang pieces of an instruction have reserved are given up. -/
def unreserve (s : State) (ids : List Nat) : State :=
  { s with cores := s.cores.map fun q => match q.2.reserved with
      | some r => if ids.contains r then (q.1, { q.2 with reserved := none }) else q
      | none => q }

/-- A frozen task of a cluster's cores in a context. -/
def frozenOn (s : State) (k ctx : Nat) : Bool := s.frozen.any fun z => clusterOfCore z.core = k && z.task.ctx = ctx

/-- Frozen tasks that end without resuming (R417, R421): they leave their lines, their banks are nobody's, the engine
operations that fill their heads are dropped, and a saved cluster without a frozen task is forgotten. -/
def dropFrozen (s : State) (p : FrozenTask → Bool) : State :=
  let gone := s.frozen.filter p
  let s := gone.foldl (fun s z =>
    let s := orphanOps (leaveCtx s z.core z.task.ctx) z.core z.task.ctx
    let s := modCluster s (clusterOfCore z.core) fun k =>
      { k with banks := k.banks.mapFinIdx fun j b _ =>
          if j / 2 = z.core % 2 && b.resident = some z.task.ctx then { b with resident := none } else b }
    { s with stoppedOps := s.stoppedOps.filter fun q => !(q.2.core = z.core && q.2.ctx = z.task.ctx && q.2.head.isSome) }) s
  let s := { s with frozen := s.frozen.filter fun z => !p z }
  { s with savedClusters := s.savedClusters.filter fun q => frozenOn s q.2 q.1 }

/-- Every piece of an instruction is stopped and its staging discarded (R128, R136, R141). -/
def stopPieces (s : State) (ti : Nat) : State :=
  let ids := (s.pieces.filter fun p => p.tile = ti).map (·.id)
  let cs := tileCores s ti
  let gs := cs.filterMap fun c => (gangOf s c).map (·.id)
  let gs := gs ++ s.frozen.filterMap fun z => if ids.contains z.task.piece then z.task.gang else none
  let s := dropFrozen (unreserve (cs.foldl dropTask s) ids) fun z => ids.contains z.task.piece
  { s with pieces := s.pieces.filter fun p => p.tile ≠ ti
           gangs := s.gangs.filter fun g => !gs.contains g.id
           faults := s.faults.filter fun f => f.tile ≠ ti
           recastReqs := s.recastReqs.filter fun r => r.by_ ≠ .tile ti }

/-- An instruction fails (R136): its record is written, its pieces stop, its counts fall, nothing is signalled, and its
completion record follows, with the flags of the pieces that have retired (R138). -/
def failTile (s : State) (i : TileInst) (f : FaultRec) : State :=
  let w := writeFault s f
  let ps := s.pieces.filter fun p => p.tile = i.id
  let i := { i with flags := ps.foldl (fun a (q : Piece) => a ||| q.flags) i.flags, iovf := i.iovf || ps.any (·.iovf) }
  let s := stopPieces w.1 i.id
  let s := lowerReaders s i.ctx i.counts
  let s := { s with tiles := s.tiles.filter fun j => j.id ≠ i.id }
  pushCqe s i.ctx i.qp (cqeBits { i with failClass := f.cls, failCause := f.cause, failIdx := w.2 } true)

/-- An instruction retires (R130): `SIGW` applies, its counts fall, and its completion record follows. A TCAST has
signalled through its recast (R123). -/
def retireTile (s : State) (i : TileInst) : State :=
  let s := if evIdx i.tile.sigw = 0 || tileOp i.tile = 8 then s else raiseEvent s i.ctx (evIdx i.tile.sigw) (evVal i.tile.sigw)
  let s := lowerReaders s i.ctx i.counts
  let s := { s with tiles := s.tiles.filter fun j => j.id ≠ i.id
                    pieces := s.pieces.filter fun p => p.tile ≠ i.id }
  pushCqe s i.ctx i.qp (cqeBits i false)

/-! ## Pending recasts (R83) -/

/-- The terms of a request. -/
def RecastReq.terms (r : RecastReq) : Terms := ⟨r.param, r.role, r.base⟩

/-- The roles of the regions that a request names. -/
def namedRoles (d : BitVec 512) (roles : List Nat) (t : Terms) : List Nat :=
  let rs := rolesBefore d roles t
  (t.regions rs.length).map fun k => rs.getD k 0

/-- Every required member of a recast has arrived (R83). -/
def allArrived (p : Recast) : Bool := p.required.all p.arrived.contains

/-- A recast pending on a generation. -/
def pendingCast (s : State) (ctx index gen : Nat) : Option Recast :=
  s.recasts.find? fun p => p.ctx = ctx && p.index = index && p.gen = gen

/-! ## Staging (R128, R111, R120) -/

/-- Two holding values of one element merged (R54, R56, R128): value and flags. -/
def mergeHold (f : Fmt) (comb : Nat) (a b : Nat) : Nat × Nat :=
  if isInt f then (combineInt comb (holdBits f comb) (signedOf (holdBits f comb) a) (signedOf (holdBits f comb) b), 0)
  else if comb = 0 then
    let t := signedOf 120 a + signedOf 120 b
    let out : Bool := t ≥ (2 ^ 119 : Nat) || t < -((2 ^ 119 : Nat) : Int)
    let top := ((a ||| b) >>> 120) * 2 ^ 120
    let el := if out then setBit top (if t > 0 then xOOWP else xOOWN) else top
    (el + wrapTo 120 t, if out then fOOW else 0)
  else
    let v := minMaxVal (comb = 2) (floatVal f a) (floatVal f b)
    ((roundFloat f .rne 0 false v.1).1, v.2)

/-- A staged value merged into a staging: the staging and flags. -/
def mergeStaged (st : List (Nat × AccAdd)) (q : Nat × AccAdd) : List (Nat × AccAdd) × Nat :=
  match st.find? fun z => z.1 = q.1 with
  | none => (st ++ [q], 0)
  | some z =>
    let r := mergeHold ((fmtOf q.2.fmt).getD .xacc) q.2.comb z.2.value q.2.value
    (st.map fun y => if y.1 = q.1 then (y.1, { y.2 with value := r.1 }) else y, r.2)

/-- A staged value merged into the target at its home slice. -/
def mergeHome (s : State) (q : Nat × AccAdd) : State × Nat :=
  let n := accBytes q.2
  let r := mergeHold ((fmtOf q.2.fmt).getD .xacc) q.2.comb (memNum s.mem q.1 n) q.2.value
  (setMem s (memPut s.mem q.1 (toBytes n r.1)), r.2)

/-- A CRC register advanced over n zero bytes. -/
def crcZeros : Nat → Nat → Nat
  | 0, c => c
  | n + 1, c => crcZeros n (crcByte c 0)

/-- The CRC of two spans joined (R120): CRC of the first, of the second, length of the second. -/
def crcJoin (a b n : Nat) : Nat := crcZeros n a ^^^ b

/-- The CRC of spans in byte order: first byte and CRC of each, up to a length. -/
def crcSpans (total : Nat) : List (Nat × Nat) → Nat → Nat
  | [], acc => acc
  | (at_, v) :: r, acc =>
    let next := match r with | q :: _ => q.1 | [] => total
    crcSpans total r (crcJoin acc v (next - at_))

/-- Insert a span by its first byte. -/
def insSpan (q : Nat × Nat) : List (Nat × Nat) → List (Nat × Nat)
  | [] => [q]
  | z :: r => if q.1 < z.1 then q :: z :: r else z :: insSpan q r

/-- The core that stands for the entry level at an instruction's tensors (R72, R128): the confined unit's, else none of
the package's cores. -/
def agentCore (i : TileInst) : Nat := match confined i with | some (c :: _) => c | _ => 512

/-- The state as the entry level sees an instruction's context. -/
def asAgent (s : State) (i : TileInst) : State :=
  setCore s (agentCore i) { Core.init with task := some ⟨i.ctx, 0, 0, 5, 0, 0, false, false, ⟨0, 0⟩, 0, none, true, false, false⟩ }

/-- The chunks of one output piece's element combined by the fixed tree (R111). -/
def treeOf (i : TileInst) (ps : List (Nat × Nat × Nat)) (e : Nat) : Nat × Nat :=
  let acc := if tileOp i.tile = 5 then (redAcc i.tile).getD .f32 else tileAcc (oFmt i.a)
  let op := if tileOp i.tile = 5 then tileRedOp i.tile else 0
  let mine := (ps.filter fun q => q.1 = e).map fun q => (q.2.1, q.2.2)
  fixedTree acc op ((mine.foldl (fun l q => insSpan q l) []).map (·.2))

/-- What the partials of the entry level give: outputs, with the flags of their combination and conversion. -/
def partialOuts (s : State) (c : Nat) (i : TileInst) (p : Piece) : Except Trap LeafRes :=
  match i.c with
  | none => .ok .none
  | some o =>
    if tileOp i.tile = 15 then
      let spans := p.partials.foldl (fun l q => insSpan (q.2.1, q.2.2) l) []
      let v := crcSpans p.rows spans 0
      .ok ⟨if dFmt o.desc = 4 then [.put 2 0 v] else (List.range 8).map fun k => .put 2 k (fieldAt v 8 k), 0, false, []⟩
    else
      let acc := if tileOp i.tile = 5 then (redAcc i.tile).getD .f32 else tileAcc (oFmt i.a)
      joinAll (fun e =>
        let v := treeOf i p.partials e
        (settle s c o (tRm i.tile) acc e v.1).map fun r => { r with flags := r.flags ||| v.2 }) (p.partials.map (·.1)).eraseDups

/-- An instruction fails at the entry level for a page of its output (R71, R128). -/
def failOutput (s : State) (i : TileInst) (cause addr : Nat) : State :=
  failTile s i { packageFault s i.ctx 1 cause (some addr) (tTiid i.tile) i.id with level := 6 }

/-- Partials of the entry level combined, converted and written, those of the elements that `sel` names (R111, R120). A page that has
since changed fails the instruction. -/
def writePartials (s : State) (i : TileInst) (p : Piece) (sel : Nat → Bool) : State :=
  let c := agentCore i
  let mine := p.partials.filter fun q => sel q.1
  if mine.isEmpty then s
  else
    let a := asAgent s i
    match partialOuts a c i { p with partials := mine } with
    | .error t => failOutput s i t.cause t.addr
    | .ok r => match allOf (place a c i none) r.outs with
      | .error t => failOutput s i t.cause t.addr
      | .ok us =>
        let q := us.foldl (landPlaced p.id) (raceOuts s c us, r.flags)
        putPiece (pastLeaf q.1) { p with partials := p.partials.filter fun q => !sel q.1, flags := p.flags ||| BitVec.ofNat 6 q.2 }

/-- A parent all of whose pieces have merged retires (R128, R427); what partials it still has, the spans of a TCHK, are written
first. -/
def closeParent (s : State) (i : TileInst) (id : Nat) : State :=
  match pieceOf s id with
  | some p =>
    if p.next = childCount i p && !(s.pieces.any fun q => q.parent = p.id && q.id ≠ p.id) then
      let s := if p.level = 5 then writePartials s i p fun _ => true else s
      match pieceOf s id with
      | some p => putPiece s { p with state := .retired }
      | none => s
    else s
  | none => s

/-- Every chunk of the output piece of a die piece has merged (R111); the die piece itself has left. -/
def chunksDone (s : State) (i : TileInst) (u p : Piece) : Bool :=
  let n := chunkCount i.tile (opdsI i)
  decide (n * (p.number / n + 1) ≤ u.next) && !(s.pieces.any fun q => q.parent = u.id && q.id ≠ u.id && q.number / n = p.number / n)

/-- The page of a staged value refuses its merge: cause and address (R71, R128). -/
def mergeFault (s : State) (i : TileInst) (q : Nat × AccAdd) : Option (Nat × Nat) :=
  match (opdList i).find? fun o => hIndex o.2.handle = q.2.index && hGen o.2.handle = q.2.gen with
  | none => none
  | some o => match tensorVa s i.ctx o.2.desc q.1 with
    | none => some (0x05, elemVa o.2.desc 0)
    | some va => match pageOf s i.ctx va with
      | some x => (roleCheck s x (agentCore i) .accAdd).map fun cause => (cause, va)
      | none => some (0x05, va)

/-- A die piece merges at the entry level (R128): its staging into the target, where every page still takes adds, and its partials; an
output piece whose last chunk it is gets its result (R111). -/
def mergeEntry (s : State) (i : TileInst) (u p : Piece) : State :=
  match p.staging.findSome? (mergeFault s i) with
  | some f => failOutput s i f.1 f.2
  | none =>
    let r := p.staging.foldl (fun (z : State × Nat) e => let m := mergeHome z.1 e; (m.1, z.2 ||| m.2)) (s, 0)
    let u := { u with partials := u.partials ++ p.partials, flags := u.flags ||| p.flags ||| BitVec.ofNat 6 r.2, iovf := u.iovf || p.iovf }
    let s := putPiece r.1 u
    let es := p.partials.map (·.1)
    if tileOp i.tile ≠ 15 && chunksDone s i u p then writePartials s i u es.contains else s

/-- A retired piece merges, once, into its parent's staging or, at the entry level, into the target (R128); its flags join
(R138). -/
def mergePiece (s : State) (i : TileInst) (p : Piece) : State :=
  match pieceOf s p.parent with
  | none => s
  | some u =>
    let s := { s with pieces := s.pieces.filter fun q => q.id ≠ p.id }
    let s := if u.level = 5 then mergeEntry s i u p
      else
        let r := p.staging.foldl (fun (z : List (Nat × AccAdd) × Nat) e => let m := mergeStaged z.1 e; (m.1, z.2 ||| m.2)) (u.staging, 0)
        putPiece s { u with staging := r.1, partials := u.partials ++ p.partials, flags := u.flags ||| p.flags ||| BitVec.ofNat 6 r.2,
                            iovf := u.iovf || p.iovf }
    closeParent s i u.id

end Sys2Proof.Machine
end

