-- ==== Sys2Proof/Machine/Recast.lean ====
section
/-!
DEFINITION. A recast at the home slice of its descriptor (R76 to R91): its acceptance or refusal, the collapse and the split of
pages (R97, R98), and the conversion.
-/
namespace Sys2Proof.Machine

/-! ## Bytes by virtual address, as the device reaches them -/

/-- Bytes at a virtual address, as a number; an unmapped byte reads 0. -/
def vaNum (s : State) (ctx va n : Nat) : Nat :=
  match pageOf s ctx va with
  | some x => seenNum s ctx (xlatHome x va) n
  | none => 0

/-- Bytes written at a virtual address. -/
def vaPut (s : State) (ctx va n v : Nat) : State :=
  match pageOf s ctx va with
  | some x => setMem s (memPut s.mem (xlatHome x va) (toBytes n v))
  | none => s

/-- n bytes copied from one virtual address to another, byte by byte. A relocating recast copies the whole span of the tensor so, the
bytes in the gaps between strided elements among them: R79 does not say whether these are bytes of the tensor. DESIGN CHOICE, log
entry 60. -/
def vaCopy (s : State) (ctx src dst : Nat) (n : Nat) : State :=
  let bs := (List.range n).map fun i => vaNum s ctx (src + i) 1
  ((List.range n).zip bs).foldl (fun s q => vaPut s ctx (dst + q.1) 1 q.2) s

/-! ## Pages -/

/-- The pages that take the target role (R84, R87): the named regions, or every page of the tensor before and after. The
pages of the other regions at a new base keep the role that they have there: DESIGN CHOICE, log entry 60. -/
def castPages (d : BitVec 512) (roles : List Nat) (t : Terms) : List Nat :=
  let m := moved d t
  if t.part then (t.regions (rolesBefore d roles t).length).map fun k => pageBase (dBase m) + k * 2 ^ 16
  else (spanPages m ++ spanPages (descAfter d roles t)).eraseDups

/-- Every cached translation of a leaf, in every cluster, invalidated (R84). -/
def dropLeaf (s : State) (leaf : Nat) : State :=
  { s with clusters := s.clusters.map fun q => (q.1, { q.2 with tlb := q.2.tlb.filter fun e => e.xlat.leaf ≠ leaf }) }

/-- A leaf takes a role (R84); an OWN one takes the owner named too (R87, R89). -/
def setLeafRole (s : State) (leaf role ownk owner : Nat) : State :=
  let e := setBits (paNum s leaf 16) 2 1 role
  let e := if role = 3 then setBits (setBits e 8 7 ownk) 95 80 owner else e
  dropLeaf (paPut s leaf 16 e) leaf

/-- A replica set without the records of packages other than a kept one (R97); the copies of the set on other packages are
not this package's (log entry 12). -/
def dropHolders (s : State) (ctx rset : Nat) (keep : Option Nat) : State :=
  (List.range 64).foldl (fun s j =>
    let at_ := recBits s ctx 883 832 + 512 * rset + 8 * j
    let r := paNum s at_ 8
    if r.testBit 63 && keep ≠ some (r % 2 ^ 16) then paPut s at_ 8 (setBits r 63 63 0) else s) s

/-- A read-duplicate page collapsed onto the copy of a package (R97), or onto the copy its leaf names. -/
def collapsePage (s : State) (ctx : Nat) (x : Xlat) (keep : Nat) : State :=
  if x.repl = 0 then s
  else
    let copy := (holders s ctx x.rset).find? fun h => h.1 = keep
    let s := dropHolders s ctx x.rset (copy.map (·.1))
    let e := setBits (setBits (paNum s x.leaf 16) 6 5 0) 127 96 0
    let e := match copy with
      | some h => if keep = x.home then e else setBits (setBits e 51 16 (h.2 / 2 ^ 16)) 79 64 keep
      | none => e
    dropLeaf (paPut s x.leaf 16 e) x.leaf

/-- A large page split once (R98): its leaf becomes a pointer to a table of the fault service's pool, whose leaves keep its
roles, owner and replica state (log entry 16). -/
def splitPage (s : State) (x : Xlat) : State :=
  if x.size ≤ 2 ^ 16 then s
  else
    let table := (Config.poolTable s.poolUsed).toNat / 512 * 512
    let sub := if x.size = 2 ^ 30 then 2 ^ 21 else 2 ^ 16
    let e := paNum s x.leaf 16
    let s := (List.range (x.size / sub)).foldl (fun s k =>
      paPut s (table + 16 * k) 16
        (setBits (setBits e 51 16 ((x.ppn + k * sub) / 2 ^ 16)) 4 3 (if sub = 2 ^ 21 then 1 else 0))) s
    let s := paPut s x.leaf 16 (0x19 + table)
    dropLeaf { s with poolUsed := s.poolUsed + 1 } x.leaf

/-- The page of an address split down to 64 KiB. -/
def splitDown (s : State) (ctx va : Nat) : State :=
  let once (s : State) : State := match pageOf s ctx va with | some x => splitPage s x | none => s
  once (once s)

/-! ## Acceptance (R78, R81 to R83, R87 to R89) -/

/-- What the home slice makes of a request. -/
inductive Verdict where
  | wait
  | refuse (cause addr : Nat)
  | join
  | start
  deriving DecidableEq, Repr

/-- A later arrival has another target, format, range or event than the first (R83). -/
def otherTarget (d : BitVec 512) (p : Recast) (r : RecastReq) : Bool :=
  let a := p.req.terms
  let b := r.terms
  a.to ≠ b.to || a.fmt d ≠ b.fmt d || a.part ≠ b.part || (a.part && (a.first ≠ b.first || a.count ≠ b.count))
    || p.req.event ≠ r.event

/-- An arrival at a group recast that is pending (R82, R83). -/
def joinVerdict (s : State) (d : BitVec 512) (src : List Nat) (p : Recast) (r : RecastReq) : Verdict :=
  match r.by_ with
  | .agent _ => .wait
  | .tile _ =>
    if !(p.group && src.contains 2) || allArrived p || p.casts ≠ [] then .refuse 0x08 0
    else if otherTarget d p r then .refuse 0x07 0 else .join
  | .core c =>
    if !(p.group && src.contains 2) || allArrived p || p.arrived.contains c then .refuse 0x08 0
    else if otherTarget d p r || !p.required.contains c then .refuse 0x07 0
    else if accOwed s c then .wait else .join

/-- The issuer owns a page (R72, R81): a core that the owner admits; the package scheduler counts as the package. -/
def castAdmits (s : State) (x : Xlat) : Issuer → Bool
  | .core c => admits s x c
  | _ => x.ownk = 2 && x.owner = s.pkg.toNat

/-- Entries of a core's store queue stand on the pages of a list (R350). -/
def entriesOn (s : State) (ctx : Nat) (pages : List Nat) (x : Core) : Bool :=
  let keys := pages.filterMap fun va => (pageOf s ctx va).map fun p => xlatHome p va
  x.sq.any fun e => match e.line with
    | .mem l => keys.any fun k => k ≤ l * 64 && l * 64 < k + 2 ^ 16
    | .tensor .. => false

/-- A recast may leave STR (R81, R73): `none` refuses it; `some true` waits. -/
def strLeaves (t : TensorRec) (by_ : Issuer) (role : Nat) : Option Bool :=
  let unit := match by_ with | .core c => some c | _ => none
  if unit.isNone || (t.producer ≠ unit && t.consumer ≠ unit) || !t.closed then none
  else some (decide (role = 0) && decide (t.consumed < t.appended))

/-- The declared form of R442: the holding bytes of the elements in ACC regions lie in one region and overlap no other's. -/
def holdsFit (da : BitVec 512) (rolesA : List Nat) : Bool :=
  let h := holdSize da
  let r0 := pageBase (dBase da)
  let as := ((List.range (dCount da)).map (elemVa da)).filter fun a => r0 ≤ a && rolesA.getD ((a - r0) / 2 ^ 16) 0 = 2
  as.all fun a => a / 2 ^ 16 = (a + h - 1) / 2 ^ 16 && (as.filter fun b => a ≤ b && b < a + h).length = 1

/-- A free entry of the retained-generation table (R443). -/
def rgFree (s : State) (ctx : Nat) : Option Nat := (List.range 256).find? fun j => !(rgEntry s ctx j).testBit 16

/-- The reader counts let a recast from IMM proceed (R78, R79). -/
def countsFree (s : State) (ctx index gen : Nat) (src : List Nat) (t : Terms) : Bool :=
  !src.contains 0 || readerCount s ctx index gen = 0 || (t.reloc && (rgFree s ctx).isSome)

/-- The first page of a list that is unmapped, or that a partial recast needs split (R69, R89). -/
def badPage (s : State) (ctx : Nat) (part : Bool) (pages : List Nat) : Option Nat :=
  pages.find? fun va => match pageOf s ctx va with
    | some x => part && decide (2 ^ 16 < x.size)
    | none => true

/-- The verdict on a request that finds no recast of the generation pending. -/
def startVerdict (s : State) (d : BitVec 512) (roles : List Nat) (r : RecastReq) : Verdict :=
  let t := r.terms
  let index := hIndex r.handle
  let gen := hGen r.handle
  let src := namedRoles d roles t
  let oldPages := (t.regions (regionRoles d roles).length).map fun k => pageBase (dBase d) + k * 2 ^ 16
  let pages := castPages d roles t
  let str := strLeaves (recOf s r.ctx index gen) r.by_ t.to
  if src.contains t.to || (src.contains 1 && str.isNone) then .refuse 0x07 0
  else if src.contains 2 && (match r.by_ with | .core c => !(writers s r.ctx (dWgrp d)).contains c | _ => false) then .refuse 0x07 0
  else match badPage s r.ctx t.part (oldPages ++ pages) with
  | some va => .refuse 0x05 va
  | none =>
    if ((oldPages.zip src).any fun q => q.2 = 3 && (match pageOf s r.ctx q.1 with | some x => !castAdmits s x r.by_ | none => true)) then
      .refuse 0x07 0
    else if t.part && t.to = 2 && !holdsFit (descAfter d roles t) (rolesAfter d roles t) then .refuse 0x07 0
    else if src.contains 1 && str = some true then .wait
    else if (match r.by_ with
        | .core c => (src.contains 2 && accOwed s c) || (src.contains 3 && entriesOn s r.ctx oldPages (coreOf s c))
        | _ => false) then .wait
    else if countsFree s r.ctx index gen src t then .start
    else if t.nowait then .refuse 0x08 0 else .wait

/-- What the home slice makes of a request (R82). -/
def recastVerdict (s : State) (r : RecastReq) : Verdict :=
  match openHandle s r.ctx r.handle with
  | some (d, false) =>
    let roles := rolesOf s r.ctx d
    let t := r.terms
    if t.part && (rolesBefore d roles t).length < t.first + t.count then .refuse 0x07 0
    else if t.part && !dMixed d && df d 223 208 = 0 && (match r.by_ with | .agent _ => false | _ => true) then .refuse 0x07 0
    else match pendingCast s r.ctx (hIndex r.handle) (hGen r.handle) with
      | some p => joinVerdict s d (namedRoles d roles t) p r
      | none => startVerdict s d roles r
  | _ => .refuse 0x08 0


/-- An arrival noted in a recast: its unit, and its task's instruction when it completes the required set (R427). -/
def noteArrival (s : State) (by_ : Issuer) (inc : Nat) (p : Recast) : Recast :=
  match by_ with
  | .core c =>
    let p := { p with arrived := c :: p.arrived }
    if allArrived p then { p with tiles := p.tiles ++ (tileOfCore s c).toList } else p
  | .tile i => { p with casts := i :: p.casts, req := { p.req with evInc := inc } }
  | .agent _ => p

/-- A request answered: a stalled core continues (R82). -/
def answered (s : State) (r : RecastReq) : State :=
  match r.by_ with
  | .core c => modCore s c fun x => { x with answer := some .accepted }
  | _ => s

/-- Plain stores of other units that stand in the machine on the OWN pages of a recast at its acceptance race with the
conversion's reading (R350). -/
def raceStanding (s : State) (p : Recast) : State :=
  let own := match p.req.by_ with | .core c => c | _ => noCore
  let pages := castOwnPages s p
  (otherUnits s own).foldl (fun s u =>
    let ks := (u.stores.map (·.1)).filter fun k => pages.any fun pg => pg ≤ k && k < pg + 2 ^ 16
    addRaced (addRaced s p.ctx ks) u.ctx ks) s

/-- A request accepted as the first arrival. -/
def startCast (s : State) (r : RecastReq) (d : BitVec 512) (roles : List Nat) : State :=
  let group := (namedRoles d roles r.terms).contains 2
  let p : Recast := ⟨r, r.ctx, hIndex r.handle, hGen r.handle, group, if group then writers s r.ctx (dWgrp d) else [], [], [], [], d, roles⟩
  raceStanding (answered { s with recasts := s.recasts ++ [noteArrival s r.by_ r.evInc p] } r) p

/-- A refusal (R82): precise at the RCAST; a TCAST fails (R123); the fault that the agent was serving is forwarded (R98). -/
def refuseCast (s : State) (r : RecastReq) (cause addr : Nat) : State :=
  match r.by_ with
  | .core c => modCore s c fun x => { x with answer := some (.refused cause addr) }
  | .tile ti => match tileOf s ti with
    | some i =>
      let detail := if addr ≠ 0 then addr else if cause = 0x08 then hIndex r.handle * 2 ^ 16 else 0
      failTile s i (packageFault s i.ctx 1 cause (some detail) (tTiid i.tile) i.id)
    | none => s
  | .agent c => match (coreOf s c).svc with
    | some t => if (coreOf s c).mode = .service then deliverTrap s c t else s
    | none => s

/-- RECAST_ARRIVAL (R83): request k reaches the home slice. A page that a TCAST or the fault agent needs split is split first
(R89). -/
def execRecastArrival (k : Nat) (s : State) : Host.Outcome State Fault Refusal :=
  match s.recastReqs[k]? with
  | none => .next s
  | some r =>
    let s1 := { s with recastReqs := s.recastReqs.eraseIdx k }
    match recastVerdict s r with
    | .wait => .next s
    | .join => .next (answered { s1 with recasts := s1.recasts.map fun p =>
        if p.ctx = r.ctx && p.index = hIndex r.handle && p.gen = hGen r.handle then noteArrival s r.by_ r.evInc p else p } r)
    | .start => match openHandle s r.ctx r.handle with
      | some (d, _) => .next (startCast s1 r d (rolesOf s r.ctx d))
      | none => .next s
    | .refuse cause addr =>
      match cause, r.by_, pageOf s r.ctx addr with
      | 0x05, .core _, _ => .next (refuseCast s1 r cause addr)
      | 0x05, _, some _ => .next (splitDown s r.ctx addr)
      | _, _, _ => .next (refuseCast s1 r cause addr)

/-! ## Conversion (R84, R85, R55, R56) -/

/-- An element of an ACC source as the target format holds it: bits, and whether the completion record counts it. A recast that keeps
format 13, which R55 does not list as a target, writes FP32 bits into the 16 bytes: DESIGN CHOICE, log entry 60. -/
def leaveHold (d : BitVec 512) (fmt el : Nat) : Nat × Bool :=
  let f := (fmtOf fmt).getD .f32
  let df' := (fmtOf (dFmt d)).getD .xacc
  if isInt df' then
    let v := signedOf (8 * holdSize d) el
    let w := if v < intMin f then intMin f else if intMax f < v then intMax f else v
    (wrapTo (fmtBits f) w, v ≠ w)
  else if dComb d = 0 then xaccOut f el (dElo d)
  else ((toFmt f .rne 0 false (floatVal df' el)).1, false)

/-- A value entering the holding form of a declaration (R85): the element, and whether it is counted. -/
def enterHold (da : BitVec 512) (v : Val) : Nat × Bool :=
  let f := (fmtOf (dFmt da)).getD .xacc
  if isInt f then
    let r := toFmt f .rne 0 false v
    (wrapTo (8 * holdSize da) (fmtInt f r.1), r.2 &&& fSAT ≠ 0)
  else if dComb da = 0 then
    let r := xaccAdd 0 v (dElo da)
    (r.1, r.2 &&& fOOW ≠ 0)
  else
    let r := toFmt f .rne 0 false v
    (r.1, r.2 &&& fSAT ≠ 0)

/-- The codebook of a tensor as the home slices read it (R43); one that the descriptor does not name is free. -/
def castBook (s : State) (ctx : Nat) (d : BitVec 512) : List Nat :=
  let n := df d 207 192
  if n = 0xF0 then bookF0
  else if n = 0xF1 then bookF1
  else if n = 0 then (List.range 16).map fun i => (Config.freeWord (s.free + i)).toNat % 2 ^ 16
  else bookOf (vaNum s ctx (dBase (descOf s ctx n)) 32)

/-- The value of element i of a source that is not ACC, in the format that the tensor has (R85). -/
def sourceVal (s : State) (ctx : Nat) (d : BitVec 512) (i : Nat) : Val :=
  let b := codeBits (dFmt d)
  let x := (vaNum s ctx (elemVa d i) (max 1 (b / 8)) >>> (elemBit d i % 8).toNat) % 2 ^ b
  if dFmt d = 12 then bookVal (castBook s ctx d) x else elemVal ((fmtOf (dFmt d)).getD .i8) x

/-- The region of an element of a tensor (R87). -/
def elemRegion (d : BitVec 512) (i : Nat) : Option Nat :=
  let a := elemBit d i / 8
  let r0 := pageBase (dBase d)
  if a < r0 then none else some ((a.toNat - r0) / 2 ^ 16)

/-- What the conversion writes for one element: address, bytes, value, and whether it is counted. Two points that R81 and R442 leave
open, DESIGN CHOICE, log entry 60: a recast of an ACC tensor to STR writes the converted elements although the stream opens empty;
and a partial recast of a whole ACC tensor moves no holding value of a region that it does not name, so these stay at the places that
R69 gives them, although the tensor is read by the addresses of R68 from then on. -/
def convertElem (s : State) (ctx : Nat) (d da : BitVec 512) (roles : List Nat) (t : Terms) (i : Nat) :
    Option (Nat × Nat × Nat × Bool) :=
  let k := elemRegion d i
  let named := !t.part || (match elemRegion (moved d t) i with | some k => t.first ≤ k && k < t.first + t.count | none => false)
  let role := (regionRoles d roles).getD (k.getD 0) (dRole d)
  if !named then none
  else if role = 2 then
    let r := leaveHold d (t.fmt d) (vaNum s ctx (elemVa d i) (holdSize d))
    some (elemVa da i, codeBits (t.fmt d) / 8, r.1, r.2)
  else if t.to = 2 then
    let r := enterHold da (sourceVal s ctx d i)
    some (elemVa da i, holdSize da, r.1, r.2)
  else none

/-- The converted values, all read before any is written (R84): the state and the count. -/
def convertAll (s : State) (ctx : Nat) (d da : BitVec 512) (roles : List Nat) (t : Terms) : State × Nat :=
  let ws := (List.range (dCount d)).filterMap (convertElem s ctx d da roles t)
  (ws.foldl (fun s w => vaPut s ctx w.1 w.2.1 w.2.2.1) s, (ws.filter (·.2.2.2)).length)

/-- The old generation retained, or its release event at once (R79). -/
def retain (s : State) (ctx index : Nat) (d : BitVec 512) (rel : Nat) : State :=
  let n := readerCount s ctx index (df d 95 64)
  if n = 0 then raiseEvent s ctx rel 1
  else match rgFree s ctx with
    | none => s
    | some j =>
      paPut s (recBits s ctx 435 384 + 32 * j) 32
        (rel % 2 ^ 16 * 2 ^ 224 + n * 2 ^ 192 + df d 191 160 * 2 ^ 160 + df d 207 192 * 2 ^ 144 + df d 159 144 * 2 ^ 128
          + dFmt d * 2 ^ 120 + dBase d * 2 ^ 64 + df d 95 64 * 2 ^ 32 + 2 ^ 16 + index)

/-- Something in the machine has still to reach the bytes of a set of home keys: entries and loads of cores, adds, lines of engine
operations or entries of the async path. -/
def inFlightOn (s : State) (on : Nat → Bool) : Bool :=
  s.cores.any (fun q => (q.2.sq.any fun e => match e.line with | .mem l => on (64 * l) | .tensor .. => false)
      || (loadBits q.2).any fun b => on b.1)
    || (s.bags.any fun b => b.2.staged.isNone && on b.2.addr)
    || ((allOps s).any fun o => ((spanBits o.src o.readDone ++ spanBits o.dst o.writeDone).any fun b => on b.1)
      || (accsLeft o).any fun a => on a.addr)
    || s.async.any fun e => e.bytes.any fun b => on b.1

/-- Adds or entries translated under the source role are still in the machine (R84, R350). -/
def entriesOut (s : State) (p : Recast) (pages : List Nat) : Bool :=
  let keys := pages.filterMap fun va => (pageOf s p.ctx va).map fun x => xlatHome x va
  inFlightOn s (fun a => keys.any fun k => k ≤ a && a < k + 2 ^ 16)
    || s.cores.any fun q => q.2.sq.any fun e => e.line = .tensor p.ctx p.index p.gen

/-- The replicas of the pages of a recast from IMM collapse onto their homes (R97). -/
def collapsePages (s : State) (ctx : Nat) (pages : List Nat) : State :=
  pages.foldl (fun s va => match pageOf s ctx va with | some x => collapsePage s ctx x x.home | none => s) s

/-- The pages take the target role (R84 step 3). -/
def roleLeaves (s : State) (ctx : Nat) (t : Terms) (pages : List Nat) : State :=
  (pages.filterMap fun va => (pageOf s ctx va).map (·.leaf)).eraseDups.foldl
    (fun s l => setLeafRole s l t.to (bitsOf t.role 17 16) (bitsOf t.role 15 0)) s

/-- The role map of a mixed tensor written (R88). -/
def putRoleMap (s : State) (ctx : Nat) (d : BitVec 512) (roles : List Nat) : State :=
  if dMixed d then
    ((List.range roles.length).zip roles).foldl
      (fun s q => paPut s (recBits s ctx 243 192 + 64 * df d 223 208 + q.1) 1 q.2) s
  else s

/-- The counts of a recast credited to a tile instruction (R427, R428). -/
def creditTile (s : State) (n : Nat) (ti : Nat) : State :=
  { s with tiles := s.tiles.map fun i => if i.id = ti then { i with xcnt := satNat (i.xcnt + n) (2 ^ 32 - 1), xrec := true } else i }

/-- The end of a recast for those who wait for it: its event, the tile instructions, and the fault agent's core (R84 step 5,
R123, R423, R427). -/
def castDone (s : State) (p : Recast) (n : Nat) : State :=
  let s := raiseEvent { s with free := s.free + 2 ^ 72 } p.ctx p.req.event p.req.evInc
  let s := (p.tiles ++ p.casts).foldl (fun s ti => creditTile s n ti) s
  let s := p.casts.foldl (fun s ti => match tileOf s ti with | some i => retireTile s i | none => s) s
  match p.req.by_ with
  | .agent c => modCore s c fun x => if x.mode = .service then { x with resolved := true } else x
  | _ => s

/-- The line that a recast leaves at its descriptor (R70): the fields that the device owns as it has formed them, the others as software
wrote them last. -/
def lineAfter (now da : BitVec 512) : BitVec 512 :=
  BitVec.ofNat 512 ([(95, 64), (62, 62), (61, 60), (59, 56), (55, 0), (101, 99), (126, 122), (119, 104), (121, 120), (143, 128),
    (223, 208)].foldl (fun x f => setBits x f.1 f.2 (df da f.1 f.2)) now.toNat)

/-- The bytes of a tensor whose descriptor software wrote while a recast of it was pending are undefined for the program (R70). -/
def softDesc (s : State) (p : Recast) (now da : BitVec 512) : State :=
  if now = p.desc then s
  else addRaced s p.ctx ((List.range ((dSpan da).2 + 1 - (dSpan da).1)).filterMap fun i =>
    let va := (dSpan da).1 + i
    (pageOf s p.ctx va).map fun x => xlatHome x va)

/-- A recast whose members have all arrived completes, unless it must wait (R84). Its terms are those of the descriptor read at its
acceptance (R70). -/
def completeCast (s : State) (p : Recast) : State :=
  let d := p.desc
  let roles := p.roles
  let now := descOf s p.ctx p.index
  let t := p.req.terms
  let src := namedRoles d roles t
  let pages := castPages d roles t
  if !allArrived p || !countsFree s p.ctx p.index p.gen src t || entriesOut s p pages then s
  else
    let da := descAfter d roles t
    let s := { s with recasts := s.recasts.erase p }
    let s := if src.contains 0 then collapsePages s p.ctx pages else s
    let s := if t.reloc then vaCopy s p.ctx (dSpan d).1 ((dSpan d).1 + dBase da - dBase d) ((dSpan d).2 + 1 - (dSpan d).1) else s
    let c := convertAll s p.ctx d da roles t
    let s := roleLeaves c.1 p.ctx t pages
    let s := putRoleMap s p.ctx da (rolesAfter d roles t)
    let s := softDesc (putDesc s p.ctx p.index (lineAfter now da)) p now da
    let s := if t.reloc then retain s p.ctx p.index d p.req.relEvent else s
    castDone s p c.2

/-- RECAST_COMPLETE (R84): recast k converts and completes. -/
def execRecastComplete (k : Nat) (s : State) : Host.Outcome State Fault Refusal :=
  match s.recasts[k]? with
  | some p => .next (completeCast s p)
  | none => .next s

end Sys2Proof.Machine
end

