-- ==== Sys2Proof/Machine/FaultService.lean ====
section
/-!
DEFINITION. The translation caches with the command that invalidates them (R94, R95), and the fault service of a context (R98, R422,
R423).
-/
namespace Sys2Proof.Machine

/-! ## Translation caches (R94, R95) -/

/-- An invalidation command covers a context's page: `SCOPE` 0 a page that holds the address, 1 the context, 2 every one. -/
def xinvCovers (v : BitVec 64) (ctx : Nat) (x : Xlat) : Bool :=
  let va := bitsOf v 55 16 * 2 ^ 16
  match bitsOf v 9 8 with
  | 0 => ctx = bitsOf v 5 0 && x.base ≤ va && va < x.base + x.size
  | 1 => ctx = bitsOf v 5 0
  | _ => true

/-- The result of a write of `XINV` when no command runs (R95): 1 a reserved field set, 3 a reserved value. R95 says both that bit 55
set gives 3 and that `VPN` is used only under `SCOPE` 0; the model gives 3 for it only there. DESIGN CHOICE, log entry 59. -/
def xinvCode (v : BitVec 64) : Nat :=
  if bitsOf v 63 56 ≠ 0 || bitsOf v 15 10 ≠ 0 || bitsOf v 7 6 ≠ 0 then 1
  else if bitsOf v 9 8 = 3 || (bitsOf v 9 8 = 0 && bitOf v 55) then 3
  else 0

/-- XINV_WRITE (R95): a command starts, or its result says why not. -/
def execXinvWrite (v : BitVec 64) (s : State) : Host.Outcome State Fault Refusal :=
  if s.xinvBusy then .next { s with xinvEcode := 4 }
  else if xinvCode v ≠ 0 then .next { s with xinvEcode := xinvCode v }
  else .next { s with xinvEcode := 0, xinvBusy := true, xinvScope := some v }

/-- XINV_DONE (R95): no translation that the command covers is cached in any cluster any more, and `BUSY` clears. -/
def execXinvDone (s : State) : Host.Outcome State Fault Refusal :=
  match s.xinvBusy, s.xinvScope with
  | true, some v =>
    .next { s with
      xinvBusy := false
      xinvScope := none
      clusters := s.clusters.map fun q => (q.1, { q.2 with tlb := q.2.tlb.filter fun e => !xinvCovers v e.ctx e.xlat }) }
  | _, _ => .next s

/-- A translation put into a cache of 512 (R94), the oldest leaving when it is full. -/
def cacheIn (k : Cluster) (ctx : Nat) (x : Xlat) : Cluster :=
  let l := ⟨ctx, x⟩ :: k.tlb.filter fun e => !(e.ctx = ctx && e.xlat.base < x.base + x.size && x.base < e.xlat.base + e.xlat.size)
  { k with tlb := l.take 512 }

/-- PAGE_WALK_COMPLETE (R94): the translation that a walk found is cached, unless a running invalidation covers it (R95). -/
def execPageWalkComplete (cluster ctx : Nat) (va : BitVec 64) (s : State) : Host.Outcome State Fault Refusal :=
  match pageOf s ctx va.toNat with
  | none => .next s
  | some x =>
    if (match s.xinvScope with | some v => s.xinvBusy && xinvCovers v ctx x | none => false) then .next s
    else .next (modCluster s cluster fun k => cacheIn k ctx x)

/-! ## IMM write-collapse (R98, R422) -/

/-- Element i of a tensor has a byte on [lo, hi) (R68, R69). -/
def elemOn (d : BitVec 512) (lo hi i : Nat) : Bool :=
  let b := elemBit d i
  let n : Nat := if !dMixed d && dRole d = 2 then 8 * holdSize d else codeBits (dFmt d)
  decide (b < 8 * (hi : Int)) && decide (8 * (lo : Int) < b + n)

/-- A descriptor covers a page (R98). -/
def coversPage (d : BitVec 512) (lo hi : Nat) : Bool := (List.range (dCount d)).any (elemOn d lo hi)

/-- The descriptors that cover a page. One whose checks of R67 fail counts as none of the valid descriptors that R98 speaks of: the
spec does not say. DESIGN CHOICE, log entry 59. -/
def coveringDescs (s : State) (ctx : Nat) (x : Xlat) : List Nat :=
  (validDescs s ctx).filter fun i =>
    let d := descOf s ctx i
    (descCheck d (rolesOf s ctx d)).isNone && coversPage d x.base (x.base + x.size)

/-- The first run of n free units of the block that the context sets aside (R88). -/
def freeUnits (s : State) (ctx n : Nat) : Option Nat :=
  let first := recBits s ctx 815 800
  let count := recBits s ctx 831 816
  (List.range (count + 1 - n)).findSome? fun j =>
    if (List.range n).all fun k => !s.rmUnits.contains (ctx, first + j + k) then some (first + j) else none

/-- Role map space for a tensor (R88): what it has, or units of the block, given out and written into `RMOFF`. -/
def roleSpace (s : State) (ctx index : Nat) : Option State :=
  let d := descOf s ctx index
  if dMixed d || df d 223 208 ≠ 0 then some s
  else
    let n := (regionCount d + 63) / 64
    (freeUnits s ctx n).map fun u =>
      putDesc { s with rmUnits := s.rmUnits ++ (List.range n).map fun k => (ctx, u + k) } ctx index
        (BitVec.ofNat 512 (setBits d.toNat 223 208 u))

/-- The request of the fault agent: the written region to OWN, owned by this package (R98). -/
def agentRequest (s : State) (c ctx index gen region : Nat) : RecastReq :=
  ⟨.agent c, ctx, mkHandleOf ctx index gen, BitVec.ofNat 64 (2 ^ 40 + region * 2 ^ 16 + 2 ^ 9 + 2 ^ 6 + 3),
   BitVec.ofNat 64 (2 * 2 ^ 16 + s.pkg.toNat), 0, 0, 0, 0⟩
where
  /-- a handle -/
  mkHandleOf (ctx index gen : Nat) : BitVec 64 := BitVec.ofNat 64 (ctx * 2 ^ 48 + gen * 2 ^ 16 + index)

/-- A write-collapse of a page of the tensor that an address lies in is in progress (R422). -/
def collapsing (s : State) (ctx va : Nat) : Bool :=
  let agent (r : RecastReq) : Bool :=
    let d := descOf s ctx (hIndex r.handle)
    r.ctx = ctx && (match r.by_ with | .agent _ => true | _ => false) && pageBase (dSpan d).1 ≤ va && va < pageBase (dSpan d).2 + 2 ^ 16
  s.recastReqs.any agent || s.recasts.any fun p => agent p.req

/-- A store to an IMM page resolved (R98, R422): the page collapses onto this package's copy, is split, and the agent asks for the
recast of the written region. `none` forwards the fault. The policy is the one under which the core's task started (R141). -/
def writeCollapse (s : State) (c ctx va : Nat) (x : Xlat) : Option State :=
  match ((coreOf s c).task.map (·.iwcol)).getD false, coveringDescs s ctx x with
  | true, [i] =>
    let d := descOf s ctx i
    let gen := df d 95 64
    match elemRegionOf d va with
    | none => none
    | some k =>
      if gen = 0 || readerCount s ctx i gen ≠ 0 || (regionRoles d (rolesOf s ctx d)).getD k 1 ≠ 0 then none
      else (roleSpace s ctx i).map fun s =>
        let s := splitDown (collapsePage s ctx x s.pkg.toNat) ctx va
        { s with recastReqs := s.recastReqs ++ [agentRequest s c ctx i gen k] }
  | _, _ => none
where
  /-- the region of an address (R87) -/
  elemRegionOf (d : BitVec 512) (va : Nat) : Option Nat :=
    if va < pageBase (dBase d) then none else some ((va - pageBase (dBase d)) / 2 ^ 16)

/-! ## The service (R98, R423) -/

/-- The fault of a core resolved: it retries when the service has finished. -/
def resolvedNow (s : State) (c : Nat) : State := modCore s c fun x => { x with resolved := true }

/-- A translation fault: a large page that the access needs split is split, a page that has since been mapped is retried, and
every other one is forwarded (R98, R89). -/
def serveTranslation (s : State) (c ctx : Nat) (t : Trap) : State :=
  match if 2 ^ 55 ≤ t.addr then none else pageOf s ctx t.addr with
  | some x => resolvedNow (if t.fetch then s else splitPage s x) c
  | none => deliverTrap s c (if t.fetch then fetchFault (coreOf s c) t else t)
where
  /-- a fetch fault names the address of the bundle, wherever in it the page is missing (R160, R400) -/
  fetchFault (x : Core) (t : Trap) : Trap := { t with addr := x.pc.toNat }

/-- A write-protection fault: a store may write-collapse; every other one is forwarded (R98). A fault that meets a collapse waits for it,
and one whose page is no longer IMM is retried (R422). -/
def serveWrite (s : State) (c ctx : Nat) (t : Trap) : State :=
  match pageOf s ctx t.addr with
  | none => deliverTrap s c t
  | some x =>
    if collapsing s ctx t.addr then s
    else if x.role ≠ 0 then resolvedNow s c
    else if !t.store then deliverTrap s c t
    else match writeCollapse s c ctx t.addr x with
      | some s => s
      | none => deliverTrap s c t

/-- Where a byte stands once the bytes of a page have moved from one frame to another; what stood in the new frame is gone. -/
def movedKey (src dst size key : Nat) : Option Nat :=
  if src ≤ key && key < src + size then some (dst + (key - src))
  else if dst ≤ key && key < dst + size then none
  else some key

/-- The home bytes of a page moved to another frame of the same package; those undefined for a program stay so (R2). -/
def moveBytes (s : State) (src dst size : Nat) : State :=
  let cells (k : Nat) : List Host.Cell := s.mem.filter fun b => k ≤ b.1 && b.1 < k + size
  let m := (cells dst).foldl (fun m b => memPut m b.1 [0]) s.mem
  setMem { s with raced := s.raced.filterMap fun q => (movedKey src dst size q.2).map fun k => (q.1, k) }
    ((cells src).foldl (fun m b => memPut m (dst + (b.1 - src)) [b.2]) m)

/-- An engine operation holds a checked translation of bytes of a set, until it completes (R313). -/
def engineHolds (s : State) (on : Nat → Bool) : Bool :=
  (allOps s).any fun o => ((spanBits (o.src ++ o.dst) []).any fun b => on b.1) || o.accs.any fun a => on a.addr

/-- Paging between the tiers (R98): the bytes of a private page of this package move to a frame of the other tier, and only the leaf's
`PPN` changes. A page that anything in the machine has still to reach, or whose translation an engine operation holds (R313), stays
(log entry 62). -/
def pageOut (s : State) (x : Xlat) : State :=
  let frame := (Config.pageFrame s.poolUsed).toNat / x.size * x.size
  let key := memKey s.pkg.toNat x.ppn
  if x.repl ≠ 0 || x.home ≠ s.pkg.toNat || !inTiers frame x.size || decide (frame < 2 ^ 42) = decide (x.ppn < 2 ^ 42)
      || inFlightOn s (fun a => key ≤ a && a < key + x.size) || engineHolds s (fun a => key ≤ a && a < key + x.size) then s
  else
    let s := moveBytes { s with poolUsed := s.poolUsed + 1 } key (memKey s.pkg.toNat frame) x.size
    dropLeaf (paPut s x.leaf 16 (setBits (paNum s x.leaf 16) 51 16 (frame / 2 ^ 16))) x.leaf

/-- The fault service pages the page of the fault that it serves. -/
def serveByPaging (s : State) (c : Nat) : State :=
  let x := coreOf s c
  let ctx := ctxOfCore s c
  match x.mode, x.svc with
  | .service, some t => match pageOf s ctx t.addr with
    | some p => if x.resolved || collapsing s ctx t.addr then s else pageOut s p
    | none => s
  | _, _ => s

/-- The fault service of another package resolves a store to a page that this package holds too (R422): this package's leaf of the page
becomes leaves of 64 KiB on the copy kept, private to that package, of which the written region is OWN. -/
def remoteCollapse (s : State) (ctx va pkg : Nat) : State :=
  match (if (ctxOf s ctx).state = 1 then pageOf s ctx va else none) with
  | none => s
  | some x =>
    if x.repl ≠ 1 || pkg = s.pkg.toNat || !((holders s ctx x.rset).any fun h => h.1 = pkg) then s
    else
      let s := splitDown (collapsePage s ctx x pkg) ctx va
      match pageOf s ctx va with
      | some y => setLeafRole s y.leaf 3 2 pkg
      | none => s

/-- The service of another package acts, when that is what other packages do next. -/
def serveAway (s : State) : State :=
  match s.away with
  | .collapse ctx va pkg :: r => remoteCollapse { s with away := r } ctx va pkg
  | _ => s

/-- FAULT_SERVICE_RESOLVE (R98): the fault service acts on the fault of a core that it has frozen. Numbers above those of the cores
stand for its paging (1024 and the core) and for the service of another package (512); log entry 62. -/
def execFaultServiceResolve (core : Nat) (s : State) : Host.Outcome State Fault Refusal :=
  if 1024 ≤ core then .next (serveByPaging s (core - 1024))
  else if 512 ≤ core then .next (serveAway s)
  else
  let x := coreOf s core
  match x.mode, x.svc with
  | .service, some t =>
    if x.resolved then .next s
    else if t.cause = 0x06 then .next (serveWrite s core (ctxOfCore s core) t)
    else .next (serveTranslation s core (ctxOfCore s core) t)
  | _, _ => .next s

/-- FAULT_RESOLVED_RETRY (R423): the core resumes at the repetition that faulted, without its handler. -/
def execFaultResolvedRetry (core : Nat) (s : State) : Host.Outcome State Fault Refusal :=
  let x := coreOf s core
  if x.mode = .service && x.resolved then
    .next (setCore s core { x with
      mode := if x.shadow.isSome then .handler else .running
      svc := none
      resolved := false })
  else .next s

end Sys2Proof.Machine
end

