-- ==== Sys2Proof/Machine/Scalar.lean ====
section
/-!
DEFINITION. Scalar integer arithmetic, predicates and select (R197 to R200), NOP, the cross-file copies (R217) and the
iterator access (R218).
-/
namespace Sys2Proof.Machine

/-- An S result of a latency, computed from the registers of the cycle (R175). -/
def sRes (d : BitVec 5) (lat : Nat) (v : Core → Word) : Act := fun s c _ =>
  .ok (setS s c 0 lat d.toNat (v (coreOf s c))) .none

/-- A predicate result of latency 1 (R199, R200). -/
def pRes (d : Nat) (v : Core → Bool) : Act := fun s c _ =>
  .ok (setP s c 0 1 d (v (coreOf s c))) .none

/-- NOP clears the slot and does nothing else. -/
def actNop : Act := fun s _ _ => .ok s .none
/-- s[a] + s[b]. -/
def actAdd (f : SRR) : Act := sRes f.d 1 fun x => sA x f + sB x f
/-- s[a] − s[b]. -/
def actSub (f : SRR) : Act := sRes f.d 1 fun x => sA x f - sB x f
/-- Low 64 bits of the product. -/
def actMul (f : SRR) : Act := sRes f.d 3 fun x => sA x f * sB x f
/-- High 64 bits of the signed product. -/
def actMulh (f : SRR) : Act := sRes f.d 3 fun x => BitVec.ofInt 64 ((sA x f).toInt * (sB x f).toInt / 2 ^ 64)
/-- High 64 bits of the unsigned product. -/
def actMulhn (f : SRR) : Act := sRes f.d 3 fun x => BitVec.ofNat 64 ((sA x f).toNat * (sB x f).toNat / 2 ^ 64)

/-- The signed quotient and remainder of R198. -/
def divSigned (a b : Word) : Word × Word :=
  if b = 0 then (BitVec.allOnes 64, a)
  else (BitVec.ofInt 64 (a.toInt.tdiv b.toInt), BitVec.ofInt 64 (a.toInt.tmod b.toInt))
/-- The unsigned quotient and remainder of R198. -/
def divUnsigned (a b : Word) : Word × Word :=
  if b = 0 then (BitVec.allOnes 64, a) else (BitVec.ofNat 64 (a.toNat / b.toNat), BitVec.ofNat 64 (a.toNat % b.toNat))

/-- Signed quotient. -/
def actDiv (f : SRR) : Act := sRes f.d 18 fun x => (divSigned (sA x f) (sB x f)).1
/-- Unsigned quotient. -/
def actDivn (f : SRR) : Act := sRes f.d 18 fun x => (divUnsigned (sA x f) (sB x f)).1
/-- Signed remainder. -/
def actMod (f : SRR) : Act := sRes f.d 18 fun x => (divSigned (sA x f) (sB x f)).2
/-- Unsigned remainder. -/
def actModn (f : SRR) : Act := sRes f.d 18 fun x => (divUnsigned (sA x f) (sB x f)).2
/-- Bitwise and. -/
def actAnd (f : SRR) : Act := sRes f.d 1 fun x => sA x f &&& sB x f
/-- Bitwise or. -/
def actOr (f : SRR) : Act := sRes f.d 1 fun x => sA x f ||| sB x f
/-- Bitwise exclusive or. -/
def actXor (f : SRR) : Act := sRes f.d 1 fun x => sA x f ^^^ sB x f

/-- The shift amount s[b][5:0]. -/
def sShift (x : Core) (f : SRR) : Nat := (sB x f).toNat % 64

/-- Shift left. -/
def actShl (f : SRR) : Act := sRes f.d 1 fun x => sA x f <<< sShift x f
/-- Logical shift right. -/
def actShr (f : SRR) : Act := sRes f.d 1 fun x => sA x f >>> sShift x f
/-- Arithmetic shift right. -/
def actSra (f : SRR) : Act := sRes f.d 1 fun x => (sA x f).sshiftRight (sShift x f)
/-- Smaller in signed order. -/
def actMin (f : SRR) : Act := sRes f.d 1 fun x => if (sB x f).slt (sA x f) then sB x f else sA x f
/-- Larger in signed order. -/
def actMax (f : SRR) : Act := sRes f.d 1 fun x => if (sA x f).slt (sB x f) then sB x f else sA x f
/-- Smaller in unsigned order. -/
def actMinn (f : SRR) : Act := sRes f.d 1 fun x => if (sB x f).ult (sA x f) then sB x f else sA x f
/-- Larger in unsigned order. -/
def actMaxn (f : SRR) : Act := sRes f.d 1 fun x => if (sA x f).ult (sB x f) then sB x f else sA x f
/-- Count of leading zero bits. -/
def actClz (f : SRR) : Act := sRes f.d 1 fun x => BitVec.ofNat 64 (leadingZeros 64 (sA x f).toNat)
/-- Count of one bits. -/
def actPopc (f : SRR) : Act := sRes f.d 1 fun x => BitVec.ofNat 64 (popCount 64 (sA x f).toNat)

/-- The width of SEXT and ZEXT: fn[1:0]. -/
def extWidth (f : SRR) : Nat := 8 * 2 ^ bitsOf f.fn 1 0

/-- The low bits sign-extended. -/
def actSext (f : SRR) : Act := sRes f.d 1 fun x => sext64 (extWidth f) (sA x f).toNat
/-- The low bits zero-extended. -/
def actZext (f : SRR) : Act := sRes f.d 1 fun x => BitVec.ofNat 64 (lowBits (extWidth f) (sA x f).toNat)
/-- s[a] plus the signed imm11. -/
def actAddi (f : SRI) : Act := sRes f.d 1 fun x => rdS x f.a.toNat + imm11 f
/-- Bitwise and with the signed imm11. -/
def actAndi (f : SRI) : Act := sRes f.d 1 fun x => rdS x f.a.toNat &&& imm11 f
/-- Bitwise or with the signed imm11. -/
def actOri (f : SRI) : Act := sRes f.d 1 fun x => rdS x f.a.toNat ||| imm11 f
/-- Bitwise exclusive or with the signed imm11. -/
def actXori (f : SRI) : Act := sRes f.d 1 fun x => rdS x f.a.toNat ^^^ imm11 f
/-- Shift left by imm11[5:0]. -/
def actShli (f : SRI) : Act := sRes f.d 1 fun x => rdS x f.a.toNat <<< (f.imm.toNat % 64)
/-- Logical shift right by imm11[5:0]. -/
def actShri (f : SRI) : Act := sRes f.d 1 fun x => rdS x f.a.toNat >>> (f.imm.toNat % 64)
/-- Arithmetic shift right by imm11[5:0]. -/
def actSrai (f : SRI) : Act := sRes f.d 1 fun x => (rdS x f.a.toNat).sshiftRight (f.imm.toNat % 64)
/-- The signed imm16. -/
def actLi (f : SI16) : Act := sRes f.d 1 fun _ => imm16 f
/-- Bits [31:16] of s[d] replaced. -/
def actLih16 (f : SI16) : Act := sRes f.d 1 fun x => BitVec.ofNat 64 (setBits (rdS x f.d.toNat).toNat 31 16 f.imm.toNat)
/-- Bits [47:32] of s[d] replaced. -/
def actLih32 (f : SI16) : Act := sRes f.d 1 fun x => BitVec.ofNat 64 (setBits (rdS x f.d.toNat).toNat 47 32 f.imm.toNat)
/-- Bits [63:48] of s[d] replaced. -/
def actLih48 (f : SI16) : Act := sRes f.d 1 fun x => BitVec.ofNat 64 (setBits (rdS x f.d.toNat).toNat 63 48 f.imm.toNat)

/-- The conditions of R199. -/
def cmpCond (cond : Nat) (x y : Word) : Bool :=
  match cond with
  | 0 => x = y
  | 1 => x ≠ y
  | 2 => x.slt y
  | 3 => !x.slt y
  | 4 => x.ult y
  | _ => !x.ult y

/-- CMP: cond is fn. -/
def actCmp (f : SRR) : Act := pRes (f.d.toNat % 8) fun x => cmpCond f.fn.toNat (sA x f) (sB x f)
/-- CMPI: cond is d[4:3]. -/
def actCmpi (f : SRI) : Act := pRes (f.d.toNat % 8) fun x => cmpCond (bitsOf f.d 4 3) (rdS x f.a.toNat) (imm11 f)

/-- A predicate source, inverted by a bit of fn. -/
def pSrc (x : Core) (r : BitVec 5) (inv : Bool) : Bool := rdP x (r.toNat % 8) != inv

/-- Predicate and. -/
def actPand (f : SRR) : Act :=
  pRes (f.d.toNat % 8) fun x => pSrc x f.a (bitOf f.fn 0) && pSrc x f.b (bitOf f.fn 1)
/-- Predicate or. -/
def actPor (f : SRR) : Act :=
  pRes (f.d.toNat % 8) fun x => pSrc x f.a (bitOf f.fn 0) || pSrc x f.b (bitOf f.fn 1)
/-- Predicate exclusive or. -/
def actPxor (f : SRR) : Act :=
  pRes (f.d.toNat % 8) fun x => pSrc x f.a (bitOf f.fn 0) != pSrc x f.b (bitOf f.fn 1)
/-- s[a] or s[b] by p[fn[2:0]] ⊕ fn[3]. -/
def actSel (f : SRR) : Act :=
  sRes f.d 1 fun x => if rdP x (bitsOf f.fn 2 0) != bitOf f.fn 3 then sA x f else sB x f
/-- p[d] := p[a] ⊕ fn[2]. -/
def actPmov (f : SRR) : Act := pRes (f.d.toNat % 8) fun x => pSrc x f.a (bitOf f.fn 2)
/-- s[d] := p7 … p0. -/
def actPmovToS (f : SRR) : Act := sRes f.d 1 fun x => BitVec.ofNat 64 (predByte x)
/-- p1 to p7 := s[a][7:1]. -/
def actPmovFromS (f : SRR) : Act := fun s c _ =>
  let v := sA (coreOf s c) f
  .ok ((List.range 7).foldl (fun s i => setP s c 0 1 (i + 1) (bitOf v (i + 1))) s) .none

/-! ## Cross-file copies (R217) -/

/-- s[a] into one 64-bit lane of a vector register. -/
def actXsv (f : SRR) : Act := fun s c _ =>
  let lane := bitsOf f.fn 3 0
  let v := (sA (coreOf s c) f).toNat <<< (64 * lane)
  .ok (pushFlight s c 0 2 (.reg (if bitOf f.d 4 then .vb else .va) (physV (coreOf s c).rbase (f.d.toNat % 16)))
    (ones 64 <<< (64 * lane)) v 0 64) .none
/-- One 64-bit lane of a vector register into s[d]. -/
def actXvs (f : SRR) : Act := sRes f.d 3 fun x =>
  BitVec.ofNat 64 (fieldAt (rdV x (bitOf f.a 4) (f.a.toNat % 16)).toNat 64 (bitsOf f.fn 3 0))

/-! ## Iterator access (R218) -/

/-- A level as ITGET returns it. -/
def lvWord (l : ItLevel) : Nat := l.count.toNat + l.stride.toNat * 2 ^ 16
/-- A part of an iterator (R218). -/
def itPart (i : Iter) (part : Nat) : Word :=
  BitVec.ofNat 64 (match part with
    | 0 => i.base.toNat
    | 1 => lvWord i.l0
    | 2 => lvWord i.l1
    | 3 => lvWord i.l2
    | 4 => lvWord i.l3
    | _ => packFields 16 [i.l0.idx.toNat, i.l1.idx.toNat, i.l2.idx.toNat, i.l3.idx.toNat])

/-- ITSET writes a part after the step of its cycle (R170). -/
def actItset (f : SRR) : Act := fun s c _ =>
  let v := sA (coreOf s c) f
  let w : ItWrite := match bitsOf f.fn 2 0 with
    | 0 => .base (v.extractLsb' 0 56)
    | 5 => .indices v
    | n => .level (n - 1) (v.extractLsb' 0 16) (v.extractLsb' 16 32)
  .ok s { Effects.none with itWrites := [(f.d.toNat % 16, w)] }
/-- ITGET returns a part as it stands before the step of its cycle. -/
def actItget (f : SRR) : Act := sRes f.d 1 fun x => itPart (itOf x (f.a.toNat % 16)) (bitsOf f.fn 2 0)

/-! ## The steps -/

/-- NOP (R183). -/
def execNop (s : State) : Host.Outcome State Fault Refusal :=
  issueSolo 0 .nop actNop s

/-- ADD (R197). -/
def execAdd (f : SRR) (s : State) : Host.Outcome State Fault Refusal :=
  issueSolo 0 (.add f) (actAdd f) s

/-- SUB (R197). -/
def execSub (f : SRR) (s : State) : Host.Outcome State Fault Refusal :=
  issueSolo 0 (.sub f) (actSub f) s

/-- MUL (R197). -/
def execMul (f : SRR) (s : State) : Host.Outcome State Fault Refusal :=
  issueSolo 0 (.mul f) (actMul f) s

/-- MULH (R197). -/
def execMulh (f : SRR) (s : State) : Host.Outcome State Fault Refusal :=
  issueSolo 0 (.mulh f) (actMulh f) s

/-- MULHN (R197). -/
def execMulhn (f : SRR) (s : State) : Host.Outcome State Fault Refusal :=
  issueSolo 0 (.mulhn f) (actMulhn f) s

/-- DIV (R198). -/
def execDiv (f : SRR) (s : State) : Host.Outcome State Fault Refusal :=
  issueSolo 0 (.div f) (actDiv f) s

/-- DIVN (R198). -/
def execDivn (f : SRR) (s : State) : Host.Outcome State Fault Refusal :=
  issueSolo 0 (.divn f) (actDivn f) s

/-- MOD (R198). -/
def execMod (f : SRR) (s : State) : Host.Outcome State Fault Refusal :=
  issueSolo 0 (.mod f) (actMod f) s

/-- MODN (R198). -/
def execModn (f : SRR) (s : State) : Host.Outcome State Fault Refusal :=
  issueSolo 0 (.modn f) (actModn f) s

/-- AND (R197). -/
def execAnd (f : SRR) (s : State) : Host.Outcome State Fault Refusal :=
  issueSolo 0 (.and f) (actAnd f) s

/-- OR (R197). -/
def execOr (f : SRR) (s : State) : Host.Outcome State Fault Refusal :=
  issueSolo 0 (.or f) (actOr f) s

/-- XOR (R197). -/
def execXor (f : SRR) (s : State) : Host.Outcome State Fault Refusal :=
  issueSolo 0 (.xor f) (actXor f) s

/-- SHL (R197). -/
def execShl (f : SRR) (s : State) : Host.Outcome State Fault Refusal :=
  issueSolo 0 (.shl f) (actShl f) s

/-- SHR (R197). -/
def execShr (f : SRR) (s : State) : Host.Outcome State Fault Refusal :=
  issueSolo 0 (.shr f) (actShr f) s

/-- SRA (R197). -/
def execSra (f : SRR) (s : State) : Host.Outcome State Fault Refusal :=
  issueSolo 0 (.sra f) (actSra f) s

/-- MIN (R197). -/
def execMin (f : SRR) (s : State) : Host.Outcome State Fault Refusal :=
  issueSolo 0 (.min f) (actMin f) s

/-- MAX (R197). -/
def execMax (f : SRR) (s : State) : Host.Outcome State Fault Refusal :=
  issueSolo 0 (.max f) (actMax f) s

/-- MINN (R197). -/
def execMinn (f : SRR) (s : State) : Host.Outcome State Fault Refusal :=
  issueSolo 0 (.minn f) (actMinn f) s

/-- MAXN (R197). -/
def execMaxn (f : SRR) (s : State) : Host.Outcome State Fault Refusal :=
  issueSolo 0 (.maxn f) (actMaxn f) s

/-- CLZ (R197). -/
def execClz (f : SRR) (s : State) : Host.Outcome State Fault Refusal :=
  issueSolo 0 (.clz f) (actClz f) s

/-- POPC (R197). -/
def execPopc (f : SRR) (s : State) : Host.Outcome State Fault Refusal :=
  issueSolo 0 (.popc f) (actPopc f) s

/-- SEXT (R197). -/
def execSext (f : SRR) (s : State) : Host.Outcome State Fault Refusal :=
  issueSolo 0 (.sext f) (actSext f) s

/-- ZEXT (R197). -/
def execZext (f : SRR) (s : State) : Host.Outcome State Fault Refusal :=
  issueSolo 0 (.zext f) (actZext f) s

/-- ADDI (R197). -/
def execAddi (f : SRI) (s : State) : Host.Outcome State Fault Refusal :=
  issueSolo 0 (.addi f) (actAddi f) s

/-- ANDI (R197). -/
def execAndi (f : SRI) (s : State) : Host.Outcome State Fault Refusal :=
  issueSolo 0 (.andi f) (actAndi f) s

/-- ORI (R197). -/
def execOri (f : SRI) (s : State) : Host.Outcome State Fault Refusal :=
  issueSolo 0 (.ori f) (actOri f) s

/-- XORI (R197). -/
def execXori (f : SRI) (s : State) : Host.Outcome State Fault Refusal :=
  issueSolo 0 (.xori f) (actXori f) s

/-- SHLI (R197). -/
def execShli (f : SRI) (s : State) : Host.Outcome State Fault Refusal :=
  issueSolo 0 (.shli f) (actShli f) s

/-- SHRI (R197). -/
def execShri (f : SRI) (s : State) : Host.Outcome State Fault Refusal :=
  issueSolo 0 (.shri f) (actShri f) s

/-- SRAI (R197). -/
def execSrai (f : SRI) (s : State) : Host.Outcome State Fault Refusal :=
  issueSolo 0 (.srai f) (actSrai f) s

/-- LI (R197). -/
def execLi (f : SI16) (s : State) : Host.Outcome State Fault Refusal :=
  issueSolo 0 (.li f) (actLi f) s

/-- LIH16 (R197). -/
def execLih16 (f : SI16) (s : State) : Host.Outcome State Fault Refusal :=
  issueSolo 0 (.lih16 f) (actLih16 f) s

/-- LIH32 (R197). -/
def execLih32 (f : SI16) (s : State) : Host.Outcome State Fault Refusal :=
  issueSolo 0 (.lih32 f) (actLih32 f) s

/-- LIH48 (R197). -/
def execLih48 (f : SI16) (s : State) : Host.Outcome State Fault Refusal :=
  issueSolo 0 (.lih48 f) (actLih48 f) s

/-- CMP (R199). -/
def execCmp (f : SRR) (s : State) : Host.Outcome State Fault Refusal :=
  issueSolo 0 (.cmp f) (actCmp f) s

/-- CMPI (R199). -/
def execCmpi (f : SRI) (s : State) : Host.Outcome State Fault Refusal :=
  issueSolo 0 (.cmpi f) (actCmpi f) s

/-- PAND (R200). -/
def execPand (f : SRR) (s : State) : Host.Outcome State Fault Refusal :=
  issueSolo 0 (.pand f) (actPand f) s

/-- POR (R200). -/
def execPor (f : SRR) (s : State) : Host.Outcome State Fault Refusal :=
  issueSolo 0 (.por f) (actPor f) s

/-- PXOR (R200). -/
def execPxor (f : SRR) (s : State) : Host.Outcome State Fault Refusal :=
  issueSolo 0 (.pxor f) (actPxor f) s

/-- SEL (R200). -/
def execSel (f : SRR) (s : State) : Host.Outcome State Fault Refusal :=
  issueSolo 0 (.sel f) (actSel f) s

/-- PMOV (R200). -/
def execPmov (f : SRR) (s : State) : Host.Outcome State Fault Refusal :=
  issueSolo 0 (.pmov f) (actPmov f) s

/-- PMOV_TO_S (R200). -/
def execPmovToS (f : SRR) (s : State) : Host.Outcome State Fault Refusal :=
  issueSolo 0 (.pmovToS f) (actPmovToS f) s

/-- PMOV_FROM_S (R200). -/
def execPmovFromS (f : SRR) (s : State) : Host.Outcome State Fault Refusal :=
  issueSolo 0 (.pmovFromS f) (actPmovFromS f) s

/-- XSV (R217). -/
def execXsv (f : SRR) (s : State) : Host.Outcome State Fault Refusal :=
  issueSolo 0 (.xsv f) (actXsv f) s

/-- XVS (R217). -/
def execXvs (f : SRR) (s : State) : Host.Outcome State Fault Refusal :=
  issueSolo 0 (.xvs f) (actXvs f) s

/-- ITSET (R218). -/
def execItset (f : SRR) (s : State) : Host.Outcome State Fault Refusal :=
  issueSolo 0 (.itset f) (actItset f) s

/-- ITGET (R218). -/
def execItget (f : SRR) (s : State) : Host.Outcome State Fault Refusal :=
  issueSolo 0 (.itget f) (actItget f) s

end Sys2Proof.Machine
end

