-- ==== Sys2Proof/Machine/Scale.lean ====
section
/-!
DEFINITION. The K slot (R280, R281): block scales, codebooks, underflow counters, iterators and the key of SR.
-/
namespace Sys2Proof.Machine

/-- The one walk address of a K operation. -/
def kAddr (x : Core) (f : KF) : Nat := itAddr (itOf x (bitsOf f.imm 3 0))

/-- The check of 32 bytes at a K walk address (R280). -/
def kCheck (va : Nat) : Option Trap :=
  if !isSp va || !spBounds va 32 then some (trapAt 0x0A va 4 0)
  else if va % 32 ≠ 0 then some (trapAt 0x09 va 4 0)
  else none

/-- A result of the K slot for a whole register. -/
def setK (s : State) (c lat : Nat) (file : RegFile) (n v : Nat) : State :=
  pushFlight s c 4 lat (.reg file n) (ones 256) v 0 256

/-- A load of 32 bytes into a register. -/
def kLoad (file : RegFile) (f : KF) : Act := fun s c _ =>
  let va := kAddr (coreOf s c) f
  match kCheck va with
  | some t => .trap t
  | none => .ok (setK s c 5 file f.dst.toNat (spNum s (clusterOfCore c) (spOff va) 32)) .none

/-- k[dst] := 32 bytes. -/
def actKlds (f : KF) : Act := kLoad .k f
/-- kb[dst] := 32 bytes. -/
def actKldc (f : KF) : Act := kLoad .kb f

/-- 32 bytes := k[src], at the end of the cycle. -/
def actKsts (f : KF) : Act := fun s c _ =>
  let va := kAddr (coreOf s c) f
  match kCheck va with
  | some t => .trap t
  | none => .ok s { Effects.none with sp := spWrites (clusterOfCore c) (spOff va) 32 (rdK (coreOf s c) f.src.toNat).toNat }

/-- A move between the k and kb registers. -/
def actKmov (f : KF) : Act := fun s c _ =>
  let x := coreOf s c
  let d := f.dst.toNat
  match f.imm.toNat with
  | 0 => .ok (setK s c 1 .k d (rdK x f.src.toNat).toNat) .none
  | 1 => .ok (setK s c 1 .kb d (rdK x f.src.toNat).toNat) .none
  | _ => .ok (setK s c 1 .k d (rdKb x f.src.toNat).toNat) .none

/-- Eight block scales from eight stored magnitudes (R281, R50). -/
def actKauto (f : KF) : Act := fun s c _ =>
  let x := coreOf s c
  let va := kAddr x f
  match kCheck va with
  | some t => .trap t
  | none =>
    let g := bitsOf f.imm 14 13
    let ufc := (x.ufcnt[bitsOf f.imm 12 11]?.getD 0).toNat
    let fm := (fmtOf (bitsOf f.imm 7 4)).getD .i8
    let book := bookOf (rdKb x f.src.toNat).toNat
    let rm := (rmOf (bitsOf f.imm 10 8)).getD .rne
    let scales := (List.range 8).map fun j =>
      let amax := (floatVal .f32 (spNum s (clusterOfCore c) (spOff va + 4 * j) 4)).abs
      kautoScale fm book rm ((ufc >>> 32) % 2 ^ 16) (ufc >>> 48) amax
    .ok (pushFlight s c 4 1 (.reg .k f.dst.toNat) (ones 64 <<< (64 * g)) (packFields 8 scales <<< (64 * g)) 0 256) .none

/-- An underflow counter's `CNT` and `LAST` cleared. -/
def actKufc (f : KF) : Act := fun s c _ =>
  .ok (pushFlight s c 4 1 (.kufc (bitsOf f.imm 1 0) (bitOf f.imm 2) (bitOf f.imm 3)) 1 0 0 0) .none

/-- A level's count, its stride kept; every index 0. -/
def actItlvl (f : KF) : Act := fun s _ _ =>
  .ok s { Effects.none with
    itWrites := [(f.dst.toNat, .count (bitsOf f.imm 1 0) (BitVec.ofNat 16 (bitsOf f.imm 14 2)))] }
/-- Every index 0. -/
def actItrst (f : KF) : Act := fun s _ _ => .ok s { Effects.none with itWrites := [(f.dst.toNat, .reset)] }
/-- The sequence reversed (R171). -/
def actItrev (f : KF) : Act := fun s _ _ => .ok s { Effects.none with itWrites := [(f.dst.toNat, .reverse)] }
/-- One step per issue (R170): the step itself is the iterator's own (R166). -/
def actItstep (_ : KF) : Act := fun s _ _ => .ok s .none

/-- `SEEDKEY` := k[src][63:0]. -/
def actKseed (f : KF) : Act := fun s c _ =>
  .ok (pushFlight s c 4 1 .seed (ones 64) ((rdK (coreOf s c) f.src.toNat).toNat % 2 ^ 64) 0 64) .none

/-- The K slot clears. -/
def actKnop : Act := fun s _ _ => .ok s .none

/-! ## The operations -/

/-- KLDS (R280). -/
def execKlds (f : KF) (s : State) : Host.Outcome State Fault Refusal :=
  issueSolo 4 (.klds f) (actKlds f) s

/-- KLDC (R280). -/
def execKldc (f : KF) (s : State) : Host.Outcome State Fault Refusal :=
  issueSolo 4 (.kldc f) (actKldc f) s

/-- KSTS (R280). -/
def execKsts (f : KF) (s : State) : Host.Outcome State Fault Refusal :=
  issueSolo 4 (.ksts f) (actKsts f) s

/-- KMOV (R280). -/
def execKmov (f : KF) (s : State) : Host.Outcome State Fault Refusal :=
  issueSolo 4 (.kmov f) (actKmov f) s

/-- KAUTO (R281). -/
def execKauto (f : KF) (s : State) : Host.Outcome State Fault Refusal :=
  issueSolo 4 (.kauto f) (actKauto f) s

/-- KUFC (R280). -/
def execKufc (f : KF) (s : State) : Host.Outcome State Fault Refusal :=
  issueSolo 4 (.kufc f) (actKufc f) s

/-- ITLVL (R280). -/
def execItlvl (f : KF) (s : State) : Host.Outcome State Fault Refusal :=
  issueSolo 4 (.itlvl f) (actItlvl f) s

/-- ITRST (R280). -/
def execItrst (f : KF) (s : State) : Host.Outcome State Fault Refusal :=
  issueSolo 4 (.itrst f) (actItrst f) s

/-- ITREV (R171). -/
def execItrev (f : KF) (s : State) : Host.Outcome State Fault Refusal :=
  issueSolo 4 (.itrev f) (actItrev f) s

/-- ITSTEP (R280). -/
def execItstep (f : KF) (s : State) : Host.Outcome State Fault Refusal :=
  issueSolo 4 (.itstep f) (actItstep f) s

/-- KSEED (R280). -/
def execKseed (f : KF) (s : State) : Host.Outcome State Fault Refusal :=
  issueSolo 4 (.kseed f) (actKseed f) s

/-- KNOP (R186). -/
def execKnop (s : State) : Host.Outcome State Fault Refusal :=
  issueSolo 4 .knop actKnop s

end Sys2Proof.Machine
end

