-- ==== Sys2Proof/Machine/Sync.lean ====
section
/-!
DEFINITION. Group lines, gangs, the geyser count and events as a core uses them (R355 to R367), and the fences (R345,
R346).
-/
namespace Sys2Proof.Machine

/-- Group misuse (0x11, R400). -/
def misuse (detail : Nat) : OpRes := .trap (trapOf 0x11 detail)

/-! ## Group lines (R355, R356) -/

/-- The group of a line that a core sees. -/
def lineGroup (s : State) (c line : Nat) : Group := groupOf s (ctxOfCore s c) line (lineDie c line)

/-- The core becomes a member, from the next bundle cycle. -/
def actGjoin (f : SRR) : Act := fun s c _ =>
  let line := bitsOf f.fn 4 0
  let g := lineGroup s c line
  if g.members.contains c then misuse line else .ok s { Effects.none with joins := [line] }

/-- The core leaves, once its ACC adds are acknowledged; an assertion is withdrawn. -/
def actGleave (f : SRR) : Act := fun s c _ =>
  let line := bitsOf f.fn 4 0
  let g := lineGroup s c line
  if !g.members.contains c then misuse line
  else if accOwed s c then .stall id
  else
    let s := putGroup s (leaveGroup c g)
    .ok { s with recasts := s.recasts.map fun r =>
            if r.ctx = g.ctx && dWgrp (descOf s r.ctx r.index) = line then { r with required := r.required.filter (· ≠ c) } else r }
      .none

/-- An assertion on a line (R356): it opens a round, counts in the open one, or is held for the next. -/
def assertLine (g : Group) (c : Nat) : Group :=
  if !g.open_ then { g with open_ := true, required := g.members, asserted := [c] }
  else if g.required.contains c then { g with asserted := c :: g.asserted }
  else { g with heldAsserts := c :: g.heldAsserts }

/-- The core asserts, and then stalls until the round releases. -/
def actSync (f : SRR) : Act := fun s c _ =>
  let line := bitsOf f.fn 4 0
  let g := lineGroup s c line
  if !g.members.contains c then misuse line
  else .ok (modCore (noteWait (putGroup s (assertLine g c)) c) c fun x => { x with syncWait := some line })
    { Effects.none with waits := true }

/-! ## Gangs (R360) -/

/-- Misuse of a gang instruction: no line, event or package is at fault (log entry 17). -/
def gangMisuse (s : State) : OpRes := misuse (Config.freeWord s.free).toNat

/-- The skew step of the lead's register. -/
def actFuse (f : SRR) : Act := fun s c at_ =>
  match gangOf s c with
  | none => gangMisuse s
  | some g =>
    if !g.fused then gangMisuse s
    else if g.members.head? ≠ some c then .ok s .none
    else if bitsOf (sA (coreOf s c) f) 63 3 ≠ 0 then .trap (trapIllegal at_.addr 0)
    else .ok s { Effects.none with step := some (bitsOf (sA (coreOf s c) f) 2 0) }

/-- The member continues alone at s[a]. -/
def actDecpl (f : SRR) : Act := fun s c _ =>
  match gangOf s c with
  | none => gangMisuse s
  | some g =>
    if !g.fused then gangMisuse s
    else .ok s { Effects.none with target := some (sA (coreOf s c) f), decouple := true }

/-- Where a gang goes on (R360): after the lead's REJOIN, or the lowest remaining member's. -/
def rejoinPlace (g : Gang) : Option (BitVec 64) :=
  ((gangLeft g).findSome? fun m => g.rejoined.find? fun q => q.1 = m).map (·.2)

/-- A member asserts on the gang line. -/
def assertGang (s : State) (c : Nat) (g : Gang) (next : BitVec 64) : State :=
  let s := { s with gangs := s.gangs.map fun y =>
    if y.id = g.id then { y with rejoined := y.rejoined.filter (fun q => q.1 ≠ c) ++ [(c, next)] } else y }
  modCore s c fun x => { x with rejoinWait := true }

/-- The member asserts on the gang line and stalls; on the release cycle its repetition issues, with those of all the others
(R163), and the gang goes on at the lead's place. -/
def actRejoin (_ : Guard) : Act := fun s c at_ =>
  match gangOf s c with
  | none => gangMisuse s
  | some g =>
    if g.joining then .ok s { Effects.none with place := rejoinPlace g }
    else if g.fused then gangMisuse s
    else .stall fun s => assertGang s c g at_.next

/-! ## The geyser count (R363) -/

/-- The core waits for the count; `.late` tells in p7 whether the step was missed at issue. -/
def actWstep (f : SRR) : Act := fun s c _ =>
  let x := coreOf s c
  let t := sA x f
  if s.geyser.toNat < t.toNat then .stall fun s => modCore s c fun x => { x with stepWait := true }
  else
    let late := decide (t.toNat < s.geyser.toNat) && !x.stepWait
    .ok (if bitOf f.fn 0 then setP s c 0 1 7 (!late) else s) .none

/-! ## Events (R366, R367) -/

/-- The package that an event instruction names; all ones is its own. -/
def evPkg (s : State) (a : Word) : Nat := if bitsOf a 31 16 = 0xFFFF then s.pkg.toNat else bitsOf a 31 16

/-- The checks of an event instruction on its own package: the index, or the trap. -/
def evIndex (s : State) (c : Nat) (a : Word) (at_ : Site) : Except Trap Nat :=
  let i := bitsOf a 15 0
  if bitsOf a 63 32 ≠ 0 || evPkg s a ≠ s.pkg.toNat then .error (trapIllegal at_.addr 0)
  else if eventOk s (ctxOfCore s c) i then .ok i
  else .error (trapOf 0x11 i)

/-- The pending result of EVADD.ret (R366). -/
def evRet (f : SRR) (s : State) (c : Nat) : Option Nat × State :=
  if bitOf f.fn 0 then
    let r := pendS s c f.d.toNat
    (some r.1, r.2)
  else (none, s)

/-- An increment on its way, after every earlier entry of the core (R349). One to another package stalls until that package accepts it,
which is free (R367). -/
def actEvadd (f : SRR) : Act := fun s c at_ =>
  let x := coreOf s c
  let a := sA x f
  let i := bitsOf a 15 0
  let p := evPkg s a
  let ctx := ctxOfCore s c
  if bitsOf a 63 32 ≠ 0 then .trap (trapIllegal at_.addr 0)
  else
    let count := if p = s.pkg.toNat then some (evCount s ctx)
      else if reaches s p then Config.remoteEvents p ctx s.free else none
    match count with
    | none => misuse (bitsOf a 31 16)
    | some n =>
      if i = 0 || n ≤ i then misuse i
      else if p ≠ s.pkg.toNat && Config.freeBit s.free then .stall fun s => { s with free := s.free + 1 }
      else
        let r := evRet f s c
        .ok { r.2 with incs := r.2.incs ++ [⟨p, ctx, i, (sB x f).toNat, some c, x.sq.map (·.id), r.1, none⟩]
                       free := r.2.free + 1 } .none

/-- Arming order: a threshold armed last (R366). -/
def armEntry (e n thr chain : Nat) : Nat :=
  let others := (armedByRank e).filter (· ≠ n)
  let e := setBits e (128 + 64 * n + 63) (128 + 64 * n) thr
  let e := setBits e (384 + 32 * n + 31) (384 + 32 * n) chain
  let e := setBits e (64 + n) (64 + n) 1
  let e := setBits e (68 + n) (68 + n) 0
  reRank e (others ++ [n]) 0

/-- Threshold n of an entry fires at once when it is already reached (R366): the entry and the chain to queue. -/
def fireArmed (e n : Nat) : Nat × List (Nat × Nat) :=
  if evThr e n ≤ e % 2 ^ 64 then
    let e' := setBits (setBits e (64 + n) (64 + n) 0) (68 + n) (68 + n) 1
    (reRank e' ((armedByRank e).filter (· ≠ n)) 0,
     if evChain e n % 2 ^ 16 = 0 then [] else [(evChain e n % 2 ^ 16, evChain e n / 2 ^ 16)])
  else (e, [])

/-- A threshold armed, in one step of the counter. -/
def actEvarm (f : SRR) : Act := fun s c at_ =>
  let x := coreOf s c
  let ctx := ctxOfCore s c
  match evIndex s c (sA x f) at_ with
  | .error t => .trap t
  | .ok i =>
    let chain := bitsOf (sD x f) 31 0
    if chain % 2 ^ 16 ≠ 0 && !eventOk s ctx (chain % 2 ^ 16) then misuse (chain % 2 ^ 16)
    else
      let r := fireArmed (armEntry (evEntry s ctx i) (bitsOf f.fn 1 0) (sB x f).toNat chain) (bitsOf f.fn 1 0)
      let s := paPut s (evAddr s ctx i) 64 r.1
      .ok { s with chains := s.chains ++ r.2.map fun q => ⟨s.pkg.toNat, ctx, q.1, q.2, none, [], none, none⟩ } .none

/-- A threshold disarmed. -/
def actEvarmDis (f : SRR) : Act := fun s c at_ =>
  let ctx := ctxOfCore s c
  match evIndex s c (sA (coreOf s c) f) at_ with
  | .error t => .trap t
  | .ok i =>
    let n := bitsOf f.fn 1 0
    let e := evEntry s ctx i
    let e' := reRank (setBits e (64 + n) (64 + n) 0) ((armedByRank e).filter (· ≠ n)) 0
    .ok (paPut s (evAddr s ctx i) 64 e') .none

/-- The core waits until the counter reaches s[b]. -/
def actEvwait (f : SRR) : Act := fun s c at_ =>
  let x := coreOf s c
  match evIndex s c (sA x f) at_ with
  | .error t => .trap t
  | .ok i => if evValue s (ctxOfCore s c) i < (sB x f).toNat then .stall id else .ok s .none

/-- One word of an event entry, as its home holds it when the read reaches it: 0 value, 1 control, 2 to 5 thresholds, 6 and 7 chains. -/
def actEvrd (f : SRR) : Act := fun s c at_ =>
  match evIndex s c (sA (coreOf s c) f) at_ with
  | .error t => .trap t
  | .ok i =>
    let r := pendS s c f.d.toNat
    .ok { r.2 with incs := r.2.incs ++ [⟨s.pkg.toNat, ctxOfCore s c, i, 0, some c, [], some r.1, some (bitsOf f.fn 2 0)⟩] } .none

/-! ## Fences (R345, R346) -/

/-- A value-returning atomic entry. -/
def returnsValue (e : SqEntry) : Bool :=
  match e.kind with
  | .amo _ _ _ _ _ r => r.isSome
  | .vamo _ _ _ _ _ _ r => r.isSome
  | _ => false

/-- Earlier accesses ordered before later ones within a scope. -/
def actFence (f : SRR) : Act := fun s c _ =>
  let x := coreOf s c
  let kind := bitsOf f.fn 4 3
  if kind ≠ 1 && (x.loads ≠ [] || x.sq.any returnsValue) then .stall id
  else if kind ≠ 2 && x.sq.any (fun e => inScope s c (bitsOf f.fn 2 0) (entryHome s e)) then .stall id
  else .ok s .none

/-- The entries of the async path in a scope. -/
def asyncIn (s : State) (c scope : Nat) : List Nat :=
  (s.async.filter fun e => e.bytes.any fun b => inScope s c scope (keyPkg b.1, keySlice b.1)).map (·.id)

/-- The async writes that stood in the scope at issue have merged. -/
def actXfence (f : SRR) : Act := fun s c _ =>
  let x := coreOf s c
  let w := x.xfence.getD (asyncIn s c (bitsOf f.fn 2 0))
  if w.any fun n => s.async.any fun e => e.id = n then .stall fun s => modCore s c fun x => { x with xfence := some w }
  else .ok (modCore s c fun x => { x with xfence := none }) .none

/-! ## The operations -/

/-- GJOIN (R355). -/
def execGjoin (f : SRR) (s : State) : Host.Outcome State Fault Refusal :=
  issueSolo 0 (.gjoin f) (actGjoin f) s

/-- GLEAVE (R355). -/
def execGleave (f : SRR) (s : State) : Host.Outcome State Fault Refusal :=
  issueSolo 0 (.gleave f) (actGleave f) s

/-- SYNC (R356). -/
def execSync (f : SRR) (s : State) : Host.Outcome State Fault Refusal :=
  issueSolo 0 (.sync f) (actSync f) s

/-- FUSE (R360). -/
def execFuse (f : SRR) (s : State) : Host.Outcome State Fault Refusal :=
  issueSolo 0 (.fuse f) (actFuse f) s

/-- DECPL (R360). -/
def execDecpl (f : SRR) (s : State) : Host.Outcome State Fault Refusal :=
  issueSolo 0 (.decpl f) (actDecpl f) s

/-- REJOIN (R360). -/
def execRejoin (g : Guard) (s : State) : Host.Outcome State Fault Refusal :=
  issueSolo 0 (.rejoin g) (actRejoin g) s

/-- WSTEP (R363). -/
def execWstep (f : SRR) (s : State) : Host.Outcome State Fault Refusal :=
  issueSolo 0 (.wstep f) (actWstep f) s

/-- EVADD (R366). -/
def execEvadd (f : SRR) (s : State) : Host.Outcome State Fault Refusal :=
  issueSolo 0 (.evadd f) (actEvadd f) s

/-- EVARM (R366). -/
def execEvarm (f : SRR) (s : State) : Host.Outcome State Fault Refusal :=
  issueSolo 0 (.evarm f) (actEvarm f) s

/-- EVARM_DIS (R366). -/
def execEvarmDis (f : SRR) (s : State) : Host.Outcome State Fault Refusal :=
  issueSolo 0 (.evarmDis f) (actEvarmDis f) s

/-- EVWAIT (R366). -/
def execEvwait (f : SRR) (s : State) : Host.Outcome State Fault Refusal :=
  issueSolo 0 (.evwait f) (actEvwait f) s

/-- EVRD (R366). -/
def execEvrd (f : SRR) (s : State) : Host.Outcome State Fault Refusal :=
  issueSolo 0 (.evrd f) (actEvrd f) s

/-- FENCE (R345). -/
def execFence (f : SRR) (s : State) : Host.Outcome State Fault Refusal :=
  issueSolo 0 (.fence f) (actFence f) s

/-- XFENCE (R346). -/
def execXfence (f : SRR) (s : State) : Host.Outcome State Fault Refusal :=
  issueSolo 0 (.xfence f) (actXfence f) s

end Sys2Proof.Machine
end

