-- ==== Sys2Proof/Machine/ClusterImage.lean ====
section
/-!
DEFINITION. The contents of a cluster between contexts (R306, R416): passing the scratchpad to a context, saving the
cluster of a context with a frozen task, and restoring it.
-/
namespace Sys2Proof.Machine

/-! ## Ranges of byte memories -/

/-- The bytes of a range, by their place in it. -/
def memSlice (m : List Host.Cell) (base n : Nat) : List Host.Cell :=
  (m.filter fun q => base ≤ q.1 && q.1 < base + n).map fun q => (q.1 - base, q.2)

/-- A memory whose range is replaced by bytes given by their place in it. -/
def memSplice (m : List Host.Cell) (base n : Nat) (cs : List Host.Cell) : List Host.Cell :=
  (m.filter fun q => q.1 < base) ++ ((cs.filter fun q => q.1 < n).map fun q => (base + q.1, q.2))
    ++ m.filter fun q => base + n ≤ q.1

/-- A memory with zeros in a range. -/
def memClear (m : List Host.Cell) (base n : Nat) : List Host.Cell := memSplice m base n []

/-! ## The cluster image (R416) -/

/-- The physical address of the image of a cluster in a context's save area. -/
def clusterPa (s : State) (ctx k : Nat) : Nat := (ctxOf s ctx).cxsave.toNat + 2 ^ 26 + 8454144 * k

/-- A tag entry of the image: valid bit, the virtual address's bits in bytes 1 to 7, the handle in bytes 8 to 15. -/
def tagBits (t : TagKey) : Nat := 1 + t.page * 2 ^ 8 + (t.index + t.gen * 2 ^ 16 + t.ctx * 2 ^ 48) * 2 ^ 64

/-- The key of a tag entry of the image, when it is valid. -/
def tagOfBits (v : Nat) : Option TagKey :=
  if v.testBit 0 then
    some ⟨fieldAt (v / 2 ^ 112) 6 0, fieldAt (v / 2 ^ 64) 16 0, fieldAt (v / 2 ^ 80) 32 0, (v / 2 ^ 8) % 2 ^ 43⟩
  else none

/-- The image of a cluster written at an address: scratchpad, tag table, barriers, and engine records whose layout the
spec does not give (log entry 17). -/
def writeClusterImage (s : State) (k pa : Nat) : State :=
  let y := clusterOf s k
  let at_ := memKey s.pkg.toNat pa
  let m := memSplice s.mem at_ (2 ^ 23) y.sp
  let m := memClear m (at_ + 2 ^ 23) 65536
  let m := y.tags.foldl (fun m t => memPut m (at_ + 2 ^ 23 + 16 * t.1) (toBytes 16 (tagBits t.2))) m
  let m := memPut m (at_ + 2 ^ 23 + 32768) (toBytes 32 (barrierRecord y 0) ++ toBytes 32 (barrierRecord y 4))
  let m := (List.range 512).foldl (fun m j =>
    memPut m (at_ + 2 ^ 23 + 32832 + 8 * j) (toBytes 8 (Config.freeWord (s.free + j)).toNat)) m
  { s with mem := m, free := s.free + 512 }

/-- An engine operation that stops at a tile boundary for a save (R416). -/
def stopsAtTile (o : EngOp) : Bool := o.kind = .csend || o.kind = .crecv

/-- The cluster of a context with a frozen task is saved, its channel operations stopped and recorded (R416). -/
def saveCluster (s : State) (k ctx : Nat) : State :=
  let y := clusterOf s k
  let s := writeClusterImage s k (clusterPa s ctx k)
  let s := modCluster s k fun y => { y with engine := [] }
  { s with savedClusters := (ctx, k) :: s.savedClusters.filter (· ≠ (ctx, k))
           stoppedOps := s.stoppedOps ++ y.engine.map fun o => (k, o) }

/-- The barriers of an image. -/
def barriersOf (s : State) (pa : Nat) : Vector Barrier 8 :=
  Vector.ofFn fun j =>
    let v := paNum s (pa + 8 * j.val) 8
    ⟨BitVec.ofNat 48 v, v.testBit 63⟩

/-- The cluster image of a context read back, and its stopped operations restarted (R416, R417). -/
def restoreCluster (s : State) (k ctx : Nat) : State :=
  let pa := clusterPa s ctx k
  let sp := memSlice s.mem (memKey s.pkg.toNat pa) (2 ^ 23)
  let tags := (List.range 2048).filterMap fun j =>
    (tagOfBits (paNum s (pa + 2 ^ 23 + 16 * j) 16)).map fun t => (j, t)
  let ops := s.stoppedOps.filter fun q => q.1 = k && q.2.ctx = ctx
  let bs := barriersOf s (pa + 2 ^ 23 + 32768)
  let s := modCluster s k fun y =>
    { y with sp := sp, spCtx := some ctx, tags := tags, barriers := bs, engine := y.engine ++ ops.map (·.2) }
  { s with savedClusters := s.savedClusters.filter (· ≠ (ctx, k))
           stoppedOps := s.stoppedOps.filter fun q => !(q.1 = k && q.2.ctx = ctx) }

/-- The channel operation is at a tile boundary: nothing of a tile is on its way into the cluster or to memory. -/
def atBoundary (s : State) (o : EngOp) : Bool :=
  !(s.readyTiles.any fun r => r.op = o.id) && !(s.async.any fun a => a.op = o.id) && !(s.bags.any fun b => b.2.array = some o.id)

/-- The scratchpad of a core's cluster may pass to a context (R306, R416): it is that context's, or no task runs in the
cluster and no engine operation but those that a save stops. -/
def spMayPass (s : State) (c ctx : Nat) : Bool :=
  let n := clusterOfCore c
  let k := clusterOf s n
  let sib := if c % 2 = 0 then c + 1 else c - 1
  k.spCtx = some ctx ||
    ((coreOf s sib).task.isNone && (match k.spCtx with
      | some a => k.engine.all fun o => frozenOn s n a && stopsAtTile o && o.ctx = a && atBoundary s o
      | none => k.engine.isEmpty))

/-- The scratchpad, the tag table and the barriers pass to a context (R306, R324, R416): the former context's are saved
when it has a frozen task there; the new context's are restored when they were saved, and cleared otherwise. -/
def takeSp (s : State) (c ctx : Nat) : State :=
  let n := clusterOfCore c
  let k := clusterOf s n
  if k.spCtx = some ctx then s
  else
    let s := match k.spCtx with
      | some a => if frozenOn s n a then saveCluster s n a else s
      | none => s
    if s.savedClusters.contains (ctx, n) then restoreCluster s n ctx
    else modCluster s n fun k =>
      { k with spCtx := some ctx, sp := [], tags := [], barriers := Vector.replicate 8 ⟨0, false⟩ }

end Sys2Proof.Machine
end

