-- ==== Sys2Proof/Machine/Sched.lean ====
section
/-!
DEFINITION. The schedulers' steps (R144 to R157, R115, R204, R128, R130, R136, R146): fetching an entry, handing out
pieces, aging, stealing, gangs, the start and the end of tasks, merging, retirement, and fault records on their way up.
-/
namespace Sys2Proof.Machine

/-! ## Fetch and acceptance (R144) -/

/-- A queue pair from which the package may fetch: its context is live, it is enabled, and it has entries (R144, R145). -/
def mayFetch (s : State) (key : Nat) : Bool :=
  let q := qpOf s (key / 64) (key % 64)
  decide ((ctxOf s (key / 64)).state = 1) && key % 64 < recBits s (key / 64) 606 600 && q.en && !q.ovr && q.sqhead ≠ q.sqtail

/-- The pool of a queue pair's entries (R144): its context's partition, or the shared one. -/
def qpPool (s : State) (key : Nat) : Nat :=
  if (qpOf s (key / 64) (key % 64)).rpart then recBits s (key / 64) 55 48 + 1 else 0

/-- The package queue of a pool has room (R151). -/
def packageRoom (s : State) (pool : Nat) : Bool :=
  (s.tiles.filter fun i => i.pool = pool && (packageOp (tileOp i.tile) || (s.pieces.any fun p => p.tile = i.id && p.level = 5 && inQueue s p))).length < 256

/-- The queue pair visited next in round robin (R144). -/
def nextQp (s : State) : Option Nat :=
  let keys := (s.qps.map (·.1)).filter fun k => mayFetch s k && packageRoom s (qpPool s k)
  (keys.find? fun k => s.rr ≤ k).or keys.head?

/-- An entry of a submission ring (R143). -/
def ringEntry (s : State) (q : Qp) : Tile :=
  tileOfBits (BitVec.ofNat 512 (paNum s (q.sqbase + 64 * (q.sqhead.toNat % 2 ^ q.sqlog)) 64))

/-- The generations that acceptance counts (R77): IMM operands, with their scales and codebooks, and the kernel of a TMAP
(R160). A recast's own operand is not counted. -/
def countsOf (s : State) (ctx : Nat) (t : Tile) (os : Opds) : List (Nat × Nat) :=
  if tileOp t = 8 then []
  else
    (os.filterMap id |>.filter fun o => o.retained || o.roles.contains 0).flatMap (fun o => heldWith s ctx o.desc (hIndex o.handle) (hGen o.handle))
      ++ (if tileOp t = 4 then [(hIndex t.param, hGen t.param)] else [])

/-- The first of some numbered operands of which a count would pass 2^32 − 1, the counts of the operands before it taken
(R77). -/
def fullFrom (ctx : Nat) (os : Opds) : State → List Nat → Option Nat
  | _, [] => none
  | s, n :: ns => match opd os n with
    | some o =>
      if o.retained || o.roles.contains 0 then
        match raiseReaders s ctx (heldWith s ctx o.desc (hIndex o.handle) (hGen o.handle)) with
        | some s => fullFrom ctx os s ns
        | none => some n
      else fullFrom ctx os s ns
    | none => fullFrom ctx os s ns

/-- The operand whose count would pass 2^32 − 1 (R77); a recast's own operand is not counted. -/
def fullCount (s : State) (ctx : Nat) (t : Tile) (os : Opds) : Option Nat :=
  if tileOp t = 8 then none else fullFrom ctx os s [0, 1, 2, 3]

/-- An accepted instruction. -/
def newTile (s : State) (key id : Nat) (t : Tile) (os : Opds) : TileInst :=
  let ctx := key / 64
  let q := qpOf s ctx (key % 64)
  { id := id, ctx := ctx, qp := key % 64, sqidx := q.sqhead, tile := t, pri := min (tPri t) q.pmax, pool := qpPool s key
    a := opd os 0, b := opd os 1, c := opd os 2, d := opd os 3, state := .queued, flags := 0, iovf := false, retries := 0
    subst := false, xcnt := 0, xrec := false, failClass := 0, failCause := 0, failIdx := 0
    counts := countsOf s ctx t os, signalled := false, fpol := recBits s ctx 31 0, ageus := recBits s ctx 47 32, loaded := [], stored := [] }

/-- A quadrant could hold pieces of an instruction: it has a core to which the instruction's owners confine it (R127), and for a gang
a window of such cores (R157). -/
def quadMay (i : TileInst) (q : Nat) : Bool :=
  match confined i with
  | none => true
  | some cs => (cs.any fun c => c / 16 = q) && (!isGang i || decide (tGang i.tile < cs.length))

/-- No quadrant that the instruction may use is present, or its partition includes an absent die (R19, R150). R19 has the partition reject
instructions; what becomes of one accepted before the die failed, without a piece there, it does not say: the model lets it go on in
the quadrants left. DESIGN CHOICE, log entry 61. -/
def unplaceable (s : State) (i : TileInst) : Bool :=
  (i.pool ≠ 0 && (List.range 32).any fun q => (partMask s (i.pool - 1)).testBit q && !diePresent s (q / 4))
    || ([1, 2, 3, 4, 5, 6, 7, 9, 10, 11, 12, 15].contains (tileOp i.tile) && !((poolQuads s i.pool).any (quadMay i)))

/-- An entry is rejected (R144): a fault record, and a completion record marked failed. -/
def rejectEntry (s : State) (key id cls cause : Nat) (detail : Option Nat) (t : Tile) : State :=
  let i := newTile s key id t []
  let w := writeFault s (packageFault s i.ctx cls cause detail (tTiid t) id)
  pushCqe { w.1 with free := w.1.free + 2 } i.ctx i.qp
    (cqeBits { i with failClass := cls, failCause := cause, failIdx := w.2 } true)

/-! ## Handing out pieces (R152, R154, R155, R157) -/

/-- Quadrant-local windows of a gang's size whose cores no gang has reserved (R157), within the unit to which the instruction is
confined (R127): starts. -/
def gangWindows (s : State) (i : TileInst) (quad n : Nat) : List Nat :=
  let may (c : Nat) : Bool := match confined i with | some cs => cs.contains c | none => true
  (List.range (17 - n)).filter fun w => (List.range n).all fun k =>
    may (16 * quad + w + k) && (coreOf s (16 * quad + w + k)).reserved.isNone

/-- A core is free (R157): no task, an empty local queue, no frozen task that waits to resume. -/
def coreFree (s : State) (c : Nat) : Bool :=
  let x := coreOf s c
  x.mode = .free && x.task.isNone && (queueAt s 1 c 0).isEmpty && !(s.frozen.any fun z => z.core = c)

/-- The window that a gang takes (R157): the most free cores, or the lowest start in deterministic mode. -/
def gangWindow (s : State) (i : TileInst) (quad : Nat) : Option Nat :=
  let n := tGang i.tile + 1
  let ws := gangWindows s i quad n
  if tDet i.tile then ws.head?
  else
    let frees (w : Nat) : Nat := ((List.range n).filter fun k => coreFree s (16 * quad + w + k)).length
    ws.foldl (fun (b : Option Nat) w => match b with
      | none => some w
      | some v => if frees v < frees w then some w else some v) none

/-- What serving an entry would do, if anything can be done now. -/
def serve (s : State) (p : Piece) : Option State :=
  match tileOf s p.tile with
  | none => none
  | some i =>
    if carriedOut i p then none
    else if isGang i && p.level = 3 then
      if s.cores.any fun q => q.2.reserved = some p.id then none
      else (gangWindow s i p.unit).map fun w =>
        (List.range (tGang i.tile + 1)).foldl (fun s k => modCore s (16 * p.unit + w + k) fun x => { x with reserved := some p.id }) s
    else match nextPiece s i p with
      | none => none
      | some x => (takerOf s i p x).map fun u =>
        let s := handTo s i p x u
        if p.level = 5 && i.state = .queued then putTile s { i with state := .running } else s

/-- An earlier instruction of the ring names the tensor as an ACC output (R123). -/
def accWriterBefore (s : State) (i : TileInst) : Bool :=
  s.tiles.any fun j => earlier i j
    && (outputs j.tile (opdsI j)).any fun o => hasRole o 2 && (match o with | some o => hIndex o.handle = hIndex i.tile.opa | none => false)

/-- An earlier TCOL on the same channel has not retired (R391). -/
def colBefore (s : State) (i : TileInst) : Bool :=
  s.tiles.any fun j => j.ctx = i.ctx && j.id < i.id && tileOp j.tile = 11 && tp j.tile 7 0 = tp i.tile 7 0

/-- An entry that no scheduler hands out may be carried out now: a TCAST after the earlier ACC writers of its ring (R123), a die piece of
a TCOL in the order of its channel (R391). -/
def carryReady (s : State) (p : Piece) : Bool :=
  match tileOf s p.tile with
  | some i => carriedOut i p && (if tileOp i.tile = 8 then !(hasRole i.a 2 && accWriterBefore s i) else !colBefore s i)
  | none => false

/-- An entry is the one that its queue serves (R152): no entry before it can be served now. -/
def servesNow (s : State) (p : Piece) : Bool :=
  match tileOf s p.tile with
  | some i => (eligiblePieces s p.level p.unit i.pool).all fun q => !servedFirst q p || !(carryReady s q || (serve s q).isSome)
  | none => false

/-- The best entry that can be served now: the entries that cannot are passed over (R152, R155), and one that is carried out has its turn. -/
def serveBest (s : State) : Nat → List Piece → Option State
  | 0, _ => none
  | n + 1, ps => match served ps with
    | none => none
    | some p => match serve s p with
      | some s => some s
      | none => if carryReady s p then none else serveBest s n (ps.filter fun q => q.id ≠ p.id)

/-- HAND_OUT_PIECE (R152): a scheduler's queue serves its best entry. -/
def execHandOutPiece (lvl unit pool : Nat) (s : State) : Host.Outcome State Fault Refusal :=
  let ps := eligiblePieces s lvl unit pool
  .next ((if 2 ≤ lvl && lvl ≤ 5 then serveBest s ps.length ps else none).getD s)

/-- AGING_TICK (R153): an entry, a frozen task among them (R417), has spent one more aging interval in its queue; aging may
be off. -/
def execAgingTick (lvl unit entry : Nat) (s : State) : Host.Outcome State Fault Refusal :=
  match s.pieces.find? fun p => p.id = entry && ((p.level = lvl && p.unit = unit && inQueue s p)
      || (lvl = 1 && s.frozen.any fun z => z.core = unit && z.task.piece = entry)) with
  | some p =>
    let off : Bool := match tileOf s p.tile with
      | some i => decide (i.ageus = 0xFFFF)
      | none => true
    .next (if off then s else putPiece s { p with aged := p.aged + 1 })
  | none => .next s

/-! ## Stealing (R156) -/

/-- The entries of a local queue that a thief may take: not deterministic, not confined elsewhere. -/
def stealable (s : State) (victim thief : Nat) : List Piece :=
  (queueAt s 1 victim 0).filter fun p => match tileOf s p.tile with
    | some i => !tDet i.tile && unitOk s i 1 thief
    | none => false

/-- The oldest entry of a list. -/
def oldest : List Piece → Option Piece
  | [] => none
  | p :: r => match oldest r with
    | none => some p
    | some q => if q.seq < p.seq then some q else some p

/-- The victim of an idle core (R156): its sibling, or the fullest core of its quadrant. -/
def victimOf (s : State) (t : Nat) : Option Nat :=
  let sib := if t % 2 = 0 then t + 1 else t - 1
  if !(stealable s sib t).isEmpty then some sib
  else
    let others := ((List.range 16).map (t / 16 * 16 + ·)).filter fun c => c ≠ t && !(stealable s c t).isEmpty
    others.foldl (fun (b : Option Nat) c => match b with
      | none => some c
      | some v => if (stealable s v t).length < (stealable s c t).length then some c else some v) none

/-- A core may steal. -/
def maySteal (s : State) (t : Nat) : Bool := coreFree s t && (coreOf s t).reserved.isNone

/-- The thefts of one bundle cycle by some cores: thief and victim; of the idle cores of the quadrant that turn to one victim in that
cycle the lowest wins, whichever of them are named. -/
def thefts (s : State) (ts : List Nat) : List (Nat × Nat) :=
  let wants (t : Nat) : Option Nat := if maySteal s t then victimOf s t else none
  (ts.filterMap fun t => (wants t).map fun v => (t, v)).filter fun q =>
    (List.range 16).all fun k => let r := q.1 / 16 * 16 + k; decide (q.1 ≤ r) || decide (wants r ≠ some q.2)

/-- A stolen entry moves to its thief (R153: its aging restarts). -/
def stealOne (s : State) (q : Nat × Nat) : State :=
  match oldest (stealable s q.2 q.1) with
  | some p =>
    let (seq, s) := freshId s
    putPiece s { p with unit := q.1, aged := 0, seq := seq }
  | none => s

/-- STEAL (R156): the idle cores named steal in one bundle cycle. -/
def execSteal (thieves : List Nat) (s : State) : Host.Outcome State Fault Refusal :=
  .next ((thefts s thieves.eraseDups).foldl stealOne s)

/-! ## The start of a task (R115, R193, R222, R257, R306) -/

/-- The banks that a task receives (R257): those that hold no frozen context's contents are zeroed. -/
def freshBanks (s : State) (c : Nat) : State :=
  modCluster s (clusterOfCore c) fun k =>
    { k with banks := k.banks.mapFinIdx fun j b _ => if j / 2 = c % 2 && b.resident.isNone then .fresh else b }

/-- The registers s1 to s10 of a task (R115). -/
def startRegs (i : TileInst) (p : Piece) : List (BitVec 64) :=
  let n (v : Nat) : BitVec 64 := BitVec.ofNat 64 v
  [i.tile.opa, i.tile.opb, i.tile.opc, i.tile.opd, n p.row0, n p.col0, n p.rows, n p.cols, n p.batch, n (tTiid i.tile).toNat]

/-- The core at the start of a task (R115, R193, R222). -/
def startCore (s : State) (c : Nat) (i : TileInst) (p : Piece) (r : Region) (gang : Option Nat) : Core :=
  let old := coreOf s c
  let k := clusterOf s (clusterOfCore c)
  let res (j : Nat) : Bool := ((k.banks[2 * (c % 2) + j]?).getD .fresh).resident.isSome
  let spdl := recBits s i.ctx 799 768
  { Core.init with
    s := ((List.range 10).zip (startRegs i p)).foldl (fun v q => v.setIfInBounds (q.1 + 1) q.2) Core.init.s
    swap := res 0 && !res 1
    pc := BitVec.ofNat 64 r.base
    mode := .running
    task := some { ctx := i.ctx, tiid := tTiid i.tile, number := old.started + 1, level := tLevel i.tile
                   pieceNo := BitVec.ofNat 32 (if p.level = 1 then p.number else 0), piece := p.id
                   det := tDet i.tile, car := tCar i.tile, code := r, kernel := i.tile.param, gang := gang
                   firmware := tileOp i.tile ≠ 4, iwcol := recBits s i.ctx 61 61 = 1, iovf := false }
    tvec := BitVec.ofNat 64 (recBits s i.ctx 767 704)
    seedkey := BitVec.ofNat 64 (recBits s i.ctx 703 640)
    spdeadline := BitVec.ofNat 64 (if spdl = 0 then 20000 else spdl)
    age := BitVec.ofNat 64 (if recBits s i.ctx 47 32 = 0 then 50 else recBits s i.ctx 47 32)
    started := old.started + 1
    replaycnt := old.replaycnt
    sq := old.sq, loads := old.loads, arrayQ := old.arrayQ
    reserved := old.reserved }

/-- The code region of an instruction's tasks: the kernel of a TMAP (R160), none for a firmware kernel. -/
def taskRegion (s : State) (i : TileInst) : Region :=
  if tileOp i.tile = 4 then (kernelRegion s i.ctx i.tile.param).getD ⟨0, 0⟩ else ⟨0, 0⟩

/-- A task of a piece starts on a core. -/
def startOn (s : State) (c : Nat) (i : TileInst) (p : Piece) (gang : Option Nat) : State :=
  let r := taskRegion s i
  let s := freshBanks (takeSp s c i.ctx) c
  let s := setCore s c (startCore s c i p r gang)
  trace s c 4 r.base

/-- Tasks of a context may start on a core: the context is not held (R410), and the core holds no frozen task of it (R417). -/
def mayStartIn (s : State) (c ctx : Nat) : Bool :=
  !(ctxOf s ctx).hold && !(s.frozen.any fun z => z.core = c && z.task.ctx = ctx)

/-- The cores of a frozen task: those of its gang that have not exited, which resumes as one unit (R418), or its own. -/
def frozenCores (s : State) (z : FrozenTask) : List Nat :=
  match z.task.gang.bind fun g => s.gangs.find? fun y => y.id = g with
  | some y => y.members.filter fun m => !y.exited.contains m
  | none => [z.core]

/-- A frozen task may resume (R417): its context is not held, and its cores are free and may hold its data. -/
def mayResume (s : State) (z : FrozenTask) : Bool :=
  !(ctxOf s z.task.ctx).hold && (frozenCores s z).all fun c =>
    let x := coreOf s c
    x.mode = .free && x.task.isNone && spMayPass s c z.task.ctx
      && s.frozen.any fun w => w.core = c && w.task.piece = z.task.piece

/-- The frozen tasks of a core that may resume, as the entries of its local queue that they are (R417). -/
def resumable (s : State) (c : Nat) : List Piece :=
  (s.frozen.filter fun z => z.core = c && mayResume s z).filterMap fun z => (pieceOf s z.task.piece).map fun p => { p with seq := z.seq }

/-- The entry that a core's local queue serves (R152), of those whose tasks may start or resume there now. -/
def servedLocal (s : State) (c : Nat) : Option Piece :=
  served (((queueAt s 1 c 0).filter fun p => match tileOf s p.tile with
    | some i => mayStartIn s c i.ctx && spMayPass s c i.ctx
    | none => false) ++ resumable s c)

/-- The piece whose task a free core starts. -/
def startable (s : State) (c : Nat) : Option (TileInst × Piece) :=
  let x := coreOf s c
  if x.mode ≠ .free || x.task.isSome then none
  else match servedLocal s c with
    | none => none
    | some p => if p.state = .running then none else (tileOf s p.tile).map fun i => (i, p)

/-- A piece's task starts. -/
def startPiece (s : State) (c : Nat) (i : TileInst) (p : Piece) : State :=
  putPiece (startOn s c i p none) { p with state := .running }

/-- TASK_START (R115): a free core serves its local queue. -/
def execTaskStart (core : Nat) (s : State) : Host.Outcome State Fault Refusal :=
  match startable s core with
  | some q => .next (startPiece s core q.1 q.2)
  | none => .next s

/-- TMAP (R115): on the current core, a task of the user kernel starts on a piece of the instruction. -/
def execTmap (t : Tile) (s : State) : Host.Outcome State Fault Refusal :=
  match startable s s.cur with
  | some q => .next (if q.1.tile = t then startPiece s s.cur q.1 q.2 else s)
  | none => .next s

/-- The cores of the window that a gang's piece has reserved. -/
def reservedFor (s : State) (p : Piece) : List Nat :=
  ((List.range 16).map (16 * p.unit + ·)).filter fun c => (coreOf s c).reserved = some p.id

/-- A gang may be admitted (R157): every core of its window is free, and their scratchpads may pass to its context. -/
def admissible (s : State) (i : TileInst) (p : Piece) : Bool :=
  let cs := reservedFor s p
  !cs.isEmpty && (cs.all fun c => coreFree s c && mayStartIn s c i.ctx && spMayPass s c i.ctx)

/-- A gang starts: fused, with skew step 0, on every core of its window (R157, R358). -/
def startGang (s : State) (i : TileInst) (p : Piece) : State :=
  let cs := reservedFor s p
  let (g, s) := freshId s
  let s := { s with gangs := s.gangs ++ [⟨g, i.ctx, cs, [], true, 0, [], false, p.id⟩] }
  putPiece (cs.foldl (fun s c => startOn s c i p (some g)) s) { p with state := .running, next := 1 }

/-- GANG_ADMIT (R157): in a quadrant, the oldest reserved window whose cores are all free is admitted. -/
def execGangAdmit (quad : Nat) (s : State) : Host.Outcome State Fault Refusal :=
  let ps := s.pieces.filter fun p => p.level = 3 && p.unit = quad && p.state = .queued && (match tileOf s p.tile with
    | some i => isGang i && admissible s i p
    | none => false)
  match oldest ps with
  | some p => match tileOf s p.tile with
    | some i => .next (startGang s i p)
    | none => .next s
  | none => .next s

/-! ## The end of a task (R204, R361) -/

/-- The waits of EXIT have ended for a core (R204). -/
def exitDone (s : State) (c : Nat) : Bool :=
  let x := coreOf s c
  x.mode = .exiting && !(x.inflight.any fun a => a.due.isNone) && x.sq.isEmpty && x.loads.isEmpty && x.arrayQ.isEmpty
    && !(s.bags.any fun b => b.1 = c) && (x.l0q.all (·.done))
    && !((clusterOf s (clusterOfCore c)).engine.any fun o => o.core = c && !o.orphan)

/-- A core's results land and its task ends; its flags and the wrap of an accumulation of it join its piece's (R138, R428). -/
def endTask (s : State) (piece c : Nat) : State :=
  let s := bubbles 24 s c
  let fl := (coreOf s c).aflags
  let ov : Bool := ((coreOf s c).task.map (·.iovf)).getD false
  let s := { s with pieces := s.pieces.map fun p => if p.id = piece then { p with flags := p.flags ||| fl, iovf := p.iovf || ov } else p }
  let s := dropTask s c
  modCore s c fun x => { x with reserved := if x.reserved = some piece then none else x.reserved }

/-- TASK_RETIRE (R204): when the waits of EXIT have ended on every core of the task, it retires. -/
def execTaskRetire (core : Nat) (s : State) : Host.Outcome State Fault Refusal :=
  match (coreOf s core).task with
  | none => .next s
  | some t =>
    let cs := gangCores s core
    if cs.all (exitDone s) then
      let s := cs.foldl (fun s c => endTask s t.piece c) s
      let s := { s with gangs := s.gangs.filter fun g => some g.id ≠ t.gang
                        pieces := s.pieces.map fun p => if p.id = t.piece then { p with state := .retired } else p }
      .next s
    else .next s

/-- A recast out of ACC, all of whose members have arrived, has still to convert a tensor that a die piece would merge into: the merge
comes after it (R84, R332). -/
def castFirst (s : State) (p : Piece) : Bool :=
  p.level = 4 && p.staging.any fun q => match pendingCast s q.2.ctx q.2.index q.2.gen with
    | some r => allArrived r && !(namedRoles r.desc r.roles r.req.terms).contains 0
    | none => false

/-- PIECE_RETIRE_MERGE (R128): a retired piece merges upward. -/
def execPieceRetireMerge (piece : Nat) (s : State) : Host.Outcome State Fault Refusal :=
  match pieceOf s piece with
  | some p => match tileOf s p.tile with
    | some i => .next (if p.state = .retired && p.level < 5 && !castFirst s p then mergePiece s i p else s)
    | none => .next s
  | none => .next s

/-- TILE_RETIRE (R130, R427): an instruction all of whose pieces have retired, and whose tasks' recasts are complete. -/
def execTileRetire (ti : Nat) (s : State) : Host.Outcome State Fault Refusal :=
  match tileOf s ti with
  | some i =>
    match s.pieces.find? fun p => p.tile = ti && p.level = 5 with
    | some p =>
      if p.state = .retired && !(s.recasts.any fun r => r.tiles.contains ti) then
        .next (retireTile s { i with flags := i.flags ||| p.flags, iovf := i.iovf || p.iovf })
      else .next s
    | none => .next s
  | none => .next s

/-- The oldest waiting completion record of a queue pair is written, with its phase, when there is room (R146, R429). -/
def writeCqe (s : State) (ctx qp : Nat) : State :=
  let q := qpOf s ctx qp
  match s.cqes.find? fun e => e.ctx = ctx && e.qp = qp with
  | none => s
  | some e =>
    if cqRoom q then
      let n := q.cqtail.toNat
      let ph := 1 - n / 2 ^ q.cqlog % 2
      let s := paPut s (q.cqbase + 32 * (n % 2 ^ q.cqlog)) 32 (e.bits.toNat + ph * 2 ^ 32)
      let s := modQp s ctx qp fun q => { q with cqtail := q.cqtail + 1 }
      refreshFull { s with cqes := s.cqes.erase e } ctx qp
    else refreshFull s ctx qp

/-- COMPLETION_RECORD_WRITE (R429). -/
def execCompletionRecordWrite (ctx qp : Nat) (s : State) : Host.Outcome State Fault Refusal := .next (writeCqe s ctx qp)

/-! ## Fault records up the levels (R132, R136) -/

/-- The piece of a chain of parents that stands at a level. -/
def ancestor (s : State) (lvl : Nat) : Nat → Piece → Option Piece
  | 0, _ => none
  | n + 1, p => if p.level = lvl then some p else if lvl < p.level then none
    else (pieceOf s p.parent).bind (ancestor s lvl n)

/-- The pieces below one, itself among them. -/
def subtree (s : State) : Nat → List Nat → List Nat
  | 0, ids => ids
  | n + 1, ids => subtree s n (ids ++ ((s.pieces.filter fun q => ids.contains q.parent && !ids.contains q.id).map (·.id)))

/-- The cores that run a task of some pieces. -/
def coresOn (s : State) (ids : List Nat) : List Nat :=
  s.cores.filterMap fun q => match q.2.task with
    | some t => if ids.contains t.piece then some q.1 else none
    | none => none

/-- A piece is taken back with all below it, and is to be placed as a new piece (R136, R137): its staging is discarded. A
gang's piece goes back into its quadrant's queue; `pin` names the unit that must take it. -/
def rerunPiece (s : State) (p : Piece) (retries : Nat) (requeue : Bool) (pin : Option Nat) : State :=
  let ids := subtree s 5 [p.id]
  let cs := coresOn s ids
  let gs := cs.filterMap fun c => (gangOf s c).map (·.id)
  let gs := gs ++ s.frozen.filterMap fun z => if ids.contains z.task.piece then z.task.gang else none
  let s := dropFrozen (unreserve (cs.foldl dropTask s) ids) fun z => ids.contains z.task.piece
  let (id, s) := freshId s
  let q : Piece := { p with id := id, next := 0, pin := pin, state := if requeue then .queued else .unplaced, aged := 0, retries := retries
                            staging := [], partials := [], flags := 0, iovf := false }
  { s with pieces := s.pieces.filter (fun z => !ids.contains z.id) ++ [q]
           gangs := s.gangs.filter fun g => !gs.contains g.id
           faults := s.faults.filter fun f => !ids.contains f.piece }

/-- A level's retry limit (R135). -/
def retryLimit (i : TileInst) (lvl : Nat) : Nat := (i.fpol >>> (4 * lvl)) % 8

/-- on_fault of R136 at the level that receives a record. -/
def onFault (s : State) (f : FaultRec) : State :=
  match tileOf s f.tile with
  | none => s
  | some i =>
    let lvl := f.level
    let child := (pieceOf s f.piece).bind fun p =>
      if isGang i && lvl = 3 then (if p.level = 3 then some p else none) else ancestor s (lvl - 1) 5 p
    let may := (f.cls = 1 || f.cls = 2) && tRply i.tile && f.retries < retryLimit i lvl
    match (if may then child else none) with
    | some p => putTile (rerunPiece s p (f.retries + 1) (isGang i && lvl = 3) none) { i with retries := i.retries + 1 }
    | none =>
      if lvl ≥ 5 then failTile s i f
      else { s with faults := s.faults ++ [{ f with level := lvl + 1 }] }

/-- FAULT_RECORD_RECEIVE (R136): a level receives record k. -/
def execFaultRecordReceive (k : Nat) (s : State) : Host.Outcome State Fault Refusal :=
  match s.faults[k]? with
  | some f => .next (onFault { s with faults := s.faults.eraseIdx k } f)
  | none => .next s

end Sys2Proof.Machine
end

