-- ==== Sys2Proof/Machine/TileOps.lean ====
section
/-!
DEFINITION. The tile instructions (R105): the firmware leaf of a built-in opcode on the current core (R112 to R121), the
control opcodes and the recast and collective that the package carries out (R122 to R124), and level-0 instructions
(R219, R220).
-/
namespace Sys2Proof.Machine

/-! ## Built-in opcodes on a core (R112 to R121; log entry 13) -/

/-- The firmware task of a core, with its piece and instruction, when it runs. -/
def firmwareOn (s : State) (c : Nat) : Option (TileInst × Piece) :=
  let x := coreOf s c
  match x.task with
  | some t =>
    if t.firmware && x.mode = .running && !x.hard then
      (pieceOf s t.piece).bind fun p => (tileOf s p.tile).map fun i => (i, p)
    else none
  | none => none

/-- A firmware task ends its work: its flags and overflow are noted, and it waits to retire. -/
def leafDone (s : State) (c : Nat) (p : Piece) (flags : Nat) (iovf : Bool) : State :=
  let s := { pastLeaf s with pieces := s.pieces.map fun q => if q.id = p.id then { q with iovf := q.iovf || iovf } else q }
  trace (modCore s c fun x => { x with aflags := x.aflags ||| BitVec.ofNat 6 flags, mode := .exiting }) c 5 (coreOf s c).pc.toNat

/-- A leaf that ends in a trap: the index fault of TMMG ends the piece at once (R113), every other is taken (R401). -/
def leafTrap (s : State) (c : Nat) (i : TileInst) (t : Trap) : State :=
  if tileOp i.tile = 2 && t.cause = 0x0B then failTask s c 1 0x0B t.detail else takeTrap s c t

/-- The leaf of a piece that reads and writes tensors in place. -/
def leafRun (s : State) (c : Nat) (i : TileInst) (p : Piece) : State :=
  let s := raceLeaf s c i
  match leafOf s c i p with
  | .error t => leafTrap s c i t
  | .ok r => match commitLeaf s c i p r with
    | .error t => leafTrap s c i t
    | .ok q => leafDone q.1 c p q.2 r.iovf

/-- The stream that a TCOPY reads is ready for all its elements, at its end before them, or not yet (R118, R73). -/
def streamIn (s : State) (c : Nat) (o : Operand) : Except Trap Bool :=
  if dRole o.desc ≠ 1 then .ok true
  else
    let t := recOf s (ctxOfCore s c) (hIndex o.handle) (hGen o.handle)
    if (t.consumer.isSome && t.consumer ≠ some c) || t.consumed ≠ 0 then .error (trapAt 0x07 (dBase o.desc) 0 0)
    else if dCount o.desc ≤ t.appended then .ok true
    else if t.closed then .error (trapOf 0x0D 0)
    else .ok false

/-- A TCOPY with a stream: one leaf that consumes or appends in canonical order (R118). -/
def leafStream (s : State) (c : Nat) (i : TileInst) (a o : Operand) (p : Piece) : State :=
  let n := dCount o.desc
  match streamIn s c a with
  | .error t => leafTrap s c i t
  | .ok false => s
  | .ok true => match joinAll (copyElem s c i.tile a o) (List.range n) with
    | .error t => leafTrap s c i t
    | .ok r =>
      let consume (s : State) : State :=
        if dRole a.desc = 1 then
          let t := recOf s i.ctx (hIndex a.handle) (hGen a.handle)
          putRec s { t with consumer := some c, fetched := n, consumed := n }
        else s
      if dRole o.desc = 1 then
        match appendCheck s c 0 o.handle n with
        | .error t => leafTrap s c i t
        | .ok (d, t) => match appendPages s c 0 d t.issued (List.range n) with
          | .error t => leafTrap s c i t
          | .ok ks =>
            let vs := r.outs.filterMap fun u => match u with | .put _ _ b => some b | _ => none
            leafDone (enterAppends (consume s) c d t ks vs) c p r.flags false
      else match commitLeaf s c i p r with
        | .error t => leafTrap s c i t
        | .ok q => leafDone (consume q.1) c p q.2 false

/-- The leaf of the current core's firmware task, when its instruction has the words t. -/
def leafStep (t : Tile) (s : State) : Host.Outcome State Fault Refusal :=
  match firmwareOn s s.cur with
  | some (i, p) =>
    if i.tile ≠ t then .next s
    else match i.a, i.c with
      | some a, some o => .next (if tileOp t = 7 && isWhole t (opdsI i) then leafStream s s.cur i a o p else leafRun s s.cur i p)
      | _, _ => .next (leafRun s s.cur i p)
  | none => .next s

/-- TMM (R112): the matrix product of the running piece. -/
def execTmm (t : Tile) (s : State) : Host.Outcome State Fault Refusal := leafStep t s
/-- TMMG (R113): the gathered product of the running piece. -/
def execTmmg (t : Tile) (s : State) : Host.Outcome State Fault Refusal := leafStep t s
/-- TCONV (R114): the convolution of the running piece. -/
def execTconv (t : Tile) (s : State) : Host.Outcome State Fault Refusal := leafStep t s
/-- TRED (R116): the reduction of the running piece. -/
def execTred (t : Tile) (s : State) : Host.Outcome State Fault Refusal := leafStep t s
/-- TSCAN (R117): the scan of the running piece. -/
def execTscan (t : Tile) (s : State) : Host.Outcome State Fault Refusal := leafStep t s
/-- TCOPY (R118): the copy of the running piece. -/
def execTcopy (t : Tile) (s : State) : Host.Outcome State Fault Refusal := leafStep t s
/-- TPRJ (R121): the projection of the running piece's rows. -/
def execTprj (t : Tile) (s : State) : Host.Outcome State Fault Refusal := leafStep t s
/-- TPRJA (R121): the adjoint of the running piece's rows. -/
def execTprja (t : Tile) (s : State) : Host.Outcome State Fault Refusal := leafStep t s
/-- TFILL (R119): the fill of the running piece. -/
def execTfill (t : Tile) (s : State) : Host.Outcome State Fault Refusal := leafStep t s
/-- TCHK (R120): the CRC of the running piece's span. -/
def execTchk (t : Tile) (s : State) : Host.Outcome State Fault Refusal := leafStep t s

/-! ## Opcodes that the package carries out (R122 to R124) -/

/-- The oldest eligible instruction with the words t that the package has not begun. -/
def controlOf (s : State) (t : Tile) : Option TileInst :=
  s.tiles.find? fun i => i.tile = t && i.state = .queued && eligible s i

/-- The package's step on an instruction with the words t. -/
def controlStep (t : Tile) (s : State) (f : TileInst → State) : Host.Outcome State Fault Refusal :=
  match controlOf s t with
  | some i => .next (f i)
  | none => .next s

/-- TNOP (R124) retires at once. -/
def execTnop (t : Tile) (s : State) : Host.Outcome State Fault Refusal := controlStep t s fun i => retireTile s i

/-- TEVT on another package: it fails when that package is not reached, has no such context or no such event (R124,
R444), else it retires once the increment is on its way. -/
def remoteTevt (s : State) (i : TileInst) (pkg idx : Nat) : State :=
  let cnt := if reaches s pkg then Config.remoteEvents pkg i.ctx s.free else none
  let s := { s with free := s.free + 1 }
  match cnt with
  | none => failTile s i (packageFault s i.ctx 0 0x0A none (tTiid i.tile) i.id)
  | some n =>
    if 1 ≤ idx && idx < n then retireTile s i
    else failTile s i (packageFault s i.ctx 0 0x03 none (tTiid i.tile) i.id)

/-- TEVT takes effect: it adds `INC` to its counter and retires (R124). -/
def tevtOn (s : State) (i : TileInst) : State :=
  let p := tp i.tile 31 16
  if p = 0xFFFF || p = s.pkg.toNat then retireTile (applyInc s i.ctx (tp i.tile 15 0) (tp i.tile 63 32)) i
  else remoteTevt s i p (tp i.tile 15 0)

/-- TWAIT retires, with `DRAIN` only after every earlier instruction of its ring (R124). -/
def twaitOn (s : State) (i : TileInst) : State :=
  if bitOf i.tile.param 0 && s.tiles.any (earlier i) then s else retireTile s i

/-- TSTEP retires once the geyser count has reached `STEPN` (R124). -/
def tstepOn (s : State) (i : TileInst) : State :=
  if i.tile.param.toNat ≤ s.geyser.toNat then retireTile s i else s

/-- TEVT (R124). -/
def execTevt (t : Tile) (s : State) : Host.Outcome State Fault Refusal := controlStep t s fun i => tevtOn s i
/-- TWAIT (R124). -/
def execTwait (t : Tile) (s : State) : Host.Outcome State Fault Refusal := controlStep t s fun i => twaitOn s i
/-- TSTEP (R124). -/
def execTstep (t : Tile) (s : State) : Host.Outcome State Fault Refusal := controlStep t s fun i => tstepOn s i

/-- The request of a TCAST (R123). -/
def castRequest (i : TileInst) : RecastReq :=
  ⟨.tile i.id, i.ctx, i.tile.opa, i.tile.param, i.tile.opb, i.tile.opc, evIdx i.tile.sigw, evVal i.tile.sigw,
   if bitOf i.tile.param 8 then evIdx i.tile.opd else 0⟩

/-- The entry of a queue that is an instruction with the words t, which the package or a die is to carry out now (R152). -/
def carriedNow (s : State) (t : Tile) (level : Nat) : Option (TileInst × Piece) :=
  s.tiles.findSome? fun i =>
    if i.tile = t && eligible s i then
      (s.pieces.find? fun p => p.tile = i.id && p.level = level && inQueue s p && carryReady s p && servesNow s p).map fun p => (i, p)
    else none

/-- TCAST (R123): in its turn (R152) its recast goes to the home slice, after the earlier ACC writers of its ring. -/
def execTcast (t : Tile) (s : State) : Host.Outcome State Fault Refusal :=
  match carriedNow s t 5 with
  | some (i, p) =>
    let s := putTile { s with pieces := s.pieces.filter fun q => q.id ≠ p.id } { i with state := .recasting }
    .next { s with recastReqs := s.recastReqs ++ [castRequest i] }
  | none => .next s

/-! ## Collectives (R122, R391) -/

/-- Element k of endpoint j's endpointElem: this package's own, or a free value (log entry 15). -/
def endpointElem (s : State) (e : BitVec 512) (mine : Nat) (own : List Nat) (j k : Nat) : Nat :=
  if j = mine then own.getD k 0
  else (Config.freeWord (s.free + 2 ^ 40 * j + k)).toNat % 2 ^ codeBits (chFmt e)

/-- Element k of a combined tile, in the tile's walk (R387, R388): bits, whether it is out of range, and flags. A holding element starts
as zero, as the pseudo-code of R387 has it. -/
def collected (s : State) (e : BitVec 512) (mine : Nat) (own : List Nat) (k : Nat) : Nat × Bool × Nat :=
  let t := k / max 1 (chElems e)
  let xs := (List.range (chCount e)).map fun p => endpointElem s e mine own (walkAt e t p) k
  let f := chF e
  if chWide e then
    let h := xs.foldl (fun (h : Nat × Nat) x => let v := holdAdd f (chComb e) (chElo e) h.1 f x; (v.1, h.2 ||| v.2)) (0, 0)
    (deliverWide f (chComb e) (chElo e) h.1, false, h.2)
  else
    let w := chW e
    let r := (xs.drop 1).foldl (fun (q : Nat × Bool) x =>
      let h := narrowHop (chComb e) w f q.1 x
      (h.1, q.2 || h.2)) (toWire w f (xs.headD 0), false)
    let v := deliverNarrow f w r.1 r.2
    (v.1, r.2, v.2)

/-- The elements that this package's endpoint receives (R386): bits, whether each is out of range, and flags. -/
def collective (s : State) (e : BitVec 512) (mine : Nat) (own : List Nat) : List (Nat × Bool × Nat) :=
  let n := own.length
  let te := max 1 (chElems e)
  match chKind e with
  | 1 => (List.range n).map (collected s e mine own)
  | 2 => ((List.range n).filter fun k => k / te % chCount e = mine).map (collected s e mine own)
  | 3 => (List.range (chCount e)).flatMap fun j => (List.range n).map fun k => (endpointElem s e mine own j k, false, 0)
  | _ => if mine = 0 then [] else (List.range n).map fun k => (endpointElem s e mine own 0 k, false, 0)

/-- What a die piece of a TCOL receives: its outputs, how many elements are out of range, and flags. On a channel whose entry was
written while it was in use the values are free (R382). -/
def colOuts (s : State) (i : TileInst) (o : Operand) (q : List (Nat × Bool × Nat)) (p : Piece) : List LeafOut × Nat × Nat :=
  let b := codeBits (oFmt i.c)
  let free : Bool := chDisturbed s i.ctx (tp i.tile 7 0)
  let es := (cells p).filterMap fun mn =>
    let e := elemAt o (cellCoords i p o mn)
    (q[e]?).map fun v => (e, if free then ((Config.freeWord (s.free + 2 ^ 64 + e)).toNat % 2 ^ b, false, 0) else v)
  (es.map fun u => if elemRole o u.1 = 2 then .add u.1 (oFmt i.c) u.2.1 else .put 2 u.1 u.2.1,
   (es.filter fun u => u.2.2.1).length, es.foldl (fun a u => a ||| u.2.2.2) 0)

/-- Receptions on their way, each with the combined tile that it is of: what is stored takes the async path, one entry per line of a tile
(R342), an ACC add goes to its home (R71). -/
def colReceive (s : State) (ctx : Nat) (p : Piece) (us : List (Nat × Placed)) : State :=
  let bytes := us.flatMap fun u => match u.2 with
    | .bytes ws => ws.map fun w => ((u.1, lineOf w.1), (w.1, w.2.2))
    | _ => []
  let s := ((bytes.map (·.1)).eraseDups).foldl (fun s l =>
    let r := freshId s
    { r.2 with async := r.2.async ++ [⟨r.1, (bytes.filter fun b => b.1 = l).map (·.2), p.id, none, ctx, p.unit⟩] }) s
  us.foldl (fun s u => match u.2 with
    | .add a => { s with bags := s.bags ++ [(noCore, { a with array := some p.id })] }
    | _ => s) s

/-- The place in a reception of an output of it. -/
def outElem (u : LeafOut) : Nat := match u with
  | .add e _ _ => e
  | .put _ e _ => e
  | .hold e => e
  | .part e _ _ => e

/-- A die piece of a TCOL: the package's contribution is combined with the others', `OORCNT` rises (R388), and its receptions go on
their way. While another package's contribution has not come, or has come under another entry, the piece waits, and where another package
holds another entry the instruction fails with cause 0x12 (R384): both are free (log entry 15). -/
def runCol (s : State) (i : TileInst) (a o : Operand) (p : Piece) : State :=
  let waits : Bool := Config.freeBit s.free
  let refused : Bool := Config.freeBit (s.free + 1)
  let s := { s with free := s.free + 2 }
  if waits then s
  else
  let s := raceLeaf s noCore i
  let e := chEntry s i.ctx (tp i.tile 7 0)
  let c := agentCore i
  let v := asAgent s i
  match chMine s e, allOf (elemBits v c a) (List.range (dCount a.desc)) with
  | none, _ => s
  | _, .error t => failOutput s i t.cause t.addr
  | some m, .ok own =>
    if refused then failOutput s i 0x12 (tp i.tile 7 0)
    else
    let q := colOuts s i o (collective s e m own) p
    match allOf (place v c i (if tCar i.tile then some p.id else none)) q.1 with
    | .error t => failOutput s i t.cause t.addr
    | .ok us =>
      let s := raiseOor (colReceive (raceOuts s noCore us) i.ctx p ((q.1.map fun u => outElem u / max 1 (chElems e)).zip us)) i.ctx (tp i.tile 7 0) q.2.1
      putPiece (pastLeaf s) { p with state := .running, flags := p.flags ||| BitVec.ofNat 6 q.2.2 }

/-- A die piece of a TCOL whose receptions have all merged. -/
def colMerged (s : State) (i : TileInst) : Option Piece :=
  if tileOp i.tile ≠ 11 then none
  else s.pieces.find? fun p => p.tile = i.id && p.level = 4 && p.state = .running
    && !(s.async.any fun a => a.op = p.id) && !(s.bags.any fun b => b.2.array = some p.id)

/-- TCOL (R122): a die piece whose receptions have merged retires, or the one whose turn it is on its die starts (R152, R391). -/
def execTcol (t : Tile) (s : State) : Host.Outcome State Fault Refusal :=
  match s.tiles.findSome? fun i => if i.tile = t then colMerged s i else none with
  | some p => .next (putPiece s { p with state := .retired })
  | none => match carriedNow s t 4 with
    | some (i, p) => match i.a, i.c with
      | some a, some o => .next (runCol s i a o p)
      | _, _ => .next s
    | none => .next s

/-! ## Level-0 instructions (R219, R220) -/

/-- The 64 bytes at an address as core c reads them: from the scratchpad, or under the plain-load check of R71; `none`
while an older atomic of the core may change them. -/
def tileAt (s : State) (c va : Nat) : Except Trap (Option (BitVec 512)) :=
  if isSp va then
    if !spBounds va 64 then .error (trapAt 0x0A va 0 0)
    else .ok (some (BitVec.ofNat 512 (spNum s (clusterOfCore c) (spOff va) 64)))
  else match access s c va .load 0 0 with
    | .error t => .error t
    | .ok x =>
      let key := xlatRead s (ctxOfCore s c) x va
      let busy := (coreOf s c).sq.any fun e => unknownYet e && (covers e).any fun a => key ≤ a && a < key + 64
      .ok (if busy then none else some (BitVec.ofNat 512 (loadNum s c key 64)))

/-- An accepted level-0 instruction. -/
def newLocal (s : State) (c : Nat) (ticket : Nat) (t : Tile) (os : Opds) : L0Inst :=
  let ctx := ctxOfCore s c
  let i : TileInst :=
    { id := ticket, ctx := ctx, qp := 0, sqidx := 0, tile := t, pri := tPri t, pool := 0
      a := opd os 0, b := opd os 1, c := opd os 2, d := opd os 3, state := .queued, flags := 0, iovf := false, retries := 0
      subst := false, xcnt := 0, xrec := false, failClass := 0, failCause := 0, failIdx := 0
      counts := countsOf s ctx t os, signalled := false, fpol := 0, ageus := 0, loaded := [], stored := [] }
  ⟨ticket, i, false, false, 0, 0, (coreOf s c).arrayQ.map (·.id)⟩

/-- Issue of a level-0 instruction. -/
def actTis (f : SRR) : Act := fun s c _ =>
  let x := coreOf s c
  let ta := (sA x f).toNat
  if ta % 64 ≠ 0 then .trap (trapAt 0x09 ta 0 0)
  else if 4 ≤ (x.l0q.filter fun l => !l.done).length then .stall id
  else match tileAt s c ta with
    | .error t => .trap t
    | .ok none => .stall id
    | .ok (some w) =>
      let t := tileOfBits w
      let rejected (cause : Nat) : OpRes := .ok (setS s c 0 1 f.d.toNat (BitVec.ofNat 64 (2 ^ 63 + cause * 2 ^ 16))) .none
      match acceptCheck s (ctxOfCore s c) 0 t with
      | .error q => rejected q.1
      | .ok os =>
        let l := newLocal s c (x.ticket + 1) t os
        match raiseReaders s (ctxOfCore s c) l.inst.counts with
        | none => rejected 0x04
        | some s1 =>
          let s1 := modCore s1 c fun x => { x with ticket := x.ticket + 1, l0q := x.l0q ++ [l] }
          .ok (setS s1 c 0 1 f.d.toNat (BitVec.ofNat 64 (x.ticket + 1))) .none

/-- The wait for level-0 instructions. -/
def actTiwait (f : SRR) : Act := fun s c _ =>
  let x := coreOf s c
  let t := min (bitsOf (sA x f) 31 0) x.ticket
  if x.l0q.any fun l => l.ticket ≤ t && !l.done then .stall id
  else
    let v := if t = 0 then 0 else ((x.l0q.find? fun l => l.ticket = t).map (·.status)).getD 0
    .ok (setS s c 0 1 f.d.toNat v) .none

/-- TIS (R219). -/
def execTis (f : SRR) (s : State) : Host.Outcome State Fault Refusal :=
  issueSolo 0 (.tis f) (actTis f) s

/-- TIWAIT (R220). -/
def execTiwait (f : SRR) (s : State) : Host.Outcome State Fault Refusal :=
  issueSolo 0 (.tiwait f) (actTiwait f) s


/-- The state with a level-0 instruction of a core replaced. -/
def putLocal (s : State) (c : Nat) (l : L0Inst) : State :=
  modCore s c fun x => { x with l0q := x.l0q.map fun m => if m.ticket = l.ticket then l else m }

/-- L0_TILE_START (R219): in ticket order, after the M-slot operations issued before it, holding acc0. -/
def execL0TileStart (core : Nat) (s : State) : Host.Outcome State Fault Refusal :=
  let x := coreOf s core
  match x.l0q.find? fun l => !l.done with
  | some l =>
    let k := clusterOfCore core
    let b := physBank x core 0
    let ready := !l.started && !(x.arrayQ.any fun o => l.after.contains o.id) && !bankBusy s k b && (bankOf s k b).resident.isNone
      && waitHolds s l.inst && ownsCycles s core
    .next (if ready then modBank (putLocal s core { l with started := true, bank := b }) k b fun y => { y with held := true } else s)
  | none => .next s

/-- The core pieces of a level-0 instruction's index space, in the order of R107. -/
def localPieces (i : TileInst) : List Piece :=
  let root := { rootPiece i 0 0 with level := 5 }
  let n := indexSpace i.tile (opdsI i)
  let e := childExtent (tileOp i.tile) 1
  let nr := ceilDiv n.1 e.1
  let nc := ceilDiv n.2.1 e.2
  (List.range (n.2.2.foldl (· * ·) 1)).flatMap fun b => (List.range nr).flatMap fun r => (List.range nc).flatMap fun q =>
    (List.range (chunkCount i.tile (opdsI i))).map fun ch =>
      { root with row0 := r * e.1, rows := min e.1 (n.1 - r * e.1), col0 := q * e.2, cols := min e.2 (n.2.1 - q * e.2), batch := b, chunk := ch }

/-- What a level-0 instruction computes: its outputs with split partials combined, and the accumulators that stay. -/
def localResult (s : State) (c : Nat) (i : TileInst) : Except Trap LeafRes :=
  let ps := localPieces i
  match allOf (leafOf s c i) ps with
  | .error t => .error t
  | .ok rs =>
    let r := rs.foldl LeafRes.join .none
    let last := ((rs.getLast?).map (·.acc)).getD []
    let parts := r.outs.filterMap fun u => match u with | .part e ch b => some (e, ch, b) | _ => none
    let others := r.outs.filter fun u => match u with | .part _ _ _ => false | _ => true
    match partialOuts s c i { rootPiece i 0 0 with partials := parts } with
    | .error t => .error t
    | .ok q => .ok ⟨others ++ q.outs, r.flags ||| q.flags, r.iovf, last⟩

/-- acc0 holds the accumulator of the last accumulation (R219). -/
def keepAcc (s : State) (k b : Nat) (f64 : Bool) (r : LeafRes) : State :=
  modBank s k b fun y =>
    let y := { y with held := false, bovf := y.bovf || r.iovf }
    r.acc.foldl (fun y q => setAcc f64 y q.1 q.2.1 q.2.2) y

/-- L0_TILE_RETIRE (R219): the running level-0 instruction retires, its outputs in place, or fails; its counts fall. -/
def execL0TileRetire (core : Nat) (s : State) : Host.Outcome State Fault Refusal :=
  match (coreOf s core).l0q.find? fun l => l.started && !l.done with
  | some l =>
    let i := l.inst
    let k := clusterOfCore core
    let finish (s : State) (status : Nat) (r : LeafRes) : State :=
      let s := keepAcc (pastLeaf s) k l.bank (oFmt i.a = 6) r
      lowerReaders (putLocal s core { l with done := true, status := BitVec.ofNat 64 status }) i.ctx i.counts
    let failed (t : Trap) : State := finish (raceLeaf s core i) (2 ^ 63 + t.cause * 2 ^ 16 + 1 * 2 ^ 12) .none
    let s := raceLeaf s core i
    match localResult s core i with
    | .error t => .next (failed t)
    | .ok r => match allOf (place s core i none) r.outs with
      | .error t => .next (failed t)
      | .ok us =>
        let q := us.foldl (landPlaced 0) (raceOuts s core us, r.flags)
        let s := finish q.1 q.2 r
        .next (if evIdx i.tile.sigw = 0 then s else raiseEvent s i.ctx (evIdx i.tile.sigw) (evVal i.tile.sigw))
  | none => .next s

/-! ## Acceptance (R144) -/

/-- What a control opcode does at its acceptance, once its wait holds (R124). -/
def settleControl (s : State) (i : TileInst) : State :=
  if eligible s i then
    match tileOp i.tile with
    | 0 => retireTile s i
    | 13 => tevtOn s i
    | 14 => twaitOn s i
    | 16 => tstepOn s i
    | _ => s
  else s

/-- The entry at the head of a queue pair is accepted, and a control opcode takes effect, or it is rejected. -/
def acceptEntry (s : State) (key : Nat) : State :=
  let ctx := key / 64
  let t := ringEntry s (qpOf s ctx (key % 64))
  let (id, s) := freshId s
  let s1 := match acceptCheck s ctx 5 t with
    | .error (cause, detail) => rejectEntry s key id 0 cause detail t
    | .ok os =>
      let i := newTile s key id t os
      if unplaceable s i then rejectEntry s key id 4 ((Config.freeWord (s.free + 1)).toNat % 256) none t
      else match fullCount s ctx t os with
        | some n => rejectEntry s key id 0 0x04 (some n) t
        | none => match raiseReaders s ctx i.counts with
          | none => rejectEntry s key id 0 0x04 none t
          | some s =>
            let (pid, s) := freshId s
            settleControl { s with tiles := s.tiles ++ [i]
                                   pieces := if packageOp (tileOp t) then s.pieces else s.pieces ++ [rootPiece i pid id] } i
  modQp { s1 with rr := key + 1 } ctx (key % 64) fun q => { q with sqhead := q.sqhead + 1 }

/-- FETCH_ENTRY (R144). -/
def execFetchEntry (s : State) : Host.Outcome State Fault Refusal :=
  match nextQp s with
  | some k => .next (acceptEntry s k)
  | none => .next s

end Sys2Proof.Machine
end

