-- ==== Sys2Proof/Machine/VectorConvert.lean ====
section
/-!
DEFINITION. Conversion and quantisation (R236 to R241) and the special functions (R247).
-/
namespace Sys2Proof.Machine

/-! ## Pairs of source and result elements (R236) -/

/-- The count of pairs: w over the larger size. -/
def pairCount (f : VF) : Nat := elemCount (vW f) (max (vE f) (codeBits f.fmt2.toNat))
/-- The source element of pair i under part p. -/
def pairSrc (f : VF) (p i : Nat) : Nat := if codeBits f.fmt2.toNat ≤ vE f then i else p * pairCount f + i
/-- The result element of pair i under part p. -/
def pairDst (f : VF) (p i : Nat) : Nat := if vE f ≤ codeBits f.fmt2.toNat then i else p * pairCount f + i

/-- A conversion: each active pair's result bits and flags from its source bits. -/
def vPairs (x : VSlot) (f : VF) (lat p : Nat) (op : Core → Elems → Nat → Nat → Nat × Nat) : Act :=
  onElems x f fun s c y e =>
    .ok (vWrite s c x lat f.d.toNat (codeBits f.fmt2.toNat) (vW f)
      ((actives e.m (pairCount f)).map fun i => (pairDst f p i, op y e i (e.a (pairSrc f p i))))) .none

/-- The value of a conversion (R237). -/
def convert (f : VF) (y : Core) (i a : Nat) : Nat × Nat :=
  if isInt (vF f) && isInt (vF2 f) then
    let v := fmtInt (vF f) a
    let w := satInt v (intMin (vF2 f)) (intMax (vF2 f))
    if bitOf f.imm 3 then (wrapTo (fmtBits (vF2 f)) w, if w = v then 0 else fSAT) else (wrapTo (fmtBits (vF2 f)) v, 0)
  else toFmt (vF2 f) (vRm f) (vRnd y i) false (elemVal (vF f) a)

/-- Conversion. -/
def actVcvt (x : VSlot) (f : VF) : Act := vPairs x f 3 (bitsOf f.imm 2 0) fun y _ i a => convert f y i a

/-! ## Block scales (R238, R239) -/

/-- The block size. -/
def blockSize (f : VF) : Nat := if bitOf f.imm 7 then 16 else 32
/-- The bits of source b. -/
def bBits (s : State) (c : Nat) (x : VSlot) (f : VF) : Nat := vB s c (isVb x) f
/-- The scale byte of pair i: byte `SB` + its block. -/
def scaleOf (f : VF) (b i : Nat) : Nat := fieldAt b 8 (bitsOf f.imm 4 0 + i / blockSize f)

/-- Block-scaled quantisation, with the counts of the underflow counter `UFC`. -/
def actVqnt (x : VSlot) (f : VF) : Act := onElems x f fun s c y e =>
  let b := bBits s c x f
  let book := bookOf (vC s c (isVb x) f % 2 ^ 256)
  let p := bitsOf f.imm 10 8
  let n := pairCount f
  let rs := (actives e.m n).map fun i =>
    (i, quantElem (vF2 f) book (vRm f) (vRnd y i) (scaleOf f b i) (elemVal (vF f) (e.a (pairSrc f p i))))
  let last := (n - 1) / blockSize f
  let under := rs.filter fun r => r.2.2.2
  let s := vWrite s c x 5 f.d.toNat (codeBits f.fmt2.toNat) (vW f) (rs.map fun r => (pairDst f p r.1, r.2.1, r.2.2.1))
  .ok (pushFlight s c (vSlotNo x) 5
    (.ufc (bitsOf f.imm 6 5) under.length (under.filter fun r => r.1 / blockSize f = last).length) 0 0 0 64) .none

/-- Block-scaled dequantisation. -/
def actVdqn (x : VSlot) (f : VF) : Act := onElems x f fun s c _ e =>
  let b := bBits s c x f
  let book := bookOf (vC s c (isVb x) f % 2 ^ 256)
  let p := bitsOf f.imm 10 8
  .ok (vWrite s c x 5 f.d.toNat (codeBits f.fmt2.toNat) (vW f) ((actives e.m (pairCount f)).map fun i =>
    let a := e.a (pairSrc f p i)
    let v := if vF f = .cb4 then bookVal book a else elemVal (vF f) a
    (pairDst f p i, roundFloat (vF2 f) .rne 0 false (dequant (scaleOf f b i) v)))) .none

/-- The codebook of source b. -/
def bookB (s : State) (c : Nat) (x : VSlot) (f : VF) : List Nat := bookOf (bBits s c x f % 2 ^ 256)

/-- Codebook expansion. -/
def actVcbx (x : VSlot) (f : VF) : Act := fun s c at_ =>
  vPairs x f 3 (bitsOf f.imm 2 0) (fun _ _ _ a => roundFloat (vF2 f) .rne 0 false (bookVal (bookB s c x f) a)) s c at_
/-- Quantisation to codebook indices. -/
def actVcbq (x : VSlot) (f : VF) : Act := fun s c at_ =>
  vPairs x f 5 (bitsOf f.imm 2 0) (fun _ _ _ a => quantCb4 (bookB s c x f) (floatVal (vF f) a)) s c at_

/-- The largest magnitude of some values: a NaN before an infinity before a finite one. -/
def largest (vs : List Val) : Val × Nat :=
  let fl := vs.foldl (fun a v => a ||| v.sigInv) 0
  if vs.any (·.isNan) then (.nan false, fl)
  else (vs.foldl (fun m v => if valLt m v.abs then v.abs else m) (.fin false 0 0), fl)

/-- The largest magnitude of each block. -/
def actVamax (x : VSlot) (f : VF) : Act := onElems x f fun s c _ e =>
  let bs := blockSize f
  .ok (vWrite s c x 6 f.d.toNat (vE f) (vW f) ((List.range (ceilDiv e.n bs)).map fun j =>
    let m := largest (((actives e.m e.n).filter fun i => i / bs = j).map fun i => fv f (e.a i))
    (j, fExact f m))) .none

/-! ## Special functions (R247) -/

/-- The fast grade applies: requested, on FP32, without `DETMODE` (R61). -/
def fastGrade (y : Core) (f : VF) : Bool :=
  bitOf f.imm 0 && vF f = .f32 && !((y.task.map (·.det)).getD false)

/-- A special function by its number. -/
def vSpecial (n : Nat) (x : VSlot) (f : VF) : Act := onElems x f fun s c y e =>
  let fast := fastGrade y f
  .ok (vWrite s c x (if fast then 6 else 16) f.d.toNat (vE f) (vW f) ((actives e.m e.n).map fun i =>
    (i, if fast then specialFast n (e.a i) else specialAccurate (vF f) n (e.a i)))) .none

/-- exp2. -/
def actVexp2 (x : VSlot) (f : VF) : Act := vSpecial 0 x f
/-- log2. -/
def actVlog2 (x : VSlot) (f : VF) : Act := vSpecial 1 x f
/-- Reciprocal. -/
def actVrcp (x : VSlot) (f : VF) : Act := vSpecial 2 x f
/-- Reciprocal square root. -/
def actVrsq (x : VSlot) (f : VF) : Act := vSpecial 3 x f
/-- Square root. -/
def actVsqrt (x : VSlot) (f : VF) : Act := vSpecial 4 x f
/-- sin of π x. -/
def actVsinpi (x : VSlot) (f : VF) : Act := vSpecial 5 x f
/-- cos of π x. -/
def actVcospi (x : VSlot) (f : VF) : Act := vSpecial 6 x f
/-- tanh. -/
def actVtanh (x : VSlot) (f : VF) : Act := vSpecial 7 x f
/-- sigmoid. -/
def actVsigm (x : VSlot) (f : VF) : Act := vSpecial 8 x f

/-! ## The operations -/

/-- VCVT (R237). -/
def execVcvt (x : VSlot) (f : VF) (s : State) : Host.Outcome State Fault Refusal :=
  issueSolo (vSlotNo x) (.vcvt x f) (actVcvt x f) s

/-- VQNT (R238). -/
def execVqnt (x : VSlot) (f : VF) (s : State) : Host.Outcome State Fault Refusal :=
  issueSolo (vSlotNo x) (.vqnt x f) (actVqnt x f) s

/-- VDQN (R239). -/
def execVdqn (x : VSlot) (f : VF) (s : State) : Host.Outcome State Fault Refusal :=
  issueSolo (vSlotNo x) (.vdqn x f) (actVdqn x f) s

/-- VCBX (R240). -/
def execVcbx (x : VSlot) (f : VF) (s : State) : Host.Outcome State Fault Refusal :=
  issueSolo (vSlotNo x) (.vcbx x f) (actVcbx x f) s

/-- VCBQ (R240). -/
def execVcbq (x : VSlot) (f : VF) (s : State) : Host.Outcome State Fault Refusal :=
  issueSolo (vSlotNo x) (.vcbq x f) (actVcbq x f) s

/-- VAMAX (R241). -/
def execVamax (x : VSlot) (f : VF) (s : State) : Host.Outcome State Fault Refusal :=
  issueSolo (vSlotNo x) (.vamax x f) (actVamax x f) s

/-- VEXP2 (R247). -/
def execVexp2 (x : VSlot) (f : VF) (s : State) : Host.Outcome State Fault Refusal :=
  issueSolo (vSlotNo x) (.vexp2 x f) (actVexp2 x f) s

/-- VLOG2 (R247). -/
def execVlog2 (x : VSlot) (f : VF) (s : State) : Host.Outcome State Fault Refusal :=
  issueSolo (vSlotNo x) (.vlog2 x f) (actVlog2 x f) s

/-- VRCP (R247). -/
def execVrcp (x : VSlot) (f : VF) (s : State) : Host.Outcome State Fault Refusal :=
  issueSolo (vSlotNo x) (.vrcp x f) (actVrcp x f) s

/-- VRSQ (R247). -/
def execVrsq (x : VSlot) (f : VF) (s : State) : Host.Outcome State Fault Refusal :=
  issueSolo (vSlotNo x) (.vrsq x f) (actVrsq x f) s

/-- VSQRT (R247). -/
def execVsqrt (x : VSlot) (f : VF) (s : State) : Host.Outcome State Fault Refusal :=
  issueSolo (vSlotNo x) (.vsqrt x f) (actVsqrt x f) s

/-- VSINPI (R247). -/
def execVsinpi (x : VSlot) (f : VF) (s : State) : Host.Outcome State Fault Refusal :=
  issueSolo (vSlotNo x) (.vsinpi x f) (actVsinpi x f) s

/-- VCOSPI (R247). -/
def execVcospi (x : VSlot) (f : VF) (s : State) : Host.Outcome State Fault Refusal :=
  issueSolo (vSlotNo x) (.vcospi x f) (actVcospi x f) s

/-- VTANH (R247). -/
def execVtanh (x : VSlot) (f : VF) (s : State) : Host.Outcome State Fault Refusal :=
  issueSolo (vSlotNo x) (.vtanh x f) (actVtanh x f) s

/-- VSIGM (R247). -/
def execVsigm (x : VSlot) (f : VF) (s : State) : Host.Outcome State Fault Refusal :=
  issueSolo (vSlotNo x) (.vsigm x f) (actVsigm x f) s

end Sys2Proof.Machine
end

