-- ==== Sys2Proof/Machine/Issue.lean ====
section
/-!
DEFINITION. The fetch and the decode of a bundle (R160 to R164, R189), and the issue of its repetitions by the cores of a cycle
(R167).
-/
namespace Sys2Proof.Machine

/-! ## Fetch (R160) -/

/-- The code region that a core fetches from: its handler's, or its task's (R160, R407). -/
def codeRegion (x : Core) : Region :=
  if x.shadow.isSome then x.handlerCode else match x.task with | some t => t.code | none => ⟨0, 0⟩

/-- A fetch fault at a header (R160, R189): `served` marks one that the fault service sees first. -/
def fetchTrap (pc : Nat) (served : Bool) : Trap := ⟨0x04, pc, 7, false, served⟩

/-- n bytes of code from an address, as a number, each checked for its region and its page (R160). -/
def codeNum (s : State) (c pc : Nat) (r : Region) : Nat → Nat → Except Trap Nat
  | _, 0 => .ok 0
  | va, n + 1 =>
    if va < r.base || r.base + r.len ≤ va then .error (fetchTrap pc false)
    else match translate s (clusterOfCore c) (ctxOfCore s c) va with
      | none => .error { fetchTrap pc true with addr := va }
      | some x =>
        if x.role ≠ 0 then .error (fetchTrap pc false)
        else match codeNum s c pc r (va + 1) n with
          | .error t => .error t
          | .ok v => .ok (seenNum s (ctxOfCore s c) (xlatRead s (ctxOfCore s c) x va) 1 + 256 * v)

/-! ## Decode (R189) -/

/-- A decoded bundle: its header, and the operations of its present slots. -/
structure Bundle where
  hdr : Header
  ops : List (Nat × Instr)

/-- The slot words of a bundle, from their bytes (R162). -/
def bundleWords (n v : Nat) : List (BitVec 32) := (List.range n).map fun i => BitVec.ofNat 32 (fieldAt v 32 i)

/-- What each slot will issue (R164): a present word, a held operation, or nothing under `Q`. -/
def issueMix (x : Core) (b : Bundle) : List (Nat × Instr) :=
  (List.range 7).filterMap fun k => match b.ops.find? fun q => q.1 = k with
    | some q => some q
    | none => if b.hdr.q then none else some (k, (x.held[k]?).getD .nop)

/-- The lowest slot of check 6: a present word that it refuses, or slot 3 for the iterators of a walk (R266). -/
def check6Slot (bad : List Nat) (clash : Bool) : Option Nat :=
  (List.range 7).find? fun k => bad.contains k || (clash && k = 3)

/-- FUSE, DECPL or REJOIN outside a gang-control bundle (R163). -/
def gangOutside (b : Bundle) : Bool :=
  b.hdr.cls.toNat ≠ 1 && b.ops.any fun q => match q.2 with | .fuse _ | .decpl _ | .rejoin _ => true | _ => false

/-- Checks 3 to 8 on a fetched bundle, in their order (R189). -/
def decodeBundle (x : Core) (h : Header) (ws : List (BitVec 32)) : Except Trap Bundle :=
  let pc := x.pc.toNat
  if h.len.toNat ≠ presWords h.pres then .error ⟨0x01, pc, 7, false, false⟩
  else if 2 ≤ h.cls.toNat then .error (trapIllegal x.pc 7)
  else
    let slots := splitSlots h.pres (List.range 7) ws
    match slots.find? fun q => !slotAssigned q.1 q.2.1 q.2.2 with
    | some q => .error (trapIllegal x.pc q.1)
    | none =>
      let good := slots.filterMap fun q => match decodeSlot q.1 q.2.1 q.2.2 with | .ok i => some (q.1, i) | .error _ => none
      let bad := slots.filterMap fun q => match decodeSlot q.1 q.2.1 q.2.2 with | .ok _ => none | .error _ => some q.1
      let b : Bundle := ⟨h, good⟩
      let mix := issueMix x b
      match check6Slot bad (walkClash (mix.map (·.2))) with
      | some k => .error (trapIllegal x.pc k)
      | none =>
        if gangOutside b then .error (trapOf 0x11 0)
        else if 1024 < (mix.map fun q => laneBits q.2).sum then .error ⟨0x03, pc, 2, false, false⟩
        else .ok b

/-- The bundle at a core's program address (R167), or the trap that its fetch or its decode takes (R189, checks 1 and 2). -/
def fetchBundle (s : State) (c : Nat) : Except Trap Bundle :=
  let x := coreOf s c
  let pc := x.pc.toNat
  let r := codeRegion x
  match codeNum s c pc r pc 4 with
  | .error t => .error t
  | .ok v =>
    let h := header (BitVec.ofNat 32 v)
    match codeNum s c pc r (pc + 4) (4 * h.len.toNat) with
    | .error t => .error t
    | .ok w =>
      if pc % 4 ≠ 0 then .error ⟨0x09, pc, 7, false, false⟩
      else decodeBundle x h (bundleWords h.len.toNat w)

/-! ## The meaning of an operation in its slot -/

/-- What each slot operation does when it issues. -/
def actOf (i : Instr) : Act :=
  match i with
  | .nop => actNop
  | .add f => actAdd f
  | .sub f => actSub f
  | .mul f => actMul f
  | .mulh f => actMulh f
  | .mulhn f => actMulhn f
  | .div f => actDiv f
  | .divn f => actDivn f
  | .mod f => actMod f
  | .modn f => actModn f
  | .and f => actAnd f
  | .or f => actOr f
  | .xor f => actXor f
  | .shl f => actShl f
  | .shr f => actShr f
  | .sra f => actSra f
  | .min f => actMin f
  | .max f => actMax f
  | .minn f => actMinn f
  | .maxn f => actMaxn f
  | .clz f => actClz f
  | .popc f => actPopc f
  | .sext f => actSext f
  | .zext f => actZext f
  | .addi f => actAddi f
  | .andi f => actAndi f
  | .ori f => actOri f
  | .xori f => actXori f
  | .shli f => actShli f
  | .shri f => actShri f
  | .srai f => actSrai f
  | .li f => actLi f
  | .lih16 f => actLih16 f
  | .lih32 f => actLih32 f
  | .lih48 f => actLih48 f
  | .cmp f => actCmp f
  | .cmpi f => actCmpi f
  | .pand f => actPand f
  | .por f => actPor f
  | .pxor f => actPxor f
  | .sel f => actSel f
  | .pmov f => actPmov f
  | .pmovToS f => actPmovToS f
  | .pmovFromS f => actPmovFromS f
  | .br f => actBr f
  | .jmp f => actJmp f
  | .call f => actCall f
  | .ret g => actRet g
  | .loop f => actLoop f
  | .rbset f => actRbset f
  | .exit g => actExit g
  | .yield g => actYield g
  | .ldl f => actLdl f
  | .stl f => actStl f
  | .ldm f => actLdm f
  | .stm f => actStm f
  | .amo f => actAmo f
  | .sacc f => actSacc f
  | .sapp f => actSapp f
  | .hld f => actHld f
  | .hview f => actHview f
  | .rcast f => actRcast f
  | .hold f => actHold f
  | .rels f => actRels f
  | .hgen f => actHgen f
  | .taglk f => actTaglk f
  | .tagset f => actTagset f
  | .tagclr f => actTagclr f
  | .tagclrK f => actTagclrK f
  | .xsv f => actXsv f
  | .xvs f => actXvs f
  | .itset f => actItset f
  | .itget f => actItget f
  | .gjoin f => actGjoin f
  | .gleave f => actGleave f
  | .sync f => actSync f
  | .fuse f => actFuse f
  | .decpl f => actDecpl f
  | .rejoin g => actRejoin g
  | .wstep f => actWstep f
  | .evadd f => actEvadd f
  | .evarm f => actEvarm f
  | .evarmDis f => actEvarmDis f
  | .evwait f => actEvwait f
  | .evrd f => actEvrd f
  | .fence f => actFence f
  | .xfence f => actXfence f
  | .tis f => actTis f
  | .tiwait f => actTiwait f
  | .csrr f => actCsrr f
  | .csrw f => actCsrw f
  | .trap f => actTrap f
  | .eret f => actEret f
  | .brk f => actBrk f
  | .vnop x => actVnop x
  | .vadd x f => actVadd x f
  | .vsub x f => actVsub x f
  | .vmul x f => actVmul x f
  | .vfma x f => actVfma x f
  | .vfms x f => actVfms x f
  | .vfnma x f => actVfnma x f
  | .vmin x f => actVmin x f
  | .vmax x f => actVmax x f
  | .vabs x f => actVabs x f
  | .vneg x f => actVneg x f
  | .vdiv x f => actVdiv x f
  | .vmulh x f => actVmulh x f
  | .vsadd x f => actVsadd x f
  | .vssub x f => actVssub x f
  | .vand x f => actVand x f
  | .vor x f => actVor x f
  | .vxor x f => actVxor x f
  | .vnot x f => actVnot x f
  | .vshl x f => actVshl x f
  | .vshr x f => actVshr x f
  | .vsra x f => actVsra x f
  | .vpopc x f => actVpopc x f
  | .vclz x f => actVclz x f
  | .vcmp x f => actVcmp x f
  | .vsel x f => actVsel x f
  | .vmand x f => actVmand x f
  | .vmor x f => actVmor x f
  | .vmxor x f => actVmxor x f
  | .vmnot x f => actVmnot x f
  | .vmcnt x f => actVmcnt x f
  | .vcvt x f => actVcvt x f
  | .vqnt x f => actVqnt x f
  | .vdqn x f => actVdqn x f
  | .vcbx x f => actVcbx x f
  | .vcbq x f => actVcbq x f
  | .vamax x f => actVamax x f
  | .vmov x f => actVmov x f
  | .vbcst x f => actVbcst x f
  | .vperm x f => actVperm x f
  | .vshfl x f => actVshfl x f
  | .viota x f => actViota x f
  | .vcmps x f => actVcmps x f
  | .vexpd x f => actVexpd x f
  | .vxv x f => actVxv x f
  | .vred x f => actVred x f
  | .vscan x f => actVscan x f
  | .vdot x f => actVdot x f
  | .vexp2 x f => actVexp2 x f
  | .vlog2 x f => actVlog2 x f
  | .vrcp x f => actVrcp x f
  | .vrsq x f => actVrsq x f
  | .vsqrt x f => actVsqrt x f
  | .vsinpi x f => actVsinpi x f
  | .vcospi x f => actVcospi x f
  | .vtanh x f => actVtanh x f
  | .vsigm x f => actVsigm x f
  | .vld x f => actVld x f
  | .vst x f => actVst x f
  | .vgth x f => actVgth x f
  | .vsct x f => actVsct x f
  | .vacc x f => actVacc x f
  | .vamo x f => actVamo x f
  | .vapp x f => actVapp x f
  | .mnop => actMnop
  | .mma f => actMma f
  | .mmag f => actMmag f
  | .mmas f => actMmas f
  | .mgth f => actMgth f
  | .aclr f => actAclr f
  | .aspl f => actAspl f
  | .afil f => actAfil f
  | .asw f => actAsw f
  | .mdrn f => actMdrn f
  | .prja f => actPrja f
  | .mwait f => actMwait f
  | .knop => actKnop
  | .klds f => actKlds f
  | .ksts f => actKsts f
  | .kldc f => actKldc f
  | .kmov f => actKmov f
  | .kauto f => actKauto f
  | .kufc f => actKufc f
  | .itlvl f => actItlvl f
  | .itrst f => actItrst f
  | .itrev f => actItrev f
  | .itstep f => actItstep f
  | .kseed f => actKseed f
  | .cnop x => actCnop x
  | .copy x f => actCopy x f
  | .cprf x f => actCprf x f
  | .cwb x f => actCwb x f
  | .sbind x f => actSbind x f
  | .sadv x f => actSadv x f
  | .swtf x f => actSwtf x f
  | .swte x f => actSwte x f
  | .mcast x f => actMcast x f
  | .csend x f => actCsend x f
  | .crecv x f => actCrecv x f
  | .chks x f => actChks x f
  | .cwait x f => actCwait x f
  | .carm x f => actCarm x f
  | .cstat x f => actCstat x f
  | .sclose x f => actSclose x f
  | .cdesc x f => actCdesc x f
  | _ => fun s _ _ => .ok s .none

/-! ## Issue (R167) -/

/-- A core about to issue a repetition: its bundle, the slots' operations, and whether the repetition is the last. -/
structure Turn where
  core : Nat
  bundle : Bundle
  mix : List (Nat × Instr)
  last : Bool
  /-- the cores in step with it (R359) -/
  unit : List Nat

/-- The turn of a core (R167): its bundle at REPIDX. -/
def turnOf (s : State) (c : Nat) : Except Trap Turn :=
  match fetchBundle s c with
  | .error t => .error t
  | .ok b => .ok
    ⟨c, b, issueMix (coreOf s c) b, decide (b.hdr.rep.toNat ≤ (coreOf s c).repidx), lockstep s c⟩

/-- The turns of the cores of a group, or the first that traps. -/
def turnsOf (s : State) : List Nat → Except (Nat × Trap) (List Turn)
  | [] => .ok []
  | c :: cs => match turnOf s c, turnsOf s cs with
    | .error t, _ => .error (c, t)
    | .ok _, .error e => .error e
    | .ok t, .ok ts => .ok (t :: ts)

/-- The bundle of a turn: its header address and the address after it. -/
def turnSite (s : State) (t : Turn) : Site :=
  let pc := (coreOf s t.core).pc
  ⟨pc, pc + BitVec.ofNat 64 (4 * (1 + t.bundle.hdr.len.toNat))⟩

/-- The operations of a repetition: one-shot ones only in the last (R165). -/
def turnOps (t : Turn) : List (Nat × Instr × Act) :=
  (t.mix.filter fun q => t.last || !oneShot q.2).map fun q => (q.1, q.2, actOf q.2)

/-- The lane of a turn. -/
def turnLane (s : State) (t : Turn) : Lane :=
  ⟨t.core, turnSite s t, turnOps t, (List.range 8).filter fun h => t.bundle.hdr.pop.getLsbD h⟩

/-- The words of the turns' bundles are held, before their first repetition (R167). -/
def holdWords (s : State) (ts : List Turn) : State :=
  ts.foldl (fun s t => modCore s t.core fun x =>
    { x with held := t.bundle.ops.foldl (fun v q => v.setIfInBounds q.1 q.2) x.held }) s

/-! ## Gangs: which members issue on a cycle (R163, R359) -/

/-- A member waits at a place that members behind it have still to reach: frozen there, asserted on a line, or to freeze there. -/
def standing (s : State) (c : Nat) : Bool :=
  let x := coreOf s c
  x.mode = .frozen || x.syncWait.isSome || (x.mode = .running && x.hard && !mustFinish s c && !behind s c)

/-- The members of a group that go on: all of them, or, when one stands, those behind it. -/
def goingOn (s : State) (cs : List Nat) : List Nat :=
  let held := cs.filter (standing s)
  if held.isEmpty then cs
  else cs.filter fun c => !held.contains c && behind s c && held.all fun h => decide (cs.idxOf h < cs.idxOf c)

/-- A core stands at a gang-control bundle (R163). -/
def atControl (s : State) (c : Nat) : Bool :=
  match fetchBundle s c with
  | .ok b => decide (b.hdr.cls.toNat = 1)
  | .error _ => false

/-- A core stands at a bundle whose REJOIN is open. -/
def atRejoin (s : State) (c : Nat) : Bool :=
  match fetchBundle s c with
  | .ok b => (issueMix (coreOf s c) b).any fun q => match q.2 with | .rejoin g => gateOpen (coreOf s c) g | _ => false
  | .error _ => false

/-- All members of a gang have reached one repetition. -/
def level (s : State) (cs : List Nat) : Bool :=
  cs.all fun c => cs.all fun d =>
    (coreOf s c).pc = (coreOf s d).pc && (coreOf s c).repidx = (coreOf s d).repidx
      && (coreOf s c).follow = [] && (coreOf s c).gskew = 0 && !standing s c

/-- The gang of a core issues its REJOIN bundles. -/
def joiningGang (s : State) (c : Nat) : Bool := match gangOf s c with | some g => g.joining | none => false

/-- The members of a group that issue on a cycle: those whose skew has passed, at a gang-control bundle all of them or none. -/
def lanesNow (s : State) (cs : List Nat) : List Nat :=
  let due := (goingOn s cs).filter fun c => decide ((coreOf s c).gskew = 0)
  if cs.length ≤ 1 then due else due.filter fun c => !atControl s c || joiningGang s c || level s cs

/-- One bundle cycle of skew passes for the members that wait for it. -/
def lapse (s : State) (cs : List Nat) : State :=
  cs.foldl (fun s c => if (coreOf s c).gskew = 0 then s else modCore s c fun x => { x with gskew := x.gskew - 1 }) s

/-- The cores that issue with a core: its fused gang; at a gang-control bundle the members of a decoupled gang too, once all have
reached it, but each alone asserts its REJOIN (R163, R360). -/
def cohort (s : State) (c : Nat) : List Nat :=
  match gangOf s c with
  | some g =>
    if !g.fused && (coreOf s c).shadow.isNone && atControl s c && !atRejoin s c then
      (if level s (gangLeft g) then gangLeft g else [])
    else lockstep s c
  | none => [c]

/-! ## The cycle -/

/-- A group of cores that issued: their turns, lanes and effects. -/
structure Issued where
  turns : List Turn
  lanes : List Lane
  effects : List Effects

/-- The turns of the members of a group that issue on a cycle; `none` when none does. -/
def groupTurns (s : State) (cs : List Nat) : Option (Except (Nat × Trap) (List Turn)) :=
  if (goingOn s cs).isEmpty || !((goingOn s cs).all (issuing s)) || (lanesNow s cs).isEmpty then none
  else some (turnsOf s (lanesNow s cs))

/-- One repetition of a group but for its scratchpad effects and the end of its bundle; `landed` says that its results due have
landed. A group that cannot issue is unchanged, or takes its trap, or notes its wait. -/
def issueGroup (landed : Bool) (s : State) (cs : List Nat) : State × Option Issued :=
  match groupTurns s cs with
  | none => (if (goingOn s cs).all (issuing s) then lapse s (goingOn s cs) else s, none)
  | some (.error (c, t)) => (takeTrap s c t, none)
  | some (.ok ts) =>
    let ls := ts.map (turnLane s)
    match (if landed then groupOps s ls else groupRep s ls) with
    | .ok s1 es =>
      let s1 := lapse s1 ((goingOn s cs).filter fun c => decide ((coreOf s c).gskew ≠ 0))
      ((ls.zip es).foldl (fun s q => finishRep s q.1.core q.2 q.1.pops) (holdWords s1 ts), some ⟨ts, ls, es⟩)
    | r => (notIssued (holdWords s ts) r, none)

/-- The groups of a list of cores, each once. -/
def groupsOf (s : State) : Nat → List Nat → List (List Nat)
  | 0, _ => []
  | _, [] => []
  | n + 1, c :: cs =>
    let g := cohort s c
    g :: groupsOf s n (cs.filter fun d => d ≠ c && !g.contains d)

/-- The lanes of a group, if it could issue on a state. -/
def readyLanes (s : State) (cs : List Nat) : List Lane :=
  match groupTurns s cs with
  | some (.ok ts) => ts.map (turnLane s)
  | _ => []

/-- The groups that issue on a cycle, judged on the state after the landings of all of them. -/
def issuers (s : State) (gs : List (List Nat)) : List (List Nat) :=
  let s1 := gs.foldl (fun s1 g => landLanes s1 (readyLanes s g)) s
  gs.filter fun g => match readyLanes s g with
    | [] => false
    | ls => match groupOps s1 ls with | .ok _ _ => true | _ => false

/-- The scratchpad effects of a cycle, core by core in ascending order (R207). -/
def cycleSps (gs : List Issued) : List SpEff :=
  let all := gs.flatMap fun g => (g.lanes.map (·.core)).zip (g.effects.map (·.sp))
  (List.range 512).flatMap fun c => (all.filter fun q => q.1 = c).flatMap (·.2)

/-- The path of a core at the end of a bundle: the lead of a fused gang takes its own and leaves it to the others, which take it
as they reach the place, in that same cycle where there is no skew (R358, R359, R361). A member that DECPL frees takes its own, and so
does a core in its handler. -/
def pathOf (s : State) (t : Turn) (e : Effects) (sp : Bool) : State × Effects × Bool :=
  let c := t.core
  match if (coreOf s c).shadow.isSome then [] else (coreOf s c).follow with
  | f :: r =>
    if e.decouple then (modCore s c fun x => { x with follow := [] }, e, sp)
    else (modCore s c fun x => { x with follow := r }, { e with target := f.target, exit := f.exit, yield := false }, f.freeze)
  | [] =>
    if e.decouple || t.unit.length ≤ 1 || t.unit.head? ≠ some c then (s, e, sp)
    else
      let f : Follow := ⟨e.target, e.exit, (sp || e.yield) && (coreOf s c).soft⟩
      ((t.unit.filter (· ≠ c)).foldl (fun s m => modCore s m fun x => { x with follow := x.follow ++ [f] }) s, e, sp)

/-- The end of a repetition of a core: the next one, or the end of its bundle (R167). After a gang-control bundle the skew of a
member is restored (R163). -/
def finishTurn (s : State) (t : Turn) (l : Lane) (e : Effects) : State :=
  if t.last then
    let (s, e, sp) := pathOf s t e t.bundle.hdr.sp
    let s := finishBundle s t.core l.site e t.mix t.bundle.hdr.rot sp
    if t.bundle.hdr.cls.toNat = 1 then modCore s t.core fun x => { x with gskew := skewOf s t.core } else s
  else modCore s t.core fun x => { x with repidx := x.repidx + 1 }

/-- The end of a repetition of a group. -/
def finishIssued (s : State) (g : Issued) : State :=
  (g.turns.zip (g.lanes.zip g.effects)).foldl (fun s q => finishTurn s q.1 q.2.1 q.2.2) s

/-- The groups of one bundle cycle issue: the results due of all that issue land, each group reads and computes, then scratchpad
effects and joins apply, then bundles end, and accesses to packages that no route reaches fail (R380). -/
def issueCycle (s : State) (cs : List Nat) : State :=
  let gs := groupsOf s cs.length ((List.range 512).filter cs.contains)
  let go := if gs.length ≤ 1 then [] else issuers s gs
  let s1 := go.foldl (fun s1 g => landLanes s1 (readyLanes s g)) s
  let r := gs.foldl (fun (q : State × List Issued) g =>
    let z := issueGroup (go.contains g) q.1 g
    (z.1, q.2 ++ z.2.toList)) (s1, [])
  let s2 := applySps r.1 (cycleSps r.2)
  failAccesses (touchArrays (r.2.foldl finishIssued (r.2.foldl (fun s g => closeEach r.1 s g.lanes g.effects) s2)))

/-- ISSUE_BUNDLE (R167): on one bundle cycle, each core named, with its fused gang, issues the next repetition of its bundle. -/
def execIssueBundle (cores : List Nat) (s : State) : Host.Outcome State Fault Refusal := .next (issueCycle s cores)

/-- STALL_RELEASE (R176): a core that waits issues its repetition if its condition has cleared; a handler's return completes if
its results have landed (R409). -/
def execStallRelease (core : Nat) (s : State) : Host.Outcome State Fault Refusal :=
  match (coreOf s core).mode with
  | .returning _ => .next (tryReturn s core)
  | _ => if (coreOf s core).waiting.isSome then .next (issueCycle s [core]) else .next s

/-- The trap that the next repetition of a core, or of the members of its fused gang that stand there, would take (R401). -/
def nextTrap (s : State) (c : Nat) : Option (Nat × Trap) :=
  match turnsOf s ((lockstep s c).filter fun m => !behind s m) with
  | .error e => some e
  | .ok ts => match groupRep s (ts.map (turnLane s)) with
    | .trap d t => some (d, t)
    | _ => none

end Sys2Proof.Machine
end

