-- ==== Sys2Proof/Machine/Preempt.lean ====
section
/-!
DEFINITION. Pre-emption (R410 to R418): requests and deadlines, the freeze, the record of a frozen task, spilling banks,
and resuming; and the watchdog (R402).
-/
namespace Sys2Proof.Machine

/-! ## Requests (R410 to R412) -/

/-- A core runs a task of a context: one that is neither frozen nor saved. -/
def runsTask (x : Core) (ctx : Nat) : Bool :=
  x.mode ≠ .free && x.mode ≠ .frozen && (match x.task with | some t => t.ctx = ctx | none => false)

/-- The cores that run a task of a context on the quadrants of a mask. -/
def requested (s : State) (ctx mask : Nat) : List Nat :=
  (s.cores.filter fun q => runsTask q.2 ctx && mask.testBit (q.1 / 16)).map (·.1)

/-- A soft request reaches a core (R411, R412): with no time allowed it is hard at once (R403). -/
def askSoft (x : Core) : Core :=
  { x with soft := true, deadline := true, hard := x.hard || bitsOf x.spdeadline 31 0 = 0 }

/-- A write of the pre-emption register of a context (R410, R411): `HOLD` and `QMASK`, then the request, refused and
counted when there is no save area. -/
def preemptWrite (s : State) (ctx : Nat) (v : BitVec 64) : State :=
  let s := modCtx s ctx fun y => { y with hold := bitOf v 63, qmask := BitVec.ofNat 32 (bitsOf v 31 0) }
  let req := bitsOf v 33 32
  if req = 0 || req = 3 then s
  else if (ctxOf s ctx).cxsave = 0 then
    modCtx s ctx fun y => { y with refused := BitVec.ofNat 16 (satNat (y.refused.toNat + 1) 0xFFFF) }
  else (requested s ctx (bitsOf v 31 0)).foldl (fun s c =>
    modCore s c fun x => if req = 1 then askSoft x else { x with hard := true }) s

/-- PREEMPT_SOFT_REQUEST (R411). -/
def execPreemptSoftRequest (ctx : Nat) (v : BitVec 64) (s : State) : Host.Outcome State Fault Refusal :=
  .next (if bitsOf v 33 32 = 1 then preemptWrite s ctx v else s)

/-- PREEMPT_HARD_REQUEST (R411). -/
def execPreemptHardRequest (ctx : Nat) (v : BitVec 64) (s : State) : Host.Outcome State Fault Refusal :=
  .next (if bitsOf v 33 32 = 2 then preemptWrite s ctx v else s)

/-- PREEMPT_DEADLINE_EXPIRY (R412): the soft request of a core becomes hard. -/
def execPreemptDeadlineExpiry (core : Nat) (s : State) : Host.Outcome State Fault Refusal :=
  .next (modCore s core fun x => if x.soft && x.deadline then { x with hard := true } else x)

/-- CXSAVE_WRITE (R410, R415): only while the context is free, and only an area within one tier. -/
def execCxsaveWrite (ctx : Nat) (v : BitVec 64) (s : State) : Host.Outcome State Fault Refusal :=
  let pa := bitsOf v 51 16 * 2 ^ 16
  .next (modCtx s ctx fun y =>
    if y.state ≠ 0 then { y with ecode := 4 }
    else if !inTiers pa (2128 * 2 ^ 20) then { y with ecode := 3 }
    else { y with cxsave := BitVec.ofNat 52 pa })

/-! ## The freeze (R411, R413, R418) -/

/-- A core waits after an assertion that has issued: the next repetition cannot trap before its release. -/
def asserted (x : Core) : Bool := x.syncWait.isSome || x.rejoinWait

/-- A core stands at a boundary that is open to a hard request (R413). -/
def openBoundary (s : State) (c : Nat) : Bool := (coreOf s c).mode = .running && !mustFinish s c

/-- HARD_PREEMPT_FREEZE (R411): the core, or every member of its fused gang that has reached the lead's repetition, freezes with
cause 0x10; members behind follow as they reach it (R418). A trap that arises at the boundary is taken instead (R401). -/
def execHardPreemptFreeze (core : Nat) (s : State) : Host.Outcome State Fault Refusal :=
  let cs := lockstep s core
  let here := cs.filter fun c => (coreOf s c).mode ≠ .frozen && !behind s c
  if !(coreOf s core).hard || !(here.all (openBoundary s)) then .next s
  else
    let trap := if here.isEmpty || asserted (coreOf s core) || runsFirmware (coreOf s core) then none else nextTrap s core
    match trap with
    | some (c, t) => .next (takeTrap s c t)
    | none => .next (here.foldl (fun s c => freezeCore s c (some 0x10) .frozen) s)

/-! ## The record (R415) -/

/-- The words of a held operation, zero-extended. -/
def heldWord (i : Instr) : Nat :=
  match encode i with
  | .none => 0
  | .w32 w => w.toNat
  | .w64 w => w.toNat
  | .w512 w => w.toNat % 2 ^ 64

/-- The element mask of a result: one bit for each governing mask bit (R228). -/
def elemMask (a : Flight) : Nat :=
  let g := max 1 a.gran
  packFields 1 ((List.range 64).map fun i => b2n ((a.mask >>> (g * i)) % 2 ^ g ≠ 0))

/-- A replay entry as a number of 160 bytes. -/
def replayBits (a : Flight) : Nat :=
  let file := match a.dst with | .reg f n => fileCode f + n % 32 * 2 ^ 4 | _ => 0
  let head := file + a.slot % 8 * 2 ^ 9 + 2 ^ 12 + b2n a.due.isNone * 2 ^ 13 + (a.due.getD 0) % 256 * 2 ^ 16
  head + a.flags % 2 ^ 64 * 2 ^ 64 + elemMask a * 2 ^ 128 + a.val % 2 ^ 1024 * 2 ^ 256

/-- An iterator as a number of 64 bytes. -/
def iterBits (i : Iter) : Nat :=
  let lv (l : ItLevel) : Nat := l.count.toNat + l.stride.toNat * 2 ^ 16 + l.idx.toNat * 2 ^ 48
  packFields 64 [i.base.toNat, lv i.l0, lv i.l1, lv i.l2, lv i.l3]

/-- The group lines of a core: those it is a member of, and those it has asserted. -/
def lineBits (s : State) (c ctx : Nat) : Nat :=
  let g (l : Nat) : Group := groupOf s ctx l (lineDie c l)
  packFields 1 ((List.range 20).map fun l => b2n ((g l).members.contains c))
    + packFields 1 ((List.range 20).map fun l => b2n ((g l).asserted.contains c || (g l).heldAsserts.contains c)) * 2 ^ 20

/-- The CSRs of a record, in its order. -/
def csrWords (x : Core) : List Nat :=
  [x.rbase, x.repidx, x.loopcnt.toNat, x.loopend.toNat, x.tcause.toNat, x.tpc.toNat, x.taddr.toNat, x.tdetail.toNat,
   x.tvec.toNat, x.seedkey.toNat, x.wcoll.toNat, x.aflags.toNat, x.spdeadline.toNat] ++ x.ufcnt.toList.map (·.toNat) ++ [x.replaycnt]

/-- The parts of a core's record below its bank images: offset, bytes, value; `bank` is the bank word. -/
def recordParts (s : State) (c ctx bank : Nat) : List (Nat × Nat × Nat) :=
  let x := coreOf s c
  let pack {w : Nat} (l : List (BitVec w)) : Nat := packFields w (l.map (·.toNat))
  let latch := x.latch.fmt % 16 + x.latch.kc % 256 * 2 ^ 4 + b2n x.latch.valid * 2 ^ 12
  [(0, 256, packFields 64 ((List.range 32).map fun n => (rawS x n).toNat)), (0x100, 8, predByte x),
   (0x108, 128, pack (x.ma.toList ++ x.mb.toList)), (0x188, 56, packFields 64 (x.held.toList.map heldWord)),
   (0x1C0, 64, packFields 64 [x.issueCount, x.ticket, latch, bank, lineBits s c ctx]),
   (0x200, 4096, pack (x.va.toList ++ x.vb.toList)), (0x1200, 640, pack (x.k.toList ++ x.kb.toList)),
   (0x1480, 512, pack (x.ea.toList ++ x.eb.toList)), (0x1680, 1024, packFields 512 (x.its.toList.map iterBits)),
   (0x1A80, 256, packFields 256 ((List.range 8).map (headRecord s c))), (0x1B80, 256, packFields 64 (csrWords x)),
   (0x1C80, 16384, packFields 2048 (x.latch.rows.take 64)), (0x5C80, 20480, packFields 1280 ((x.replay.take 128).map replayBits))]

/-- The bytes of a number that are not 0, by their place. -/
def cellsOf (n v : Nat) : List Host.Cell :=
  ((List.range n).map fun i => (i, BitVec.ofNat 8 (fieldAt v 8 i))).filter fun q => q.2 ≠ 0

/-- A number stored over a range of memory. -/
def storeRange (s : State) (pa n v : Nat) : State := setMem s (memSplice s.mem (memKey s.pkg.toNat pa) n (cellsOf n v))

/-- A core's record written at an address, but for its bank images. -/
def writeRecord (s : State) (c ctx bank pa : Nat) : State :=
  let parts := recordParts s c ctx bank
  let s := storeRange (storeRange s pa 0xC000 0) (pa + 0x1C080) 0x3F80 0
  parts.foldl (fun s q => storeRange s (pa + q.1) q.2.1 q.2.2) s

/-- A bank's image stored at an address (R273). -/
def storeBank (s : State) (pa : Nat) (b : Bank) : State := storeRange s pa 32832 (bankImage b)

/-! ## Banks of frozen contexts (R257, R414) -/

/-- A physical bank that a frozen context of the core keeps resident is spilled to that context's record, which then says so,
and zeroed. -/
def spillResident (s : State) (c b : Nat) : State :=
  let k := clusterOfCore c
  match (bankOf s k b).resident with
  | none => s
  | some ctx =>
    let pa := recordPa s ctx c
    let s := storeBank s (pa + 0xC000) (bankOf s k b)
    let s := paPut s (pa + 0x1D8) 8 (setBits (paNum s (pa + 0x1D8) 8) 2 2 0)
    modBank s k b fun _ => .fresh

/-- The bank that a core waits for: the one its waiting operation names, or acc0 for its next level-0 instruction. -/
def banksWanted (s : State) (c : Nat) : List Nat :=
  let x := coreOf s c
  (match x.waiting with
    | some w => ((bankNamed w.2).map fun n => physBank x c n).toList
    | none => [])
  ++ (if x.l0q.any fun l => !l.done && !l.started then [physBank x c 0] else [])

/-- BANK_SPILL (R257): a bank of a frozen context that the running task names. -/
def execBankSpill (core bank : Nat) (s : State) : Host.Outcome State Fault Refusal :=
  .next (if (banksWanted s core).contains bank then spillResident s core bank else s)

/-! ## Saving a frozen task (R414, R415) -/

/-- An entry of a store queue whose acknowledgement returns something to the task. -/
def acksTask (e : SqEntry) : Bool := match e.kind with | .store _ => false | _ => true

/-- A freeze may complete (R414): the array and level-0 queues are empty, and what returns flags is acknowledged. -/
def mayRecord (s : State) (c : Nat) : Bool :=
  let x := coreOf s c
  x.mode = .frozen && x.arrayQ.isEmpty && x.l0q.all (·.done) && !(x.sq.any acksTask) && !(s.bags.any fun b => b.1 = c)

/-- A core that its task has left, its registers as they stood. -/
def leftCore (x : Core) : Core :=
  { x with task := none, mode := .free, heads := Vector.replicate 8 .unbound, inflight := [], replay := [], l0q := [], ticket := 0,
           syncWait := none, rejoinWait := false, stepWait := false, kept := [], gskew := 0, follow := [], waiting := none, soft := false, hard := false,
           deadline := false, haltReq := false, skipS := false,
           reserved := if x.reserved = x.task.map (·.piece) then none else x.reserved }

/-- What a frozen task keeps that its record has no place for. -/
def frozenTask (x : Core) (c : Nat) (t : Task) (lines seq : Nat) : FrozenTask :=
  { core := c, task := t, replay := x.replay, kept := x.kept, syncWait := x.syncWait, rejoinWait := x.rejoinWait
    skipS := x.skipS, age := x.age, l0 := x.l0q, allocs := x.heads.toList.map (·.allocs), lines := lines, seq := seq }

/-- The record and the spilled banks of a frozen task written, and the core freed (R414, R415): acc0 stays resident, the
other bank is spilled to its record, and a bank of an earlier frozen context to that context's. Engine operations run on (R404). -/
def saveRecord (s : State) (c : Nat) (t : Task) : State :=
  let x := coreOf s c
  let k := clusterOfCore c
  let b0 := physBank x c 0
  let b1 := physBank x c 1
  let pa := recordPa s t.ctx c
  let s := spillResident (spillResident s c b0) c b1
  let lines := lineBits s c t.ctx
  let s := writeRecord s c t.ctx (b0 + 4) pa
  let s := storeBank s (pa + 0x14040) (bankOf s k b1)
  let s := modBank (modBank s k b1 fun _ => .fresh) k b0 fun b => { b with resident := some t.ctx }
  let (seq, s) := freshId s
  let s := { s with frozen := s.frozen ++ [frozenTask x c t lines seq]
                    pieces := s.pieces.map fun p => if p.id = t.piece then { p with aged := 0 } else p }
  modCore s c leftCore

/-- FREEZE_RECORD_SAVE (R414). -/
def execFreezeRecordSave (core : Nat) (s : State) : Host.Outcome State Fault Refusal :=
  match (coreOf s core).task with
  | some t => .next (if mayRecord s core then saveRecord s core t else s)
  | none => .next s

/-! ## Resuming (R406, R417) -/

/-- A held operation of a record; words that are no operation hold the slot's NOP (log entry 14). -/
def heldOf (slot v : Nat) : Instr :=
  match decodeSlot slot (BitVec.ofNat 32 v) (BitVec.ofNat 32 (v / 2 ^ 32)) with
  | .ok i => i
  | .error _ => nopOf slot

/-- An iterator of a record. -/
def iterOf (v : Nat) : Iter :=
  let lv (n : Nat) : ItLevel :=
    let w := fieldAt v 64 n
    ⟨BitVec.ofNat 16 w, BitVec.ofNat 32 (w / 2 ^ 16), BitVec.ofNat 16 (w / 2 ^ 48)⟩
  ⟨BitVec.ofNat 56 (fieldAt v 64 0), lv 1, lv 2, lv 3, lv 4⟩

/-- The mask that an element mask stands for. -/
def spreadMask (g em : Nat) : Nat := packFields g ((List.range 64).map fun i => if em.testBit i then ones g else 0)

/-- A replay entry of a record; the bits within its elements are as they were kept. -/
def flightOf (v id : Nat) (kept : Option Flight) : Option Flight :=
  if !v.testBit 12 then none
  else
    let em := (v >>> 128) % 2 ^ 64
    let g := max 1 ((kept.map (·.gran)).getD 1)
    let mask := match kept with
      | some a => if elemMask a = em then a.mask else spreadMask g em
      | none => spreadMask g em
    some { id := match kept with | some a => if v.testBit 13 then a.id else id | none => id
           due := if v.testBit 13 then none else some ((v >>> 16) % 256), slot := (v >>> 9) % 8
           dst := .reg (fileOf (v % 16)) ((v >>> 4) % 32), mask := mask, val := v >>> 256, flags := (v >>> 64) % 64
           gran := g, left := b2n (v.testBit 13) }

/-- A core as its record gives it (R406, R417). -/
def coreOfRecord (s : State) (z : FrozenTask) : Core :=
  let pa := recordPa s z.task.ctx z.core
  let old := coreOf s z.core
  let w (off : Nat) : Nat := paNum s (pa + off) 8
  let b (off n i : Nat) : Nat := paNum s (pa + off + n * i) n
  let csr (i : Nat) : Nat := w (0x1B80 + 8 * i)
  let latch := w 0x1D0
  let kc := (latch >>> 4) % 256
  { Core.init with
    s := Vector.ofFn fun i => BitVec.ofNat 64 (b 0 8 i)
    p := Vector.ofFn fun i => (w 0x100).testBit i
    ma := Vector.ofFn fun i => BitVec.ofNat 64 (b 0x108 8 i)
    mb := Vector.ofFn fun i => BitVec.ofNat 64 (b 0x148 8 i)
    held := Vector.ofFn fun i => heldOf i (b 0x188 8 i)
    issueCount := w 0x1C0
    ticket := w 0x1C8
    latch := ⟨latch.testBit 12, latch % 16, kc, (List.range 64).map fun i => b 0x1C80 256 i⟩
    swap := (w 0x1D8).testBit 0
    va := Vector.ofFn fun i => BitVec.ofNat 1024 (b 0x200 128 i)
    vb := Vector.ofFn fun i => BitVec.ofNat 1024 (b 0xA00 128 i)
    k := Vector.ofFn fun i => BitVec.ofNat 256 (b 0x1200 32 i)
    kb := Vector.ofFn fun i => BitVec.ofNat 256 (b 0x1400 32 i)
    ea := Vector.ofFn fun i => BitVec.ofNat 256 (b 0x1480 32 i)
    eb := Vector.ofFn fun i => BitVec.ofNat 256 (b 0x1580 32 i)
    its := Vector.ofFn fun i => iterOf (b 0x1680 64 i)
    heads := Vector.ofFn fun i => headOfBits (b 0x1A80 32 i) (z.allocs.getD i [])
    rbase := csr 0 % 16
    repidx := csr 1
    loopcnt := BitVec.ofNat 64 (csr 2)
    loopend := BitVec.ofNat 64 (csr 3)
    tcause := BitVec.ofNat 64 (csr 4)
    tpc := BitVec.ofNat 64 (csr 5)
    taddr := BitVec.ofNat 64 (csr 6)
    tdetail := BitVec.ofNat 64 (csr 7)
    tvec := BitVec.ofNat 64 (csr 8)
    seedkey := BitVec.ofNat 64 (csr 9)
    wcoll := BitVec.ofNat 64 (csr 10)
    aflags := BitVec.ofNat 6 (csr 11)
    spdeadline := BitVec.ofNat 64 (csr 12)
    ufcnt := Vector.ofFn fun i => BitVec.ofNat 64 (csr (13 + i.val))
    replaycnt := csr 17
    replay := (List.range 128).filterMap fun j => flightOf (b 0x5C80 160 j) (s.fresh + j) z.replay[j]?
    pc := BitVec.ofNat 64 (csr 5 % 2 ^ 56)
    mode := .running
    task := some z.task
    age := z.age
    l0q := z.l0
    syncWait := z.syncWait, rejoinWait := z.rejoinWait, kept := z.kept, skipS := z.skipS
    started := old.started, sq := old.sq, loads := old.loads, arrayQ := old.arrayQ
    reserved := old.reserved.or (if z.task.gang.isSome then some z.task.piece else none) }

/-- The banks of a resumed task (R417): acc0 where it is still resident, else refilled, and acc1 refilled; what another
context keeps there is spilled first. -/
def refillBanks (s : State) (z : FrozenTask) : State :=
  let c := z.core
  let k := clusterOfCore c
  let pa := recordPa s z.task.ctx c
  let w := paNum s (pa + 0x1D8) 8
  let b0 := 2 * (c % 2) + w % 2
  let b1 := 2 * (c % 2) + (1 - w % 2)
  let s :=
    if w.testBit 2 && (bankOf s k b0).resident = some z.task.ctx then modBank s k b0 fun b => { b with resident := none }
    else
      let s := spillResident s c b0
      modBank s k b0 fun _ => imageBank (paNum s (pa + 0xC000) 32832)
  let s := spillResident s c b1
  modBank s k b1 fun _ => imageBank (paNum s (pa + 0x14040) 32832)

/-- A line of a core as an overwritten record gives it (R415): only what differs from the word that the freeze wrote. -/
def relineOne (c ctx was now : Nat) (s : State) (l : Nat) : State :=
  let flip (k : Nat) : Bool := was.testBit k != now.testBit k
  let g := groupOf s ctx l (lineDie c l)
  let g1 := if flip l then (if now.testBit l then { g with members := c :: g.members.filter (· ≠ c) } else leaveGroup c g) else g
  let g2 := if flip (20 + l) then
      (if now.testBit (20 + l) then { g1 with open_ := true, asserted := c :: g1.asserted.filter (· ≠ c) }
       else { g1 with asserted := g1.asserted.filter (· ≠ c), heldAsserts := g1.heldAsserts.filter (· ≠ c) })
    else g1
  if flip l || flip (20 + l) then putGroup s g2 else s

/-- The lines of a core as its record gives them. -/
def reline (s : State) (z : FrozenTask) : State :=
  let now := paNum s (recordPa s z.task.ctx z.core + 0x1E0) 8
  (List.range 20).foldl (relineOne z.core z.task.ctx z.lines now) s

/-- One frozen task resumes (R417): cluster, record, banks, then issue under R406, a member of a skewed gang after its skew
(R359). -/
def resumeTask (s : State) (z : FrozenTask) : State :=
  let c := z.core
  let s := takeSp s c z.task.ctx
  let x := coreOfRecord s z
  let s := reline (refillBanks s z) z
  let s := setCore { s with frozen := s.frozen.filter fun w => w ≠ z
                            fresh := s.fresh + 128 } c (reinject x)
  trace (modCore s c fun x => { x with gskew := skewOf s c }) c 2 x.pc.toNat

/-- FROZEN_TASK_RESUME (R417): a free core serves a frozen task of its local queue; a gang resumes as one unit (R418). -/
def execFrozenTaskResume (core : Nat) (s : State) : Host.Outcome State Fault Refusal :=
  let x := coreOf s core
  if x.mode ≠ .free || x.task.isSome then .next s
  else match servedLocal s core with
    | some p =>
      match s.frozen.find? fun z => z.core = core && z.task.piece = p.id with
      | some z => .next ((s.frozen.filter fun w => (frozenCores s z).contains w.core && w.task.piece = p.id).foldl resumeTask s)
      | none => .next s
    | none => .next s

/-! ## The watchdog (R402) -/

/-- The repetition of a core whose wait has not ended, if one is kept (R402). -/
def waitKept (s : State) (c : Nat) : Option AssertAt :=
  match (coreOf s c).task with
  | some t => s.asserts.find? fun a => a.core = c && a.piece = t.piece
  | none => none

/-- The slot of the operation in which a core waits, when the watchdog counts the wait. -/
def waitSlot (s : State) (c : Nat) : Option Nat :=
  let x := coreOf s c
  match x.mode with
  | .returning _ => some 0
  | .running | .handler => if asserted x then some 0 else x.waiting.map (·.1)
  | .exiting => (waitKept s c).map fun _ => 0
  | _ => none

/-- A head before a repetition that is undone: as it was when the repetition bound or released it, else with its pointers moved
back and without the allocations of the repetition's operations. -/
def headBack (a : AssertAt) (x : Core) (h : Nat) : Head :=
  let old := headOf a.before h
  let now := headOf x h
  let m := a.moved.getD h (0, 0)
  if old.bound ≠ now.bound || old.base ≠ now.base || old.srcv ≠ now.srcv then old
  else { now with pptr := now.pptr - m.1, cptr := now.cptr - m.2
                  allocs := now.allocs.filter fun q => !(a.mark ≤ q.op && q.op < a.upto) }

/-- The core before a repetition that is undone (R402): what arrived for earlier operations while it waited stays. -/
def coreBack (a : AssertAt) (x : Core) : Core :=
  let mine (id : Nat) : Bool := decide (a.mark ≤ id) && decide (id < a.upto)
  let late (f : Flight) : Bool := match a.arrays with
    | some y => decide (a.upto ≤ f.id) && !(y.inflight.any fun g => g.id = f.id)
    | none => false
  let from_ := a.arrays.getD x
  { a.before with
    latch := { from_.latch with fmt := a.before.latch.fmt, kc := a.before.latch.kc }
    ufcnt := from_.ufcnt
    task := x.task.map fun t => { t with iovf := match a.arrays.bind (·.task) with | some u => u.iovf | none => t.iovf }
    sq := x.sq.filter fun e => !mine e.id
    loads := x.loads.filter fun l => !mine l.id
    arrayQ := x.arrayQ.filter fun o => !mine o.id
    inflight := (x.inflight.filter fun f => !mine f.id && !late f).map fun f =>
      if a.before.inflight.any fun g => g.id = f.id && g.due.isNone then { f with due := f.due.map fun d => min d a.before.issueCount } else f
    heads := Vector.ofFn fun h => headBack a x h
    l0q := x.l0q, replay := x.replay, kept := x.kept, aflags := x.aflags, shadow := x.shadow
    soft := x.soft, hard := x.hard, deadline := x.deadline, haltReq := x.haltReq, age := x.age, started := x.started
    reserved := x.reserved }

/-- A byte of a scratchpad back to what it was, where it still holds what the repetition wrote. -/
def byteBack (s : State) (q : Nat × Nat × BitVec 8 × BitVec 8) : State :=
  if spByte s q.1 q.2.1 = q.2.2.2 then spMasked s q.1 [(q.2.1, 0xFF#8, q.2.2.1)] else s

/-- An entry of a store queue taken back: an append counts as issued no more (R212). -/
def entryBack (s : State) (e : SqEntry) : State :=
  match e.kind with
  | .append ctx index gen .. => let t := recOf s ctx index gen; putRec s { t with issued := t.issued - 1 }
  | _ => s

/-- Bytes of memory back to what they were, if all of them still hold what the repetition's access left. -/
def groupBack (s : State) (g : List (Nat × BitVec 8 × BitVec 8)) : State :=
  if g.all fun q => memByte s.mem q.1 = q.2.2 then g.foldl (fun s q => setMem s (memPut s.mem q.1 [q.2.1])) s else s

/-- The banks of a core back to what they were before its array operations; who holds them is not changed. -/
def banksBack (s : State) (a : AssertAt) : State :=
  let k := clusterOfCore a.core
  let s := a.banks.foldl (fun s q => modBank s k q.1 fun b => { q.2 with held := b.held, resident := b.resident, imr := b.imr, imc := b.imc }) s
  a.masks.foldl (fun s q => modBank s k q.1 fun b => if (b.imr, b.imc) = q.2.2 then { b with imr := q.2.1.1, imc := q.2.1.2 } else b) s

/-- A repetition undone (R402): its entries, operations, results and pointers, what its accesses have left in memory, scratchpad and
banks; what cannot be taken back stays (log entry 50). -/
def undo (s : State) (a : AssertAt) : State :=
  let x := coreOf s a.core
  let mine (id : Nat) : Bool := decide (a.mark ≤ id) && decide (id < a.upto)
  let s := (x.sq.filter fun e => mine e.id).foldl entryBack s
  let s := modCluster s (clusterOfCore a.core) fun k => { k with engine := k.engine.filter fun o => !(o.core = a.core && mine o.id) }
  let s := banksBack (a.mem.reverse.foldl groupBack (a.sp.reverse.foldl byteBack s)) a
  let s := { s with bags := s.bags.filter fun b => !(b.1 = a.core && (b.2.array.map mine).getD false) }
  let s := { s with asserts := s.asserts.filter fun b => b ≠ a
                    gangs := s.gangs.map fun g => { g with exited := g.exited.filter (· ≠ a.core) } }
  setCore s a.core (coreBack a x)

/-- A wait that the watchdog ends: its assertion is withdrawn, and its repetition stands again before its issue (R402). -/
def withdraw (s : State) (c : Nat) : State :=
  let x := coreOf s c
  let ctx := ctxOfCore s c
  let s := match x.syncWait with
    | some l =>
      let g := groupOf s ctx l (lineDie c l)
      putGroup s { g with asserted := g.asserted.filter (· ≠ c), heldAsserts := g.heldAsserts.filter (· ≠ c) }
    | none => s
  let s := match gangOf s c with
    | some g => { s with gangs := s.gangs.map fun y => if y.id = g.id then { y with rejoined := y.rejoined.filter fun q => q.1 ≠ c } else y }
    | none => s
  let s := match waitKept s c with
    | some a => undo s a
    | none => s
  modCore s c fun x => { x with syncWait := none, rejoinWait := false }

/-- The cores whose waits end with that of a core: those of its fused gang that wait as it does. -/
def endsWith (s : State) (c : Nat) : List Nat :=
  match gangOf s c with
  | some g => if g.fused then g.members.filter fun m => (coreOf s m).mode = (coreOf s c).mode else [c]
  | none => [c]

/-- WATCHDOG_EXPIRY (R402): a wait of 2^32 bundle cycles traps with 0x13, unless another trap arises there (R401). -/
def execWatchdogExpiry (core : Nat) (s : State) : Host.Outcome State Fault Refusal :=
  match waitSlot s core with
  | none => .next s
  | some slot =>
    if asserted (coreOf s core) || (coreOf s core).mode = .exiting then
      .next (takeTrap ((endsWith s core).foldl withdraw s) core (trapOf 0x13 slot))
    else match (coreOf s core).mode with
      | .returning _ => .next (takeTrap s core (trapOf 0x13 slot))
      | _ => match nextTrap s core with
        | some q => .next (takeTrap s q.1 q.2)
        | none => .next (takeTrap s core (trapOf 0x13 slot))

end Sys2Proof.Machine
end

