-- ==== Sys2Proof/Machine/Release.lean ====
section
/-!
DEFINITION. The ends of waits between cores (R356, R357, R360) and the geyser count (R362).
-/
namespace Sys2Proof.Machine

/-- The core goes on after the SYNC of a line of a context (R356, R357), whether it runs or is frozen; a member of a fused gang
keeps its skew (R359). -/
def endSync (ctx line : Nat) (s : State) (c : Nat) : State :=
  let s := { s with frozen := s.frozen.map fun z =>
    if z.core = c && z.task.ctx = ctx && z.syncWait = some line then { z with syncWait := none } else z }
  if (coreOf s c).syncWait = some line && ctxOfCore s c = ctx then
    let s := { s with asserts := s.asserts.filter fun a => a.core ≠ c }
    modCore s c fun x => { x with syncWait := none, gskew := skewOf s c }
  else s

/-- The round that follows a release: held assertions open it (R356). -/
def nextRound (g : Group) : Group :=
  { g with open_ := !g.heldAsserts.isEmpty, required := if g.heldAsserts.isEmpty then [] else g.members
           asserted := g.heldAsserts, heldAsserts := [] }

/-- SYNC_RELEASE (R356): every core still required has asserted. -/
def execSyncRelease (ctx line die : Nat) (s : State) : Host.Outcome State Fault Refusal :=
  let g := groupOf s ctx line die
  .next (if g.open_ && g.required.all g.asserted.contains then g.asserted.foldl (endSync ctx line) (putGroup s (nextRound g)) else s)

/-- REJOIN_RELEASE (R360): every member that has not exited has asserted, and none is frozen: the gang is fused, and its members
issue their REJOIN bundles on their next bundle cycle. -/
def execRejoinRelease (gang : Nat) (s : State) : Host.Outcome State Fault Refusal :=
  match s.gangs.find? fun g => g.id = gang with
  | none => .next s
  | some g =>
    let cs := gangLeft g
    let ready : Bool := !g.fused && cs.all fun c =>
      (coreOf s c).rejoinWait && decide ((coreOf s c).mode = .running) && g.rejoined.any fun q => q.1 = c
    if !ready then .next s
    else
      let s := { s with gangs := s.gangs.map fun y => if y.id = gang then { y with fused := true, joining := true } else y }
      .next (cs.foldl (fun s c => modCore s c fun x => { x with rejoinWait := false, gskew := 0, follow := [] }) s)

/-- GEYSER_TICK (R362): the count advances, or takes the count of the group that the package has entered. -/
def execGeyserTick (s : State) : Host.Outcome State Fault Refusal :=
  .next { s with geyser := s.geyserPending.getD (s.geyser + 1), geyserPending := none }

/-- The fixed-latency fabric mode is on (R377, R381). -/
def fixedLatency (s : State) : Bool := bitOf s.netctl 0

/-- GEYSER_ALIGN_MESSAGE (R362): in fixed-latency mode the package takes the group's count at its next boundary. -/
def execGeyserAlignMessage (count : BitVec 64) (s : State) : Host.Outcome State Fault Refusal :=
  .next (if fixedLatency s then { s with geyserPending := some count } else s)

end Sys2Proof.Machine
end

