-- ==== Sys2Proof/Machine/Contexts.lean ====
section
/-!
DEFINITION. Commands on contexts (R139 to R141), the doorbells of queue pairs (R143 to R146) and partitions (R148, R149).
-/
namespace Sys2Proof.Machine

/-! ## Checks of a context record (R140 to R142) -/

/-- The address fields of a context record: lowest bit, alignment in bits. -/
def recordAddrs : List (Nat × Nat) :=
  [(64, 12), (128, 9), (192, 6), (256, 6), (320, 6), (384, 6), (448, 12), (512, 6), (832, 9)]

/-- A reserved bit of a context record is set (R135, R140). -/
def recordReserved (r : Nat) : Bool :=
  let f (hi lo : Nat) : Bool := (r >>> lo) % 2 ^ (hi + 1 - lo) ≠ 0
  f 1023 896 || f 639 607 || f 60 56 || f 3 0 || f 31 24 || recordAddrs.any fun q => f (q.1 + 63) (q.1 + 52)

/-- An address of a context record is misaligned. -/
def recordMisaligned (r : Nat) : Bool := recordAddrs.any fun q => (r >>> q.1) % 2 ^ q.2 ≠ 0

/-- A reserved bit of a queue pair descriptor is set (R142). -/
def qpReserved (d : Nat) : Bool :=
  (d >>> 150) ≠ 0 || (d >>> 144) % 4 ≠ 0 || (d >>> 116) % 2 ^ 12 ≠ 0 || (d >>> 52) % 2 ^ 12 ≠ 0

/-- A ring of a queue pair descriptor is misaligned. -/
def qpMisaligned (d : Nat) : Bool := (d >>> 64) % 2 ^ 12 ≠ 0 || d % 2 ^ 12 ≠ 0

/-- A value of a queue pair descriptor is out of range: ring sizes, and `RPART` without a partition. -/
def qpBad (part d : Nat) : Bool :=
  let lg (x : Nat) : Bool := x < 4 || 16 < x
  lg ((d >>> 128) % 256) || lg ((d >>> 136) % 256) || (d.testBit 149 && part = 0xFF)

/-- A value of a context record is out of range (R140, R149, R437). -/
def recordBad (s : State) (r : Nat) : Bool :=
  let qn := (r >>> 600) % 128
  let fl := (r >>> 592) % 256
  let part := (r >>> 48) % 256
  !r.testBit 63 || qn < 1 || 64 < qn || fl < 4 || 16 < fl || (16 ≤ part && part ≠ 0xFF)
    || (part < 16 && partMask s part = 0) || (r.testBit 62 && s.sec = 0)

/-- The queue pair descriptors of a record, as far as there can be any. -/
def qpDescs (s : State) (r : Nat) : List Nat :=
  (List.range (min 64 ((r >>> 600) % 128))).map fun q => paNum s ((r >>> 512) % 2 ^ 52 + 64 * q) 64

/-- The result code of a create (R141): reserved bits, alignment, values. -/
def createCode (s : State) (r : Nat) (ds : List Nat) : Nat :=
  if recordReserved r || ds.any qpReserved then 1
  else if recordMisaligned r || ds.any qpMisaligned then 2
  else if recordBad s r || ds.any (qpBad ((r >>> 48) % 256)) then 3
  else 0

/-- A queue pair at the creation of its context, its doorbells 0. -/
def newQp (d : Nat) : Qp :=
  { Qp.init with
    sqbase := d % 2 ^ 52, cqbase := (d >>> 64) % 2 ^ 52, sqlog := (d >>> 128) % 256, cqlog := (d >>> 136) % 256
    pmax := (d >>> 146) % 4, en := d.testBit 148, rpart := d.testBit 149 }

/-! ## Commands (R141) -/

/-- A result code of a context's command. -/
def setCode (s : State) (ctx n : Nat) : State := modCtx s ctx fun y => { y with ecode := n }

/-- The context becomes live with a record and its queue pairs. -/
def makeLive (s : State) (ctx r : Nat) (ds : List Nat) : State :=
  let s := { s with qps := s.qps.filter fun q => q.1 / 64 ≠ ctx }
  let s := ((List.range ds.length).zip ds).foldl (fun s q => modQp s ctx q.1 fun _ => newQp q.2) s
  modCtx s ctx fun y => { y with state := 1, ecode := 0, frcnt := 0, frlost := 0, frfull := false, rec_ := BitVec.ofNat 1024 r }

/-- CONTEXT_CREATE (R141); it is in the wrong state when the boot has failed (R434). -/
def execContextCreate (ctx : Nat) (s : State) : Host.Outcome State Fault Refusal :=
  if !s.bootok || (ctxOf s ctx).state ≠ 0 then .next (setCode s ctx 4)
  else
    let r := paNum s (ctxOf s ctx).cxrec.toNat 128
    let ds := qpDescs s r
    let n := createCode s r ds
    .next (if n ≠ 0 then setCode s ctx n else makeLive s ctx r ds)

/-- The bits of a record that an update rereads: `FPOL`, `AGEUS`, `IWCOL`, `KEYINIT`, `TVINIT`, `SPDL`. -/
def updateFields : List (Nat × Nat) := [(31, 0), (47, 32), (61, 61), (703, 640), (767, 704), (799, 768)]

/-- CONTEXT_UPDATE (R141). -/
def execContextUpdate (ctx : Nat) (s : State) : Host.Outcome State Fault Refusal :=
  let y := ctxOf s ctx
  if y.state ≠ 1 then .next (setCode s ctx 4)
  else
    let r := paNum s y.cxrec.toNat 128
    let new := updateFields.foldl (fun a q => setBits a q.1 q.2 ((r >>> q.2) % 2 ^ (q.1 + 1 - q.2))) y.rec_.toNat
    let ds := qpDescs s y.rec_.toNat
    let s := ((List.range ds.length).zip ds).foldl (fun s q =>
      modQp s ctx q.1 fun p => { p with en := q.2.testBit 148, pmax := (q.2 >>> 146) % 4 }) s
    .next (modCtx s ctx fun y => { y with ecode := 0, rec_ := BitVec.ofNat 1024 new })

/-- The generations that the holds of a context still count (R77). -/
def holdsOf (s : State) (ctx : Nat) : List (Nat × Nat) :=
  (s.tensors.filter fun t => t.ctx = ctx).flatMap fun t => t.holds.flatten

/-- Every task and piece of a context is stopped, its staging discarded (R141). -/
def stopContext (s : State) (ctx : Nat) : State :=
  let ids := (s.tiles.filter fun i => i.ctx = ctx).map (·.id)
  let s := ids.foldl stopPieces s
  let cs := (s.cores.filter fun q => match q.2.task with | some t => t.ctx = ctx | none => false).map (·.1)
  dropFrozen (cs.foldl dropTask s) fun z => z.task.ctx = ctx

/-- The counts and holds of a context released (R77, R141). -/
def releaseContext (s : State) (ctx : Nat) : State :=
  let s := (s.tiles.filter fun i => i.ctx = ctx).foldl (fun s i => lowerReaders s ctx i.counts) s
  lowerReaders s ctx (holdsOf s ctx)

/-- What the machine forgets of a destroyed context; its data in scratchpads are nobody's from now on, and what was undefined for its
program is forgotten with it (R2). -/
def forgetContext (s : State) (ctx : Nat) : State :=
  { s with
    tiles := s.tiles.filter fun i => i.ctx ≠ ctx
    tensors := s.tensors.filter fun t => t.ctx ≠ ctx
    recastReqs := s.recastReqs.filter fun r => r.ctx ≠ ctx
    recasts := s.recasts.filter fun r => r.ctx ≠ ctx
    incs := s.incs.filter fun i => i.ctx ≠ ctx
    chains := s.chains.filter fun i => i.ctx ≠ ctx
    groups := s.groups.filter fun g => g.ctx ≠ ctx
    gangs := s.gangs.filter fun g => g.ctx ≠ ctx
    faults := s.faults.filter fun f => f.ctx ≠ ctx
    cqes := s.cqes.filter fun e => e.ctx ≠ ctx
    savedClusters := s.savedClusters.filter fun q => q.1 ≠ ctx
    stoppedOps := s.stoppedOps.filter fun q => q.2.ctx ≠ ctx
    chanTiles := s.chanTiles.filter fun t => t.ctx ≠ ctx
    chanRounds := s.chanRounds.filter fun r => r.ctx ≠ ctx
    transfers := s.transfers.filter fun q => transferCtx q.1 ≠ ctx
    rmUnits := s.rmUnits.filter fun q => q.1 ≠ ctx
    raced := s.raced.filter fun q => q.1 ≠ ctx
    clusters := s.clusters.map fun q => (q.1, if q.2.spCtx = some ctx then { q.2 with spCtx := none } else q.2) }

/-- CONTEXT_DESTROY (R141): the state is destroying while the pieces stop, and free at the end. -/
def execContextDestroy (ctx : Nat) (s : State) : Host.Outcome State Fault Refusal :=
  if (ctxOf s ctx).state ≠ 1 then .next (setCode s ctx 4)
  else
    let s := forgetContext (releaseContext (stopContext (modCtx s ctx fun y => { y with state := 2 }) ctx) ctx) ctx
    .next (modCtx s ctx fun y => { y with state := 0, ecode := 0 })

/-! ## Doorbells (R143, R145, R146) -/

/-- A queue pair has a doorbell block: its context is live, and its number is below `QPCNT` (R143). -/
def hasBell (s : State) (ctx qp : Nat) : Bool := (ctxOf s ctx).state = 1 && qp < recBits s ctx 606 600

/-- SQTAIL_WRITE (R145): out of range, the tail is kept and `OVR` is set. -/
def execSqtailWrite (ctx qp : Nat) (v : BitVec 32) (s : State) : Host.Outcome State Fault Refusal :=
  if !hasBell s ctx qp then .next s
  else .next (modQp s ctx qp fun q =>
    if 2 ^ q.sqlog < (v - q.sqhead).toNat || (v - q.sqhead).toNat < (q.sqtail - q.sqhead).toNat then { q with ovr := true }
    else { q with sqtail := v })

/-- CQHEAD_WRITE (R146): room is freed. -/
def execCqheadWrite (ctx qp : Nat) (v : BitVec 32) (s : State) : Host.Outcome State Fault Refusal :=
  if !hasBell s ctx qp then .next s
  else .next (refreshFull (modQp s ctx qp fun q => { q with cqhead := v }) ctx qp)

/-- OVR_CLEAR (R145): writing 1 clears `OVR`. -/
def execOvrClear (ctx qp : Nat) (v : BitVec 1) (s : State) : Host.Outcome State Fault Refusal :=
  if !hasBell s ctx qp || v = 0 then .next s
  else .next (modQp s ctx qp fun q => { q with ovr := false })

/-! ## Partitions (R148, R149) -/

/-- Cores of a unit at a level up to the quadrant's. -/
def quadOfUnit (lvl u : Nat) : Nat := u * unitCores lvl / 16

/-- An unretired piece is running or queued on a quadrant. -/
def quadBusy (s : State) (q : Nat) : Bool :=
  s.pieces.any fun p => p.level ≤ 3 && p.state ≠ .retired && p.state ≠ .unplaced && quadOfUnit p.level p.unit = q

/-- A partition write is refused (R149). -/
def partRefused (s : State) (p mask : Nat) : Bool :=
  let old := partMask s p
  ((List.range 16).any fun r => r ≠ p && partMask s r &&& mask ≠ 0)
    || (List.range 32).any fun q => old.testBit q ≠ mask.testBit q && quadBusy s q

/-- PARTITION_WRITE (R149). -/
def execPartitionWrite (p : Nat) (v : BitVec 64) (s : State) : Host.Outcome State Fault Refusal :=
  let mask := bitsOf v 31 0
  if 16 ≤ p then .next s
  else if partRefused s p mask then .next { s with partBusy := p :: s.partBusy.filter (· ≠ p) }
  else .next { s with parts := sput 0 s.parts p (BitVec.ofNat 32 mask), partBusy := s.partBusy.filter (· ≠ p) }

end Sys2Proof.Machine
end

