-- ==== Sys2Proof/Machine/Debug.lean ====
section
/-!
DEFINITION. Debug (R435, R436), the authorisation of a secure context's owner (R437), and readback (R431, R432, R434).
-/
namespace Sys2Proof.Machine

/-! ## Authorisation (R437) -/

/-- A context is secure (R140). -/
def isSecure (s : State) (ctx : Nat) : Bool := (ctxOf s ctx).state ≠ 0 && recBits s ctx 62 62 = 1

/-- The bytes of a list of words. -/
def wordBytes (l : List (BitVec 64)) : List (BitVec 8) := l.flatMap fun w => toBytes 8 w.toNat

/-- The authorisation object of a context answers a request: the `KIND`, or 8 + `MODE`. -/
def objectServes (s : State) (ctx want : Nat) : Bool :=
  let y := ctxOf s ctx
  let at_ := memKey s.pkg.toNat y.authptr.toNat
  let bs := memBytes s.mem at_ 7235
  let req := memNum s.mem at_ 8
  let key := (bs.drop 16).take 2592
  req % 16 = want && (req >>> 24) % 64 = ctx && memNum s.mem (at_ + 8) 8 = y.authnonce.toNat
    && toBytes 64 (Config.shake256 key).toNat = wordBytes y.owndig.toList
    && Config.authorisationVerifies (bs ++ Config.moduleIdentity)

/-- A request on a context is allowed: freely when it is not secure; otherwise by its object, which then serves no more. -/
def authorise (s : State) (ctx want : Nat) : Option State :=
  if !isSecure s ctx then some s
  else if objectServes s ctx want then
    some (modCtx { s with free := s.free + 1 } ctx fun y => { y with authnonce := Config.freshNonce s.free })
  else none

/-- A request on several contexts: the state after the checks, and whether each allows it. A nonce that a check has replaced stays so,
whatever a later check finds. -/
def authoriseAll (s : State) (want : Nat) : List Nat → State × Bool
  | [] => (s, true)
  | c :: cs => match authorise s c want with
    | some s => authoriseAll s want cs
    | none => (s, false)

/-! ## Debug (R435, R436) -/

/-- A running task's core halts at its next boundary; one whose handler is returning halts when the task stands again. -/
def haltTask (s : State) (c : Nat) : State :=
  match (coreOf s c).mode with
  | .running | .handler => haltCore s c
  | .service => haltCore (modCore s c fun x => { x with svc := none, resolved := false }) c
  | .gangFrozen => trace (modCore s c fun x => { x with mode := .halted }) c 3 (coreOf s c).pc.toNat
  | .returning _ => modCore s c fun x => { x with haltReq := true }
  | _ => s

/-- The cores with a task of a context. -/
def coresIn (s : State) (ctx : Nat) : List Nat :=
  (s.cores.filter fun q => match q.2.task with | some t => t.ctx = ctx | none => false).map (·.1)

/-- What a halted core does after it resumes. -/
def modeAfterHalt (s : State) (c : Nat) : CoreMode :=
  if (coreOf s c).shadow.isSome then .handler
  else if (match gangOf s c with | some g => g.fused | none => false) && ((gangCores s c).any fun m => m ≠ c && (coreOf s m).shadow.isSome)
    then .gangFrozen
  else .running

/-- A halted core resumes under R406; a soft request that waits for it freezes it before it issues (R436). -/
def resumeHalted (s : State) (c : Nat) : State :=
  let x := coreOf s c
  if x.mode = .halted then
    let m := modeAfterHalt s c
    let s := trace (setCore s c { (if m = .running then reinject x else x) with mode := m, haltReq := false }) c 2 x.pc.toNat
    if m = .running && x.soft then freezeCore s c none .frozen else s
  else modCore s c fun x => { x with haltReq := false }

/-- DEBUG_HALT (R436): with `MODE` 2, every running task of the context halts. -/
def execDebugHalt (ctx : Nat) (s : State) : Host.Outcome State Fault Refusal :=
  .next (if (ctxOf s ctx).dbgmode = 2 then (coresIn s ctx).foldl haltTask s else s)

/-- DEBUG_RESUME (R436). -/
def execDebugResume (ctx : Nat) (s : State) : Host.Outcome State Fault Refusal :=
  .next ((coresIn s ctx).foldl resumeHalted s)

/-- A write of `MODE` and `TRLOG`: the state, and whether it is accepted; a change away from 2 resumes the halted cores. -/
def writeMode (ctx : Nat) (v : BitVec 64) (s : State) : State × Bool :=
  let m := bitsOf v 1 0
  let lg := max 8 (min 24 (bitsOf v 47 40))
  if m = 3 then (setCode s ctx 3, false)
  else match (if m = 0 then some s else authorise s ctx (8 + m)) with
    | none => (setCode s ctx 5, false)
    | some s =>
      let was := (ctxOf s ctx).dbgmode
      let s := if was = 2 && m ≠ 2 then (coresIn s ctx).foldl resumeHalted s else s
      (modCtx s ctx fun y => { y with dbgmode := m, trlog := lg }, true)

/-- DEBUG_MODE_WRITE (R435, R437): `MODE` and `TRLOG`. -/
def execDebugModeWrite (ctx : Nat) (v : BitVec 64) (s : State) : Host.Outcome State Fault Refusal := .next (writeMode ctx v s).1

/-- OWNDIG_WRITE (R430): only while the context is free. -/
def execOwndigWrite (ctx word : Nat) (v : BitVec 64) (s : State) : Host.Outcome State Fault Refusal :=
  .next (modCtx s ctx fun y => if y.state = 0 then { y with owndig := y.owndig.setIfInBounds word v } else y)

/-! ## Readback (R431, R432) -/

/-- The destination of a readback: `ADDR` of `RBDST`. -/
def rbAddr (dst : BitVec 64) : Nat := bitsOf dst 51 6 * 64
/-- `KIND` of `RBSEL`. -/
def rbKind (s : State) : Nat := bitsOf s.rbsel 3 0
/-- `UNIT` of `RBSEL`. -/
def rbUnit (s : State) : Nat := bitsOf s.rbsel 23 8
/-- `CTX` of `RBSEL`. -/
def rbCtx (s : State) : Nat := bitsOf s.rbsel 29 24

/-- A readback runs, and will report bytes and a code. -/
def rbRuns (s : State) (bytes code : Nat) : State := { s with rbBusy := true, rbPend := some (bytes, code) }

/-- A readback of a kind may start: `RBSEL` selects it, none runs, and a module whose boot has not completed answers only
kinds 6 and 7 (R434). -/
def rbMay (s : State) (kind : Nat) : Bool := rbKind s = kind && !s.rbBusy && (s.bootok || kind = 6 || kind = 7)

/-- A readback of units: refused for a unit that does not exist, for one that is not in service, or without
authorisation. -/
def rbUnits (s : State) (ok : Bool) (ldie : Nat) (ctxs : List Nat) (run : State → State) : State :=
  if !ok then rbRuns s 0 3
  else if !diePresent s ldie then rbRuns s 0 6
  else
    let q := authoriseAll s (rbKind s) ctxs.eraseDups
    if q.2 then run q.1 else rbRuns q.1 0 5

/-- A core's record as of now: one that issues is captured as in a freeze, in the handler too, and goes on unchanged. -/
def recordNow (s : State) (c pa : Nat) : State :=
  let x := coreOf s c
  let ctx := ctxOfCore s c
  let t := if x.inflight.isEmpty then s else capture s c
  let t := if x.mode = .running then modCore t c fun x => { x with tpc := BitVec.ofNat 64 (x.pc.toNat % 2 ^ 56) } else t
  { s with mem := (writeRecord t c ctx (physBank x c 0 + 12) pa).mem }

/-- The record of a core read back: the saved record of a frozen task of the selected context, or the core as it is. -/
def readCore (s : State) (c pa : Nat) : State :=
  let s1 := if s.frozen.any fun z => z.core = c && z.task.ctx = rbCtx s && (coreOf s c).task.isNone then
      let n := memKey s.pkg.toNat
      setMem s (memSplice s.mem (n pa) (2 ^ 17) (memSlice s.mem (n (recordPa s (rbCtx s) c)) (2 ^ 17)))
    else recordNow s c pa
  rbRuns s1 (2 ^ 17) 0

/-- READBACK_CORE (R432). -/
def execReadbackCore (dst : BitVec 64) (s : State) : Host.Outcome State Fault Refusal :=
  let c := rbUnit s
  let mine := match (coreOf s c).task with | some t => [t.ctx] | none => []
  .next (if rbMay s 0 then rbUnits s (c < 512) (c / 64) (rbCtx s :: mine) fun s => readCore s c (rbAddr dst) else s)

/-- READBACK_CLUSTER (R432). -/
def execReadbackCluster (dst : BitVec 64) (s : State) : Host.Outcome State Fault Refusal :=
  let k := rbUnit s
  .next (if rbMay s 1 then
    rbUnits s (k < 256) (k / 32) (rbCtx s :: (clusterOf s k).spCtx.toList) fun s => rbRuns (writeClusterImage s k (rbAddr dst)) 8454144 0
  else s)

/-- The entries of a scheduler: the pieces in its queues, and at a core its frozen tasks. -/
def schedEntries (s : State) (lvl u : Nat) : List Piece :=
  s.pieces.filter fun p => (p.level = lvl && p.unit = u && inQueue s p)
    || (lvl = 1 && s.frozen.any fun z => z.core = u && z.task.piece = p.id)

/-- A piece runs when a task of it, or of a piece cut from it, has started and not retired. -/
def pieceRuns (s : State) (q : Piece) : Bool :=
  let ids := subtree s 5 [q.id]
  s.pieces.any fun z => ids.contains z.id && z.state = .running

/-- An instruction as a level has accepted it (R101): its own `LEVEL`, and below the package no wait and no signal. -/
def acceptedAt (lvl : Nat) (t : Tile) : Tile :=
  if lvl = 5 then t else { t with ctl := BitVec.ofNat 64 (setBits t.ctl.toNat 10 8 lvl), waitw := 0, sigw := 0 }

/-- The contexts of a scheduler's entries. -/
def schedCtxs (s : State) (lvl u : Nat) : List Nat := (schedEntries s lvl u).filterMap fun p => (tileOf s p.tile).map (·.ctx)

/-- An entry of a scheduler as a readback writes it: the instruction, then four words of its state; the time waited is free
(log entry 6). -/
def entryBits (s : State) (lvl : Nat) (p : Piece) : Nat :=
  let t := match tileOf s p.tile with | some i => (bitsOfTile (acceptedAt lvl i.tile)).toNat | none => 0
  let running := (s.pieces.filter fun q => q.parent = p.id && q.id ≠ p.id && pieceRuns s q).length
  t + packFields 64 [p.next, running, effPri p, (Config.freeWord (s.free + p.id)).toNat] * 2 ^ 512

/-- The die of a scheduler, and whether it exists. -/
def schedDie (lvl u : Nat) : Option Nat :=
  match lvl with
  | 1 => if u < 512 then some (u / 64) else none
  | 2 => if u < 256 then some (u / 32) else none
  | 3 => if u < 32 then some (u / 4) else none
  | 4 => if u < 8 then some u else none
  | _ => none

/-- A scheduler's entries written, and the report. -/
def readScheduler (s : State) (lvl u pa : Nat) : State :=
  let es := schedEntries s lvl u
  let s := storeRange s pa 64 es.length
  let s := ((List.range es.length).zip es).foldl (fun s q => storeRange s (pa + 64 + 128 * q.1) 128 (entryBits s lvl q.2)) s
  rbRuns { s with free := s.free + s.fresh + 1 } (64 + 128 * es.length) 0

/-- READBACK_SCHEDULER (R432). -/
def execReadbackScheduler (dst : BitVec 64) (s : State) : Host.Outcome State Fault Refusal :=
  let lvl := rbUnit s / 2 ^ 13
  let u := rbUnit s % 2 ^ 13
  if !rbMay s 2 then .next s
  else if lvl = 5 && u = 0 then
    let q := authoriseAll s 2 (rbCtx s :: schedCtxs s 5 0).eraseDups
    .next (if q.2 then readScheduler q.1 5 0 (rbAddr dst) else rbRuns q.1 0 5)
  else .next (rbUnits s (schedDie lvl u).isSome ((schedDie lvl u).getD 0) (rbCtx s :: schedCtxs s lvl u) fun s =>
    readScheduler s lvl u (rbAddr dst))

/-- READBACK_EVENT (R432): the entry as its home holds it. -/
def execReadbackEvent (dst : BitVec 64) (s : State) : Host.Outcome State Fault Refusal :=
  let ctx := rbCtx s
  let e := rbUnit s
  if !rbMay s 3 then .next s
  else if (ctxOf s ctx).state ≠ 1 then .next (rbRuns s 0 4)
  else if !eventOk s ctx e then .next (rbRuns s 0 3)
  else match authorise s ctx 3 with
    | none => .next (rbRuns s 0 5)
    | some s => .next (rbRuns (storeRange s (rbAddr dst) 64 (evEntry s ctx e)) 64 0)

/-- Bytes written at a physical address. -/
def storeBytes (s : State) (pa : Nat) (bs : List (BitVec 8)) : State := setMem s (memPut s.mem (memKey s.pkg.toNat pa) bs)

/-- READBACK_CERT_CHAIN (R432). -/
def execReadbackCertChain (dst : BitVec 64) (s : State) : Host.Outcome State Fault Refusal :=
  let bs := Config.certificateChain
  .next (if rbMay s 6 then rbRuns (storeBytes s (rbAddr dst) bs) bs.length 0 else s)

/-- `MODSTAT` (R433). -/
def modstat (s : State) : Nat := s.sec + b2n s.bootok * 4 + s.booterr * 2 ^ 8

/-- An entry of the die map (R17). -/
def dieWord (e : DieEntry) : Nat := e.log % 16 + e.dstate % 4 * 2 ^ 8

/-- A list of bytes cut or filled with zeros to a length. -/
def exactly (n : Nat) (bs : List (BitVec 8)) : List (BitVec 8) := (bs ++ List.replicate n 0#8).take n

/-- The first 688 bytes of the attestation report (R434). -/
def reportBody (s : State) (nonce : List (BitVec 8)) : List (BitVec 8) :=
  nonce ++ exactly 32 Config.moduleIdentity ++ toBytes 8 (modstat s) ++ (s.meas.toList.flatMap fun m => toBytes 64 m.toNat)
    ++ s.dies.toList.flatMap fun e => toBytes 8 (dieWord e)

/-- READBACK_ATTESTATION (R434): the report over the nonce. -/
def execReadbackAttestation (dst : BitVec 64) (s : State) : Host.Outcome State Fault Refusal :=
  let pa := rbAddr dst
  let body := reportBody s (memBytes s.mem (memKey s.pkg.toNat pa) 64)
  let sig := exactly 4627 (Config.attestationSignature (toBytes 64 (Config.shake256 body).toNat))
  .next (if rbMay s 7 then rbRuns (storeBytes s pa (body ++ sig)) 5315 0 else s)

/-- READBACK_DONE (R431). -/
def execReadbackDone (s : State) : Host.Outcome State Fault Refusal :=
  match s.rbPend with
  | some (n, e) => .next { s with rbBusy := false, rbPend := none, rbBytes := BitVec.ofNat 32 n, rbEcode := e }
  | none => .next s

end Sys2Proof.Machine
end

