-- ==== Sys2Proof/Machine/Manage.lean ====
section
/-!
DEFINITION. Management registers as the host writes and reads them (R139, R143, R148, R377, R410, R430, R445), and the
host's accesses to device memory (R343).
-/
namespace Sys2Proof.Machine

/-! ## Registers without a behaviour of their own -/

/-- A field clamped to a range. -/
def clampTo (lo hi x : Nat) : Nat := max lo (min hi x)

/-- `NETCTL` as a write leaves it (R377). -/
def netctlOf (v : BitVec 64) : BitVec 64 :=
  BitVec.ofNat 64 (clampTo 100 4000 (bitsOf v 63 48) * 2 ^ 48 + clampTo 1 65535 (bitsOf v 47 32) * 2 ^ 32
    + clampTo 1 65535 (bitsOf v 31 16) * 2 ^ 16 + bitsOf v 0 0)

/-- The register of a context's block at 0x40 × c (R139, R410): `CXREC`, or `HOLD` and `QMASK` without a request. -/
def writeCtxPlain (s : State) (ctx r : Nat) (v : BitVec 64) : State :=
  match r with
  | 0x00 => modCtx s ctx fun y => { y with cxrec := BitVec.ofNat 52 (bitsOf v 51 7 * 2 ^ 7) }
  | 0x28 => if bitsOf v 33 32 = 1 || bitsOf v 33 32 = 2 then s else preemptWrite s ctx v
  | _ => s

/-- The register of a context's block at 0x80 × c (R430). -/
def writeDbgPlain (s : State) (ctx r : Nat) (v : BitVec 64) : State :=
  match r with
  | 0x10 => modCtx s ctx fun y => { y with trbase := BitVec.ofNat 52 (bitsOf v 51 4 * 2 ^ 4) }
  | 0x18 => modCtx s ctx fun y => { y with authptr := BitVec.ofNat 52 (bitsOf v 51 3 * 2 ^ 3) }
  | _ => s

/-- MGMT_REGISTER_WRITE (R139): reserved fields are ignored and values clamped as stated; a register with a behaviour of its
own has its own step. -/
def execMgmtRegisterWrite (off : Nat) (v : BitVec 64) (s : State) : Host.Outcome State Fault Refusal :=
  .next (
    if off < 0x1000 then writeCtxPlain s (off / 0x40) (off % 0x40) v
    else if 0xC0000 ≤ off && off < 0xC2000 then writeDbgPlain s ((off - 0xC0000) / 0x80) (off % 0x80) v
    else if off = 0x90000 then { s with netctl := netctlOf v }
    else if off = 0x90200 then { s with fabsel := BitVec.ofNat 16 (bitsOf v 15 0) }
    else if off = 0xB0000 then
      { s with rbsel := BitVec.ofNat 64 (bitsOf v 29 24 * 2 ^ 24 + bitsOf v 23 8 * 2 ^ 8 + bitsOf v 3 0) }
    else s)

/-! ## A write of any register -/

/-- A write of `RBDST` (R431): the readback that `RBSEL` selects. -/
def writeRbdst (v : BitVec 64) (s : State) : Host.Outcome State Fault Refusal :=
  match rbKind s with
  | 0 => execReadbackCore v s
  | 1 => execReadbackCluster v s
  | 2 => execReadbackScheduler v s
  | 3 => execReadbackEvent v s
  | 6 => execReadbackCertChain v s
  | 7 => execReadbackAttestation v s
  | k => .next (if rbMay s k then rbRuns s 0 3 else s)

/-- The state of an outcome, or another. -/
def stateOr (s : State) (r : Host.Outcome State Fault Refusal) : State := match r with | .next t => t | _ => s

/-- A write of `DBGCTL` (R435): the mode, then its requests. -/
def writeDbgctl (ctx : Nat) (v : BitVec 64) (s : State) : Host.Outcome State Fault Refusal :=
  let q := writeMode ctx v s
  if !q.2 then .next q.1
  else
    let s := if bitOf v 4 then stateOr q.1 (execDebugHalt ctx q.1) else q.1
    if bitOf v 5 then execDebugResume ctx s else .next s

/-- A write of a context's block at 0x40 × c. -/
def writeCtxReg (ctx r : Nat) (v : BitVec 64) (s : State) : Host.Outcome State Fault Refusal :=
  match r with
  | 0x08 => match bitsOf v 1 0 with
    | 1 => execContextCreate ctx s
    | 2 => execContextDestroy ctx s
    | 3 => execContextUpdate ctx s
    | _ => .next s
  | 0x20 => execCxsaveWrite ctx v s
  | 0x28 => .next (preemptWrite s ctx v)
  | _ => .next (writeCtxPlain s ctx r v)

/-- A write of a doorbell block (R143). -/
def writeBell (ctx qp r : Nat) (v : BitVec 64) (s : State) : Host.Outcome State Fault Refusal :=
  match r with
  | 0x00 => execSqtailWrite ctx qp (BitVec.ofNat 32 (bitsOf v 31 0)) s
  | 0x08 => execCqheadWrite ctx qp (BitVec.ofNat 32 (bitsOf v 31 0)) s
  | 0x20 => execOvrClear ctx qp (BitVec.ofNat 1 (bitsOf v 0 0)) s
  | _ => .next s

/-- A write of a context's block at 0x80 × c. -/
def writeDbgReg (ctx r : Nat) (v : BitVec 64) (s : State) : Host.Outcome State Fault Refusal :=
  if r = 0 then writeDbgctl ctx v s
  else if 0x40 ≤ r then execOwndigWrite ctx ((r - 0x40) / 8) v s
  else .next (writeDbgPlain s ctx r v)

/-- A write of a management register at an offset (R139). A module whose boot has failed takes only readbacks and the
commands that it answers with a code (R434). -/
def writeMgmt (off : Nat) (v : BitVec 64) (s : State) : Host.Outcome State Fault Refusal :=
  if off = 0xB0008 then writeRbdst v s
  else if off = 0xB0000 then execMgmtRegisterWrite off v s
  else if !s.bootok && !(off < 0x1000 && off % 0x40 = 0x08) then .next s
  else if off < 0x1000 then writeCtxReg (off / 0x40) (off % 0x40) v s
  else if 0x10000 ≤ off && off < 0x50000 then
    writeBell ((off - 0x10000) / 0x1000) ((off - 0x10000) % 0x1000 / 0x40) (off % 0x40) v s
  else if 0x80000 ≤ off && off < 0x80080 then execPartitionWrite ((off - 0x80000) / 8) v s
  else if off = 0x90100 then execXinvWrite v s
  else if 0xC0000 ≤ off && off < 0xC2000 then writeDbgReg ((off - 0xC0000) / 0x80) (off % 0x80) v s
  else execMgmtRegisterWrite off v s

/-! ## A read of any register -/

/-- The frozen tasks of a context (R410). -/
def frozenCount (s : State) (ctx : Nat) : Nat :=
  (s.frozen.filter fun z => z.task.ctx = ctx).length
    + ((coresIn s ctx).filter fun c => (coreOf s c).mode = .frozen).length

/-- The running tasks of a context (R410). -/
def runningCount (s : State) (ctx : Nat) : Nat := ((coresIn s ctx).filter fun c => (coreOf s c).mode ≠ .frozen).length

/-- The halted cores of a context (R435). -/
def haltedCount (s : State) (ctx : Nat) : Nat := ((coresIn s ctx).filter fun c => (coreOf s c).mode = .halted).length

/-- A register of a context's block at 0x40 × c: write-only fields read 0. -/
def readCtxReg (s : State) (ctx r : Nat) : Nat :=
  let y := ctxOf s ctx
  match r with
  | 0x00 => y.cxrec.toNat
  | 0x10 => y.state + y.ecode * 2 ^ 8
  | 0x18 => y.frcnt.toNat + y.frlost.toNat * 2 ^ 32
  | 0x20 => y.cxsave.toNat
  | 0x28 => y.qmask.toNat + b2n y.hold * 2 ^ 63
  | 0x30 => satNat (runningCount s ctx) 0xFFFF + satNat (frozenCount s ctx) 0xFFFF * 2 ^ 16 + y.refused.toNat * 2 ^ 48
  | _ => 0

/-- A register of a doorbell block (R143). -/
def readBell (s : State) (ctx qp r : Nat) : Nat :=
  let q := qpOf s ctx qp
  if !hasBell s ctx qp then 0
  else match r with
    | 0x00 => q.sqtail.toNat
    | 0x08 => q.cqhead.toNat
    | 0x10 => q.sqhead.toNat
    | 0x18 => q.cqtail.toNat
    | 0x20 => b2n q.ovr + 2 * b2n q.cqfull + 4 * b2n q.en
    | _ => 0

/-- A register of a context's block at 0x80 × c (R430, R435). -/
def readDbgReg (s : State) (ctx r : Nat) : Nat :=
  let y := ctxOf s ctx
  match r with
  | 0x00 => y.dbgmode + y.trlog * 2 ^ 40
  | 0x08 => y.trcnt.toNat + satNat (haltedCount s ctx) 0xFFFF * 2 ^ 32 + y.trdrop.toNat * 2 ^ 48
  | 0x10 => y.trbase.toNat
  | 0x18 => y.authptr.toNat
  | 0x20 => y.authnonce.toNat
  | r => if 0x40 ≤ r && r % 8 = 0 then (y.owndig[(r - 0x40) / 8]?.getD 0).toNat else 0

/-- `FABINFO` (R445): reach, ports and hops of the selected package, over the routes of fewest hops. -/
def fabinfo (s : State) : Nat :=
  let p := s.fabsel.toNat
  let rs := s.routes.filter fun r => r.pkg = p
  let best := rs.filter fun r => r.hops = hopsTo s p
  if rs.isEmpty then 0
  else satNat (hopsTo s p) 255 + satNat (best.flatMap (·.ports)).eraseDups.length 255 * 2 ^ 8 + 2 ^ 16

/-- A management register at an offset; one that no rule names reads 0 (log entry 17). -/
def readMgmt (s : State) (off : Nat) : Nat :=
  if off < 0x1000 then readCtxReg s (off / 0x40) (off % 0x40)
  else if 0x10000 ≤ off && off < 0x50000 then readBell s ((off - 0x10000) / 0x1000) ((off - 0x10000) % 0x1000 / 0x40) (off % 0x40)
  else if 0x80000 ≤ off && off < 0x80080 && off % 8 = 0 then
    partMask s ((off - 0x80000) / 8) + b2n (s.partBusy.contains ((off - 0x80000) / 8)) * 2 ^ 63
  else if off = 0x90000 then s.netctl.toNat
  else if off = 0x90008 then s.retryCnt.toNat + s.late.toNat * 2 ^ 16 + s.reccnt.toNat * 2 ^ 32
  else if off = 0x90108 then b2n s.xinvBusy + s.xinvEcode * 2 ^ 8
  else if off = 0x90200 then s.fabsel.toNat
  else if off = 0x90208 then fabinfo s
  else if off = 0xA0000 then modstat s
  else if 0xA0100 ≤ off && off < 0xA0148 && off % 8 = 0 then ((s.dies[(off - 0xA0100) / 8]?).map (·.pstate)).getD 0
  else if off = 0xB0000 then s.rbsel.toNat
  else if off = 0xB0010 then b2n s.rbBusy + s.rbEcode * 2 ^ 8 + s.rbBytes.toNat * 2 ^ 32
  else if 0xC0000 ≤ off && off < 0xC2000 then readDbgReg s ((off - 0xC0000) / 0x80) (off % 0x80)
  else 0

/-! ## The host buffer and host reads (R343) -/

/-- The offset of a doorbell's tail register. -/
def isTail (off : Nat) : Bool := 0x10000 ≤ off && off < 0x50000 && off % 0x40 = 0

/-- The host of an entry. -/
def hostOf : HostWrite → Nat
  | .mem h _ _ => h
  | .reg h _ _ => h

/-- Entry k of the host buffer may apply (R139, R343): writes of one register in order of arrival, a tail write after every
earlier entry of its host. -/
def mayApplyHost (s : State) (k : Nat) : Bool :=
  match s.hostBuf[k]? with
  | some (.mem _ _ _) => true
  | some (.reg h off _) =>
    (s.hostBuf.take k).all fun e => (match e with | .reg _ o _ => o ≠ off | _ => true) && (!isTail off || hostOf e ≠ h)
  | none => false

/-- A host write of device memory, which may race with accesses and tile instructions (R348, R351) or fall on structures that only the
device writes. -/
def hostStore (s : State) (pa : Nat) (bs : List (BitVec 8)) : State :=
  let key := memKey s.pkg.toNat pa
  storeBytes (softBytes (raceHost s (wholeBits key bs.length)) ((wholeBits key bs.length).map (·.1))) pa bs

/-- HOST_APPLY (R343). A write outside the memory tiers names no memory (R20). -/
def execHostApply (k : Nat) (s : State) : Host.Outcome State Fault Refusal :=
  if !mayApplyHost s k then .next s
  else match s.hostBuf[k]? with
    | some (.mem _ pa bs) =>
      if inTiers pa bs.length then .next (hostStore { s with hostBuf := s.hostBuf.eraseIdx k } pa bs) else .fault .reservedAddress
    | some (.reg _ off v) => writeMgmt off v { s with hostBuf := s.hostBuf.eraseIdx k }
    | none => .next s

/-- The management range of the address map (R20). -/
def mgmtBase : Nat := 0xF0000000000

/-- HOST_READ (R343): memory as it stands, or a management register. A module whose boot has failed answers only `MODSTAT` and
the registers of readback (R434); an address in a reserved range names nothing. -/
def execHostRead (pa n : Nat) (s : State) : Host.Outcome State Fault Refusal :=
  if mgmtBase ≤ pa && pa + n ≤ mgmtBase + 2 ^ 32 then
    let off := pa - mgmtBase
    if s.bootok || off = 0xA0000 || off = 0xB0010 then
      .next { s with hostReply := (List.range n).map fun i => BitVec.ofNat 8 (fieldAt (readMgmt s ((off + i) / 8 * 8)) 8 ((off + i) % 8)) }
    else .next s
  else if inTiers pa n then
    if s.bootok then
      let key := memKey s.pkg.toNat pa
      .next { s with hostReply := (List.range n).map fun i => memByte s.mem (key + i) }
    else .next s
  else .fault .reservedAddress

end Sys2Proof.Machine
end

