-- ==== Sys2Proof/Machine/Module.lean ====
section
/-!
DEFINITION. The module as a whole: boot (R434), power and clocks (R25, R26, R438), data errors (R420), and the failure of a
die (R18, R19, R137, R352, R421).
-/
namespace Sys2Proof.Machine

/-! ## Boot (R17, R433, R434) -/

/-- The keys that a module accepts (R434): the production key, and on an open one, `SEC` 0, the development key too. -/
def imageAccepted (sec n : Nat) : Bool := Config.firmwareProduction n || (sec = 0 && Config.firmwareDevelopment n)

/-- What is wrong with a firmware image: 0 nothing, else the `BOOTERR` code. -/
def imageError (s : State) (n : Nat) : Nat :=
  if Config.firmwareMalformed n then 3
  else if !imageAccepted s.fuses.sec n then 1
  else if Config.firmwareVersion n < s.fuses.minVersions.getD n 0 then 2
  else 0

/-- A measurement register extended with a digest. -/
def extend (m d : BitVec 512) : BitVec 512 := Config.shake256 (toBytes 64 m.toNat ++ toBytes 64 d.toNat)

/-- Images n on loaded in turn: each verified digest is measured, and the first failure stops the boot. -/
def loadImages (s : State) : List Nat → State
  | [] => { s with bootok := true }
  | n :: r =>
    let e := imageError s n
    if e ≠ 0 then { s with booterr := e }
    else loadImages { s with meas := s.meas.setIfInBounds n (extend (s.meas[n]?.getD 0) (Config.firmwareDigest n)) } r

/-- The die map that fuses name (R17): one dormant die, the others in service under their logical numbers. `LOG` has a meaning only for
a die in service; the map and the attestation report give 0 for a dormant die and keep the last number of a failed one: DESIGN CHOICE,
log entry 61. -/
def fusedDies (f : Fuses) : Vector DieEntry 9 :=
  Vector.ofFn fun p => if p.val = f.dormant then ⟨0, 1, 3, false⟩ else ⟨f.logicals.getD p.val 0, 0, 0, false⟩

/-- The memory of the package under another package number: what stood under that number is another package's no more (log
entry 12). -/
def renumber (m : List Host.Cell) (old new : Nat) : List Host.Cell :=
  if old = new then m
  else memSplice (memClear m (memKey old 0) (2 ^ 52)) (memKey new 0) (2 ^ 52) (memSlice m (memKey old 0) (2 ^ 52))

/-- The module after a reset, before its boot: memory as it stands (log entry 1), the fuses, and the model's own fields. -/
def afterReset (s : State) : State :=
  { State.reset with
    mem := renumber s.mem s.pkg.toNat 0, fuses := s.fuses, agenda := s.agenda, free := s.free, fresh := s.fresh, cur := s.cur, hostBuf := s.hostBuf
    dies := fusedDies s.fuses, sec := s.fuses.sec }

/-- MODULE_RESET_BOOT (R434). -/
def execModuleResetBoot (s : State) : Host.Outcome State Fault Refusal := .next (loadImages (afterReset s) [0, 1, 2, 3, 4])

/-! ## Clocks and power (R25, R26, R438) -/

/-- The clock of the package changed: the dies at work go with it. R26 does not say when a reduced-clock state that a thermal trip
entered ends: here it ends as that of R25 does, and the trip of every die ends with it. DESIGN CHOICE, log entry 61. -/
def setClock (s : State) (reduced : Bool) : State :=
  { s with
    reduced := reduced
    clockPending := none
    dies := s.dies.map fun e => if e.dstate = 0 && e.pstate ≤ 1 then { e with pstate := b2n reduced, hot := e.hot && reduced } else e }

/-- A deterministic job runs: an instruction with `DET` has not retired. -/
def detJob (s : State) : Bool := s.tiles.any fun i => tDet i.tile

/-- A clock change: at once, or requested in a deterministic job (R25). -/
def askClock (s : State) (reduced : Bool) : State :=
  if detJob s then { s with clockPending := some reduced } else setClock s reduced

/-- POWER_LIMIT_EXCEEDED (R25). While the opposite change waits for its boundary in a deterministic job, R25 does not say what a new event
does: the pending change stands. DESIGN CHOICE, log entry 61. -/
def execPowerLimitExceeded (s : State) : Host.Outcome State Fault Refusal := .next (if s.reduced then s else askClock s true)

/-- POWER_LIMIT_RECOVERED (R25). While a die still stands at its trip point, which is free, the package stays in the reduced-clock state
whatever the power limit is (R26). -/
def execPowerLimitRecovered (s : State) : Host.Outcome State Fault Refusal :=
  let hot := s.dies.toList.any (·.hot)
  .next (if !s.reduced then s
    else if hot && Config.freeBit s.free then { s with free := s.free + 1 }
    else askClock s false)

/-- Another package of a deterministic job may have requested a change of clock, which every package of the job applies at one boundary
(R25): free, for a package that has other packages in its group. -/
def otherAsks (s : State) : Bool := detJob s && (s.routes.any fun r => r.pkg ≠ s.pkg.toNat) && Config.freeBit s.free

/-- DET_CLOCK_CHANGE_BOUNDARY (R25): a requested change takes effect. -/
def execDetClockChangeBoundary (s : State) : Host.Outcome State Fault Refusal :=
  .next (match s.clockPending with
    | some b => setClock s b
    | none => if otherAsks s then setClock { s with free := s.free + 1 } (!s.reduced) else s)

/-- THERMAL_TRIP (R26): the package enters the reduced-clock state whatever the limit, in a deterministic job at its boundary (R25). -/
def execThermalTrip (pdie : Nat) (s : State) : Host.Outcome State Fault Refusal :=
  match s.dies[pdie]? with
  | some e =>
    let s := { s with dies := s.dies.setIfInBounds pdie { e with hot := true } }
    .next (if s.reduced then { s with clockPending := none } else askClock s true)
  | none => .next s

/-- SET_POWER_LIMIT (R25). -/
def execSetPowerLimit (watts : Nat) (s : State) : Host.Outcome State Fault Refusal :=
  .next { s with powerLimit := clampTo 1800 2900 watts }

/-- The cores of a logical die (R16). -/
def dieCores (l : Nat) : List Nat := (List.range 64).map (64 * l + ·)

/-- A logical die has no running, frozen or halted task and no queued piece (R438). -/
def dieQuiet (s : State) (l : Nat) : Bool :=
  (dieCores l).all (fun c => (coreOf s c).task.isNone) && !(s.frozen.any fun z => z.core / 64 = l)
    && !(s.pieces.any fun p => p.level ≤ 4 && p.unit * unitCores p.level / 64 = l && inQueue s p)

/-- DIE_IDLE_ENTRY (R438). -/
def execDieIdleEntry (pdie : Nat) (s : State) : Host.Outcome State Fault Refusal :=
  match s.dies[pdie]? with
  | some e =>
    .next (if e.dstate = 0 && e.pstate ≤ 1 && dieQuiet s e.log
      then { s with dies := s.dies.setIfInBounds pdie { e with pstate := 2 } } else s)
  | none => .next s

/-! ## Data errors (R420) -/

/-- A frozen task whose record or cluster image met a data error fails (R420). -/
def abortFrozen (s : State) (z : FrozenTask) (pa : Nat) : State :=
  let p := pieceOf s z.task.piece
  let f : FaultRec :=
    { level := 2, cls := 2, cause := 0x0E, unit := unitId s z.core, tiid := z.task.tiid, ctx := z.task.ctx
      detail := BitVec.ofNat 64 pa, baddr := BitVec.ofNat 64 (paNum s (recordPa s z.task.ctx z.core + 0x1BA8) 8)
      retries := (p.map (·.retries)).getD 0, piece := z.task.piece, tile := (p.map (·.tile)).getD 0 }
  let s : State := sendFault s (some f)
  let s := { s with
    pieces := s.pieces.map fun (q : Piece) =>
      if q.id = z.task.piece then { q with staging := [], partials := [], state := .failed } else q }
  let cs := (s.cores.filter fun q => match q.2.task with | some t => t.piece = z.task.piece | none => false).map (·.1)
  let s := dropFrozen (cs.foldl dropTask s) fun w => w.task.piece = z.task.piece
  { s with gangs := s.gangs.filter fun g => some g.id ≠ z.task.gang }

/-- The task that an engine operation belongs to is aborted. -/
def abortOp (s : State) (o : EngOp) (pa : Nat) : State :=
  if o.orphan then s
  else match s.frozen.find? fun z => z.core = o.core && z.task.ctx = o.ctx with
    | some z => abortFrozen s z pa
    | none => abortTask s o.core pa

/-- An engine operation stops: its completion word shows `FAIL` with cause 0x0E, it signals no event (R313), and its task is aborted. -/
def stopOp (s : State) (k op pa : Nat) : State :=
  match engFind s k op with
  | some o =>
    let s := modCluster s k fun y => { y with engine := y.engine.filter fun q => q.id ≠ op }
    let s := if o.cmpl / 2 % 2 = 1 then spPut s k o.cwoff 8 (completionWord { o with fail := some 0x0E }) else s
    abortOp s o pa
  | none => s

/-- A frozen task whose record, or whose cluster's image, holds a physical address (R415, R416). -/
def savedAt (s : State) (c pa : Nat) (z : FrozenTask) : Bool :=
  let a := recordPa s z.task.ctx c
  let b := clusterPa s z.task.ctx (clusterOfCore c)
  z.core = c && ((a ≤ pa && pa < a + 2 ^ 17) || (b ≤ pa && pa < b + 8454144))

/-- DATA_ERROR (R420): the unit that meets it stops at once, no handler runs, and its instruction is aborted. -/
def execDataError (at_ : ErrorSite) (pa : Nat) (s : State) : Host.Outcome State Fault Refusal :=
  match at_ with
  | .core c => .next (abortTask s c pa)
  | .engine k op => .next (stopOp s k op pa)
  | .array c =>
    match (coreOf s c).arrayQ with
    | [] => .next s
    | o :: r =>
      let s := modCore s c fun x => { x with arrayQ := r }
      .next (if o.byHandler && (coreOf s c).shadow.isNone then s else abortTask s c pa)
  | .record c =>
    if (coreOf s c).mode = .frozen then .next (abortTask s c pa)
    else match s.frozen.find? (savedAt s c pa) with
      | some z => .next (abortFrozen s z pa)
      | none => .next s

/-! ## The failure of a die (R18, R19, R137, R352, R421) -/

/-- A free choice of one bit. -/
def choose (s : State) : Bool × State := (Config.freeBit s.free, { s with free := s.free + 1 })

/-- The entries of a store queue take effect or not, line by line (R352): once an entry of a line is discarded, the later
ones of its line are too. -/
def resolveSq (s : State) (c : Nat) : List SqEntry → List LineKey → State
  | [], _ => s
  | e :: r, dead =>
    let q := choose s
    if !dead.contains e.line && e.wait.isNone && q.1 then resolveSq (applyEntry q.2 c e) c r dead
    else resolveSq q.2 c r (e.line :: dead)

/-- The lines of a thread take effect or not, each whole (R352). -/
def resolveLines (s : State) (k op : Nat) : List Nat → State
  | [] => s
  | n :: r =>
    let q := choose s
    resolveLines (if q.1 then stateOr q.2 (execThreadLineAccess k op n q.2) else q.2) k op r

/-- A thread completes or is discarded (R352). -/
def resolveOp (s : State) (k : Nat) (o : EngOp) : State :=
  let s := resolveLines s k o.id (List.range (o.src.length + o.dst.length))
  let q := choose s
  if q.1 then stateOr q.2 (execEngineOpComplete k o.id q.2) else q.2

/-- The async entries of a die's operations merge or are discarded (R352). -/
def resolveAsync (s : State) (mine : AsyncEntry → Bool) : List AsyncEntry → State
  | [] => s
  | e :: r =>
    if mine e then
      let q := choose s
      let k := q.2.async.idxOf e
      resolveAsync (if q.1 then stateOr q.2 (execAsyncMerge k q.2) else { q.2 with async := q.2.async.eraseIdx k }) mine r
    else resolveAsync s mine r

/-- The entries of a logical die's cores, threads and async path are resolved (R352). -/
def resolveDie (s : State) (l : Nat) : State :=
  let s := (dieCores l).foldl (fun s c => resolveSq (modCore s c fun x => { x with sq := [], loads := [] }) c (coreOf s c).sq []) s
  let s := resolveAsync s (fun e => e.die = l) s.async
  ((List.range 32).map (32 * l + ·)).foldl (fun s k => (clusterOf s k).engine.foldl (fun s o => resolveOp s k o) s) s

/-- The increments that a die's cores have under way: those not yet applied go with it. -/
def dropIncs (s : State) (l : Nat) : State :=
  { s with incs := s.incs.filter fun i => match i.core with | some c => c / 64 ≠ l | none => true }

/-- The tasks of a logical die end, its cores and clusters hold nothing any more (R421). -/
def clearDie (s : State) (l : Nat) : State :=
  let s := dropFrozen ((dieCores l).foldl dropTask s) fun z => z.core / 64 = l
  { s with cores := s.cores.filter fun q => q.1 / 64 ≠ l
           clusters := s.clusters.filter fun q => q.1 / 32 ≠ l
           stoppedOps := s.stoppedOps.filter fun q => q.1 / 32 ≠ l
           savedClusters := s.savedClusters.filter fun q => q.2 / 32 ≠ l
           readyTiles := s.readyTiles.filter fun r => r.core / 64 ≠ l
           recasts := s.recasts.map fun r => { r with required := r.required.filter fun c => c / 64 ≠ l } }

/-- The unretired pieces that an instruction has on a logical die, as die pieces (R137). -/
def diePieces (s : State) (l ti : Nat) : List Piece :=
  s.pieces.filter fun p => p.tile = ti && p.level = 4 && p.unit = l && p.state ≠ .unplaced

/-- The record of a die's failure goes straight to the package (R137): its cause is not given (log entry 17). -/
def dieRecord (s : State) (l p cls : Nat) (i : TileInst) : FaultRec :=
  { level := 5, cls := cls, cause := (Config.freeWord s.free).toNat % 256
    unit := BitVec.ofNat 64 (s.pkg.toNat * 2 ^ 16 + p * 2 ^ 9 + l * 2 ^ 6), tiid := tTiid i.tile, ctx := i.ctx
    detail := Config.freeWord (s.free + 1), baddr := 0, retries := 0, piece := 0, tile := i.id }

/-- An instruction that had a piece on the failed die (R137): its die pieces are reissued on the substituted die, or it
fails: with class 3 when it is replayable and `SUBST` is 0, else with class 5 (R421). -/
def replayTile (l p : Nat) (subst : Bool) (s : State) (i : TileInst) : State :=
  let ps := diePieces s l i.id
  if ps.isEmpty then s
  else
    let may := tRply i.tile
    let allowed := (i.fpol >>> 23) % 2 = 1
    if may && subst && allowed then
      putTile (ps.foldl (fun s q => rerunPiece s q q.retries false (some l)) s) { i with subst := true }
    else failTile { s with free := s.free + 2 } i (dieRecord s l p (if may && !allowed then 3 else 5) i)

/-- A level-0 instruction's or a gang's pieces go with their die pieces; what every instruction loses is replayed or fails. -/
def replayAll (s : State) (l p : Nat) (subst : Bool) : State :=
  (s.tiles.map (·.id)).foldl (fun s id => match tileOf s id with | some i => replayTile l p subst s i | none => s) s

/-- The dormant die, if one is left to switch in (R18, R19). -/
def dormantDie (s : State) : Option Nat :=
  if s.substituted then none
  else (List.range 9).find? fun p => match s.dies[p]? with | some e => e.dstate = 1 | none => false

/-- A physical die fails (R18): it is marked, the dormant die takes its logical number, and its work is replayed or fails. The dormant
die itself is only marked. R22 and R421 name only the substituted die as what serves the lines homed in the slices of the failed one;
when none is left the logical die is absent, and the model goes on serving those lines unchanged: DESIGN CHOICE, log entry 61. -/
def failDie (s : State) (p : Nat) : State :=
  match s.dies[p]? with
  | none => s
  | some e =>
    if e.dstate = 1 then { s with dies := s.dies.setIfInBounds p { e with dstate := 2, pstate := 3 } }
    else if e.dstate ≠ 0 then s
    else
      let l := e.log
      let s := clearDie (dropIncs (resolveDie s l) l) l
      let s := { s with dies := s.dies.setIfInBounds p { e with dstate := 2, pstate := 3 }
                        switching := s.switching.filter (· ≠ p) }
      match dormantDie s with
      | some d =>
        let s := { s with dies := s.dies.setIfInBounds d ⟨l, 0, 3, false⟩, substituted := true, switching := d :: s.switching }
        replayAll s l p true
      | none => replayAll s l p false

/-- Physical dies in the order in which their faults count: a dormant one, which then is not switched in, and the others in the order
of the logical dies that they serve (R19). -/
def byLogical (s : State) (ps : List Nat) : List Nat :=
  let is (f : DieEntry → Bool) (p : Nat) : Bool := match s.dies[p]? with | some e => f e | none => false
  ps.filter (is fun e => e.dstate = 1)
    ++ (List.range 8).flatMap fun l => ps.filter (is fun e => e.dstate = 0 && decide (e.log = l))

/-- Physical dies fail in one bundle cycle (R19): the one with the lower logical number is substituted. -/
def failDies (s : State) (pdies : List Nat) : State := (byLogical s pdies.eraseDups).foldl failDie s

/-- DIE_FATAL_FAULT (R18, R19). -/
def execDieFatalFault (pdies : List Nat) (s : State) : Host.Outcome State Fault Refusal := .next (failDies s pdies)

/-- THERMAL_DIE_FATAL (R26). -/
def execThermalDieFatal (pdie : Nat) (s : State) : Host.Outcome State Fault Refusal := .next (failDies s [pdie])

/-- DIE_SWITCH_IN_COMPLETE (R18, R438): the substituted die becomes active and takes work. -/
def execDieSwitchInComplete (pdie : Nat) (s : State) : Host.Outcome State Fault Refusal :=
  match s.dies[pdie]? with
  | some e =>
    .next (if s.switching.contains pdie then
      { s with switching := s.switching.filter (· ≠ pdie), dies := s.dies.setIfInBounds pdie { e with pstate := workState s } }
    else s)
  | none => .next s

end Sys2Proof.Machine
end

