-- ==== Sys2Proof/Machine/Network.lean ====
section
/-!
DEFINITION. The network and the fabric (R373 to R381, R445): recovery of a virtual channel, Plehezo flits, the flows of
packets, the failure of a port, and the configuration of a fabric group.
-/
namespace Sys2Proof.Machine

/-! ## Deadlock recovery (R378) -/

/-- Flits stand in a virtual channel of a router. -/
def inVc (router vc : Nat) (v : Vc) : Bool := v.router = router && v.vc = vc

/-- The flits that a virtual channel holds, in their order. -/
def vcFlits (s : State) (router vc : Nat) : List Flit := (s.vcs.filter (inVc router vc)).flatMap (·.flits)

/-- NO_PROGRESS_TIMEOUT (R378): a recovery starts, and the channel's flits move, in their order, to the escape channel. -/
def execNoProgressTimeout (router vc : Nat) (s : State) : Host.Outcome State Fault Refusal :=
  if vcFlits s router vc = [] then .next s
  else .next { s with
    reccnt := BitVec.ofNat 32 (satNat (s.reccnt.toNat + 1) (2 ^ 32 - 1))
    escape := s.escape ++ (vcFlits s router vc).map fun f => (router, f)
    vcs := s.vcs.filter fun v => !inVc router vc v
    recovering := s.recovering ++ [router] }

/-- RECOVERY_WINDOW_END (R378): a window of the router ends. -/
def execRecoveryWindowEnd (router : Nat) (s : State) : Host.Outcome State Fault Refusal :=
  .next { s with recovering := s.recovering.erase router }

/-! ## Flits (R379) -/

/-- One byte of a CRC-32C. -/
def crc32cByte (c b : Nat) : Nat :=
  (List.range 8).foldl (fun c _ => if c % 2 = 1 then (c / 2) ^^^ 0x82F63B78 else c / 2) (c ^^^ b)

/-- CRC-32C, initial value and final XOR all ones. -/
def crc32c (bs : List (BitVec 8)) : Nat := (bs.foldl (fun c b => crc32cByte c b.toNat) (2 ^ 32 - 1)) ^^^ (2 ^ 32 - 1)

/-- Bytes 0 to 11 of a flit's header (R379). -/
def flitHeader (f : Flit) : Nat :=
  f.dst.toNat + f.src.toNat * 2 ^ 16 + f.seq.toNat * 2 ^ 32 + b2n f.last * 2 ^ 77 + f.cls.toNat * 2 ^ 78 + f.tag.toNat * 2 ^ 80
    + f.kind.toNat * 2 ^ 88

/-- A flit's CRC is right (R379). -/
def flitGood (f : Flit) : Bool := f.crc.toNat = crc32c (toBytes 12 (flitHeader f) ++ toBytes 64 f.payload.toNat)

/-- A port that works. -/
def portOf (s : State) (n : Nat) : Option Port := match s.ports[n]? with | some p => if p.failed then none else some p | none => none

/-- The state with a port replaced. -/
def setPort (s : State) (n : Nat) (p : Port) : State := { s with ports := s.ports.setIfInBounds n p }

/-- A flit with its CRC, as a port sends it (R379). -/
def sealFlit (f : Flit) : Flit := { f with crc := BitVec.ofNat 32 (crc32c (toBytes 12 (flitHeader f) ++ toBytes 64 f.payload.toNat)) }

/-- What a flit names: its flow, its packet's sequence number, and its place in the packet, which the flits
of the packet that have come before it give (log entry 18). -/
def flitName (q : Port) (f : Flit) : Nat × Nat × Nat × Nat × Nat :=
  let before := if f.kind = 0 then 0 else ((q.open_.find? fun p => p.tag = f.tag.toNat).map fun p => p.payload.length).getD 0
  (f.src.toNat, f.dst.toNat, f.cls.toNat, f.seq.toNat, before)

/-- The answer to a flit of a flow, an acknowledgement or a retry request: it goes back from the flow's destination to its source, and
its payload holds a place in the packet (R379, R380; log entry 18). -/
def answerFlit (kind : BitVec 8) (n : Nat × Nat × Nat × Nat × Nat) : Flit :=
  sealFlit ⟨0, kind, 0, BitVec.ofNat 2 n.2.2.1, true, BitVec.ofNat 32 n.2.2.2.1, BitVec.ofNat 16 n.2.1, BitVec.ofNat 16 n.1,
    BitVec.ofNat 512 n.2.2.2.2⟩

/-- A flit of a packet comes while its port waits for the flit from which it has requested a retry, and is not that one: it is
discarded, for it comes again (R380). -/
def resent (q : Port) (f : Flit) : Bool := match q.await with | some n => flitName q f ≠ n | none => false

/-- A flit whose CRC fails (R380): it is discarded, a retry from it onward is requested, and `RETRY` rises. -/
def badFlit (s : State) (n : Nat) (f : Flit) : State :=
  match portOf s n with
  | none => s
  | some q =>
    let name := flitName q f
    let s := setPort s n { q with sent := q.sent ++ [answerFlit 3 name], await := if f.kind.toNat ≤ 1 then some name else q.await }
    { s with retryCnt := BitVec.ofNat 16 (satNat (s.retryCnt.toNat + 1) 0xFFFF) }

/-- A flit of a packet at a port, as far as the port takes it: `take` is what a good one does. -/
def packetFlit (s : State) (n : Nat) (q : Port) (f : Flit) (take : State → Port → State) : State :=
  if resent q f then s
  else if !flitGood f then badFlit s n f
  else take (setPort s n { q with await := none }) { q with await := none }

/-- The key of a flow of the fabric (R374): source, destination and class. -/
def flowKey (p : Packet) : Nat := 4 * (2 ^ 16 * p.src + p.dst) + p.cls

/-- The packets that wait are delivered as far as they are next in their flow and their time has come (R374, R381). -/
def deliverWaiting : Nat → State → State
  | 0, s => s
  | n + 1, s =>
    match s.early.find? fun p => p.released && p.seq.toNat = sget 0 s.flows (flowKey p) with
    | none => s
    | some p =>
      deliverWaiting n { s with
        early := s.early.erase p
        delivered := s.delivered ++ [p]
        flows := sput 0 s.flows (flowKey p) ((p.seq.toNat + 1) % 2 ^ 32) }

/-- A packet is one that its flow has already delivered. -/
def delivered (s : State) (p : Packet) : Bool := 2 ^ 31 ≤ (p.seq - BitVec.ofNat 32 (sget 0 s.flows (flowKey p))).toNat

/-- A packet has come to its destination, delivered or held. -/
def hasCome (s : State) (p : Packet) : Bool := delivered s p || s.early.any fun q => flowKey q = flowKey p && q.seq = p.seq

/-- A whole packet has arrived: it is delivered once, in the order of its flow, and in fixed-latency mode not before its time
(R374, R381); one that came too late, which time decides, is counted in `LATE` (log entry 6). -/
def packetDone (s : State) (p : Packet) : State :=
  if hasCome s p then s
  else
    let fixed := fixedLatency s
    let tooLate := fixed && Config.freeBit s.free
    let s := { s with
      free := s.free + 1
      late := if tooLate then BitVec.ofNat 16 (satNat (s.late.toNat + 1) 0xFFFF) else s.late
      early := s.early ++ [{ p with released := !fixed || tooLate }] }
    deliverWaiting s.early.length s

/-! ## Virtual channels (R374, R376, R378)

Routers are numbered: 0 to 35 those that the ports' incoming flits enter, from 36 the clusters', from 324 the slices', and from 512 the
outgoing links of the ports. -/

/-- The router of a core's cluster (R370). -/
def coreRouter (c : Nat) : Nat := 36 + c / 2

/-- The router of a home slice of this package. -/
def sliceRouter (slice : Nat) : Nat := 324 + slice

/-- The outgoing link of a port. -/
def outRouter (m : Nat) : Nat := 512 + m

/-- The first port of a route of fewest hops to a package. -/
def portTo (s : State) (p : Nat) : Option Nat :=
  (s.routes.find? fun r => r.pkg = p && decide (r.hops = hopsTo s p)).bind fun r => r.ports.head?

/-- A packet queued at a router, on the virtual channel of its class (log entry 18). -/
def queuePacket (s : State) (router : Nat) (p : Packet) : State :=
  let m := p.payload.length
  let fs := ((List.range m).zip p.payload).map fun q =>
    (⟨0, if q.1 = 0 then 0 else 1, BitVec.ofNat 8 p.tag, BitVec.ofNat 2 p.cls, decide (q.1 + 1 = m), p.seq, BitVec.ofNat 16 p.src,
      BitVec.ofNat 16 p.dst, q.2⟩ : Flit)
  { s with vcs := s.vcs ++ [⟨router, p.cls, fs⟩] }

/-- A flit is one of a packet. -/
def ofPacket (p : Packet) (f : Flit) : Bool := f.src.toNat = p.src && f.dst.toNat = p.dst && f.cls.toNat = p.cls && f.seq = p.seq

/-- A whole packet has come to a port: the port acknowledges it, and it enters the port's router; one sent again enters once
(R374, R379; log entry 18). -/
def enterVc (s : State) (n : Nat) (p : Packet) : State :=
  let s := match s.ports[n]? with
    | some q => setPort s n { q with sent := q.sent ++ [answerFlit 2 (p.src, p.dst, p.cls, p.seq.toNat, 0)] }
    | none => s
  if (p.dst = s.pkg.toNat && hasCome s p) || (s.vcs.any fun v => v.flits.any (ofPacket p)) || (s.escape.any fun e => ofPacket p e.2)
      || (s.arriving.any fun q => flowKey q = flowKey p && q.seq = p.seq) then s
  else queuePacket s n p

/-- A whole packet has left its router: one of a flow to this package is delivered, one to another package goes on through a port that
leads there, and the effect of one between units of this package is the step of its unit (R374; log entry 18). -/
def routePacket (s : State) (p : Packet) : State :=
  if p.dst = s.pkg.toNat then (if p.src = s.pkg.toNat then s else packetDone s p)
  else match portTo s p.dst with
    | some m => queuePacket s (outRouter m) { p with tag := (Config.tagBase + p.cls) % 256 }
    | none => s

/-- A port sends a flit of a packet, and its retry buffer keeps it (R380). -/
def sendFlit (s : State) (m : Nat) (f : Flit) : State :=
  match portOf s m with
  | some r => setPort s m { r with retry := r.retry ++ [sealFlit f], sent := r.sent ++ [sealFlit f] }
  | none => s

/-- A flit leaves its router: on a port's link, or to its packet's destination, where the packet stands with its last flit. -/
def flitOut (s : State) (router : Nat) (f : Flit) : State :=
  if 512 ≤ router then sendFlit s (router - 512) f
  else
    let p := (s.arriving.find? fun p => ofPacket p f).getD ⟨f.src.toNat, f.dst.toNat, f.cls.toNat, f.seq, f.tag.toNat, [], false⟩
    let p := { p with payload := p.payload ++ [f.payload] }
    let rest := s.arriving.filter fun o => !ofPacket o f
    if f.last then routePacket { s with arriving := rest } p else { s with arriving := rest ++ [p] }

/-- The slot of a router's link that comes next is the reserve's (R376). -/
def reserveNow (s : State) (router : Nat) : Bool := sget 0 s.linkSlots router % 16 = Config.reserveSlot router % 16

/-- The flit at the head of entry k of the virtual channels may go now (R376, R378): the first of its channel; of the highest class that
waits at its router, or in the reserve's slot the oldest of a lower class, when one waits; in a recovery window the oldest of all
classes, after the escape channel. -/
def mayGo (s : State) (k : Nat) (v : Vc) : Bool :=
  let here := s.vcs.filter fun w => w.router = v.router
  let before := (s.vcs.take k).filter fun w => w.router = v.router
  let top := here.foldl (fun n w => max n w.vc) 0
  if s.recovering.contains v.router then before.isEmpty && !(s.escape.any fun e => e.1 = v.router)
  else !(before.any fun w => w.vc = v.vc) && !(s.escape.any fun e => e.1 = v.router && e.2.cls.toNat = v.vc)
    && (if reserveNow s v.router && (here.any fun w => w.vc < top) then v.vc < top && !(before.any fun w => w.vc < top)
      else v.vc = top)

/-- A slot of a router's link passes (R376). -/
def nextSlot (s : State) (router : Nat) : State :=
  { s with linkSlots := sput 0 s.linkSlots router ((sget 0 s.linkSlots router + 1) % 16) }

/-- One flit goes: the head of entry k of the virtual channels, or, above them, the first of a router in the escape channels, which are
first-in, first-out (R378). -/
def netGo (s : State) (k : Nat) : State :=
  match s.vcs[k]? with
  | some v =>
    if !mayGo s k v then s
    else match v.flits with
      | [] => { s with vcs := s.vcs.eraseIdx k }
      | f :: r =>
        flitOut { nextSlot s v.router with vcs := if r.isEmpty then s.vcs.eraseIdx k else s.vcs.set k { v with flits := r } } v.router f
  | none =>
    let j := k - s.vcs.length
    match s.escape[j]? with
    | some e => if (s.escape.take j).any fun x => x.1 = e.1 then s else flitOut { s with escape := s.escape.eraseIdx j } e.1 e.2
    | none => s

/-! ## The traffic of this package's units (R373, R375) -/

/-- The place that a span of an engine operation names, as a package. -/
def spanPkg (s : State) (p : Span) : Nat := match p.loc with | .mem key => keyPkg key | .sp _ _ => s.pkg.toNat

/-- The packages that an engine operation's lines, adds and tiles go to, and the class of its packets. -/
def engineTraffic (s : State) (o : EngOp) : List (Nat × Nat × Nat) :=
  let r := coreRouter o.core
  if o.kind = .csend || o.kind = .crecv then
    let e := chEntry s o.ctx o.chan
    (chEndpoints s e).map fun x => (r, bitsOf e 46 45, epPkg x)
  else ((o.src ++ o.dst).map (spanPkg s) ++ o.accs.map fun a => keyPkg a.addr).map fun p => (r, 0, p)

/-- What the units of this package have to send: the router where it stands, its class, and the package it goes to. Accesses go from
the core to the home slice, and loaded bytes back (R375). -/
def traffic (s : State) : List (Nat × Nat × Nat) :=
  let own := s.pkg.toNat
  (s.cores.flatMap fun q =>
    (q.2.sq.map fun e => (coreRouter q.1, 1, (entryHome s e).1))
      ++ q.2.loads.flatMap fun l => (coreRouter q.1, 1, keyPkg l.addr)
        :: if keyPkg l.addr = own then [(sliceRouter (keySlice l.addr), 1, own)] else [])
    ++ (s.clusters.flatMap fun q => q.2.engine.flatMap (engineTraffic s))
    ++ (s.bags.map fun b => (coreRouter b.1, 1, keyPkg b.2.addr))
    ++ (s.incs.map fun i => (sliceRouter 0, 3, i.pkg)) ++ (s.recastReqs.map fun _ => (sliceRouter 0, 3, own))
    ++ s.faults.map fun _ => (sliceRouter 0, 3, own)

/-- A packet of a unit of this package enters the network: a header flit and up to 128 payload flits, whose contents the spec leaves to
the device (R373), with the next sequence number of its flow (R374). -/
def sendPacket (s : State) (k : Nat) : State :=
  match (traffic s)[k]? with
  | none => s
  | some t =>
    let m := 1 + Config.freeChoice s.free % 129
    let bits (j : Nat) : BitVec 512 :=
      BitVec.ofNat 512 (packFields 64 ((List.range 8).map fun w => (Config.freeWord (s.free + 1 + 8 * j + w)).toNat))
    let p : Packet := ⟨s.pkg.toNat, t.2.2, t.2.1, 0, 0, (List.range m).map bits, false⟩
    let n := sget 0 s.flows (flowKey p)
    queuePacket { s with free := s.free + 1 + 8 * m, flows := sput 0 s.flows (flowKey p) ((n + 1) % 2 ^ 32) } t.1
      { p with seq := BitVec.ofNat 32 n }

/-- The port with a packet opened, or the packet when its only flit has come. -/
def openPacket (s : State) (n : Nat) (q : Port) (f : Flit) : State :=
  let p : Packet := ⟨f.src.toNat, f.dst.toNat, f.cls.toNat, f.seq, f.tag.toNat, [f.payload], false⟩
  if f.last then enterVc s n p else setPort s n { q with open_ := q.open_.filter (fun o => o.tag ≠ p.tag) ++ [p] }

/-- HEADER_FLIT (R379): it opens a packet. -/
def execHeaderFlit (port : Nat) (f : Flit) (s : State) : Host.Outcome State Fault Refusal :=
  match portOf s port with
  | some q => .next (if f.kind ≠ 0 then s else packetFlit s port q f fun s q => openPacket s port q f)
  | none => .next s

/-- The packet that a payload flit belongs to: the port with it added, and the packet when it is whole. -/
def addPayload (s : State) (n : Nat) (q : Port) (f : Flit) : State :=
  match q.open_.find? fun p => p.tag = f.tag.toNat with
  | none => s
  | some p =>
    let p' := { p with payload := p.payload ++ [f.payload] }
    let rest := q.open_.filter fun o => o.tag ≠ p.tag
    if f.last then enterVc (setPort s n { q with open_ := rest }) n p'
    else setPort s n { q with open_ := q.open_.map fun o => if o.tag = p.tag then p' else o }

/-- PAYLOAD_FLIT (R379): it joins its packet, which its tag names. -/
def execPayloadFlit (port : Nat) (f : Flit) (s : State) : Host.Outcome State Fault Refusal :=
  match portOf s port with
  | some q => .next (if f.kind ≠ 1 then s else packetFlit s port q f fun s q => addPayload s port q f)
  | none => .next s

/-- A flit of the retry buffer belongs to the flow that an answer from its destination names (log entry 18). -/
def sameFlow (f g : Flit) : Bool := g.src = f.dst && g.dst = f.src && g.cls = f.cls

/-- ACKNOWLEDGE (R379): the flits of the flow up to the sequence number named leave the retry buffer. -/
def execAcknowledge (port : Nat) (f : Flit) (s : State) : Host.Outcome State Fault Refusal :=
  match portOf s port with
  | some q =>
    .next (if f.kind ≠ 2 then s else if !flitGood f then badFlit s port f
      else setPort s port { q with retry := q.retry.filter fun g => !(sameFlow f g && (f.seq - g.seq).toNat < 2 ^ 31) })
  | none => .next s

/-- The retry buffer from the flit that a request names onward: so many flits of the packet come before it as the request's payload
says (log entry 18). -/
def resend (f : Flit) : Nat → List Flit → List Flit
  | _, [] => []
  | n, g :: r =>
    if sameFlow f g && g.seq = f.seq then (match n with | 0 => g :: r | n + 1 => resend f n r)
    else resend f n r

/-- RETRY_REQUEST (R380): the port resends from the flit named onward. -/
def execRetryRequest (port : Nat) (f : Flit) (s : State) : Host.Outcome State Fault Refusal :=
  match portOf s port with
  | some q =>
    .next (if f.kind ≠ 3 then s else if !flitGood f then badFlit s port f
      else setPort s port { q with sent := q.sent ++ resend f f.payload.toNat q.retry })
  | none => .next s

/-- IDLE (R379): an idle flit carries nothing. -/
def execIdle (port : Nat) (f : Flit) (s : State) : Host.Outcome State Fault Refusal :=
  match portOf s port with
  | some _ => .next (if f.kind = 4 && !flitGood f then badFlit s port f else s)
  | none => .next s

/-- FLIT_CRC_FAIL (R380). -/
def execFlitCrcFail (port : Nat) (f : Flit) (s : State) : Host.Outcome State Fault Refusal :=
  match portOf s port with
  | some q => .next (if flitGood f || (f.kind.toNat ≤ 1 && resent q f) then s else badFlit s port f)
  | none => .next s

/-! ## Ports and the fabric group (R380, R381, R445) -/

/-- A port withdrawn from the routes: a route that no port leads to any more is gone, and longer ones to its package stay. -/
def withdrawPort (s : State) (n : Nat) : State :=
  { s with routes := (s.routes.map fun r => { r with ports := r.ports.filter (· ≠ n) }).filter fun r =>
      r.pkg = s.pkg.toNat || !r.ports.isEmpty }

/-- The flows of a failed port move to other ports, in flow order: what is not acknowledged is sent again there, and what still
waits for its link waits for another's. -/
def moveFlows (s : State) (n : Nat) (q : Port) : State :=
  let moved (r : Nat) (p : Nat) : Option Nat := if r = outRouter n then (portTo s p).map outRouter else some r
  let s := { s with
    vcs := s.vcs.filterMap fun v => (moved v.router ((v.flits.head?.map fun f => f.dst.toNat).getD 0)).map fun r => { v with router := r }
    escape := s.escape.filterMap fun e => (moved e.1 e.2.dst.toNat).map fun r => (r, e.2) }
  let s := q.retry.foldl (fun s f => match portTo s f.dst.toNat with
    | some m => match s.ports[m]? with
      | some r => setPort s m { r with retry := r.retry ++ [f], sent := r.sent ++ [f] }
      | none => s
    | none => s) s
  q.open_.foldl (fun s p => match portTo s p.src with
    | some m => match s.ports[m]? with
      | some r => setPort s m { r with open_ := r.open_ ++ [p] }
      | none => s
    | none => s) s

/-- Every engine operation that cannot reach a package any more completes with `FAIL` and cause 0x11. -/
def failEngines (s : State) : State :=
  { s with clusters := s.clusters.map fun q => (q.1, { q.2 with engine := q.2.engine.map (cutLost s) }) }

/-- PORT_FAILURE (R380). -/
def execPortFailure (port : Nat) (s : State) : Host.Outcome State Fault Refusal :=
  match portOf s port with
  | none => .next s
  | some q =>
    let s := withdrawPort (setPort s port { q with failed := true, retry := [], open_ := [], await := none }) port
    .next (failAccesses (failEngines (moveFlows s port q)))

/-- FABRIC_GROUP_CONFIGURE (R445, R362): package number, routes, of which that to this package itself has no hops, and
the count that the package takes at its next boundary. -/
def execFabricGroupConfigure (pkg : Nat) (routes : List Route) (count : Option (BitVec 64)) (s : State) :
    Host.Outcome State Fault Refusal :=
  .next { s with
    mem := renumber s.mem s.pkg.toNat (pkg % 2 ^ 16)
    pkg := BitVec.ofNat 16 pkg
    routes := ⟨pkg % 2 ^ 16, 0, []⟩ :: routes.filter fun r => r.pkg ≠ pkg % 2 ^ 16
    geyserPending := if fixedLatency s then count.or s.geyserPending else s.geyserPending }

/-- FIXED_LATENCY_PACKET_RELEASE (R381): the moment of an early packet has come. -/
def execFixedLatencyPacketRelease (k : Nat) (s : State) : Host.Outcome State Fault Refusal :=
  match s.early[k]? with
  | some p =>
    let s := { s with early := s.early.set k { p with released := true } }
    .next (deliverWaiting s.early.length s)
  | none => .next s

end Sys2Proof.Machine
end

