-- ==== Sys2Proof/Machine/Dispatch.lean ====
section
/-!
DEFINITION. The dispatcher: one arm per constructor of the abstract syntax.
-/
namespace Sys2Proof.Machine

def exec (i : Instr) (s : State) : Host.Outcome State Fault Refusal :=
  match i with
  | .nop => Sys2Proof.Machine.execNop s
  | .add f => Sys2Proof.Machine.execAdd f s
  | .sub f => Sys2Proof.Machine.execSub f s
  | .mul f => Sys2Proof.Machine.execMul f s
  | .mulh f => Sys2Proof.Machine.execMulh f s
  | .mulhn f => Sys2Proof.Machine.execMulhn f s
  | .div f => Sys2Proof.Machine.execDiv f s
  | .divn f => Sys2Proof.Machine.execDivn f s
  | .mod f => Sys2Proof.Machine.execMod f s
  | .modn f => Sys2Proof.Machine.execModn f s
  | .and f => Sys2Proof.Machine.execAnd f s
  | .or f => Sys2Proof.Machine.execOr f s
  | .xor f => Sys2Proof.Machine.execXor f s
  | .shl f => Sys2Proof.Machine.execShl f s
  | .shr f => Sys2Proof.Machine.execShr f s
  | .sra f => Sys2Proof.Machine.execSra f s
  | .min f => Sys2Proof.Machine.execMin f s
  | .max f => Sys2Proof.Machine.execMax f s
  | .minn f => Sys2Proof.Machine.execMinn f s
  | .maxn f => Sys2Proof.Machine.execMaxn f s
  | .clz f => Sys2Proof.Machine.execClz f s
  | .popc f => Sys2Proof.Machine.execPopc f s
  | .sext f => Sys2Proof.Machine.execSext f s
  | .zext f => Sys2Proof.Machine.execZext f s
  | .addi f => Sys2Proof.Machine.execAddi f s
  | .andi f => Sys2Proof.Machine.execAndi f s
  | .ori f => Sys2Proof.Machine.execOri f s
  | .xori f => Sys2Proof.Machine.execXori f s
  | .shli f => Sys2Proof.Machine.execShli f s
  | .shri f => Sys2Proof.Machine.execShri f s
  | .srai f => Sys2Proof.Machine.execSrai f s
  | .li f => Sys2Proof.Machine.execLi f s
  | .lih16 f => Sys2Proof.Machine.execLih16 f s
  | .lih32 f => Sys2Proof.Machine.execLih32 f s
  | .lih48 f => Sys2Proof.Machine.execLih48 f s
  | .cmp f => Sys2Proof.Machine.execCmp f s
  | .cmpi f => Sys2Proof.Machine.execCmpi f s
  | .pand f => Sys2Proof.Machine.execPand f s
  | .por f => Sys2Proof.Machine.execPor f s
  | .pxor f => Sys2Proof.Machine.execPxor f s
  | .sel f => Sys2Proof.Machine.execSel f s
  | .pmov f => Sys2Proof.Machine.execPmov f s
  | .pmovToS f => Sys2Proof.Machine.execPmovToS f s
  | .pmovFromS f => Sys2Proof.Machine.execPmovFromS f s
  | .br f => Sys2Proof.Machine.execBr f s
  | .jmp f => Sys2Proof.Machine.execJmp f s
  | .call f => Sys2Proof.Machine.execCall f s
  | .ret g => Sys2Proof.Machine.execRet g s
  | .loop f => Sys2Proof.Machine.execLoop f s
  | .rbset f => Sys2Proof.Machine.execRbset f s
  | .exit g => Sys2Proof.Machine.execExit g s
  | .yield g => Sys2Proof.Machine.execYield g s
  | .ldl f => Sys2Proof.Machine.execLdl f s
  | .stl f => Sys2Proof.Machine.execStl f s
  | .ldm f => Sys2Proof.Machine.execLdm f s
  | .stm f => Sys2Proof.Machine.execStm f s
  | .amo f => Sys2Proof.Machine.execAmo f s
  | .sacc f => Sys2Proof.Machine.execSacc f s
  | .sapp f => Sys2Proof.Machine.execSapp f s
  | .hld f => Sys2Proof.Machine.execHld f s
  | .hview f => Sys2Proof.Machine.execHview f s
  | .rcast f => Sys2Proof.Machine.execRcast f s
  | .hold f => Sys2Proof.Machine.execHold f s
  | .rels f => Sys2Proof.Machine.execRels f s
  | .hgen f => Sys2Proof.Machine.execHgen f s
  | .taglk f => Sys2Proof.Machine.execTaglk f s
  | .tagset f => Sys2Proof.Machine.execTagset f s
  | .tagclr f => Sys2Proof.Machine.execTagclr f s
  | .tagclrK f => Sys2Proof.Machine.execTagclrK f s
  | .xsv f => Sys2Proof.Machine.execXsv f s
  | .xvs f => Sys2Proof.Machine.execXvs f s
  | .itset f => Sys2Proof.Machine.execItset f s
  | .itget f => Sys2Proof.Machine.execItget f s
  | .gjoin f => Sys2Proof.Machine.execGjoin f s
  | .gleave f => Sys2Proof.Machine.execGleave f s
  | .sync f => Sys2Proof.Machine.execSync f s
  | .fuse f => Sys2Proof.Machine.execFuse f s
  | .decpl f => Sys2Proof.Machine.execDecpl f s
  | .rejoin g => Sys2Proof.Machine.execRejoin g s
  | .wstep f => Sys2Proof.Machine.execWstep f s
  | .evadd f => Sys2Proof.Machine.execEvadd f s
  | .evarm f => Sys2Proof.Machine.execEvarm f s
  | .evarmDis f => Sys2Proof.Machine.execEvarmDis f s
  | .evwait f => Sys2Proof.Machine.execEvwait f s
  | .evrd f => Sys2Proof.Machine.execEvrd f s
  | .fence f => Sys2Proof.Machine.execFence f s
  | .xfence f => Sys2Proof.Machine.execXfence f s
  | .tis f => Sys2Proof.Machine.execTis f s
  | .tiwait f => Sys2Proof.Machine.execTiwait f s
  | .csrr f => Sys2Proof.Machine.execCsrr f s
  | .csrw f => Sys2Proof.Machine.execCsrw f s
  | .trap f => Sys2Proof.Machine.execTrap f s
  | .eret f => Sys2Proof.Machine.execEret f s
  | .brk f => Sys2Proof.Machine.execBrk f s
  | .vnop x => Sys2Proof.Machine.execVnop x s
  | .vadd x f => Sys2Proof.Machine.execVadd x f s
  | .vsub x f => Sys2Proof.Machine.execVsub x f s
  | .vmul x f => Sys2Proof.Machine.execVmul x f s
  | .vfma x f => Sys2Proof.Machine.execVfma x f s
  | .vfms x f => Sys2Proof.Machine.execVfms x f s
  | .vfnma x f => Sys2Proof.Machine.execVfnma x f s
  | .vmin x f => Sys2Proof.Machine.execVmin x f s
  | .vmax x f => Sys2Proof.Machine.execVmax x f s
  | .vabs x f => Sys2Proof.Machine.execVabs x f s
  | .vneg x f => Sys2Proof.Machine.execVneg x f s
  | .vdiv x f => Sys2Proof.Machine.execVdiv x f s
  | .vmulh x f => Sys2Proof.Machine.execVmulh x f s
  | .vsadd x f => Sys2Proof.Machine.execVsadd x f s
  | .vssub x f => Sys2Proof.Machine.execVssub x f s
  | .vand x f => Sys2Proof.Machine.execVand x f s
  | .vor x f => Sys2Proof.Machine.execVor x f s
  | .vxor x f => Sys2Proof.Machine.execVxor x f s
  | .vnot x f => Sys2Proof.Machine.execVnot x f s
  | .vshl x f => Sys2Proof.Machine.execVshl x f s
  | .vshr x f => Sys2Proof.Machine.execVshr x f s
  | .vsra x f => Sys2Proof.Machine.execVsra x f s
  | .vpopc x f => Sys2Proof.Machine.execVpopc x f s
  | .vclz x f => Sys2Proof.Machine.execVclz x f s
  | .vcmp x f => Sys2Proof.Machine.execVcmp x f s
  | .vsel x f => Sys2Proof.Machine.execVsel x f s
  | .vmand x f => Sys2Proof.Machine.execVmand x f s
  | .vmor x f => Sys2Proof.Machine.execVmor x f s
  | .vmxor x f => Sys2Proof.Machine.execVmxor x f s
  | .vmnot x f => Sys2Proof.Machine.execVmnot x f s
  | .vmcnt x f => Sys2Proof.Machine.execVmcnt x f s
  | .vcvt x f => Sys2Proof.Machine.execVcvt x f s
  | .vqnt x f => Sys2Proof.Machine.execVqnt x f s
  | .vdqn x f => Sys2Proof.Machine.execVdqn x f s
  | .vcbx x f => Sys2Proof.Machine.execVcbx x f s
  | .vcbq x f => Sys2Proof.Machine.execVcbq x f s
  | .vamax x f => Sys2Proof.Machine.execVamax x f s
  | .vmov x f => Sys2Proof.Machine.execVmov x f s
  | .vbcst x f => Sys2Proof.Machine.execVbcst x f s
  | .vperm x f => Sys2Proof.Machine.execVperm x f s
  | .vshfl x f => Sys2Proof.Machine.execVshfl x f s
  | .viota x f => Sys2Proof.Machine.execViota x f s
  | .vcmps x f => Sys2Proof.Machine.execVcmps x f s
  | .vexpd x f => Sys2Proof.Machine.execVexpd x f s
  | .vxv x f => Sys2Proof.Machine.execVxv x f s
  | .vred x f => Sys2Proof.Machine.execVred x f s
  | .vscan x f => Sys2Proof.Machine.execVscan x f s
  | .vdot x f => Sys2Proof.Machine.execVdot x f s
  | .vexp2 x f => Sys2Proof.Machine.execVexp2 x f s
  | .vlog2 x f => Sys2Proof.Machine.execVlog2 x f s
  | .vrcp x f => Sys2Proof.Machine.execVrcp x f s
  | .vrsq x f => Sys2Proof.Machine.execVrsq x f s
  | .vsqrt x f => Sys2Proof.Machine.execVsqrt x f s
  | .vsinpi x f => Sys2Proof.Machine.execVsinpi x f s
  | .vcospi x f => Sys2Proof.Machine.execVcospi x f s
  | .vtanh x f => Sys2Proof.Machine.execVtanh x f s
  | .vsigm x f => Sys2Proof.Machine.execVsigm x f s
  | .vld x f => Sys2Proof.Machine.execVld x f s
  | .vst x f => Sys2Proof.Machine.execVst x f s
  | .vgth x f => Sys2Proof.Machine.execVgth x f s
  | .vsct x f => Sys2Proof.Machine.execVsct x f s
  | .vacc x f => Sys2Proof.Machine.execVacc x f s
  | .vamo x f => Sys2Proof.Machine.execVamo x f s
  | .vapp x f => Sys2Proof.Machine.execVapp x f s
  | .mnop => Sys2Proof.Machine.execMnop s
  | .mma f => Sys2Proof.Machine.execMma f s
  | .mmag f => Sys2Proof.Machine.execMmag f s
  | .mmas f => Sys2Proof.Machine.execMmas f s
  | .mgth f => Sys2Proof.Machine.execMgth f s
  | .aclr f => Sys2Proof.Machine.execAclr f s
  | .aspl f => Sys2Proof.Machine.execAspl f s
  | .afil f => Sys2Proof.Machine.execAfil f s
  | .asw f => Sys2Proof.Machine.execAsw f s
  | .mdrn f => Sys2Proof.Machine.execMdrn f s
  | .prja f => Sys2Proof.Machine.execPrja f s
  | .mwait f => Sys2Proof.Machine.execMwait f s
  | .knop => Sys2Proof.Machine.execKnop s
  | .klds f => Sys2Proof.Machine.execKlds f s
  | .ksts f => Sys2Proof.Machine.execKsts f s
  | .kldc f => Sys2Proof.Machine.execKldc f s
  | .kmov f => Sys2Proof.Machine.execKmov f s
  | .kauto f => Sys2Proof.Machine.execKauto f s
  | .kufc f => Sys2Proof.Machine.execKufc f s
  | .itlvl f => Sys2Proof.Machine.execItlvl f s
  | .itrst f => Sys2Proof.Machine.execItrst f s
  | .itrev f => Sys2Proof.Machine.execItrev f s
  | .itstep f => Sys2Proof.Machine.execItstep f s
  | .kseed f => Sys2Proof.Machine.execKseed f s
  | .cnop x => Sys2Proof.Machine.execCnop x s
  | .copy x f => Sys2Proof.Machine.execCopy x f s
  | .cprf x f => Sys2Proof.Machine.execCprf x f s
  | .cwb x f => Sys2Proof.Machine.execCwb x f s
  | .sbind x f => Sys2Proof.Machine.execSbind x f s
  | .sadv x f => Sys2Proof.Machine.execSadv x f s
  | .swtf x f => Sys2Proof.Machine.execSwtf x f s
  | .swte x f => Sys2Proof.Machine.execSwte x f s
  | .mcast x f => Sys2Proof.Machine.execMcast x f s
  | .csend x f => Sys2Proof.Machine.execCsend x f s
  | .crecv x f => Sys2Proof.Machine.execCrecv x f s
  | .chks x f => Sys2Proof.Machine.execChks x f s
  | .cwait x f => Sys2Proof.Machine.execCwait x f s
  | .carm x f => Sys2Proof.Machine.execCarm x f s
  | .cstat x f => Sys2Proof.Machine.execCstat x f s
  | .sclose x f => Sys2Proof.Machine.execSclose x f s
  | .cdesc x f => Sys2Proof.Machine.execCdesc x f s
  | .tnop t => Sys2Proof.Machine.execTnop t s
  | .tmm t => Sys2Proof.Machine.execTmm t s
  | .tmmg t => Sys2Proof.Machine.execTmmg t s
  | .tconv t => Sys2Proof.Machine.execTconv t s
  | .tmap t => Sys2Proof.Machine.execTmap t s
  | .tred t => Sys2Proof.Machine.execTred t s
  | .tscan t => Sys2Proof.Machine.execTscan t s
  | .tcopy t => Sys2Proof.Machine.execTcopy t s
  | .tcast t => Sys2Proof.Machine.execTcast t s
  | .tprj t => Sys2Proof.Machine.execTprj t s
  | .tprja t => Sys2Proof.Machine.execTprja t s
  | .tcol t => Sys2Proof.Machine.execTcol t s
  | .tfill t => Sys2Proof.Machine.execTfill t s
  | .tevt t => Sys2Proof.Machine.execTevt t s
  | .twait t => Sys2Proof.Machine.execTwait t s
  | .tchk t => Sys2Proof.Machine.execTchk t s
  | .tstep t => Sys2Proof.Machine.execTstep t s
  | .issueBundle cores => Sys2Proof.Machine.execIssueBundle cores s
  | .moduleResetBoot => Sys2Proof.Machine.execModuleResetBoot s
  | .dieFatalFault pdies => Sys2Proof.Machine.execDieFatalFault pdies s
  | .dieSwitchInComplete pdie => Sys2Proof.Machine.execDieSwitchInComplete pdie s
  | .powerLimitExceeded => Sys2Proof.Machine.execPowerLimitExceeded s
  | .powerLimitRecovered => Sys2Proof.Machine.execPowerLimitRecovered s
  | .detClockChangeBoundary => Sys2Proof.Machine.execDetClockChangeBoundary s
  | .thermalTrip pdie => Sys2Proof.Machine.execThermalTrip pdie s
  | .thermalDieFatal pdie => Sys2Proof.Machine.execThermalDieFatal pdie s
  | .setPowerLimit watts => Sys2Proof.Machine.execSetPowerLimit watts s
  | .dieIdleEntry pdie => Sys2Proof.Machine.execDieIdleEntry pdie s
  | .dataError at_ pa => Sys2Proof.Machine.execDataError at_ pa s
  | .sqtailWrite ctx qp v => Sys2Proof.Machine.execSqtailWrite ctx qp v s
  | .cqheadWrite ctx qp v => Sys2Proof.Machine.execCqheadWrite ctx qp v s
  | .ovrClear ctx qp v => Sys2Proof.Machine.execOvrClear ctx qp v s
  | .contextCreate ctx => Sys2Proof.Machine.execContextCreate ctx s
  | .contextUpdate ctx => Sys2Proof.Machine.execContextUpdate ctx s
  | .contextDestroy ctx => Sys2Proof.Machine.execContextDestroy ctx s
  | .partitionWrite p v => Sys2Proof.Machine.execPartitionWrite p v s
  | .xinvWrite v => Sys2Proof.Machine.execXinvWrite v s
  | .xinvDone => Sys2Proof.Machine.execXinvDone s
  | .preemptSoftRequest ctx v => Sys2Proof.Machine.execPreemptSoftRequest ctx v s
  | .preemptHardRequest ctx v => Sys2Proof.Machine.execPreemptHardRequest ctx v s
  | .cxsaveWrite ctx v => Sys2Proof.Machine.execCxsaveWrite ctx v s
  | .readbackCore dst => Sys2Proof.Machine.execReadbackCore dst s
  | .readbackCluster dst => Sys2Proof.Machine.execReadbackCluster dst s
  | .readbackScheduler dst => Sys2Proof.Machine.execReadbackScheduler dst s
  | .readbackEvent dst => Sys2Proof.Machine.execReadbackEvent dst s
  | .readbackCertChain dst => Sys2Proof.Machine.execReadbackCertChain dst s
  | .readbackAttestation dst => Sys2Proof.Machine.execReadbackAttestation dst s
  | .readbackDone => Sys2Proof.Machine.execReadbackDone s
  | .debugModeWrite ctx v => Sys2Proof.Machine.execDebugModeWrite ctx v s
  | .debugHalt ctx => Sys2Proof.Machine.execDebugHalt ctx s
  | .debugResume ctx => Sys2Proof.Machine.execDebugResume ctx s
  | .owndigWrite ctx word v => Sys2Proof.Machine.execOwndigWrite ctx word v s
  | .mgmtRegisterWrite off v => Sys2Proof.Machine.execMgmtRegisterWrite off v s
  | .hostApply k => Sys2Proof.Machine.execHostApply k s
  | .hostRead pa n => Sys2Proof.Machine.execHostRead pa n s
  | .fetchEntry => Sys2Proof.Machine.execFetchEntry s
  | .handOutPiece lvl unit pool => Sys2Proof.Machine.execHandOutPiece lvl unit pool s
  | .agingTick lvl unit entry => Sys2Proof.Machine.execAgingTick lvl unit entry s
  | .steal thieves => Sys2Proof.Machine.execSteal thieves s
  | .gangAdmit quad => Sys2Proof.Machine.execGangAdmit quad s
  | .taskStart core => Sys2Proof.Machine.execTaskStart core s
  | .bankSpill core bank => Sys2Proof.Machine.execBankSpill core bank s
  | .taskRetire core => Sys2Proof.Machine.execTaskRetire core s
  | .pieceRetireMerge piece => Sys2Proof.Machine.execPieceRetireMerge piece s
  | .tileRetire ti => Sys2Proof.Machine.execTileRetire ti s
  | .completionRecordWrite ctx qp => Sys2Proof.Machine.execCompletionRecordWrite ctx qp s
  | .faultRecordReceive k => Sys2Proof.Machine.execFaultRecordReceive k s
  | .stallRelease core => Sys2Proof.Machine.execStallRelease core s
  | .watchdogExpiry core => Sys2Proof.Machine.execWatchdogExpiry core s
  | .preemptDeadlineExpiry core => Sys2Proof.Machine.execPreemptDeadlineExpiry core s
  | .hardPreemptFreeze core => Sys2Proof.Machine.execHardPreemptFreeze core s
  | .freezeRecordSave core => Sys2Proof.Machine.execFreezeRecordSave core s
  | .frozenTaskResume core => Sys2Proof.Machine.execFrozenTaskResume core s
  | .arrayOpStart core => Sys2Proof.Machine.execArrayOpStart core s
  | .arrayOpComplete core => Sys2Proof.Machine.execArrayOpComplete core s
  | .mwinModeTakeEffect cluster => Sys2Proof.Machine.execMwinModeTakeEffect cluster s
  | .l0TileStart core => Sys2Proof.Machine.execL0TileStart core s
  | .l0TileRetire core => Sys2Proof.Machine.execL0TileRetire core s
  | .storeApply core k => Sys2Proof.Machine.execStoreApply core k s
  | .loadPerform core k => Sys2Proof.Machine.execLoadPerform core k s
  | .accCombine k => Sys2Proof.Machine.execAccCombine k s
  | .pipeDeliver core head => Sys2Proof.Machine.execPipeDeliver core head s
  | .threadLineAccess cluster op line => Sys2Proof.Machine.execThreadLineAccess cluster op line s
  | .asyncMerge k => Sys2Proof.Machine.execAsyncMerge k s
  | .engineOpComplete cluster op => Sys2Proof.Machine.execEngineOpComplete cluster op s
  | .pageWalkComplete cluster ctx va => Sys2Proof.Machine.execPageWalkComplete cluster ctx va s
  | .faultServiceResolve core => Sys2Proof.Machine.execFaultServiceResolve core s
  | .faultResolvedRetry core => Sys2Proof.Machine.execFaultResolvedRetry core s
  | .recastArrival k => Sys2Proof.Machine.execRecastArrival k s
  | .recastComplete k => Sys2Proof.Machine.execRecastComplete k s
  | .eventIncrement k => Sys2Proof.Machine.execEventIncrement k s
  | .eventChainApply => Sys2Proof.Machine.execEventChainApply s
  | .syncRelease ctx line die => Sys2Proof.Machine.execSyncRelease ctx line die s
  | .rejoinRelease gang => Sys2Proof.Machine.execRejoinRelease gang s
  | .geyserTick => Sys2Proof.Machine.execGeyserTick s
  | .geyserAlignMessage count => Sys2Proof.Machine.execGeyserAlignMessage count s
  | .noProgressTimeout router vc => Sys2Proof.Machine.execNoProgressTimeout router vc s
  | .recoveryWindowEnd router => Sys2Proof.Machine.execRecoveryWindowEnd router s
  | .headerFlit port f => Sys2Proof.Machine.execHeaderFlit port f s
  | .payloadFlit port f => Sys2Proof.Machine.execPayloadFlit port f s
  | .acknowledge port f => Sys2Proof.Machine.execAcknowledge port f s
  | .retryRequest port f => Sys2Proof.Machine.execRetryRequest port f s
  | .idle port f => Sys2Proof.Machine.execIdle port f s
  | .flitCrcFail port f => Sys2Proof.Machine.execFlitCrcFail port f s
  | .portFailure port => Sys2Proof.Machine.execPortFailure port s
  | .channelTileArrive k => Sys2Proof.Machine.execChannelTileArrive k s
  | .channelTileDeliver k => Sys2Proof.Machine.execChannelTileDeliver k s
  | .scratchpadTileReady k => Sys2Proof.Machine.execScratchpadTileReady k s
  | .fabricGroupConfigure pkg routes count => Sys2Proof.Machine.execFabricGroupConfigure pkg routes count s
  | .fixedLatencyPacketRelease k => Sys2Proof.Machine.execFixedLatencyPacketRelease k s

end Sys2Proof.Machine
end

