-- ==== Sys2Proof/Machine/Moves.lean ====
section
/-!
DEFINITION. The moves that the machine may make of its own accord (R335): issue, the queues, the engine, the schedulers, the
home slices and the agents. What time, the host or the fabric brings about comes by the agenda alone (log entry 3). A move
that turns out not to be possible changes nothing (log entry 5).
-/
namespace Sys2Proof.Machine

/-- A move of the machine's own. -/
inductive Move where
  | issue (cores : List Nat)
  | release (core : Nat)
  | freeze (core : Nat)
  | saveRecord (core : Nat)
  | resume (core : Nat)
  | start (core : Nat)
  | spill (core bank : Nat)
  | retire (core : Nat)
  | steal (core : Nat)
  | arrayStart (core : Nat)
  | arrayComplete (core : Nat)
  | localStart (core : Nat)
  | localRetire (core : Nat)
  | serve (core : Nat)
  /-- the fault service pages the page of a core's fault (R98) -/
  | page (core : Nat)
  /-- the fault service of another package resolves a store to a shared page (R422) -/
  | collapse
  | retry (core : Nat)
  | store (core k : Nat)
  | load (core k : Nat)
  | pipe (core head : Nat)
  | leaf (core : Nat) (i : Instr)
  | windows (cluster : Nat)
  | walk (cluster ctx : Nat) (va : BitVec 64)
  | line (cluster op n : Nat)
  | engineDone (cluster op : Nat)
  | fetch
  | handOut (lvl unit pool : Nat)
  | merge (piece : Nat)
  | gang (quad : Nat)
  | tileDone (ti : Nat)
  | record (ctx qp : Nat)
  | fault (k : Nat)
  | recastIn (k : Nat)
  | recastDone (k : Nat)
  | increment (k : Nat)
  | combine (k : Nat)
  | async (k : Nat)
  | tileIn (k : Nat)
  | tileOut (k : Nat)
  | tileReady (k : Nat)
  | host (k : Nat)
  | chain
  | xinv
  | readback
  | round (ctx line die : Nat)
  | rejoin (gang : Nat)
  /-- a flit leaves its router (R376, R378) -/
  | network (k : Nat)
  /-- a packet of a unit of this package enters its router (R373) -/
  | traffic (k : Nat)
  deriving DecidableEq, Repr

/-- The moves of a core that holds a task, or of its queues. -/
def coreMoves (s : State) (c : Nat) : List Move :=
  let x := coreOf s c
  [.issue [c], .issue [c, if c % 2 = 0 then c + 1 else c - 1], .release c, .freeze c, .saveRecord c, .resume c, .start c, .retire c,
   .steal c, .arrayStart c, .arrayComplete c, .localStart c, .localRetire c, .serve c, .page c, .retry c]
    ++ (List.range 4).map (Move.spill c) ++ (List.range 8).map (Move.pipe c)
    ++ (List.range x.sq.length).map (Move.store c) ++ (List.range x.loads.length).map (Move.load c)

/-- The firmware leaf that a core runs. -/
def leafMoves (s : State) (c : Nat) : List Move :=
  match (coreOf s c).task with
  | some t => match (pieceOf s t.piece).bind fun p => tileOf s p.tile with
    | some i => ((decodeTile i.tile).map (Move.leaf c)).toList
    | none => []
  | none => []

/-- The moves of a cluster: its engine, a pending window mode, and a page walk at a free address. -/
def clusterMoves (s : State) (k : Nat) : List Move :=
  .windows k :: .walk k (ctxOfCore s (2 * k)) (Config.freeWord s.free)
    :: (clusterOf s k).engine.flatMap fun o =>
      .engineDone k o.id :: (List.range (o.src.length + o.dst.length)).map (Move.line k o.id)

/-- The moves of the schedulers. -/
def schedMoves (s : State) : List Move :=
  .fetch
    :: (s.pieces.flatMap fun p =>
      [.handOut p.level p.unit ((tileOf s p.tile).map (·.pool) |>.getD 0), .merge p.id, .gang p.unit, .start p.unit])
    ++ (s.tiles.flatMap fun i => .tileDone i.id :: ((decodeTile i.tile).map (Move.leaf 0)).toList)
    ++ (s.cqes.map fun e => .record e.ctx e.qp) ++ (List.range s.faults.length).map Move.fault
    ++ s.frozen.flatMap fun z => .resume z.core :: (List.range 8).map fun h => .pipe z.core (8 * (z.task.ctx + 1) + h)

/-- The moves of home slices, agents and waits between cores. -/
def agentMoves (s : State) : List Move :=
  (List.range s.recastReqs.length).map Move.recastIn ++ (List.range s.recasts.length).map Move.recastDone
    ++ (List.range (s.incs.length + 1)).map Move.increment ++ (List.range s.bags.length).map Move.combine
    ++ (List.range s.async.length).map Move.async ++ (List.range s.chanTiles.length).map Move.tileIn
    ++ (List.range s.chanTiles.length).map Move.tileOut ++ (List.range s.readyTiles.length).map Move.tileReady
    ++ (List.range s.hostBuf.length).map Move.host ++ [.chain, .xinv, .readback, .collapse]
    ++ (s.groups.map fun g => .round g.ctx g.line g.die) ++ (s.gangs.map fun g => .rejoin g.id)
    ++ (List.range (s.vcs.length + s.escape.length)).map Move.network
    ++ (List.range (traffic s).length).map Move.traffic

/-- Every move that the machine may make. -/
def moves (s : State) : List Move :=
  (s.cores.flatMap fun q => coreMoves s q.1 ++ leafMoves s q.1) ++ (s.clusters.flatMap fun q => clusterMoves s q.1)
    ++ schedMoves s ++ agentMoves s

/-- The core in whose name a move is made. -/
def moverOf : Move → Nat
  | .leaf c _ => c
  | _ => 0

/-- A free choice among the moves, with the state in which it is made. -/
def nextMove (s : State) : Option (Move × State) :=
  let ms := moves s
  (ms[Config.freeChoice s.free % max 1 ms.length]?).map fun m => (m, { s with free := s.free + 1, cur := moverOf m })

/-! ## Placing one instruction where the machine fetches next -/

/-- The address, virtual and physical, at which an instruction is placed. -/
def placePa : Nat := 0x10000

/-- The slot that a word of the opcode table goes to, as `decodeTableWord` reads it, and its bytes. -/
def placeSlot (nbits w : Nat) : Nat × Nat :=
  if nbits ≤ 32 then (if (firstOk [decodeS (BitVec.ofNat 32 w)]).isSome then 0 else 4, 4)
  else if (firstOk [decodeV .va (BitVec.ofNat 64 w)]).isSome then (1, 8)
  else if (firstOk [decodeM (BitVec.ofNat 64 w)]).isSome then (3, 8)
  else (5, 8)

/-- The bundle that holds one word alone, quiet: its header and the word (R161, R162). -/
def placeBundle (nbits w : Nat) : List (BitVec 8) :=
  let q := placeSlot nbits w
  let h : Header := ⟨BitVec.ofNat 4 (q.2 / 4), 0, true, false, false, 0, 0, BitVec.ofNat 7 (2 ^ q.1)⟩
  toBytes 4 (encodeHeader h).toNat ++ toBytes q.2 w

/-- The task of a core that runs placed code. -/
def placeTask (n : Nat) : Task := ⟨0, 0, 0, 1, 0, 0, false, false, ⟨placePa, n⟩, 0, none, false, false, false⟩

/-- A slot operation placed in a bundle of its own, which core 0 issues in the next step: the code stands in an IMM page, and
the core runs a task on it. -/
def placeSlotWord (s : State) (nbits w : Nat) : State :=
  let bs := placeBundle nbits w
  let page : Xlat := ⟨placePa, 2 ^ 16, placePa, s.pkg.toNat, 0, 0, 0, 0, 0, 0⟩
  let s := setMem s (memPut s.mem (memKey s.pkg.toNat placePa) bs)
  let s := modCluster s 0 fun k => { k with tlb := ⟨0, page⟩ :: k.tlb, spCtx := some 0 }
  let s := modCore s 0 fun x =>
    { x with mode := .running, task := some (placeTask bs.length), pc := BitVec.ofNat 64 placePa, repidx := 0, shadow := none
             syncWait := none, rejoinWait := false, hard := false, skipS := false, waiting := none }
  { s with agenda := [.issueBundle [0]], cur := 0, bootok := true }

/-- A tile instruction placed in the submission ring of queue pair 0 of context 0, which the package fetches in the next step. -/
def placeTile (s : State) (w : Nat) : State :=
  let s := setMem s (memPut s.mem (memKey s.pkg.toNat placePa) (toBytes 64 w))
  let s := modCtx s 0 fun y => { y with state := 1, rec_ := BitVec.ofNat 1024 (setBits y.rec_.toNat 606 600 1) }
  let s := modQp s 0 0 fun q => { q with sqbase := placePa, sqlog := 4, en := true, ovr := false, rpart := false, sqhead := 0, sqtail := 1 }
  { s with agenda := [.fetchEntry], rr := 0, bootok := true }

end Sys2Proof.Machine
end

