-- ==== Sys2Proof/Machine/Step.lean ====
section
/-!
DEFINITION. One step of the module, and the state that fetches a given instruction next.
-/
namespace Sys2Proof.Machine

/-- A move is the event of its name; a leaf is the meaning of its tile instruction. -/
def runMove (m : Move) (s : State) : Host.Outcome State Fault Refusal :=
  match m with
  | .issue cs => execIssueBundle cs s
  | .release c => execStallRelease c s
  | .freeze c => execHardPreemptFreeze c s
  | .saveRecord c => execFreezeRecordSave c s
  | .resume c => execFrozenTaskResume c s
  | .start c => execTaskStart c s
  | .spill c b => execBankSpill c b s
  | .retire c => execTaskRetire c s
  | .steal c => execSteal [c] s
  | .arrayStart c => execArrayOpStart c s
  | .arrayComplete c => execArrayOpComplete c s
  | .localStart c => execL0TileStart c s
  | .localRetire c => execL0TileRetire c s
  | .serve c => execFaultServiceResolve c s
  | .page c => execFaultServiceResolve (1024 + c) s
  | .collapse => execFaultServiceResolve 512 s
  | .retry c => execFaultResolvedRetry c s
  | .store c k => execStoreApply c k s
  | .load c k => execLoadPerform c k s
  | .pipe c h => execPipeDeliver c h s
  | .leaf _ i => exec i s
  | .windows k => execMwinModeTakeEffect k s
  | .walk k ctx va => execPageWalkComplete k ctx va s
  | .line k op n => execThreadLineAccess k op n s
  | .engineDone k op => execEngineOpComplete k op s
  | .fetch => execFetchEntry s
  | .handOut l u p => execHandOutPiece l u p s
  | .merge p => execPieceRetireMerge p s
  | .gang q => execGangAdmit q s
  | .tileDone ti => execTileRetire ti s
  | .record ctx qp => execCompletionRecordWrite ctx qp s
  | .fault k => execFaultRecordReceive k s
  | .recastIn k => execRecastArrival k s
  | .recastDone k => execRecastComplete k s
  | .increment k => execEventIncrement k s
  | .combine k => execAccCombine k s
  | .async k => execAsyncMerge k s
  | .tileIn k => execChannelTileArrive k s
  | .tileOut k => execChannelTileDeliver k s
  | .tileReady k => execScratchpadTileReady k s
  | .host k => execHostApply k s
  | .chain => execEventChainApply s
  | .xinv => execXinvDone s
  | .readback => execReadbackDone s
  | .round ctx l d => execSyncRelease ctx l d s
  | .rejoin g => execRejoinRelease g s
  | .network k => .next (netGo s k)
  | .traffic k => .next (sendPacket s k)

/-- One step (R335): the next event of the agenda, or a move of the machine's own; a machine without any stays as it is. -/
def step (s : State) : Host.Outcome State Fault Refusal :=
  match s.agenda with
  | i :: r => exec i { s with agenda := r }
  | [] => match nextMove s with
    | some q => runMove q.1 q.2
    | none => .next s

/-- The state whose next step fetches and runs the instruction with these bits (log entry 11). -/
def State.withFetchWord (s : State) (nbits w : Nat) : State :=
  if nbits ≤ 64 then placeSlotWord s nbits w else placeTile s w

end Sys2Proof.Machine
end

