-- ==== Sys2Proof/Safety.lean ====
section
/-!
DEFINITION. The terms in which statements about the model are made: canonical memory, reading an instruction back from its
words, and when and how one operation issues alone.
-/
namespace Sys2Proof.Machine

/-! ## Canonical form -/

/-- Memory and every scratchpad are in canonical form. -/
def memOk (s : State) : Bool := Memory.wf s.mem && s.clusters.all fun q => Memory.wf q.2.sp

/-! ## Words -/

/-- A tile instruction (R104). -/
def isTileOp (i : Instr) : Bool :=
  match i with
  | .tnop _ | .tmm _ | .tmmg _ | .tconv _ | .tmap _ | .tred _ | .tscan _ | .tcopy _ | .tcast _ | .tprj _ | .tprja _
  | .tcol _ | .tfill _ | .tevt _ | .twait _ | .tchk _ | .tstep _ => true
  | _ => false

/-- The bits of an instruction: the words of its slot (R162), 64 bytes of a tile instruction (R99), none of an event. -/
def wordBits (i : Instr) : Nat :=
  match slotOf i with
  | some k => 32 * slotWords k
  | none => if isTileOp i then 512 else 0

/-- The bits of a code. -/
def codeBitCount : Code → Nat
  | .none => 0
  | .w32 _ => 32
  | .w64 _ => 64
  | .w512 _ => 512

/-- The instruction that the decoder of its slot, or of tile instructions, reads from its words. -/
def reread (i : Instr) : Option Instr :=
  match encode i, slotOf i with
  | .w32 w, some k => (decodeSlot k w 0#32).toOption
  | .w64 w, some k => (decodeSlot k (w.extractLsb' 0 32) (w.extractLsb' 32 32)).toOption
  | .w512 w, none => decodeTile (tileOfBits w)
  | _, _ => none

/-- What the boot left, and the fuses, stand as before (R433, R434). -/
abbrev SameBoot (t s : State) : Prop :=
  t.fuses = s.fuses ∧ t.bootok = s.bootok ∧ t.booterr = s.booterr ∧ t.sec = s.sec ∧ t.meas = s.meas

/-! ## One operation that issues alone (R161, R166, R167) -/

/-- The state in which the operations of the current core act: its results due have landed (R175). -/
def landed (s : State) : State := landNow s s.cur

/-- The bundle of one operation alone on the current core. -/
def siteOf (s : State) (i : Instr) : Site := soloSite (coreOf s s.cur) ((slotOf i).getD 0)

/-- The current core issues this operation alone: it runs in step with no other core, nothing holds the core or the operation
back (R176), and no ERET.skip gates it off (R224). -/
def mayIssue (s : State) (i : Instr) : Bool :=
  decide (lockstep s s.cur = [s.cur]) && issuing s s.cur && !interlock (landed s) s.cur i
    && !((coreOf (landed s) s.cur).skipS && decide (slotOf i = some 0))

/-- It does, and its gate is open (R166). -/
def issues (s : State) (i : Instr) : Bool := mayIssue s i && gateOpen (coreOf (landed s) s.cur) (guardOf i)

/-- The state after the repetition and the bundle of one operation that left `t` and `e` (R167). -/
def issued (s : State) (i : Instr) (t : State) (e : Effects) : State :=
  let c := s.cur
  let slot := (slotOf i).getD 0
  let at_ := siteOf s i
  let e := (baseEffects i at_).add e
  let t := modCore t c fun x => { x with held := x.held.setIfInBounds slot i }
  let t := finishRep t c e []
  finishBundle (closeWait t (joinLines (applySps t e.sp) c e.joins) c e) c at_ e [(slot, i)] false false

/-- The state in which the bundle of one operation has begun: the operation is held in its slot (R167). -/
def holding (s : State) (i : Instr) : State := begun ((slotOf i).getD 0) i [s.cur] s

/-- The state after the trap of an operation that issues alone: its bundle has begun, and nothing of its repetition has issued
(R401). -/
def trapped (s : State) (i : Instr) (t : Trap) : State := takeTrap (holding s i) s.cur t

/-- The state of a core that waits in an operation that issues alone; `f` is what the wait leaves behind (R176, R177). -/
def waited (s : State) (i : Instr) (f : State → State) : State := stalled (f (holding s i)) s.cur ((slotOf i).getD 0) i

/-! ## What an operation does when it issues alone -/

/-- The current core as the operation that issues sees it. -/
abbrev actor (s : State) : Core := coreOf (landed s) s.cur

/-- Wherever the operation issues alone under a condition on the state it sees and its core, the next state is the end of its
bundle over a given state, with given effects. -/
def Does (i : Instr) (p : State → Nat → Prop) (t : State → Nat → State) (e : State → Nat → Effects) : Prop :=
  ∀ s, issues s i = true → p (landed s) s.cur →
    exec i s = .next (issued s i (t (landed s) s.cur) (e (landed s) s.cur))

/-- It does so without effects at the end of its repetition or bundle. -/
def Leaves (i : Instr) (p : State → Nat → Prop) (t : State → Nat → State) : Prop := Does i p t fun _ _ => .none

/-- Wherever it issues, it does nothing but its end of bundle. -/
def DoesNothing (i : Instr) : Prop := Leaves i (fun _ _ => True) fun u _ => u

/-- Wherever it issues, an S result of a latency, and nothing else. -/
def SResult (i : Instr) (d : BitVec 5) (lat : Nat) (v : Core → Word) : Prop :=
  Leaves i (fun _ _ => True) fun u c => setS u c 0 lat d.toNat (v (coreOf u c))

/-- Wherever it issues, a predicate result of latency 1 for the predicate of the low 3 bits of a field, and nothing else. -/
def PResult (i : Instr) (d : BitVec 5) (v : Core → Bool) : Prop :=
  Leaves i (fun _ _ => True) fun u c => setP u c 0 1 (d.toNat % 8) (v (coreOf u c))

/-- Wherever it issues with its stream head, if it reads one, ready: a result given by its elements, and nothing else. -/
def OnElements (i : Instr) (x : VSlot) (f : VF) (t : State → Nat → Elems → State) : Prop :=
  ∀ s e, issues s i = true → vElems (landed s) s.cur x f = .ok (some e) →
    exec i s = .next (issued s i (t (landed s) s.cur e) .none)

/-- An elementwise result: bits and flags of each active element, landing after a latency. -/
def PerElement (i : Instr) (x : VSlot) (f : VF) (lat : Nat) (op : Core → Elems → Nat → Nat × Nat) : Prop :=
  OnElements i x f fun u c e =>
    vWrite u c x lat f.d.toNat (vE f) (vW f) ((actives e.m e.n).map fun j => (j, op (coreOf u c) e j))

/-- An elementwise result that raises no flag. -/
def BitsPerElement (i : Instr) (x : VSlot) (f : VF) (lat : Nat) (op : Elems → Nat → Nat) : Prop :=
  PerElement i x f lat fun _ e j => (op e j, 0)

/-- n bytes at an address stand aligned inside the scratchpad (R172, R206). -/
def spReach (va n : Nat) : Prop := isSp va = true ∧ spBounds va n = true ∧ va % n = 0

/-- Wherever it issues under a condition, the trap is taken. -/
def Traps (i : Instr) (p : State → Nat → Prop) (t : State → Nat → Trap) : Prop :=
  ∀ s, issues s i = true → p (landed s) s.cur → exec i s = .next (trapped s i (t (landed s) s.cur))

/-- Wherever it issues under a condition, the core waits in it; `f` is what the wait leaves behind. -/
def Waits (i : Instr) (p : State → Nat → Prop) (f : State → State) : Prop :=
  ∀ s, issues s i = true → p (landed s) s.cur → exec i s = .next (waited s i f)

end Sys2Proof.Machine
end

