-- ==== Sys2Proof/Certificates/Slice0/Obligations.lean ====
section
/-!
DEFINITION. The statements of slice 0 for the provers: encodings and fetch, what each instruction does when it completes, where
it traps or waits, frames, invariants, and what the numbered rules say of the parts.
-/
section

open Sys2Proof Sys2Proof.Machine

/-! ## Encodings, fetch and decode -/

/-- Words written from the spec's encodings (R161, R178 to R182, R196, R205, R99) decode to what they stand for. The S words
and the header are those of the worked example of R205. -/
def Obligations.DecodesSampleWords : Prop :=
  let g : Guard := ⟨0, false⟩
  header 0x1000_0001 = ⟨1, 0, false, false, false, 0, 0, 1⟩
    ∧ decodeS 0x3E0B_0004 = .ok (.li ⟨g, 11, 4⟩)
    ∧ decodeS 0xF20B_0008 = .ok (.csrw ⟨g, 11, 0, 8⟩)
    ∧ decodeS 0x020C_62C0 = .ok (.add ⟨g, 12, 12, 11, 0⟩)
    ∧ decodeS 0x300B_5FFF = .ok (.addi ⟨g, 11, 11, 0x7FF⟩)
    ∧ decodeS 0x681F_FFFC = .ok (.loop ⟨g, 0x1F_FFFC⟩)
    ∧ decodeS 0x6C00_0000 = .ok (.exit g)
    ∧ decodeV .va (0x01#8 ++ 5#3 ++ 1#1 ++ 1#2 ++ 7#4 ++ 0#4 ++ 2#3 ++ 6#3 ++ 3#4 ++ 1#4 ++ 2#4 ++ 0#4 ++ 0#3 ++ 0#3 ++ 0#14)
        = .ok (.vadd .va ⟨⟨5, true⟩, 1, 7, 0, 2, 6, 3, 1, 2, 0, 0, 0, 0⟩)
    ∧ decodeM (0x08#6 ++ 2#3 ++ 0#1 ++ 0#4 ++ 0#4 ++ 0#2 ++ 0#4 ++ 0#4 ++ 0#6 ++ 0#3 ++ 0#27)
        = .ok (.asw ⟨⟨2, false⟩, 0, 0, 0, 0, 0, 0, 0, 0⟩)
    ∧ decodeK (0x0B#5 ++ 0#3 ++ 0#1 ++ 9#4 ++ 0#4 ++ 0#15) = .ok (.itstep ⟨g, 9, 0, 0⟩)
    ∧ decodeC .cb (0x01#6 ++ 0#3 ++ 0#1 ++ 6#4 ++ 0#4 ++ 0#8 ++ 0#38) = .ok (.copy .cb ⟨g, 6, 0, 0, 0⟩)
    ∧ (let t : Tile := ⟨0x1234_5678#32 ++ 0#5 ++ 0#4 ++ 3#6 ++ 0#1 ++ 0#1 ++ 0#1 ++ 0#1 ++ 2#2 ++ 5#3 ++ 13#8, 7#32 ++ 0#16 ++ 9#16,
        0, 0, 0, 0, 0, 0⟩
      decodeTile t = some (.tevt t))

/-- The encoder writes each well-formed operation with a word into its width of the table, and the decoder of its slot reads
the same operation back, whatever its operands: no bit of an encoding is dropped. -/
def Obligations.EncodeDecodeAgree : Prop :=
  ∀ i : Instr, i.wellFormed = true → codeBitCount (encode i) = wordBits i ∧ (wordBits i ≠ 0 → reread i = some i)

/-- A header written from its fields reads back, and so does a header word (R161). Words that decode refuses (R6, R183 to
R189). A word whose opcode its slot's map leaves unassigned, or 0x7F of the S slot, is refused under check 5; a word is
accepted only as a well-formed operation whose encoding is that very word, and its reserved and unused fields are zero: all
fields of the NOPs, of RET, EXIT, YIELD and REJOIN, `fn` of the two-source S operations, and of a vector word `width` 3, `rm`
7, `hsub` 4 and up, and `head` without `hsub`. A bundle of one slot with a refused word fails its decode with cause 0x02 and
the slot as `TDETAIL`, and a bundle with `CLASS` 2 or 3 with 7. -/
def Obligations.HeadersReadBackAndBadWordsRefused : Prop :=
  ((∀ h : Header, header (encodeHeader h) = h) ∧ ∀ w : BitVec 32, encodeHeader (header w) = w)
    ∧ (((∀ w : BitVec 32, (w.extractLsb' 25 7).toNat ∈ [0x23, 0x2B, 0x2C, 0x2D, 0x2E, 0x2F, 0x38, 0x39, 0x3A, 0x3B, 0x3C, 0x3D, 0x3E, 0x3F,
               0x47, 0x48, 0x49, 0x4A, 0x4B, 0x4C, 0x4D, 0x4E, 0x4F, 0x56, 0x57, 0x5B, 0x67, 0x6E, 0x6F, 0x72, 0x73, 0x74, 0x75, 0x76, 0x77, 0x7D,
               0x7E, 0x7F] → decodeS w = .error .unassigned)
           ∧ (∀ (x : VSlot) (w : BitVec 64),
               let op := (w.extractLsb' 56 8).toNat
               (op = 0x0F ∨ 0x19 ≤ op ∧ op ≤ 0x1F ∨ 0x27 ≤ op ∧ op ≤ 0x2F ∨ 0x36 ≤ op ∧ op ≤ 0x3F ∨ 0x48 ≤ op ∧ op ≤ 0x4F
                 ∨ 0x53 ≤ op ∧ op ≤ 0x5F ∨ 0x69 ≤ op ∧ op ≤ 0x6F ∨ 0x77 ≤ op) → decodeV x w = .error .unassigned)
           ∧ (∀ w : BitVec 64, 0x0C ≤ (w.extractLsb' 58 6).toNat → decodeM w = .error .unassigned)
           ∧ (∀ w : BitVec 32, ((w.extractLsb' 27 5).toNat = 6 ∨ 0x0D ≤ (w.extractLsb' 27 5).toNat) → decodeK w = .error .unassigned)
           ∧ ∀ (x : CSlot) (w : BitVec 64), 0x11 ≤ (w.extractLsb' 58 6).toNat → decodeC x w = .error .unassigned)
         ∧ ((∀ w i, decodeS w = .ok i → i.wellFormed = true ∧ encode i = .w32 w)
           ∧ (∀ x w i, decodeV x w = .ok i → i.wellFormed = true ∧ encode i = .w64 w)
           ∧ (∀ w i, decodeM w = .ok i → i.wellFormed = true ∧ encode i = .w64 w)
           ∧ (∀ w i, decodeK w = .ok i → i.wellFormed = true ∧ encode i = .w32 w)
           ∧ ∀ x w i, decodeC x w = .ok i → i.wellFormed = true ∧ encode i = .w64 w)
         ∧ ((∀ w i, decodeS w = .ok i →
               let op := (w.extractLsb' 25 7).toNat
               (op = 0 → w = 0)
                 ∧ (op ∈ [0x33, 0x36, 0x37, 0x65] → w.extractLsb' 0 21 = 0)
                 ∧ (1 ≤ op → op ≤ 0x15 → w.extractLsb' 0 6 = 0))
           ∧ (∀ x w i, decodeV x w = .ok i → ((w.extractLsb' 56 8).toNat = 0 → w = 0)
               ∧ w.extractLsb' 50 2 ≠ 3 ∧ w.extractLsb' 39 3 ≠ 7 ∧ (w.extractLsb' 17 3).toNat < 4
               ∧ (w.extractLsb' 17 3 = 0 → w.extractLsb' 14 3 = 0))
           ∧ (∀ w i, decodeM w = .ok i → (w.extractLsb' 58 6).toNat = 0 → w = 0)
           ∧ (∀ w i, decodeK w = .ok i → (w.extractLsb' 27 5).toNat = 0 → w = 0)
           ∧ ∀ x w i, decodeC x w = .ok i → (w.extractLsb' 58 6).toNat = 0 → w = 0)
         ∧ ∀ (s : State) (c k v w : Nat) (h : Header) (e : DecodeErr),
           let x := coreOf s c
           x.pc.toNat % 4 = 0 → codeNum s c x.pc.toNat (codeRegion x) x.pc.toNat 4 = .ok v → v = (encodeHeader h).toNat →
           codeNum s c x.pc.toNat (codeRegion x) (x.pc.toNat + 4) (4 * h.len.toNat) = .ok w → h.len.toNat = presWords h.pres →
             (2 ≤ h.cls.toNat → fetchBundle s c = .error ⟨0x02, x.pc.toNat, 7, false, false⟩)
               ∧ (h.cls.toNat < 2 → k < 7 → h.pres = BitVec.ofNat 7 (2 ^ k) →
                 decodeSlot k (BitVec.ofNat 32 w) (BitVec.ofNat 32 (if slotWords k = 1 then 0 else w / 2 ^ 32)) = .error e →
                 (k ≤ 3 ∨ walkClash ((issueMix x ⟨h, []⟩).map (·.2)) = false) →
                   fetchBundle s c = .error ⟨0x02, x.pc.toNat, k, false, false⟩))

/-- A fetch reads the bundle that its bytes encode (R160, R162, R189): where a core's code bytes are the header of a quiet
bundle of one slot and the word of a well-formed operation of that slot, the bundle fetched holds exactly it. -/
def Obligations.FetchReadsEncodedBundle : Prop :=
  ∀ (s : State) (c k v w : Nat) (h : Header) (i : Instr),
    let x := coreOf s c
    let word (n : Nat) : Prop := match encode i with
      | .w32 u => n = u.toNat
      | .w64 u => n = u.toNat
      | _ => False
    i.wellFormed = true → slotOf i = some k → x.pc.toNat % 4 = 0 →
      h.pres = BitVec.ofNat 7 (2 ^ k) → h.len.toNat = slotWords k → h.cls = 0 → h.q = true →
      (∀ g f, i ≠ .fuse g ∧ i ≠ .decpl g ∧ i ≠ .rejoin f) → walkClash [i] = false → laneBits i ≤ 1024 →
      codeNum s c x.pc.toNat (codeRegion x) x.pc.toNat 4 = .ok v → v = (encodeHeader h).toNat →
      codeNum s c x.pc.toNat (codeRegion x) (x.pc.toNat + 4) (4 * slotWords k) = .ok w → word w →
        ∃ b, fetchBundle s c = .ok b ∧ b.hdr = h ∧ b.ops = [(k, i)]

/-- A step runs what stands next. An event of the agenda is carried out; an issue of a core whose bytes decode to a quiet
bundle of one operation runs exactly that operation (R167), as it issues alone, and the cycle then lets array operations access
lines (R279) and fails accesses to packages that no route reaches (R380). With nothing on the agenda, one of the moves that the
machine may make is made, a free choice (log entry 3), and a leaf among them runs its tile instruction. -/
def Obligations.StepRunsWhatIsDecoded : Prop :=
  ∀ (s : State) (r : List Instr) (i : Instr),
    (s.agenda = i :: r → step s = exec i { s with agenda := r })
      ∧ (∀ b k, s.agenda = .issueBundle [s.cur] :: r →
        let u := { s with agenda := r }
        s.cur < 512 → lockstep u s.cur = [s.cur] → slotOf i = some k → fetchBundle u s.cur = .ok b → b.ops = [(k, i)] →
        b.hdr.len.toNat = slotWords k → b.hdr.q = true → b.hdr.rep = 0 → b.hdr.pop = 0 → b.hdr.rot = false → b.hdr.sp = false →
        b.hdr.cls.toNat ≠ 1 → (coreOf u s.cur).gskew = 0 → (coreOf u s.cur).follow = [] →
          ∃ v, exec i u = .next v ∧ step s = .next (failAccesses (touchArrays v)))
      ∧ (s.agenda = [] → ∃ m ∈ moves s, step s = runMove m { s with free := s.free + 1, cur := moverOf m })
      ∧ (∀ c u, runMove (.leaf c i) u = exec i u)

/-! ## Scalar operations -/

/-- Arithmetic, logic and order of the S slot (R197), with the latencies of R175: 1, and 3 for products. Shifts by a register,
counts and extensions (R197). Immediate forms and the LIH forms (R197). -/
def Obligations.ScalarOperationsComplete : Prop :=
  (∀ f : SRR,
     SResult (.add f) f.d 1 (fun x => sA x f + sB x f)
       ∧ SResult (.sub f) f.d 1 (fun x => sA x f - sB x f)
       ∧ SResult (.mul f) f.d 3 (fun x => BitVec.ofNat 64 ((sA x f).toNat * (sB x f).toNat))
       ∧ SResult (.mulh f) f.d 3 (fun x => (((sA x f).signExtend 128) * ((sB x f).signExtend 128)).extractLsb' 64 64)
       ∧ SResult (.mulhn f) f.d 3 (fun x => (((sA x f).zeroExtend 128) * ((sB x f).zeroExtend 128)).extractLsb' 64 64)
       ∧ SResult (.and f) f.d 1 (fun x => sA x f &&& sB x f)
       ∧ SResult (.or f) f.d 1 (fun x => sA x f ||| sB x f)
       ∧ SResult (.xor f) f.d 1 (fun x => sA x f ^^^ sB x f)
       ∧ SResult (.min f) f.d 1 (fun x => BitVec.ofInt 64 (min (sA x f).toInt (sB x f).toInt))
       ∧ SResult (.max f) f.d 1 (fun x => BitVec.ofInt 64 (max (sA x f).toInt (sB x f).toInt))
       ∧ SResult (.minn f) f.d 1 (fun x => BitVec.ofNat 64 (min (sA x f).toNat (sB x f).toNat))
       ∧ SResult (.maxn f) f.d 1 (fun x => BitVec.ofNat 64 (max (sA x f).toNat (sB x f).toNat)))
    ∧ (∀ f : SRR,
         SResult (.shl f) f.d 1 (fun x => sA x f <<< ((sB x f).toNat % 64))
           ∧ SResult (.shr f) f.d 1 (fun x => sA x f >>> ((sB x f).toNat % 64))
           ∧ SResult (.sra f) f.d 1 (fun x => BitVec.ofInt 64 ((sA x f).toInt / 2 ^ ((sB x f).toNat % 64)))
           ∧ SResult (.clz f) f.d 1
               (fun x => BitVec.ofNat 64 ((List.range 64).takeWhile fun j => !(sA x f).getLsbD (63 - j)).length)
           ∧ SResult (.popc f) f.d 1 (fun x => BitVec.ofNat 64 ((List.range 64).filter fun j => (sA x f).getLsbD j).length)
           ∧ (bitsOf f.fn 1 0 = 0 → SResult (.sext f) f.d 1 (fun x => ((sA x f).setWidth 8).signExtend 64)
               ∧ SResult (.zext f) f.d 1 (fun x => ((sA x f).setWidth 8).setWidth 64))
           ∧ (bitsOf f.fn 1 0 = 1 → SResult (.sext f) f.d 1 (fun x => ((sA x f).setWidth 16).signExtend 64)
               ∧ SResult (.zext f) f.d 1 (fun x => ((sA x f).setWidth 16).setWidth 64))
           ∧ (bitsOf f.fn 1 0 = 2 → SResult (.sext f) f.d 1 (fun x => ((sA x f).setWidth 32).signExtend 64)
               ∧ SResult (.zext f) f.d 1 (fun x => ((sA x f).setWidth 32).setWidth 64)))
    ∧ ((∀ f : SRI,
         SResult (.addi f) f.d 1 (fun x => rdS x f.a.toNat + f.imm.signExtend 64)
           ∧ SResult (.andi f) f.d 1 (fun x => rdS x f.a.toNat &&& f.imm.signExtend 64)
           ∧ SResult (.ori f) f.d 1 (fun x => rdS x f.a.toNat ||| f.imm.signExtend 64)
           ∧ SResult (.xori f) f.d 1 (fun x => rdS x f.a.toNat ^^^ f.imm.signExtend 64)
           ∧ SResult (.shli f) f.d 1 (fun x => rdS x f.a.toNat <<< (f.imm.toNat % 64))
           ∧ SResult (.shri f) f.d 1 (fun x => rdS x f.a.toNat >>> (f.imm.toNat % 64))
           ∧ SResult (.srai f) f.d 1 (fun x => BitVec.ofInt 64 ((rdS x f.a.toNat).toInt / 2 ^ (f.imm.toNat % 64))))
         ∧ ∀ f : SI16,
           SResult (.li f) f.d 1 (fun _ => f.imm.signExtend 64)
             ∧ SResult (.lih16 f) f.d 1 (fun x =>
                 (rdS x f.d.toNat).extractLsb' 32 32 ++ f.imm ++ (rdS x f.d.toNat).extractLsb' 0 16)
             ∧ SResult (.lih32 f) f.d 1 (fun x =>
                 (rdS x f.d.toNat).extractLsb' 48 16 ++ f.imm ++ (rdS x f.d.toNat).extractLsb' 0 32)
             ∧ SResult (.lih48 f) f.d 1 (fun x => f.imm ++ (rdS x f.d.toNat).extractLsb' 0 48))

/-- Division truncates toward zero, with the two special cases of R198, and nothing traps; the latency is 18 (R175). -/
def Obligations.DivisionFollowsItsTable : Prop :=
  ∀ f : SRR,
    (∃ q r : Core → Word,
      (∀ x,
        (sB x f = 0 → q x = BitVec.allOnes 64 ∧ r x = sA x f)
          ∧ (sA x f = BitVec.intMin 64 → sB x f = BitVec.allOnes 64 → q x = BitVec.intMin 64 ∧ r x = 0)
          ∧ (sB x f ≠ 0 → ¬(sA x f = BitVec.intMin 64 ∧ sB x f = BitVec.allOnes 64) →
              (q x).toInt = (sA x f).toInt.tdiv (sB x f).toInt
                ∧ (r x).toInt = (sA x f).toInt - (q x).toInt * (sB x f).toInt))
        ∧ SResult (.div f) f.d 18 q ∧ SResult (.mod f) f.d 18 r)
      ∧ ∃ q r : Core → Word,
        (∀ x,
          (sB x f = 0 → q x = BitVec.allOnes 64 ∧ r x = sA x f)
            ∧ (sB x f ≠ 0 → (q x).toNat = (sA x f).toNat / (sB x f).toNat ∧ (r x).toNat = (sA x f).toNat % (sB x f).toNat))
          ∧ SResult (.divn f) f.d 18 q ∧ SResult (.modn f) f.d 18 r

/-- CMP and CMPI write one predicate by their condition (R199). -/
def Obligations.ComparesWriteOnePredicate : Prop :=
  (∀ f : SRR, f.fn.toNat < 6 →
    PResult (.cmp f) f.d fun x =>
      if f.fn = 0 then sA x f == sB x f else if f.fn = 1 then sA x f != sB x f
      else if f.fn = 2 then decide ((sA x f).toInt < (sB x f).toInt) else if f.fn = 3 then decide ((sB x f).toInt ≤ (sA x f).toInt)
      else if f.fn = 4 then decide ((sA x f).toNat < (sB x f).toNat) else decide ((sB x f).toNat ≤ (sA x f).toNat))
    ∧ ∀ f : SRI,
      PResult (.cmpi f) f.d fun x =>
        let v := rdS x f.a.toNat
        let w : Word := f.imm.signExtend 64
        if bitsOf f.d 4 3 = 0 then v == w else if bitsOf f.d 4 3 = 1 then v != w
        else if bitsOf f.d 4 3 = 2 then decide (v.toInt < w.toInt) else decide (w.toInt ≤ v.toInt)

/-- The predicate operations and SEL (R200), each of latency 1. -/
def Obligations.PredicateOperationsComplete : Prop :=
  ∀ f : SRR,
    PResult (.pand f) f.d (fun x => (rdP x (f.a.toNat % 8) ^^ bitOf f.fn 0) && (rdP x (f.b.toNat % 8) ^^ bitOf f.fn 1))
      ∧ PResult (.por f) f.d (fun x => (rdP x (f.a.toNat % 8) ^^ bitOf f.fn 0) || (rdP x (f.b.toNat % 8) ^^ bitOf f.fn 1))
      ∧ PResult (.pxor f) f.d (fun x => (rdP x (f.a.toNat % 8) ^^ bitOf f.fn 0) ^^ (rdP x (f.b.toNat % 8) ^^ bitOf f.fn 1))
      ∧ PResult (.pmov f) f.d (fun x => rdP x (f.a.toNat % 8) ^^ bitOf f.fn 2)
      ∧ SResult (.sel f) f.d 1 (fun x => if rdP x (bitsOf f.fn 2 0) ^^ bitOf f.fn 3 then sA x f else sB x f)
      ∧ (∃ v : Core → Word, (∀ x, (∀ j : Nat, j < 8 → (v x).getLsbD j = rdP x j) ∧ (v x).toNat < 256)
          ∧ SResult (.pmovToS f) f.d 1 v)
      ∧ Leaves (.pmovFromS f) (fun _ _ => True) fun u c =>
          let v := sA (coreOf u c) f
          let put (n : Nat) (u : State) : State := setP u c 0 1 n (v.getLsbD n)
          put 7 (put 6 (put 5 (put 4 (put 3 (put 2 (put 1 u))))))

/-- The cross-file copies (R217): XSV writes lane fn[3:0] alone, with latency 2, and XVS reads it, with latency 3. ITSET writes
one part of an iterator after the step of its cycle, and ITGET returns one (R218). RBSET sets RBASE.BASE to imm11[3:0] with
latency 1 (R203). -/
def Obligations.CopiesIteratorsAndBaseComplete : Prop :=
  (∀ f : SRR,
     Leaves (.xsv f) (fun _ _ => True) (fun u c =>
         let lane := bitsOf f.fn 3 0
         pushFlight u c 0 2 (.reg (if bitOf f.d 4 then .vb else .va) (physV (coreOf u c).rbase (f.d.toNat % 16)))
           ((2 ^ 64 - 1) <<< (64 * lane)) ((sA (coreOf u c) f).toNat <<< (64 * lane)) 0 64)
       ∧ SResult (.xvs f) f.d 3 fun x => (rdV x (bitOf f.a 4) (f.a.toNat % 16)).extractLsb' (64 * bitsOf f.fn 3 0) 64)
    ∧ (∀ f : SRR,
         (bitsOf f.fn 2 0 = 0 → Does (.itset f) (fun _ _ => True) (fun u _ => u) fun u c =>
             { Effects.none with itWrites := [(f.d.toNat % 16, .base ((sA (coreOf u c) f).setWidth 56))] })
           ∧ (∀ n < 4, bitsOf f.fn 2 0 = n + 1 → Does (.itset f) (fun _ _ => True) (fun u _ => u) fun u c =>
               { Effects.none with itWrites :=
                   [(f.d.toNat % 16, .level n ((sA (coreOf u c) f).setWidth 16) ((sA (coreOf u c) f).extractLsb' 16 32))] })
           ∧ (bitsOf f.fn 2 0 = 5 → Does (.itset f) (fun _ _ => True) (fun u _ => u) fun u c =>
               { Effects.none with itWrites := [(f.d.toNat % 16, .indices (sA (coreOf u c) f))] })
           ∧ (bitsOf f.fn 2 0 = 0 → SResult (.itget f) f.d 1 fun x => (itOf x (f.a.toNat % 16)).base.setWidth 64)
           ∧ (bitsOf f.fn 2 0 = 1 → SResult (.itget f) f.d 1 fun x =>
               ((itOf x (f.a.toNat % 16)).l0.stride ++ (itOf x (f.a.toNat % 16)).l0.count).setWidth 64)
           ∧ (bitsOf f.fn 2 0 = 2 → SResult (.itget f) f.d 1 fun x =>
               ((itOf x (f.a.toNat % 16)).l1.stride ++ (itOf x (f.a.toNat % 16)).l1.count).setWidth 64)
           ∧ (bitsOf f.fn 2 0 = 3 → SResult (.itget f) f.d 1 fun x =>
               ((itOf x (f.a.toNat % 16)).l2.stride ++ (itOf x (f.a.toNat % 16)).l2.count).setWidth 64)
           ∧ (bitsOf f.fn 2 0 = 4 → SResult (.itget f) f.d 1 fun x =>
               ((itOf x (f.a.toNat % 16)).l3.stride ++ (itOf x (f.a.toNat % 16)).l3.count).setWidth 64)
           ∧ (bitsOf f.fn 2 0 = 5 → SResult (.itget f) f.d 1 fun x =>
               let i := itOf x (f.a.toNat % 16)
               i.l3.idx ++ i.l2.idx ++ i.l1.idx ++ i.l0.idx))
    ∧ (∀ f : SRI, ((Instr.rbset f).wellFormed = true → f.imm.toNat < 16)
         ∧ Leaves (.rbset f) (fun _ _ => True) fun u c => pushFlight u c 0 1 .rbase 15 (f.imm.toNat % 16) 0 64)

/-! ## Control -/

/-- BR, JMP, CALL and RET leave for their targets (R201): the links land with latency 1 and the reads precede them. LOOP counts
LOOPCNT down and branches while it was 2 or more (R202). The NOP of each slot does nothing; EXIT and YIELD act only at the end
of their bundle (R183 to R187, R204, R205). What the repetition of an EXIT would undo if its wait ends in a trap is noted at
its issue (R402). -/
def Obligations.ControlTransfersComplete : Prop :=
  ((∀ f : SD21,
     (∀ s, issues s (.br f) = true → exec (.br f) s
         = .next (issued s (.br f) (landed s) (goTo ((coreOf s s.cur).pc + 4 * f.disp.signExtend 64))))
       ∧ ∀ s, issues s (.call f) = true → exec (.call f) s
         = .next (issued s (.call f) (setS (landed s) s.cur 0 1 31 ((coreOf s s.cur).pc + 8))
             (goTo ((coreOf s s.cur).pc + 4 * f.disp.signExtend 64))))
     ∧ (∀ f : SRR, ∀ s, issues s (.jmp f) = true → exec (.jmp f) s
         = .next (issued s (.jmp f) (if bitOf f.fn 0 then setS (landed s) s.cur 0 1 31 ((coreOf s s.cur).pc + 8) else landed s)
             (goTo (sA (actor s) f))))
     ∧ ∀ g, ∀ s, issues s (.ret g) = true → exec (.ret g) s = .next (issued s (.ret g) (landed s) (goTo (rdS (actor s) 31))))
    ∧ (∀ (f : SD21) (s : State), issues s (.loop f) = true →
         (2 ≤ (actor s).loopcnt.toNat → exec (.loop f) s = .next (issued s (.loop f) (landed s)
             { goTo ((coreOf s s.cur).pc + 4 * f.disp.signExtend 64) with loop := some ((actor s).loopcnt - 1) }))
           ∧ ((actor s).loopcnt.toNat < 2 → exec (.loop f) s = .next (issued s (.loop f) (landed s)
               { Effects.none with loop := some 0 })))
    ∧ (DoesNothing .nop ∧ (∀ x, DoesNothing (.vnop x)) ∧ DoesNothing .mnop ∧ DoesNothing .knop ∧ (∀ x, DoesNothing (.cnop x))
         ∧ (∀ g, Does (.exit g) (fun _ _ => True) noteWait fun _ _ => { Effects.none with exit := true, waits := true })
         ∧ ∀ g, Does (.yield g) (fun _ _ => True) (fun u _ => u) fun _ _ => { Effects.none with yield := true })

/-- CSRR of a CSR that the map assigns reads it at issue, with latency 1, and CSRW of one writes s[d], landing after 1 issue
cycle (R221). What a CSRW that lands alone leaves in its CSR, by the access code of R7 in R222 (R49, R195, R260, R407): an RW
field takes the bits written, an RO field and an RO CSR keep their values, and a 1 written to a W1C bit clears it; no other CSR
changes but the `REPIDX` that a handler's write of `TPC` sets to 0. `MODE` of `MWIN` waits for an idle array. `AFLAGS` after
the landings of an issue cycle (R36, R407): the flags of every result that lands are ORed into it after the bits that landing
CSRWs write as 1 are cleared, so that a flag set in that cycle stays set. In handler state the flags go to the handler's, and a
CSRW clears the task's. -/
def Obligations.CsrAccessCompletes : Prop :=
  (∀ (f : SC12) (s : State),
     (issues s (.csrr f) = true → exec (.csrr f) s = .next (issued s (.csrr f)
         (setS (landed s) s.cur 0 1 f.d.toNat (csrRead (landed s) s.cur f.csr.toNat)) .none))
       ∧ (issues s (.csrw f) = true → exec (.csrw f) s = .next (issued s (.csrw f)
         (pushFlight (landed s) s.cur 0 1 (.csr f.csr.toNat) (2 ^ 64 - 1) (rdS (actor s) f.d.toNat).toNat 0 64) .none)))
    ∧ (∀ (s : State) (c i : Nat) (a : Flight),
         let x := coreOf s c
         let k := clusterOfCore c
         let t := landNow s c
         let v := BitVec.ofNat 64 a.val
         let r (j : Nat) : Word := csrRead s c j
         let w (j : Nat) : Word := csrRead t c j
         (x.inflight.filter fun b => decide (b.due = some x.issueCount)) = [a] → a.dst = .csr i → a.flags = 0 →
           (i ∈ [0x008, 0x014, 0x01A, 0x024, 0x025, 0x026, 0x027] → w i = v)
             ∧ (i = 0x006 → w i = BitVec.ofNat 64 (bitsOf v 3 0))
             ∧ (i = 0x011 → w i = BitVec.ofNat 64 (bitsOf v 55 0) ∧ (x.shadow.isSome = true → w 0x007 = 0))
             ∧ (i = 0x021 → w i = BitVec.ofNat 64 (bitsOf v 31 0))
             ∧ (i = 0x01B → w i = BitVec.ofNat 64 (bitsOf v 63 32 * 2 ^ 32 + bitsOf (r i) 31 0))
             ∧ (i = 0x01C → w i = r i &&& ~~~v)
             ∧ (i = 0x018 → (∀ b, b < 4 → (bankOf t k b).bovf = ((bankOf s k b).bovf && !bitOf v (12 + b)))
               ∧ (clusterOf t k).modePending = if bitsOf v 2 0 ≤ 4 then some (bitsOf v 2 0) else (clusterOf s k).modePending)
             ∧ (i ∉ [0x006, 0x008, 0x011, 0x014, 0x018, 0x01A, 0x01B, 0x01C, 0x021, 0x024, 0x025, 0x026, 0x027] → ∀ j, w j = r j)
             ∧ ∀ j, j ≠ i → (i = 0x011 → j = 0x007 → x.shadow = none) → w j = r j)
    ∧ (∀ (s : State) (c : Nat),
         let x := coreOf s c
         let y := coreOf (landNow s c) c
         let fs := x.inflight.filter fun a => decide (a.due = some x.issueCount)
         let set := fs.foldl (fun v a => v ||| BitVec.ofNat 6 a.flags) 0
         let clear := fs.foldl (fun v a => if a.dst = .csr 0x01C then v ||| BitVec.ofNat 6 a.val else v) 0
         (x.shadow = none → y.shadow = none ∧ y.aflags = (x.aflags &&& ~~~clear) ||| set)
           ∧ ∀ h, x.shadow = some h → y.aflags = x.aflags ||| set ∧ (y.shadow.map (·.aflags)) = some (h.aflags &&& ~~~clear))

/-- TRAP and BRK take causes 0x0B and 0x0C with their immediate (R223); ERET returns in handler state and is illegal outside it
(R224). -/
def Obligations.TrapsAndReturnComplete : Prop :=
  (∀ f : SI16, Traps (.trap f) (fun _ _ => True) (fun _ _ => ⟨0x0B, 0, f.imm.toNat, false, false⟩)
      ∧ Traps (.brk f) (fun _ _ => True) (fun _ _ => ⟨0x0C, 0, f.imm.toNat, false, false⟩))
    ∧ ∀ f : SRR,
      Does (.eret f) (fun u c => (coreOf u c).shadow.isSome = true) (fun u _ => u)
          (fun _ _ => { Effects.none with eret := some (bitOf f.fn 0) })
        ∧ ∀ s, issues s (.eret f) = true → (actor s).shadow = none →
            exec (.eret f) s = .next (trapped s (.eret f) ⟨0x02, (coreOf s s.cur).pc.toNat, 0, false, false⟩)

/-! ## Loads, stores and atomics of the S slot -/

/-- LDL and STL at an address inside the scratchpad that is a multiple of their size: the load's value lands after 4 issue
cycles, sign-extended where it asks, and the store's bytes are written as its repetition ends (R206, R207, R172). A misaligned
address takes cause 0x09, and an address that is no scratchpad address or leaves its bounds 0x0A; that the alignment is decided
before the bounds is the model's choice (log entry 48). -/
def Obligations.ScratchpadAccessCompletes : Prop :=
  ∀ (f : SRR) (s : State),
    let u := landed s
    let c := s.cur
    let va := sAddr (actor s) f
    let n := sSize f
    (isSp va = true → spBounds va n = true → va % n = 0 →
      (issues s (.ldl f) = true →
        let v := spNum u (clusterOfCore c) (spOff va) n
        exec (.ldl f) s = .next (issued s (.ldl f) (setS u c 0 4 f.d.toNat
          (if bitOf f.fn 2 then BitVec.ofInt 64 (signedOf (8 * n) v) else BitVec.ofNat 64 v)) .none))
        ∧ (issues s (.stl f) = true → exec (.stl f) s = .next (issued s (.stl f) u { Effects.none with
            sp := spWrites (clusterOfCore c) (spOff va) n (sD (actor s) f).toNat })))
      ∧ ∀ i ∈ [Instr.ldl f, .stl f], issues s i = true →
        (va % n ≠ 0 → exec i s = .next (trapped s i (trapAt 0x09 va 0 0)))
          ∧ (va % n = 0 → isSp va = false ∨ spBounds va n = false → exec i s = .next (trapped s i (trapAt 0x0A va 0 0)))

/-- LDM and STM on an aligned address whose page admits the access: the load goes out for its register, the store enters the
store queue (R208, R336, R338). A probe also reports in p7, and a probe that its role refuses only clears p7. -/
def Obligations.MemoryAccessCompletes : Prop :=
  ∀ (f : SRR) (s : State),
    let u := landed s
    let c := s.cur
    let va := sAddr (actor s) f
    let n := sSize f
    va % n = 0 → isSp va = false →
      (issues s (.ldm f) = true →
        (∀ x, access u c va .load 0 0 = .ok x →
          let key := xlatRead u (ctxOfCore u c) x va
          let r := pendS (if x.role = 3 then raceRead u c (wholeBits key n) else u) c f.d.toNat
          (bitOf f.fn 3 = false →
            exec (.ldm f) s = .next (issued s (.ldm f) (enterLoad r.2 c key n (.flight r.1 (bitOf f.fn 2) none)) .none))
            ∧ (bitOf f.fn 3 = true →
              let q := pushPending r.2 c 0 (.reg .p 7) 1 1 1
              exec (.ldm f) s
                = .next (issued s (.ldm f) (enterLoad q.2 c key n (.flight r.1 (bitOf f.fn 2) (some q.1))) .none)))
          ∧ ∀ t, access u c va .load 0 0 = .error t →
            exec (.ldm f) s = .next (if bitOf f.fn 3 && decide (t.cause = 0x07)
              then issued s (.ldm f) (setP u c 0 1 7 false) .none else trapped s (.ldm f) t))
        ∧ (issues s (.stm f) = true →
          (∀ x, access u c va .store 0 0 = .ok x →
            exec (.stm f) s
              = .next (issued s (.stm f) (enterStore u c (wholeBytes (xlatHome x va) n (sD (actor s) f).toNat)) .none))
            ∧ ∀ t, access u c va .store 0 0 = .error t → exec (.stm f) s = .next (trapped s (.stm f) t))

/-- AMO on an aligned address: on the scratchpad at the end of its repetition, on memory through the store queue (R209). SACC
adds one value into an element of an ACC tensor, and SAPP appends one to a stream (R211, R212). -/
def Obligations.AtomicsAddsAndAppendsComplete : Prop :=
  (∀ (f : SRR) (s : State), issues s (.amo f) = true →
     let u := landed s
     let c := s.cur
     let va := (sA (actor s) f).toNat
     let n := if bitOf f.fn 0 then 8 else 4
     (va % n ≠ 0 → exec (.amo f) s = .next (trapped s (.amo f) (trapAt 0x09 va 0 0)))
       ∧ (spReach va n →
         exec (.amo f) s = .next (issued s (.amo f) (amoRet f u c).2 { Effects.none with
           sp := [.amo (clusterOfCore c) (spOff va) n (bitsOf f.fn 5 2) (sB (actor s) f).toNat (sD (actor s) f).toNat
             (amoRet f u c).1 c] }))
       ∧ ∀ x, va % n = 0 → isSp va = false → access u c va .atomic 0 0 = .ok x →
         let r := amoRet f (raceRead u c (wholeBits (xlatHome x va) n)) c
         exec (.amo f) s = .next (issued s (.amo f)
           (enterSq r.2 c (.mem (lineOf (xlatHome x va)))
             (.amo (bitsOf f.fn 5 2) (xlatHome x va) n (sB (actor s) f).toNat (sD (actor s) f).toNat r.1)) .none))
    ∧ (∀ (f : SRR) (s : State),
         let u := landed s
         let c := s.cur
         let h := sA (actor s) f
         let i := (sB (actor s) f).toNat
         let vf := bitsOf f.fn 3 0
         (issues s (.sacc f) = true → ∀ d r key, slotHandle u c 0 h = .ok (d, r) → i < dCount d → sameFamily vf (dFmt d) = true →
             accPage u c 0 0 (accVa d i) (hIndex h) (hGen h) (dWgrp d) = .ok key →
             exec (.sacc f) s = .next (issued s (.sacc f)
               (enterAcc u c h d key vf ((sD (actor s) f).toNat % 2 ^ codeBits vf)) .none))
           ∧ (issues s (.sapp f) = true → ∀ d t, appendCheck u c 0 h 1 = .ok (d, t) → ∀ ks, appendPages u c 0 d t.issued [0] = .ok ks →
             exec (.sapp f) s = .next (issued s (.sapp f)
               (enterAppends u c d t ks [(sD (actor s) f).toNat % 2 ^ codeBits (dFmt d)]) .none)))

/-! ## Handles and tags -/

/-- HLD, HVIEW and HGEN read descriptors (R213). HOLD raises the reader counts of a generation and what it holds with it, and
RELS lowers those that the oldest hold raised (R214, R77; which of several holds a RELS ends is the model's choice, log entry
51). -/
def Obligations.HandleOperationsComplete : Prop :=
  (∀ f : SRR,
     (∀ s d r, issues s (.hld f) = true → slotHandle (landed s) s.cur 0 (sA (actor s) f) = .ok (d, r) →
         exec (.hld f) s = .next (issued s (.hld f) (setS (landed s) s.cur 0 1 f.d.toNat
           ((descOf (landed s) (ctxOfCore (landed s) s.cur) (hIndex (sA (actor s) f))).extractLsb' (64 * bitsOf f.fn 2 0) 64)) .none))
       ∧ (∀ s d r, issues s (.hview f) = true → slotHandle (landed s) s.cur 0 (sA (actor s) f) = .ok (d, r) →
           exec (.hview f) s = .next (issued s (.hview f) (setS (landed s) s.cur 0 1 f.d.toNat
             (if (sB (actor s) f).toNat < dCount d then BitVec.ofNat 64 (elemVa d (sB (actor s) f).toNat)
              else BitVec.allOnes 64)) .none))
       ∧ ∀ s, issues s (.hgen f) = true →
         let i := (sA (actor s) f).toNat % 2 ^ 16
         let d := descOf (landed s) (ctxOfCore (landed s) s.cur) i
         (df d 63 63 = 1 → exec (.hgen f) s = .next (issued s (.hgen f) (setS (landed s) s.cur 0 1 f.d.toNat
             (BitVec.ofNat 64 (ctxOfCore (landed s) s.cur * 2 ^ 48 + df d 95 64 * 2 ^ 16 + i))) .none))
           ∧ (df d 63 63 = 0 → exec (.hgen f) s = .next (trapped s (.hgen f) (trapOf 0x08 (i * 2 ^ 16)))))
    ∧ (∀ (f : SRR) (s : State) (d : BitVec 512) (r : Bool),
         let u := landed s
         let ctx := ctxOfCore u s.cur
         let h := sA (actor s) f
         slotHandle u s.cur 0 h = .ok (d, r) → countsImm u ctx d r = true →
           (issues s (.hold f) = true → ∀ v, raiseReaders u ctx (heldWith u ctx d (hIndex h) (hGen h)) = some v →
               exec (.hold f) s = .next (issued s (.hold f) (addHold v ctx (hIndex h) (hGen h) (heldWith u ctx d (hIndex h) (hGen h))) .none))
             ∧ (issues s (.rels f) = true → readerCount u ctx (hIndex h) (hGen h) ≠ 0 →
               exec (.rels f) s = .next (issued s (.rels f)
                 (lowerReaders (dropHold u ctx (hIndex h) (hGen h)) ctx (relsWith u ctx d (hIndex h) (hGen h))) .none)))

/-- RCAST completes once the home slice has accepted it, the recast going on by itself. Before, it sends its request once and
waits (R215, R82). TAGLK looks a key up, latency 3; TAGSET installs one, TAGCLR invalidates the entry of a slot, and TAGCLR_K
the entry with a key, each after 1 issue cycle (R216). A handle is current where one is named, and a slot number is below
2,048. -/
def Obligations.RecastsAndTagsComplete : Prop :=
  (∀ (f : SRR) (s : State), issues s (.rcast f) = true →
     let u := landed s
     let ctx := ctxOfCore u s.cur
     let h := sA (actor s) f
     let ev := sD (actor s) f
     let t : Terms := ⟨sB (actor s) f, rdS (actor s) (f.b.toNat + 1), rdS (actor s) (f.b.toNat + 2)⟩
     ((actor s).answer = some .accepted →
         exec (.rcast f) s = .next (issued s (.rcast f) (modCore u s.cur fun x => { x with answer := none, asked := false }) .none))
       ∧ ((actor s).answer = none → (actor s).asked = true → exec (.rcast f) s = .next (waited s (.rcast f) id))
       ∧ ((actor s).answer = none → (actor s).asked = false →
         ∀ d r, slotHandle u s.cur 0 h = .ok (d, r) → bitsOf ev 63 32 = 0 → termsBad d (rolesOf u ctx d) t = none →
         rcastEvent u ctx ev = none →
         exec (.rcast f) s = .next (waited s (.rcast f) fun v =>
           { modCore v s.cur (fun x => { x with asked := true }) with
             recastReqs := v.recastReqs
               ++ [⟨.core s.cur, ctx, h, t.p, t.role, t.base, bitsOf ev 15 0, 1, bitsOf ev 31 16⟩] })))
    ∧ (∀ (f : SRR) (s : State),
         let u := landed s
         let c := s.cur
         let x := actor s
         let key := tagKeyOf (ctxOfCore u c) (sA x f) (sB x f)
         let current := ∃ q, slotHandle u c 0 (sA x f) = .ok q
         (issues s (.taglk f) = true → current → exec (.taglk f) s = .next (issued s (.taglk f) (setS u c 0 3 f.d.toNat
             (match ((clusterOf u (clusterOfCore c)).tags.find? fun e => decide (e.2 = key)) with
              | some e => BitVec.ofNat 64 e.1
              | none => BitVec.allOnes 64)) .none))
           ∧ (issues s (.tagset f) = true → current → (sD x f).toNat < 2048 → exec (.tagset f) s = .next (issued s (.tagset f)
               (pushFlight u c 0 1 (.tag (sD x f).toNat (some key)) 1 0 0 64) .none))
           ∧ (issues s (.tagclr f) = true → (sD x f).toNat < 2048 → exec (.tagclr f) s = .next (issued s (.tagclr f)
               (pushFlight u c 0 1 (.tag (sD x f).toNat none) 1 0 0 64) .none))
           ∧ (issues s (.tagclrK f) = true → current → exec (.tagclrK f) s = .next (issued s (.tagclrK f)
               (pushFlight u c 0 1 (.tagKey key) 1 0 0 64) .none)))

/-! ## Groups, gangs, the geyser count, events and fences -/

/-- GJOIN adds the core to a line as its repetition ends, GLEAVE drops it once its adds are acknowledged, SYNC asserts (R355,
R356); a core on the wrong side of the line takes cause 0x11 with the line. FUSE and DECPL act in a fused gang, REJOIN in a
decoupled one (R360), and WSTEP waits for the geyser count (R363). -/
def Obligations.GroupsAndGangsComplete : Prop :=
  (∀ f : SRR,
     let line := bitsOf f.fn 4 0
     Does (.gjoin f) (fun u c => isMember u c line = false) (fun u _ => u)
         (fun _ _ => { Effects.none with joins := [line] })
       ∧ (∀ u c, joinLines u c [line] = (let g := lineGroup u c line
           putGroup u { g with members := c :: g.members }))
       ∧ Traps (.gjoin f) (fun u c => isMember u c line = true) (fun _ _ => trapOf 0x11 line)
       ∧ Leaves (.gleave f) (fun u c => isMember u c line = true ∧ accOwed u c = false)
           (fun u c =>
             let g := lineGroup u c line
             let v := putGroup u (leaveGroup c g)
             { v with recasts := v.recasts.map fun r =>
                 if r.ctx = g.ctx && dWgrp (descOf v r.ctx r.index) = line
                 then { r with required := r.required.filter (· ≠ c) } else r })
       ∧ Waits (.gleave f) (fun u c => isMember u c line = true ∧ accOwed u c = true) id
       ∧ Does (.sync f) (fun u c => isMember u c line = true)
           (fun u c => modCore (noteWait (putGroup u (assertLine (lineGroup u c line) c)) c) c fun x => { x with syncWait := some line })
           (fun _ _ => { Effects.none with waits := true })
       ∧ ∀ i ∈ [Instr.gleave f, .sync f], Traps i (fun u c => isMember u c line = false) (fun _ _ => trapOf 0x11 line))
    ∧ (∀ (f : SRR) (gd : Guard),
         (∀ g, Does (.fuse f) (fun u c => gangOf u c = some g ∧ g.fused = true ∧ g.members.head? = some c
                 ∧ (sA (coreOf u c) f).toNat < 8) (fun u _ => u)
               (fun u c => { Effects.none with step := some (sA (coreOf u c) f).toNat })
             ∧ Leaves (.fuse f) (fun u c => gangOf u c = some g ∧ g.fused = true ∧ g.members.head? ≠ some c) (fun u _ => u)
             ∧ Does (.decpl f) (fun u c => gangOf u c = some g ∧ g.fused = true) (fun u _ => u)
                 (fun u c => { Effects.none with target := some (sA (coreOf u c) f), decouple := true })
             ∧ Does (.rejoin gd) (fun u c => gangOf u c = some g ∧ g.joining = true) (fun u _ => u)
                 (fun _ _ => { Effects.none with place := rejoinPlace g })
             ∧ ∀ s, issues s (.rejoin gd) = true → gangOf (landed s) s.cur = some g → g.joining = false → g.fused = false →
                 exec (.rejoin gd) s = .next (waited s (.rejoin gd) fun v => assertGang v s.cur g ((coreOf s s.cur).pc + 8)))
           ∧ (∀ s, issues s (.wstep f) = true → (landed s).geyser.toNat < (sA (actor s) f).toNat →
               exec (.wstep f) s = .next (waited s (.wstep f) fun v => modCore v s.cur fun x => { x with stepWait := true }))
           ∧ Leaves (.wstep f) (fun u c => (sA (coreOf u c) f).toNat ≤ u.geyser.toNat ∧ bitOf f.fn 0 = false) (fun u _ => u)
           ∧ Leaves (.wstep f) (fun u c => (sA (coreOf u c) f).toNat ≤ u.geyser.toNat ∧ bitOf f.fn 0 = true) (fun u c =>
               setP u c 0 1 7 !(decide ((sA (coreOf u c) f).toNat < u.geyser.toNat) && !(coreOf u c).stepWait)))

/-- EVADD sends an increment, EVARM and its disarming form act on the entry in one step, EVWAIT waits for the value and EVRD
sends for a word, which lands when the read has reached the home slice (R366, R365). FENCE and XFENCE complete once nothing
they wait for is left, and wait before (R345, R346). -/
def Obligations.EventsAndFencesComplete : Prop :=
  (∀ (f : SRR) (s : State),
     let u := landed s
     let c := s.cur
     let x := actor s
     let ctx := ctxOfCore u c
     let i := bitsOf (sA x f) 15 0
     let n := bitsOf f.fn 1 0
     bitsOf (sA x f) 63 32 = 0 → (bitsOf (sA x f) 31 16 = 0xFFFF ∨ bitsOf (sA x f) 31 16 = u.pkg.toNat) → eventOk u ctx i = true →
       (issues s (.evadd f) = true → exec (.evadd f) s = .next (issued s (.evadd f)
           { (evRet f u c).2 with
             incs := (evRet f u c).2.incs
               ++ [⟨u.pkg.toNat, ctx, i, (sB x f).toNat, some c, x.sq.map (·.id), (evRet f u c).1, none⟩]
             free := (evRet f u c).2.free + 1 } .none))
         ∧ (issues s (.evarm f) = true →
           (bitsOf (sD x f) 15 0 = 0 ∨ eventOk u ctx (bitsOf (sD x f) 15 0) = true) →
           let r := fireArmed (armEntry (evEntry u ctx i) n (sB x f).toNat (bitsOf (sD x f) 31 0)) n
           exec (.evarm f) s = .next (issued s (.evarm f)
             { paPut u (evAddr u ctx i) 64 r.1 with
               chains := u.chains ++ r.2.map fun q => ⟨u.pkg.toNat, ctx, q.1, q.2, none, [], none, none⟩ } .none))
         ∧ (issues s (.evarmDis f) = true →
           let e := evEntry u ctx i
           exec (.evarmDis f) s = .next (issued s (.evarmDis f) (paPut u (evAddr u ctx i) 64
             (reRank (setBits e (64 + n) (64 + n) 0) ((armedByRank e).filter (· ≠ n)) 0)) .none))
         ∧ (issues s (.evwait f) = true →
           ((sB x f).toNat ≤ evValue u ctx i → exec (.evwait f) s = .next (issued s (.evwait f) u .none))
             ∧ (evValue u ctx i < (sB x f).toNat → exec (.evwait f) s = .next (waited s (.evwait f) id)))
         ∧ (issues s (.evrd f) = true → exec (.evrd f) s = .next (issued s (.evrd f)
             { (pendS u c f.d.toNat).2 with
               incs := (pendS u c f.d.toNat).2.incs
                 ++ [⟨u.pkg.toNat, ctx, i, 0, some c, [], some (pendS u c f.d.toNat).1, some (bitsOf f.fn 2 0)⟩] } .none)))
    ∧ (∀ (f : SRR) (s : State),
         let u := landed s
         let c := s.cur
         let kind := bitsOf f.fn 4 3
         let scope := bitsOf f.fn 2 0
         let early := kind ≠ 1 ∧ ((actor s).loads ≠ [] ∨ (actor s).sq.any returnsValue = true)
         let late := kind ≠ 2 ∧ ((actor s).sq.any fun e => inScope u c scope (entryHome u e)) = true
         (issues s (.fence f) = true →
             (¬early → ¬late → exec (.fence f) s = .next (issued s (.fence f) u .none))
               ∧ (early ∨ late → exec (.fence f) s = .next (waited s (.fence f) id)))
           ∧ (issues s (.xfence f) = true →
             let w := (actor s).xfence.getD (asyncIn u c scope)
             ((∀ n ∈ w, ∀ e ∈ u.async, e.id ≠ n) →
                 exec (.xfence f) s = .next (issued s (.xfence f) (modCore u c fun x => { x with xfence := none }) .none))
               ∧ ((∃ n ∈ w, ∃ e ∈ u.async, e.id = n) →
                 exec (.xfence f) s = .next (waited s (.xfence f) fun s => modCore s c fun x => { x with xfence := some w }))))

/-- TIS accepts a level-0 instruction into the core's queue or answers that it is rejected, and TIWAIT waits for its ticket
(R219, R220). -/
def Obligations.LocalTilesComplete : Prop :=
  ∀ (f : SRR) (s : State),
    let u := landed s
    let c := s.cur
    let x := actor s
    let ctx := ctxOfCore u c
    let ta := (sA x f).toNat
    (issues s (.tis f) = true → ta % 64 = 0 → (x.l0q.filter fun l => !l.done).length < 4 →
        ∀ w, tileAt u c ta = .ok (some w) →
          (∀ q, acceptCheck u ctx 0 (tileOfBits w) = .error q →
              exec (.tis f) s = .next (issued s (.tis f) (setS u c 0 1 f.d.toNat (BitVec.ofNat 64 (2 ^ 63 + q.1 * 2 ^ 16))) .none))
            ∧ ∀ os v, acceptCheck u ctx 0 (tileOfBits w) = .ok os →
              let l := newLocal u c (x.ticket + 1) (tileOfBits w) os
              raiseReaders u ctx l.inst.counts = some v →
                exec (.tis f) s = .next (issued s (.tis f)
                  (setS (modCore v c fun y => { y with ticket := y.ticket + 1, l0q := y.l0q ++ [l] }) c 0 1 f.d.toNat
                    (BitVec.ofNat 64 (x.ticket + 1))) .none))
      ∧ (issues s (.tiwait f) = true →
        let t := min (ta % 2 ^ 32) x.ticket
        ((x.l0q.any fun l => decide (l.ticket ≤ t) && !l.done) = false →
            exec (.tiwait f) s = .next (issued s (.tiwait f) (setS u c 0 1 f.d.toNat
              (if t = 0 then 0 else ((x.l0q.find? fun l => decide (l.ticket = t)).map (·.status)).getD 0)) .none))
          ∧ ((x.l0q.any fun l => decide (l.ticket ≤ t) && !l.done) = true →
            exec (.tiwait f) s = .next (waited s (.tiwait f) id)))

/-! ## Vector operations -/

/-- Floating and integer arithmetic per active element (R231): floating results rounded once by `rm`, integer ones wrapped,
with latency 4 and 2, and the correctly rounded quotient with latency 20 (R256). Minimum, maximum, magnitude, negation, the
high half of a product and the saturating sums, per active element with latency 2 (R231). A saturated element raises SAT. -/
def Obligations.VectorArithmeticAndOrderComplete : Prop :=
  (∀ (x : VSlot) (f : VF),
     let lat := if isInt (vF f) then 2 else 4
     let fl (n : Nat) : Val := floatVal (vF f) n
     let int (n : Nat) : Int := fmtInt (vF f) n
     let neg := decide (vRm f = .rdn)
     let round (y : Core) (i : Nat) (v : Val × Nat) : Nat × Nat :=
       let r := roundFloat (vF f) (vRm f) (laneRnd y.seedkey y.issueCount i) false v.1
       (r.1, v.2 ||| r.2)
     let wrap (v : Int) : Nat × Nat := ((v % (2 ^ vE f : Nat)).toNat, 0)
     let row (i : Instr) (a : Elems → Nat → Val × Nat) (b : Elems → Nat → Int) : Prop :=
       PerElement i x f lat fun y e j => if isInt (vF f) then wrap (b e j) else round y j (a e j)
     row (.vadd x f) (fun e j => addVal neg (fl (e.a j)) (fl (e.b j))) (fun e j => int (e.a j) + int (e.b j))
       ∧ row (.vsub x f) (fun e j => addVal neg (fl (e.a j)) (fl (e.b j)).negate) (fun e j => int (e.a j) - int (e.b j))
       ∧ row (.vmul x f) (fun e j => mulVal (fl (e.a j)) (fl (e.b j))) (fun e j => int (e.a j) * int (e.b j))
       ∧ row (.vfma x f) (fun e j => fmaVal neg (fl (e.a j)) (fl (e.b j)) (fl (e.c j)))
           (fun e j => int (e.a j) * int (e.b j) + int (e.c j))
       ∧ row (.vfms x f) (fun e j => fmaVal neg (fl (e.a j)) (fl (e.b j)) (fl (e.c j)).negate)
           (fun e j => int (e.a j) * int (e.b j) - int (e.c j))
       ∧ row (.vfnma x f) (fun e j => fmaVal neg (fl (e.a j)).negate (fl (e.b j)) (fl (e.c j)))
           (fun e j => -(int (e.a j) * int (e.b j)) + int (e.c j))
       ∧ PerElement (.vdiv x f) x f 20 (fun y e j => round y j (divVal (fl (e.a j)) (fl (e.b j)))))
    ∧ (∀ (x : VSlot) (f : VF),
         let fl (n : Nat) : Val := floatVal (vF f) n
         let int (n : Nat) : Int := fmtInt (vF f) n
         let exact (v : Val × Nat) : Nat × Nat :=
           let r := roundFloat (vF f) .rne 0 false v.1
           (r.1, v.2 ||| r.2)
         let wrap (v : Int) : Nat × Nat := ((v % (2 ^ vE f : Nat)).toNat, 0)
         let clamp (v : Int) : Nat × Nat :=
           if v < intMin (vF f) then ((intMin (vF f) % (2 ^ vE f : Nat)).toNat, fSAT)
           else if intMax (vF f) < v then ((intMax (vF f) % (2 ^ vE f : Nat)).toNat, fSAT)
           else wrap v
         let row (i : Instr) (a : Elems → Nat → Val × Nat) (b : Elems → Nat → Int) : Prop :=
           PerElement i x f 2 fun _ e j => if isInt (vF f) then wrap (b e j) else exact (a e j)
         row (.vmin x f) (fun e j => minMaxVal false (fl (e.a j)) (fl (e.b j))) (fun e j => min (int (e.a j)) (int (e.b j)))
           ∧ row (.vmax x f) (fun e j => minMaxVal true (fl (e.a j)) (fl (e.b j))) (fun e j => max (int (e.a j)) (int (e.b j)))
           ∧ row (.vabs x f) (fun e j => ((fl (e.a j)).abs, 0)) (fun e j => ((int (e.a j)).natAbs : Int))
           ∧ row (.vneg x f) (fun e j => ((fl (e.a j)).negate, 0)) (fun e j => -int (e.a j))
           ∧ PerElement (.vmulh x f) x f 2 (fun _ e j => wrap (int (e.a j) * int (e.b j) / (2 ^ vE f : Nat)))
           ∧ PerElement (.vsadd x f) x f 2 (fun _ e j => clamp (int (e.a j) + int (e.b j)))
           ∧ PerElement (.vssub x f) x f 2 (fun _ e j => clamp (int (e.a j) - int (e.b j))))

/-- Bitwise operations, shifts and counts per active element, with latency 2 and no flag (R232). VCMP writes a mask of its
condition over the active elements (R233), VSEL selects by the mask over every element (R234), and the mask operations combine
masks and move them (R235). -/
def Obligations.VectorLogicAndMasksComplete : Prop :=
  (∀ (x : VSlot) (f : VF),
     let n (e : Elems) (j : Nat) : Nat := if bitOf f.imm 6 then bitsOf f.imm 5 0 else e.b j % vE f
     BitsPerElement (.vand x f) x f 2 (fun e j => e.a j &&& e.b j)
       ∧ BitsPerElement (.vor x f) x f 2 (fun e j => e.a j ||| e.b j)
       ∧ BitsPerElement (.vxor x f) x f 2 (fun e j => e.a j ^^^ e.b j)
       ∧ BitsPerElement (.vnot x f) x f 2 (fun e j => (2 ^ vE f - 1) ^^^ e.a j)
       ∧ BitsPerElement (.vshl x f) x f 2 (fun e j => e.a j * 2 ^ n e j % 2 ^ vE f)
       ∧ BitsPerElement (.vshr x f) x f 2 (fun e j => e.a j / 2 ^ n e j)
       ∧ BitsPerElement (.vsra x f) x f 2 (fun e j => (signedOf (vE f) (e.a j) / (2 ^ n e j : Nat) % (2 ^ vE f : Nat)).toNat)
       ∧ BitsPerElement (.vpopc x f) x f 2 (fun e j => popCount (vE f) (e.a j))
       ∧ BitsPerElement (.vclz x f) x f 2 (fun e j => leadingZeros (vE f) (e.a j)))
    ∧ (∀ (x : VSlot) (f : VF),
         let slot := vSlotNo x
         let vb := isVb x
         let m (y : Core) (r : BitVec 4) (inv : Bool) : Nat :=
           (rdM y vb (bitsOf r 2 0)).toNat ^^^ (if inv then 2 ^ 64 - 1 else 0)
         OnElements (.vcmp x f) x f (fun u c e =>
             let a (j : Nat) : Val := elemVal (vF f) (e.a j)
             let b (j : Nat) : Val := elemVal (vF f) (e.b j)
             let holds (j : Nat) : Bool :=
               match bitsOf f.imm 2 0 with
               | 0 => valEq (a j) (b j)
               | 1 => !valEq (a j) (b j)
               | 2 => valLt (a j) (b j)
               | 3 => valLt (a j) (b j) || valEq (a j) (b j)
               | 4 => valLt (b j) (a j)
               | 5 => valLt (b j) (a j) || valEq (a j) (b j)
               | _ => (a j).isNan || (b j).isNan
             setM u c slot 2 vb (bitsOf f.d 2 0)
               ((actives e.m e.n).foldl (fun v j => if holds j then v ||| 2 ^ j else v) 0)
               ((actives e.m e.n).foldl (fun v j => v ||| ((a j).sigInv ||| (b j).sigInv)) 0))
           ∧ OnElements (.vsel x f) x f (fun u c e => vWrite u c x 2 f.d.toNat (vE f) (vW f)
               ((List.range e.n).map fun j => (j, if e.m.testBit j then e.a j else e.b j, 0)))
           ∧ OnElements (.vmand x f) x f (fun u c _ => setM u c slot 1 vb (bitsOf f.d 2 0)
               (m (coreOf u c) f.a (bitOf f.imm 0) &&& m (coreOf u c) f.b (bitOf f.imm 1)) 0)
           ∧ OnElements (.vmor x f) x f (fun u c _ => setM u c slot 1 vb (bitsOf f.d 2 0)
               (m (coreOf u c) f.a (bitOf f.imm 0) ||| m (coreOf u c) f.b (bitOf f.imm 1)) 0)
           ∧ OnElements (.vmxor x f) x f (fun u c _ => setM u c slot 1 vb (bitsOf f.d 2 0)
               (m (coreOf u c) f.a (bitOf f.imm 0) ^^^ m (coreOf u c) f.b (bitOf f.imm 1)) 0)
           ∧ (bitOf f.imm 0 = false → OnElements (.vmnot x f) x f (fun u c _ => setM u c slot 1 vb (bitsOf f.d 2 0)
               ((2 ^ 64 - 1) ^^^ m (coreOf u c) f.a false) 0))
           ∧ (bitsOf f.imm 1 0 = 0 → OnElements (.vmcnt x f) x f (fun u c _ =>
               setV u c slot 2 vb f.d.toNat (2 ^ 64 - 1) (popCount 64 (m (coreOf u c) f.a false)) 0 64))
           ∧ (bitsOf f.imm 1 0 = 1 → OnElements (.vmcnt x f) x f (fun u c _ =>
               setV u c slot 2 vb f.d.toNat (2 ^ 64 - 1) (m (coreOf u c) f.a false) 0 64))
           ∧ (bitsOf f.imm 1 0 = 2 → OnElements (.vmcnt x f) x f (fun u c e => setM u c slot 2 vb (bitsOf f.d 2 0) (e.a 0) 0)))

/-- Conversions write the active pairs of R236: VCVT by R237, VQNT and VDQN with block scales (R238, R239), the codebook forms
by R240, and VAMAX the largest magnitude of each block (R241). The moves (R242) and rearrangements (R243), with latency 2 or 3,
and no flag. -/
def Obligations.ConversionsAndMovesComplete : Prop :=
  (∀ (x : VSlot) (f : VF),
     let vb := isVb x
     let e2 := codeBits f.fmt2.toNat
     let n := elemCount (vW f) (max (vE f) e2)
     let src (p j : Nat) : Nat := if e2 ≤ vE f then j else p * n + j
     let dst (p j : Nat) : Nat := if vE f ≤ e2 then j else p * n + j
     let block := if bitOf f.imm 7 then 16 else 32
     let scale (b j : Nat) : Nat := fieldAt b 8 (bitsOf f.imm 4 0 + j / block)
     let pairs (i : Instr) (lat p : Nat) (op : State → Nat → Nat → Nat → Nat × Nat) : Prop :=
       OnElements i x f fun u c e => vWrite u c x lat f.d.toNat e2 (vW f)
         ((actives e.m n).map fun j => (dst p j, op u c j (e.a (src p j))))
     let book (u : State) (c : Nat) : List Nat := bookOf (vB u c vb f % 2 ^ 256)
     let bookC (u : State) (c : Nat) : List Nat := bookOf (vC u c vb f % 2 ^ 256)
     pairs (.vcvt x f) 3 (bitsOf f.imm 2 0) (fun u c j a => convert f (coreOf u c) j a)
       ∧ OnElements (.vqnt x f) x f (fun u c e =>
           let p := bitsOf f.imm 10 8
           let rs := (actives e.m n).map fun j =>
             (j, quantElem (vF2 f) (bookC u c) (vRm f) (laneRnd (coreOf u c).seedkey (coreOf u c).issueCount j)
               (scale (vB u c vb f) j) (elemVal (vF f) (e.a (src p j))))
           let under := rs.filter fun r => r.2.2.2
           pushFlight (vWrite u c x 5 f.d.toNat e2 (vW f) (rs.map fun r => (dst p r.1, r.2.1, r.2.2.1))) c (vSlotNo x) 5
             (.ufc (bitsOf f.imm 6 5) under.length (under.filter fun r => decide (r.1 / block = (n - 1) / block)).length) 0 0 0 64)
       ∧ pairs (.vdqn x f) 5 (bitsOf f.imm 10 8) (fun u c j a => roundFloat (vF2 f) .rne 0 false
           (dequant (scale (vB u c vb f) j) (if vF f = .cb4 then bookVal (bookC u c) a else elemVal (vF f) a)))
       ∧ pairs (.vcbx x f) 3 (bitsOf f.imm 2 0) (fun u c _ a => roundFloat (vF2 f) .rne 0 false (bookVal (book u c) a))
       ∧ pairs (.vcbq x f) 5 (bitsOf f.imm 2 0) (fun u c _ a => quantCb4 (book u c) (floatVal (vF f) a))
       ∧ OnElements (.vamax x f) x f (fun u c e => vWrite u c x 6 f.d.toNat (vE f) (vW f)
           ((List.range ((e.n + block - 1) / block)).map fun j =>
             let m := largest (((actives e.m e.n).filter fun i => decide (i / block = j)).map fun i => floatVal (vF f) (e.a i))
             let r := roundFloat (vF f) .rne 0 false m.1
             (j, r.1, m.2 ||| r.2))))
    ∧ (∀ (x : VSlot) (f : VF),
         let wrap (v : Int) : Nat := (v % (2 ^ vE f : Nat)).toNat
         let k := bitsOf f.imm 9 3
         let whole (i : Instr) (op : Elems → Nat → Nat) : Prop :=
           OnElements i x f fun u c e => vWrite u c x 3 f.d.toNat (vE f) (vW f) ((List.range e.n).map fun j => (j, op e j, 0))
         BitsPerElement (.vmov x f) x f 2 (fun e j => e.a j)
           ∧ (bitOf f.imm 13 = false → BitsPerElement (.vbcst x f) x f 2 (fun e _ => e.a (bitsOf f.imm 6 0)))
           ∧ (bitOf f.imm 13 = true → BitsPerElement (.vbcst x f) x f 2 (fun _ _ => wrap (signedOf 12 f.imm.toNat)))
           ∧ BitsPerElement (.viota x f) x f 2 (fun _ j => wrap (signedOf 14 f.imm.toNat + j))
           ∧ BitsPerElement (.vperm x f) x f 3 (fun e j =>
               if e.b j < e.n then e.a (e.b j) else if e.b j < 2 * e.n then e.c (e.b j - e.n) else 0)
           ∧ whole (.vcmps x f) (fun e j => ((((List.range e.n).filter fun i => e.m.testBit i)[j]?).map e.a).getD 0)
           ∧ whole (.vexpd x f) (fun e j => if e.m.testBit j then e.a (popCount j e.m) else e.b j)
           ∧ OnElements (.vxv x f) x f (fun u c e =>
               let g := gather (vE f) ((actives e.m e.n).map fun j => (j, e.a j))
               setV u c (vSlotNo x) 2 (!isVb x) f.d.toNat g.1 g.2 0 (granOf (vE f) (vW f)))
           ∧ (bitsOf f.imm 2 0 = 0 → BitsPerElement (.vshfl x f) x f 3 (fun e j => e.a ((j + k) % e.n)))
           ∧ (bitsOf f.imm 2 0 = 1 → BitsPerElement (.vshfl x f) x f 3 (fun e j => if j + k < e.n then e.a (j + k) else 0))
           ∧ (bitsOf f.imm 2 0 = 2 → BitsPerElement (.vshfl x f) x f 3 (fun e j => if k ≤ j then e.a (j - k) else e.b (e.n - k + j)))
           ∧ (bitsOf f.imm 2 0 = 3 → BitsPerElement (.vshfl x f) x f 3 (fun e j => if j % 2 = 0 then e.a (j / 2) else e.b (j / 2)))
           ∧ (bitsOf f.imm 2 0 = 4 → BitsPerElement (.vshfl x f) x f 3
               (fun e j => if j % 2 = 0 then e.a (e.n / 2 + j / 2) else e.b (e.n / 2 + j / 2)))
           ∧ (bitsOf f.imm 2 0 = 5 → BitsPerElement (.vshfl x f) x f 3
               (fun e j => if 2 * j < e.n then e.a (2 * j) else e.b (2 * j - e.n)))
           ∧ (bitsOf f.imm 2 0 = 6 → BitsPerElement (.vshfl x f) x f 3
               (fun e j => if 2 * j + 1 < e.n then e.a (2 * j + 1) else e.b (2 * j + 1 - e.n)))
           ∧ (bitsOf f.imm 2 0 = 7 → BitsPerElement (.vshfl x f) x f 3 (fun e j => e.a (e.n - 1 - j))))

/-- Reductions and scans follow the fixed tree with identities in inactive lanes, VDOT sums groups of products, and the special
functions apply to each active element (R244 to R247, R58). A lane that a scan passes on uncombined is the canonical NaN when
it is a NaN (log entry 49), and the fast grade's value is free within its bound (log entry 9). -/
def Obligations.ReductionsAndFunctionsComplete : Prop :=
  ∀ (x : VSlot) (f : VF),
    let op := redOp (bitsOf f.imm 2 0)
    let lanes (fmt : Fmt) (e : Elems) : List (Nat × Nat) :=
      (List.range e.n).map fun j =>
        if active e.m e.n j then (if fmt = vF f then (e.a j, 0) else toFmt fmt .rne 0 false (elemVal (vF f) (e.a j)))
        else (identityOf fmt op, 0)
    let fmt := if bitOf f.imm 4 then vF2 f else vF f
    let special (i : Instr) (n : Nat) : Prop :=
      OnElements i x f fun u c e =>
        let fast := fastGrade (coreOf u c) f
        vWrite u c x (if fast then 6 else 16) f.d.toNat (vE f) (vW f) ((actives e.m e.n).map fun j =>
          (j, if fast then specialFast n (e.a j) else specialAccurate (vF f) n (e.a j)))
    OnElements (.vred x f) x f (fun u c e => vWrite u c x 6 f.d.toNat (fmtBits fmt) (vW f)
        [(0, treeReduce (combineFmt fmt op (vRm f)) e.n.log2 (lanes fmt e))])
      ∧ OnElements (.vscan x f) x f (fun u c e =>
          let comb := combineFmt (vF f) op (vRm f)
          let heads := if bitOf f.imm 5 then (rdM (coreOf u c) (isVb x) (bitsOf f.c 2 0)).toNat else 0
          let k := e.n.log2
          vWrite u c x 8 f.d.toNat (vE f) (vW f) ((actives e.m e.n).map fun j =>
            let h := segStart heads j
            let r := scanLane comb (treeLevels comb k ((lanes (vF f) e).drop h)) k (if bitOf f.imm 3 then j - h - 1 else j - h)
            (j, if bitOf f.imm 3 && decide (j = h) then (identityOf (vF f) op, 0) else (canonLane (vF f) r.1, r.2))))
      ∧ OnElements (.vdot x f) x f (fun u c e =>
          let g := 2 ^ bitsOf f.imm 2 0
          let mine (j : Nat) : List Nat := (actives e.m e.n).filter fun i => decide (i / g = j)
          let acc (j : Nat) : Nat := fieldAt (vC u c (isVb x) f) 32 j
          vWrite u c x 6 f.d.toNat 32 (vW f) ((List.range (e.n / g)).map fun j =>
            (j, if isInt (vF f)
              then (wrapTo 32 (signedOf 32 (acc j)
                + ((mine j).map fun i => fmtInt (vF f) (e.a i) * fmtInt (vF f) (e.b i)).foldl (· + ·) 0), 0)
              else dotFloat f (acc j) ((mine j).map fun i => mulVal (floatVal (vF f) (e.a i)) (floatVal (vF f) (e.b i))))))
      ∧ special (.vexp2 x f) 0 ∧ special (.vlog2 x f) 1 ∧ special (.vrcp x f) 2 ∧ special (.vrsq x f) 3
      ∧ special (.vsqrt x f) 4 ∧ special (.vsinpi x f) 5 ∧ special (.vcospi x f) 6 ∧ special (.vtanh x f) 7
      ∧ special (.vsigm x f) 8

/-- Vector loads from the scratchpad complete at once with latency 6 or 10; loads that reach memory send their accesses, wait,
and complete with the data that arrived (R249, R253, R176); that bytes which an atomic or a load of an earlier slot of the
repetition reaches too are read after it, in the issue cycle, is the model's choice (log entry 52). Vector stores write the
active elements (R254). The lowest faulting element decides a trap (R255). -/
def Obligations.VectorLoadsAndStoresComplete : Prop :=
  ∀ (x : VSlot) (f : VF) (s : State) (e : Elems),
    let u := landed s
    let c := s.cur
    let slot := vSlotNo x
    let is := actives e.m e.n
    let n := max 1 (vE f / 8)
    let index := indexVa (actor s) f (vB u c (isVb x) f)
    vElems u c x f = .ok (some e) →
      (∀ q ∈ [(Instr.vld x f, contigVa (actor s) f, 6), (Instr.vgth x f, index, 10)], issues s q.1 = true →
        (∀ ps, ((actor s).vwaits.find? fun w => decide (w.slot = slot)) = none → placesOf u c slot n .load q.2.1 is = .ok ps →
          ((∀ i ∈ is, isSp (q.2.1 i) = true) →
              exec q.1 s = .next (issued s q.1 (loadResult u c x f q.2.2 q.2.1 [] is) .none))
            ∧ ((∃ i ∈ is, isSp (q.2.1 i) = false) → exec q.1 s = .next (waited s q.1 (sendLoads c slot n (elemMaskOf f) ps))))
          ∧ (∀ w, ((actor s).vwaits.find? fun w => decide (w.slot = slot)) = some w → w.out = 0 →
            let v := modCore u c fun y => { y with vwaits := y.vwaits.filter fun w => decide (w.slot ≠ slot) }
            (∀ r, arrivedData v c n w = some r →
                exec q.1 s = .next (issued s q.1 (loadResult r.1 c x f q.2.2 q.2.1 r.2 is) .none))
              ∧ (arrivedData v c n w = none → exec q.1 s = .next (waited s q.1 id)))
          ∧ ∀ t, ((actor s).vwaits.find? fun w => decide (w.slot = slot)) = none → placesOf u c slot n .load q.2.1 is = .error t →
            exec q.1 s = .next (trapped s q.1 t))
        ∧ ∀ q ∈ [(Instr.vst x f, contigVa (actor s) f), (Instr.vsct x f, index)], issues s q.1 = true →
          (∀ ps, placesOf u c slot n .store q.2 is = .ok ps →
            let r := (ps.map fun p => (p.1, p.2, e.a p.1)).foldl (storeElem c f) (u, Effects.none)
            exec q.1 s = .next (issued s q.1 r.1 r.2))
            ∧ ∀ t, placesOf u c slot n .store q.2 is = .error t → exec q.1 s = .next (trapped s q.1 t)

/-- VACC adds, VAMO updates and VAPP appends the active elements, in increasing index (R250 to R252). -/
def Obligations.VectorAddsAtomicsAndAppendsComplete : Prop :=
  ∀ (x : VSlot) (f : VF) (s : State) (e : Elems),
    let u := landed s
    let c := s.cur
    let slot := vSlotNo x
    let is := actives e.m e.n
    let h := BitVec.ofNat 64 (vB u c (isVb x) f)
    vElems u c x f = .ok (some e) →
      (issues s (.vacc x f) = true → ∀ d r ks, slotHandle u c slot h = .ok (d, r) →
          sameFamily f.fmt.toNat (dFmt d) = true →
          accPlaces u c slot h d (fun i => itAddr (itOf (actor s) (vIt f)) + i * holdSize d) is = .ok ks →
          exec (.vacc x f) s = .next (issued s (.vacc x f)
            (ks.foldl (fun v k => enterAcc v c h d k.2 f.fmt.toNat (e.a k.1)) u) .none))
        ∧ (issues s (.vamo x f) = true → ∀ ps,
          placesOf u c slot (max 1 (vE f / 8)) .atomic (contigVa (actor s) f) is = .ok ps →
          let r := vamoRet u c x f is
          let q := ps.foldl (amoElem c f ((actor s).seedkey ^^^ h) (contigVa (actor s) f) r.1 e.a) (r.2, Effects.none)
          exec (.vamo x f) s = .next (issued s (.vamo x f) q.1 q.2))
        ∧ (issues s (.vapp x f) = true → ∀ d0 r d t, slotHandle u c slot h = .ok (d0, r) → dFmt d0 = f.fmt.toNat →
          appendCheck u c slot h is.length = .ok (d, t) → 
          ∀ ks, appendPages u c slot d t.issued is = .ok ks →
          exec (.vapp x f) s = .next (issued s (.vapp x f) (if is = [] then u else enterAppends u c d t ks (is.map e.a)) .none))

/-- A vector operation that names a head (`hsub` is not 0) takes a stream-protocol trap, 0x0D with the head as `TDETAIL`, when
the head is not bound (R319), when its entry width is not w / 8 bytes (R229), and when it is empty and at its end: bound to a
tensor that is closed and of which every element has entered it (R322). -/
def Obligations.VectorHeadTraps : Prop :=
  ∀ (i : Instr) (u : VUse) (s : State), vUses i = some u → issues s i = true → u.f.hsub.toNat ≠ 0 →
    let h := u.f.head.toNat
    let y := headOf (coreOf (landed s) s.cur) h
    let q := headSupply (landed s) s.cur y
    let t : Trap := ⟨0x0D, 0, h, false, false⟩
    (y.bound = false → exec i s = .next (trapped s i t))
      ∧ (y.bound = true → 8 * y.ew ≠ vW u.f → exec i s = .next (trapped s i t))
      ∧ (y.bound = true → y.pptr = y.cptr → y.src = .str → q.closed = true → q.offered ≤ q.fetched →
        exec i s = .next (trapped s i t))

/-! ## M and K slots -/

/-- Accumulations and the gather enter the array queue with the values they take at issue, once their lines pass their checks
(R264 to R271); MWAIT waits for the queue (R277). That the gather latch takes its format and columns when MGTH issues, and that
MGTH waits for earlier operations of its queue that have still to write its index list, is the model's choice (log entry 45).
-/
def Obligations.ArrayOperationsQueue : Prop :=
  ∀ (f : MF) (s : State),
    let u := landed s
    let c := s.cur
    let x := actor s
    let kc := count64 f.kc
    let nb := if f.fa.toNat = 6 then 64 else 128
    let entry (i : Instr) : ArrayOp := arrayEntry u c i (mBank u c f)
    let wa := itWalk (64 * kc) (itOf x f.ia.toNat)
    let wb := itWalk (nb * kc) (itOf x f.ib.toNat)
    let okA := feederCheck u wa 64 (entry (.mma f)).mr kc (codeBits f.fa.toNat) (bitOf f.sel 0) = none
    let okB := feederCheck u wb nb (min (entry (.mma f)).mc nb) kc (codeBits f.fb.toNat) (bitOf f.sel 1) = none
    (∀ i ∈ [Instr.mma f, .mmas f], issues s i = true → okA → okB →
        exec i s = .next (issued s i (enqueue u c { entry i with walkA := wa, walkB := wb }) .none))
      ∧ (issues s (.mmag f) = true → x.latch.fmt = f.fa.toNat → x.latch.kc = kc → okB →
        exec (.mmag f) s = .next (issued s (.mmag f) (enqueue u c { entry (.mmag f) with walkA := [], walkB := wb }) .none))
      ∧ (issues s (.mgth f) = true →
        let il := itAddr (itOf x f.ib.toNat)
        let idx (g : Nat) : Int := signedOf 32 (spNum u (clusterOfCore c) (spOff il + 4 * g) 4)
        let rows := (List.range 64).map fun g =>
          wrapTo 64 ((itAddr (itOf x f.ia.toNat) : Int) + idx g * (bitsOf f.ext 26 11 : Nat))
        let e := max 1 (codeBits f.fa.toNat / 8)
        mLine u (itAddr (itOf x f.ia.toNat)) e e = none → mLine u il 256 4 = none → gatherCheck rows (kc * codeBits f.fa.toNat) (max 1 (codeBits f.fa.toNat / 8)) = none →
          (writePending u c (spOff il) 256 = true → exec (.mgth f) s = .next (waited s (.mgth f) id))
            ∧ (writePending u c (spOff il) 256 = false →
              let v := modCore u c fun x => { x with latch := { x.latch with fmt := f.fa.toNat, kc := kc } }
              exec (.mgth f) s = .next (issued s (.mgth f) (enqueue v c { arrayEntry v c (.mgth f) 4 with walkA := rows }) .none)))
      ∧ (issues s (.mwait f) = true →
        let waits := if f.sel.toNat = 1 then x.arrayQ ≠ [] else ∃ o ∈ x.arrayQ, o.bank = mBank u c f
        (¬waits → exec (.mwait f) s = .next (issued s (.mwait f) u .none))
          ∧ (waits → exec (.mwait f) s = .next (waited s (.mwait f) id)))

/-- ACLR sets the edge mask and queues its clear, ASW exchanges the bank names after 1 issue cycle, ASPL and AFIL queue the
transfer of a bank image with its checked lines (R272, R273). MDRN and PRJA queue a drain once their record rows pass: to
vector registers as it stands, to memory with an entry of the store queue for each element, and MDRN also to an ACC tensor
(R274 to R276, R294, R295). That the entries of MDRN, PRJA and ASPL stand in the store queue from the issue on, with values
that come later, is the model's choice (log entry 34) from R335 and R336. -/
def Obligations.BanksAndDrainsQueue : Prop :=
  (∀ (f : MF) (s : State),
     let u := landed s
     let c := s.cur
     let va := itAddr (itOf (actor s) f.ia.toNat)
     let b := mBank u c f
     (issues s (.aclr f) = true →
         let mr := count64 (BitVec.ofNat 6 (bitsOf f.ext 12 7))
         let mc := if bitsOf f.ext 6 0 = 0 then 128 else bitsOf f.ext 6 0
         let v := modBank u (clusterOfCore c) b fun y => { y with imr := mr, imc := mc }
         exec (.aclr f) s = .next (issued s (.aclr f) (enqueue v c (arrayEntry v c (.aclr f) b)) .none))
       ∧ (issues s (.asw f) = true →
         exec (.asw f) s = .next (issued s (.asw f) (pushFlight u c 3 1 .swap 1 0 0 0) .none))
       ∧ (issues s (.aspl f) = true → ∀ ks, imageCheck u c va .store = .ok ks →
         let o := arrayEntry u c (.aspl f) b
         let q := (List.range ks.length).foldl (fun (q : List (Nat × Nat × Nat) × State) j =>
           let r := enterBlank q.2 c o.id (blankLine (ks.getD j 0) 64)
           (q.1 ++ [(j, 0, r.1)], r.2)) ([], (freshId u).2)
         exec (.aspl f) s = .next (issued s (.aspl f) (enqueue q.2 c { o with walkA := [va], outs := q.1 }) .none))
       ∧ (issues s (.afil f) = true → ∀ ks, imageCheck u c va .load = .ok ks →
         let o := arrayEntry u c (.afil f) b
         let v := (List.range ks.length).foldl (fun v j =>
           enterLoad (raceRead v c (wholeBits (ks.getD j 0) 64)) c (ks.getD j 0) 64 (.array o.id j)) (freshId u).2
         exec (.afil f) s = .next (issued s (.afil f) (enqueue v c { o with walkA := [va], out := ks.length }) .none))
       ∧ ∀ t, (imageCheck u c va .store = .error t → issues s (.aspl f) = true → exec (.aspl f) s = .next (trapped s (.aspl f) t))
           ∧ (imageCheck u c va .load = .error t → issues s (.afil f) = true → exec (.afil f) s = .next (trapped s (.afil f) t)))
    ∧ (∀ (f : MF) (s : State),
         let u := landed s
         let c := s.cur
         let x := actor s
         let cnt := count64 f.kc
         let kind := bitsOf f.ext 16 15
         let fwd := f.sel.toNat = 3 ∨ f.sel.toNat = 4
         let od : ArrayOp := { arrayEntry u c (.mdrn f) (mBank u c f) with
           walkA := if f.sel.toNat = 0 then [] else itWalk cnt (itOf x f.ia.toNat)
           walkB := if kind = 1 then [] else itWalk cnt (itOf x f.ib.toNat)
           vaDst := drainRegs x f }
         let op : ArrayOp := { arrayEntry u c (.prja f) (mBank u c f) with
           walkA := itWalk cnt (itOf x f.ia.toNat)
           walkB := if kind = 1 then [] else itWalk cnt (itOf x f.ib.toNat)
           walkC := if fwd then itWalk cnt (itOf x (bitsOf f.ext 14 11)) else []
           vaDst := drainRegs x f }
         let rows := activeRows f od.mr
         let window := List.range cnt
         let cols := min od.mc (bankCols f.fa.toNat)
         let e := codeBits f.fa.toNat / 8
         let stores (o : ArrayOp) (ks : List (Nat × Nat × Nat)) : State :=
           let q := drainEntries (freshId u).2 c o.id (fun k => .mem (lineOf k)) (fun k => .store (blankLine k e)) true ks
           enqueue q.2 c { o with outs := q.1 }
         (issues s (.mdrn f) = true → (f.sel.toNat = 0 ∨ rowsCheck u od.walkA 32 32 window = none) →
             (kind ≠ 0 → kind ≠ 2 → exec (.mdrn f) s = .next (issued s (.mdrn f) (enqueue u c od) .none))
               ∧ (kind = 0 → ∀ ks, drainKeys u c e cols false od.walkB rows window = .ok ks →
                 exec (.mdrn f) s = .next (issued s (.mdrn f) (stores od ks) .none))
               ∧ (kind = 2 → ∀ d r ks, slotHandle u c 3 (drainHandle x f) = .ok (d, r) → sameFamily f.fa.toNat (dFmt d) = true →
                      addKeys u c (drainHandle x f) d cols od.walkB rows window = .ok ks →
                 let h := drainHandle x f
                 let add (k : Nat) : SqKind := .acc ⟨ctxOfCore u c, hIndex h, hGen h, k, dComb d, dFmt d, dElo d, f.fa.toNat, 0,
                   stagesIn u c (hIndex h) (hGen h), some od.id, x.shadow.isSome⟩
                 let q := drainEntries (freshId u).2 c od.id (fun k => .mem (lineOf k)) add false ks
                 exec (.mdrn f) s = .next (issued s (.mdrn f) (enqueue q.2 c { od with outs := q.1, desc := d }) .none)))
           ∧ (issues s (.prja f) = true → rowsCheck u op.walkA 32 32 window = none →
             (fwd → rowsCheck u op.walkC (cols * (codeBits f.fb.toNat / 8)) (codeBits f.fb.toNat / 8) window = none) →
             (kind = 1 → exec (.prja f) s = .next (issued s (.prja f) (enqueue u c op) .none))
               ∧ (kind ≠ 1 → ∀ ks, drainKeys u c e cols true op.walkB rows window = .ok ks →
                 exec (.prja f) s = .next (issued s (.prja f) (stores op ks) .none))))

/-- The K slot loads with latency 5 and moves with latency 1, stores at the end of its cycle, forms block scales, and writes
counters, iterators and SEEDKEY (R280, R281, R171). -/
def Obligations.ScaleSlotCompletes : Prop :=
  ∀ f : KF,
    let va (x : Core) : Nat := itAddr (itOf x (bitsOf f.imm 3 0))
    let reach (u : State) (c : Nat) : Prop := spReach (va (coreOf u c)) 32
    let num (u : State) (c off n : Nat) : Nat := spNum u (clusterOfCore c) (spOff (va (coreOf u c)) + off) n
    let whole (u : State) (c lat : Nat) (file : RegFile) (v : Nat) : State :=
      pushFlight u c 4 lat (.reg file f.dst.toNat) (2 ^ 256 - 1) v 0 256
    let writes (i : Instr) (w : ItWrite) : Prop :=
      Does i (fun _ _ => True) (fun u _ => u) fun _ _ => { Effects.none with itWrites := [(f.dst.toNat, w)] }
    Leaves (.klds f) reach (fun u c => whole u c 5 .k (num u c 0 32))
      ∧ Leaves (.kldc f) reach (fun u c => whole u c 5 .kb (num u c 0 32))
      ∧ Does (.ksts f) reach (fun u _ => u) (fun u c => { Effects.none with
          sp := spWrites (clusterOfCore c) (spOff (va (coreOf u c))) 32 (rdK (coreOf u c) f.src.toNat).toNat })
      ∧ (f.imm.toNat = 0 → Leaves (.kmov f) (fun _ _ => True) fun u c => whole u c 1 .k (rdK (coreOf u c) f.src.toNat).toNat)
      ∧ (f.imm.toNat = 1 → Leaves (.kmov f) (fun _ _ => True) fun u c => whole u c 1 .kb (rdK (coreOf u c) f.src.toNat).toNat)
      ∧ (f.imm.toNat = 2 → Leaves (.kmov f) (fun _ _ => True) fun u c => whole u c 1 .k (rdKb (coreOf u c) f.src.toNat).toNat)
      ∧ Leaves (.kauto f) reach (fun u c =>
          let w := ((coreOf u c).ufcnt[bitsOf f.imm 12 11]?.getD 0).toNat
          let scale (j : Nat) : Nat := kautoScale ((fmtOf (bitsOf f.imm 7 4)).getD .i8)
            (bookOf (rdKb (coreOf u c) f.src.toNat).toNat) ((rmOf (bitsOf f.imm 10 8)).getD .rne) ((w >>> 32) % 2 ^ 16) (w >>> 48)
            (floatVal .f32 (num u c (4 * j) 4)).abs
          let g := bitsOf f.imm 14 13
          pushFlight u c 4 1 (.reg .k f.dst.toNat) ((2 ^ 64 - 1) <<< (64 * g))
            (packFields 8 ((List.range 8).map scale) <<< (64 * g)) 0 256)
      ∧ Leaves (.kufc f) (fun _ _ => True)
          (fun u c => pushFlight u c 4 1 (.kufc (bitsOf f.imm 1 0) (bitOf f.imm 2) (bitOf f.imm 3)) 1 0 0 0)
      ∧ writes (.itlvl f) (.count (bitsOf f.imm 1 0) (BitVec.ofNat 16 (bitsOf f.imm 14 2)))
      ∧ writes (.itrst f) .reset
      ∧ writes (.itrev f) .reverse
      ∧ DoesNothing (.itstep f)
      ∧ (stepsOf (.itstep f)).steps = [f.dst.toNat]
      ∧ Leaves (.kseed f) (fun _ _ => True)
          (fun u c => pushFlight u c 4 1 .seed (2 ^ 64 - 1) ((rdK (coreOf u c) f.src.toNat).toNat % 2 ^ 64) 0 64)

/-! ## C slots -/

/-- COPY, CPRF and CWB fork one engine operation when their descriptor pair and both sides pass their checks; the sides that
advance land after 1 issue cycle (R310, R312, R313, R316, R317). An operation that issues has found a place in the engine. -/
def Obligations.CopiesFork : Prop :=
  ∀ (y : CSlot) (f : CF) (s : State),
    let u := landed s
    let c := s.cur
    let x := actor s
    let slot := cSlotNo y
    let k := clusterOfCore c
    let walk := itAddr (itOf x f.iter.toNat)
    let page : List Span := cutSpans [⟨0, 4096, .sp k (spOff walk), 255⟩]
    (issues s (.copy y f) = true → toHead f = false →
        ∀ d src dst, pairOf u c y f (siteOf s (.copy y f)) = .ok d →
          let dva := if cIw f then walk else d.dst
          sideOf u c slot d.src d.len .load = .ok src → (cIw f = true → cSpot dva d.len 1 slot = none) →
          sideOf u c slot dva d.len .store = .ok dst →
          exec (.copy y f) s = .next (issued s (.copy y f)
            (addOp (advance u c y f d.len (!isSp d.src) (!cIw f && !isSp d.dst)) (blankOp u c .copy d src dst)) .none))
      ∧ (issues s (.copy y f) = true → toHead f = true →
        ∀ d src, pairOf u c y f (siteOf s (.copy y f)) = .ok d →
          let h := cHead f
          let q := headOf x h
          sideOf u c slot d.src d.len .load = .ok src →
          q.bound = true → q.src = .copy → d.len % max q.ew 1 = 0 → d.len / max q.ew 1 ≤ q.nent →
          let o := { blankOp u c .copy d src (entrySpans c q (nextEntry q) (d.len / q.ew)) with head := some h }
          exec (.copy y f) s = .next (issued s (.copy y f)
            (advance (allocHead (addOp u o) c h o.id (d.len / q.ew)) c y f d.len (!isSp d.src) false) .none))
      ∧ (issues s (.cprf y f) = true →
        ∀ d src, pairOf u c y f (siteOf s (.cprf y f)) = .ok d → d.len = 4096 → d.src % 4096 = 0 →
          cSpot walk 4096 4096 slot = none → sideOf u c slot d.src 4096 .load = .ok src →
          let h := BitVec.ofNat 64 d.dst
          (bitOf f.opnds 0 = true → (openHandle u (ctxOfCore u c) h).isSome = true) →
          exec (.cprf y f) s = .next (issued s (.cprf y f) (addOp (advance u c y f 4096 (!isSp d.src) false)
            { blankOp u c .cprf d src page with
              tag := if bitOf f.opnds 0
                then some (spOff walk / 4096, some (tagKeyOf (ctxOfCore u c) h (BitVec.ofNat 64 d.src))) else none }) .none))
      ∧ (issues s (.cwb y f) = true →
        ∀ d dst, pairOf u c y f (siteOf s (.cwb y f)) = .ok d → d.len = 4096 → d.dst % 4096 = 0 →
          cSpot walk 4096 4096 slot = none → sideOf u c slot d.dst 4096 .store = .ok dst →
          exec (.cwb y f) s = .next (issued s (.cwb y f) (addOp (advance u c y f 4096 false (!isSp d.dst))
            { blankOp u c .cwb d page dst with
              tag := if bitOf f.opnds 0 then some (spOff walk / 4096, none) else none }) .none))

/-- SBIND binds and unbinds a head; SADV advances a count; SWTF and SWTE wait for a fill and for free entries; SCLOSE forks the
closing of a stream (R319, R321, R323). An SWTF beyond the end of a head traps (R322), and that SADV.c on an ended head without
an entry traps with it is the model's choice (log entry 26). CARM arms a barrier, CWAIT waits on a barrier, a completion word
or the engine, CSTAT writes a snapshot, and CDESC moves one descriptor register (R326, R329, R330). -/
def Obligations.HeadsAndStatusComplete : Prop :=
  (∀ (y : CSlot) (f : CF) (s : State),
     let u := landed s
     let c := s.cur
     let h := cHead f
     let q := headOf (actor s) h
     let n := bitsOf f.opnds 15 0
     let prod := bitOf f.opnds 31
     (issues s (.sbind y f) = true → headFilling u c h = false →
         (bitOf f.opnds 27 = true → exec (.sbind y f) s = .next (issued s (.sbind y f) (unbindHead u c h) .none))
           ∧ (bitOf f.opnds 27 = false → ∀ d r, pairOf u c y f (siteOf s (.sbind y f)) = .ok d →
             let kind := bitsOf f.opnds 31 30
             let ew := 32 * 2 ^ bitsOf f.opnds 29 28
             bufferCheck d.dst d.len ew (siteOf s (.sbind y f)) (cSlotNo y) = none →
             sourceCheck u c y f kind d (siteOf s (.sbind y f)) = .ok r →
             let v := unbindHead u c h
             let v := match r with
               | some t => putRec v { recOf v t.ctx t.index t.gen with consumer := some c }
               | none => v
             let src : HeadSrc := if kind = 1 then .str else if kind = 2 then .copy else if kind = 3 then .channel else .software
             let srcv := if kind = 1 then BitVec.ofNat 64 d.src else if kind = 3 then f.chan.setWidth 64 else 0
             exec (.sbind y f) s = .next (issued s (.sbind y f)
               (modCore v c fun x => setHead x h ⟨true, d.dst, d.len / ew, ew, src, srcv, 0, 0, 0, []⟩) .none)))
       ∧ (issues s (.sadv y f) = true → q.bound = true → 0 < n → n ≤ q.nent →
         (prod = true → q.src = .software →
             (n ≤ headFree q → exec (.sadv y f) s = .next (issued s (.sadv y f) u { Effects.none with sadv := [(h, true, n)] }))
               ∧ (headFree q < n → exec (.sadv y f) s = .next (waited s (.sadv y f) id)))
           ∧ (prod = false →
             (n ≤ headFill q → exec (.sadv y f) s = .next (issued s (.sadv y f) u { Effects.none with sadv := [(h, false, n)] }))
               ∧ (headFill q < n → (headFill q ≠ 0 ∨ headEnd u c h = false) → exec (.sadv y f) s = .next (waited s (.sadv y f) id))
               ∧ (headFill q = 0 → headEnd u c h = true → exec (.sadv y f) s = .next (trapped s (.sadv y f) (trapOf 0x0D h)))))
       ∧ (n = 0 → (issues s (.swtf y f) = true → exec (.swtf y f) s = .next (issued s (.swtf y f) u .none))
           ∧ (issues s (.swte y f) = true → exec (.swte y f) s = .next (issued s (.swte y f) u .none)))
       ∧ (issues s (.swtf y f) = true → q.bound = true → 0 < n → n ≤ q.nent →
         (n ≤ headFill q → exec (.swtf y f) s = .next (issued s (.swtf y f) u .none))
           ∧ (headFill q < n → headEnd u c h = false → exec (.swtf y f) s = .next (waited s (.swtf y f) id))
           ∧ (headFill q < n → headEnd u c h = true → exec (.swtf y f) s = .next (trapped s (.swtf y f) (trapOf 0x0D h))))
       ∧ (issues s (.swte y f) = true → q.bound = true → 0 < n → n ≤ q.nent →
         (n ≤ headFree q → exec (.swte y f) s = .next (issued s (.swte y f) u .none))
           ∧ (headFree q < n → exec (.swte y f) s = .next (waited s (.swte y f) id)))
       ∧ (issues s (.sclose y f) = true → ∀ d e r, pairOf u c y f (siteOf s (.sclose y f)) = .ok d →
         let sh := BitVec.ofNat 64 d.src
         slotHandle u c (cSlotNo y) sh = .ok (e, r) → dMixed e = false → dRole e = 1 →
         let t := recOf u (ctxOfCore u c) (hIndex sh) (hGen sh)
         t.closing = false → t.producer = some c →
         let v := putRec u { t with closing := true }
         enginePlaces v (clusterOfCore c) < 16 →
           exec (.sclose y f) s
             = .next (issued s (.sclose y f) (addOp v { blankOp u c .sclose d [] [] with handle := sh }) .none)))
    ∧ (∀ (y : CSlot) (f : CF) (s : State),
         let u := landed s
         let c := s.cur
         let x := actor s
         let k := clusterOfCore c
         let wa := itAddr (itOf x f.iter.toNat)
         let mode := bitsOf f.opnds 31 30
         (issues s (.carm y f) = true → ∀ d, pairOf u c y f (siteOf s (.carm y f)) = .ok d →
             exec (.carm y f) s = .next (issued s (.carm y f)
               (pushFlight u c (cSlotNo y) 1 (.barrier (bitsOf f.opnds 2 0) (bitOf f.opnds 31)) (2 ^ 48 - 1) (d.dst % 2 ^ 48) 0 0) .none))
           ∧ (issues s (.cwait y f) = true →
             let done :=
               if mode = 0 then ((clusterOf u k).barriers[bitsOf f.opnds 2 0]?.getD ⟨0, false⟩).count.toInt ≤ 0
               else if mode = 1 then (spNum u k (spOff wa) 8).testBit 63 = true
               else ∀ o ∈ (clusterOf u k).engine, o.core ≠ c
             (mode = 1 → isSp wa = true ∧ spBounds wa 8 = true) →
               (done → exec (.cwait y f) s = .next (issued s (.cwait y f) u .none))
                 ∧ (¬done → exec (.cwait y f) s = .next (waited s (.cwait y f) id)))
           ∧ (spReach wa 32 →
             (issues s (.cstat y f) = true →
                 let v := if bitsOf f.opnds 31 29 = 0 then headRecord u c (cHead f)
                   else if bitsOf f.opnds 31 29 = 1 then barrierRecord (clusterOf u k) 0
                   else if bitsOf f.opnds 31 29 = 2 then barrierRecord (clusterOf u k) 4 else engineRecord u k
                 exec (.cstat y f) s = .next (issued s (.cstat y f) u { Effects.none with sp := spWrites k (spOff wa) 32 v }))
               ∧ (issues s (.cdesc y f) = true →
                 (bitOf f.opnds 0 = true → exec (.cdesc y f) s = .next (issued s (.cdesc y f) u { Effects.none with
                     sp := spWrites k (spOff wa) 32 (rdE x (isCb y) f.desc.toNat).toNat }))
                   ∧ (bitOf f.opnds 0 = false → exec (.cdesc y f) s = .next (issued s (.cdesc y f)
                     (pushFlight u c (cSlotNo y) 5 (.reg (if isCb y then .eb else .ea) f.desc.toNat) (2 ^ 256 - 1)
                       (spNum u k (spOff wa) 32) 0 256) .none)))))

/-- MCAST, CSEND, CRECV and CHKS fork their engine operations, a transfer with its next round of its channel (R325, R327,
R328). What other packages contribute is free (log entry 15). -/
def Obligations.TransfersFork : Prop :=
  ∀ (y : CSlot) (f : CF) (s : State),
    let u := landed s
    let c := s.cur
    let x := actor s
    let slot := cSlotNo y
    let k := clusterOfCore c
    let ctx := ctxOfCore u c
    let wa := itAddr (itOf x f.iter.toNat)
    let ch := f.chan.toNat
    enginePlaces u k < 16 → ∀ d, pairOf u c y f (siteOf s (.mcast y f)) = .ok d →
      (issues s (.mcast y f) = true → d.mask ≠ 0 →
        let dva := if cIw f then wa else d.dst
        cSpot dva d.len 1 slot = none → ∀ src, sideOf u c slot d.src d.len .load = .ok src →
          exec (.mcast y f) s = .next (issued s (.mcast y f)
            (addOp u (blankOp u c .mcast d src (cutSpans ((receivers d).map fun j => ⟨0, d.len, .sp j (spOff dva), 255⟩)))) .none))
        ∧ (issues s (.csend y f) = true → ∀ e i, chanCheck u c f d.len false = .ok (e, i) →
          let sva := if cIw f then wa else d.src
          (cIw f = true → cSpot sva d.len 1 slot = none) → ∀ src, sideOf u c slot sva d.len .load = .ok src →
            let r := nextTransfer u ctx ch i false
            let o := { blankOp r.2 c .csend d src [] with chan := ch, round := r.1, endpoint := i, tileBytes := chTile e }
            exec (.csend y f) s = .next (issued s (.csend y f)
              (advance (addRemote (addOp r.2 o) c ch e r.1 (d.len / chTile e)) c y f d.len (!cIw f && !isSp d.src) false)
              .none))
        ∧ (issues s (.crecv y f) = true → toHead f = false → ∀ e i, chanCheck u c f d.len true = .ok (e, i) →
          let dva := if cIw f then wa else d.dst
          (cIw f = true → cSpot dva d.len 1 slot = none) → ∀ dst, recvDst u c slot dva d.len (chFmt e) = .ok dst →
            let r := nextTransfer u ctx ch i true
            let o := { blankOp r.2 c .crecv d [] dst.1 with
              accs := dst.2.map fun a => { a with array := some r.2.fresh }
              chan := ch, round := r.1, endpoint := i, tileBytes := chTile e }
            exec (.crecv y f) s = .next (issued s (.crecv y f)
              (advance (addRemote (addOp r.2 o) c ch e r.1 (contributionTiles e i (d.len / chTile e))) c y f d.len false
                (!cIw f && !isSp d.dst)) .none))
        ∧ (issues s (.crecv y f) = true → toHead f = true → ∀ e i, chanCheck u c f d.len true = .ok (e, i) →
          let h := cHead f
          let q := headOf x h
          q.bound = true → q.src = .channel → q.srcv.toNat = ch → chTile e % q.ew = 0 →
            let r := nextTransfer u ctx ch i true
            let o := { blankOp r.2 c .crecv d [] (entrySpans c q (nextEntry q) (d.len / q.ew)) with
              chan := ch, round := r.1, endpoint := i, tileBytes := chTile e, head := some h }
            exec (.crecv y f) s = .next (issued s (.crecv y f)
              (advance (addRemote (allocHead (addOp r.2 o) c h o.id (d.len / q.ew)) c ch e r.1
                (contributionTiles e i (d.len / chTile e))) c y f d.len false false) .none))
        ∧ (issues s (.chks y f) = true → ∀ e r,
          let h := BitVec.ofNat 64 d.src
          slotHandle u c slot h = .ok (e, r) → spReach wa 8 → (dMixed e = true ∨ dRole e = 0 ∨ dRole e = 3) → dFmt e ≠ 13 →
          d.dst + d.len ≤ dCount e → ∀ src, elemSpans u c slot e d.dst d.len = .ok src →
            exec (.chks y f) s = .next (issued s (.chks y f) (addOp u { blankOp u c .chks d src [] with
              result := spOff wa, cont := bitOf f.opnds 0, desc := e, first := d.dst }) .none))

/-! ## Tile instructions -/

/-- The firmware leaf of a built-in opcode on the current core computes its piece, commits it and waits to retire, or takes its
trap (R112 to R121; one leaf is one step, log entry 13). A TCOPY that reads a stream does so once the stream is ready, and
consumes it; one into a stream appends its elements (R118, R73). What the package carries out itself (R122 to R124, R115): TNOP
and TWAIT retire, TEVT also increments its counter, TSTEP retires once the geyser count is reached, TCAST in its turn sends its
recast, a die piece of TCOL in its turn sends its contribution and receives, and retires once its receptions have merged, and
TMAP starts a task of its kernel on a free core. How a TCOL is cut into die pieces, each of which combines and receives alone
and retires once its own receptions have merged, is the model's choice (log entry 56). -/
def Obligations.TileInstructionsComplete : Prop :=
  (∀ (t : Tile) (i : TileInst) (p : Piece) (s : State), firmwareOn s s.cur = some (i, p) → i.tile = t →
     (tileOp t ≠ 7 ∨ isWhole t (opdsI i) = false ∨ i.a = none ∨ i.c = none →
       let v := raceLeaf s s.cur i
       ∀ op ∈ [Instr.tmm t, .tmmg t, .tconv t, .tred t, .tscan t, .tcopy t, .tprj t, .tprja t, .tfill t, .tchk t],
         (∀ r q, leafOf v s.cur i p = .ok r → commitLeaf v s.cur i p r = .ok q →
             exec op s = .next (leafDone q.1 s.cur p q.2 r.iovf))
           ∧ ∀ e, leafOf v s.cur i p = .error e → exec op s = .next (leafTrap v s.cur i e))
       ∧ ∀ a o r, i.a = some a → i.c = some o → tileOp t = 7 → isWhole t (opdsI i) = true → streamIn s s.cur a = .ok true →
         let n := dCount o.desc
         joinAll (copyElem s s.cur i.tile a o) (List.range n) = .ok r →
           let consume (v : State) : State :=
             let u := recOf v i.ctx (hIndex a.handle) (hGen a.handle)
             if dRole a.desc = 1 then putRec v { u with consumer := some s.cur, fetched := n, consumed := n } else v
           (∀ q, dRole o.desc ≠ 1 → commitLeaf s s.cur i p r = .ok q →
               exec (.tcopy t) s = .next (leafDone (consume q.1) s.cur p q.2 false))
             ∧ ∀ d u ks, dRole o.desc = 1 → appendCheck s s.cur 0 o.handle n = .ok (d, u) →
               appendPages s s.cur 0 d u.issued (List.range n) = .ok ks →
                 exec (.tcopy t) s = .next (leafDone (enterAppends (consume s) s.cur d u ks
                   (r.outs.filterMap fun w => match w with | .put _ _ b => some b | _ => none)) s.cur p r.flags false))
    ∧ (∀ (t : Tile) (i : TileInst) (p : Piece) (s : State),
         (controlOf s t = some i →
           exec (.tnop t) s = .next (retireTile s i)
             ∧ ((bitOf i.tile.param 0 = false ∨ s.tiles.any (earlier i) = false) → exec (.twait t) s = .next (retireTile s i))
             ∧ (bitOf i.tile.param 0 = true → s.tiles.any (earlier i) = true → exec (.twait t) s = .next s)
             ∧ ((tp i.tile 31 16 = 0xFFFF ∨ tp i.tile 31 16 = s.pkg.toNat) → exec (.tevt t) s
                 = .next (retireTile (applyInc s i.ctx (tp i.tile 15 0) (tp i.tile 63 32)) i))
             ∧ (i.tile.param.toNat ≤ s.geyser.toNat → exec (.tstep t) s = .next (retireTile s i))
             ∧ (s.geyser.toNat < i.tile.param.toNat → exec (.tstep t) s = .next s))
           ∧ (carriedNow s t 5 = some (i, p) →
             let v := putTile { s with pieces := s.pieces.filter fun q => decide (q.id ≠ p.id) } { i with state := .recasting }
             exec (.tcast t) s = .next { v with recastReqs := v.recastReqs ++ [castRequest i] })
           ∧ (let merged := s.tiles.findSome? fun j => if j.tile = t then colMerged s j else none
             (merged = some p → exec (.tcol t) s = .next (putPiece s { p with state := .retired }))
               ∧ ∀ a o, merged = none → carriedNow s t 4 = some (i, p) → i.a = some a → i.c = some o →
                 exec (.tcol t) s = .next (runCol s i a o p))
           ∧ (startable s s.cur = some (i, p) → i.tile = t → exec (.tmap t) s = .next (startPiece s s.cur i p)))

/-! ## Events of the module -/

/-- The ordering steps: entries of the store queue apply, loads perform, adds combine, async entries merge, streams deliver and
increments apply, each once it may (R337 to R342, R349, R365). A number above those of this package's increments stands for
another package's (log entry 62), and a head number from 8 on for a head of a saved task (log entry 39), both the model's
choice; what a waiting repetition has done is kept for the watchdog (log entry 50). -/
def Obligations.OrderingStepsComplete : Prop :=
  ∀ (c k h : Nat) (s : State),
    (∀ e, mayApply (coreOf s c) k = some e →
        exec (.storeApply c k) s
          = .next (tryReturn (noteEffect s (applyEntry (dropSq s c e.id) c e) c e.id (unknownYet e)) c))
      ∧ (∀ l, mayPerform (coreOf s c) k = some l →
        let v := loadNum s c l.addr l.bytes
        exec (.loadPerform c k) s = .next (tryReturn (giveLoadSaved (modCore (pastFree s) c fun x =>
          giveLoad { x with loads := x.loads.filter fun m => decide (m.id ≠ l.id) } l v) c l v) c))
      ∧ (∀ b, s.bags[k]? = some b →
        let r := landAdd { s with bags := s.bags.eraseIdx k } b.2
        exec (.accCombine k) s = .next (tryReturn (noteEffect s (ackAdd r.1 b.1 b.2 r.2) b.1 (b.2.array.getD 0) true) b.1))
      ∧ (∀ e, s.async[k]? = some e → exec (.asyncMerge k) s = .next (softBytes
          { s with async := s.async.eraseIdx k, mem := memMasked s.mem (e.bytes.map fun b => (b.1, 0xFF#8, b.2)) }
          (e.bytes.map (·.1))))
      ∧ (∀ i, s.incs[k]? = some i → mayRise s i = true →
        exec (.eventIncrement k) s = .next (landInc { s with incs := s.incs.eraseIdx k } i))
      ∧ (∀ ctx i n r, s.incs[k]? = none → s.away = .increment ctx i n :: r → (ctxOf s ctx).state = 1 →
        exec (.eventIncrement k) s = .next (raiseEvent { s with away := r } ctx i n))
      ∧ (∀ i r, s.chains = i :: r → exec .eventChainApply s = .next (applyInc { s with chains := r } i.ctx i.idx i.inc))
      ∧ (let a := touchArrays s
        let y := threadHead a c h
        let w := threadView a c h
        let u := headSupply w c y
        let take := min (headPer y u.desc) (u.offered - u.fetched)
        y.bound = true → y.src = .str → headFree y ≠ 0 → take ≠ 0 → (take = headPer y u.desc ∨ u.closed = true) →
        ∀ q, fetchElems w c u.desc u.fetched take = some q →
          let b := codeBits (dFmt u.desc)
          let v := raceWith (pastFree a) (ctxOfCore w c) q.1 false (otherUnits a noCore)
          let v := spPut v (clusterOfCore c) (spOff y.base + y.ew * (y.pptr.toNat % max y.nent 1)) y.ew (packFields b q.2)
          let t := recOf v (ctxOfCore w c) (hIndex y.srcv) (hGen y.srcv)
          let v := if u.stream then (putRec v { t with fetched := t.fetched + take }) else v
          exec (.pipeDeliver c h) s = .next (setThreadHead v c h
            { y with pptr := y.pptr + 1, tailb := if take < headPer y u.desc then ceilDiv (take * b) 8 else 0 }))

/-- The array starts and completes its queue in order, takes a pending window mode when idle, and runs level-0 instructions in
ticket order (R262 to R264, R219). -/
def Obligations.ArrayStepsComplete : Prop :=
  ∀ (c k : Nat) (s : State),
    (∀ id, mayStart (coreOf s c).arrayQ = some id → ownsCycles s c = true → exec (.arrayOpStart c) s = .next
        (modCore s c fun x => { x with arrayQ := x.arrayQ.map fun o => if o.id = id then { o with started := true } else o }))
      ∧ (let v := touchQueue s (c + 1 - 2 * (c % 2))
        ∀ o r, (coreOf v c).arrayQ = o :: r →
          (o.drained = false → o.started = true → ownsCycles v c = true → o.out = 0 →
            let r := finishArray v c o
            let w := noteEffect v r.1 c o.id false
            (o.outs = [] → exec (.arrayOpComplete c) s = .next (leaveQueue w c o r.2))
              ∧ (o.outs ≠ [] → exec (.arrayOpComplete c) s = .next (modCore w c fun x => { x with
                arrayQ := x.arrayQ.map fun p => if p.id = o.id then { p with drained := true, flags := r.2 } else p })))
            ∧ (o.drained = true → arrayOwes v c o = false →
              exec (.arrayOpComplete c) s = .next (leaveQueue v c o o.flags)))
      ∧ (∀ m, (clusterOf s k).modePending = some m → arrayIdle s k = true →
        exec (.mwinModeTakeEffect k) s = .next (modCluster s k fun y => { y with mode := m, modePending := none }))
      ∧ (∀ l, ((coreOf s c).l0q.find? fun l => !l.done) = some l → l.started = false →
        let b := physBank (coreOf s c) c 0
        ((coreOf s c).arrayQ.any fun o => l.after.contains o.id) = false → bankBusy s (clusterOfCore c) b = false →
        (bankOf s (clusterOfCore c) b).resident = none → waitHolds s l.inst = true → ownsCycles s c = true →
          exec (.l0TileStart c) s = .next (modBank (putLocal s c { l with started := true, bank := b }) (clusterOfCore c) b
            fun y => { y with held := true }))
      ∧ ∀ l, ((coreOf s c).l0q.find? fun l => l.started && !l.done) = some l →
        let a := raceLeaf s c l.inst
        ∀ r us, localResult a c l.inst = .ok r → allOf (place a c l.inst none) r.outs = .ok us →
          let q := us.foldl (landPlaced 0) (raceOuts a c us, r.flags)
          let v := keepAcc (pastLeaf q.1) (clusterOfCore c) l.bank (decide (oFmt l.inst.a = 6)) r
          let v := lowerReaders (putLocal v c { l with done := true, status := BitVec.ofNat 64 q.2 }) l.inst.ctx l.inst.counts
          exec (.l0TileRetire c) s = .next (if evIdx l.inst.tile.sigw = 0 then v
            else raiseEvent v l.inst.ctx (evIdx l.inst.tile.sigw) (evVal l.inst.tile.sigw))

/-- The copy engine moves lines and completes operations, and channel tiles arrive, are delivered and become ready (R341, R314,
R386 to R389). What a tile meets at another package is free (log entry 15), that later rounds stay behind earlier ones is the
model's choice (log entry 53), and what a waiting repetition has done is kept for the watchdog (log entry 50). -/
def Obligations.EngineStepsComplete : Prop :=
  ∀ (k op line n : Nat) (s : State),
    let a := touchArrays s
    (∀ o, engFind a k op = some o →
      (∀ p, o.src[line]? = some p → o.readDone.contains line = false →
          exec (.threadLineAccess k op line) s = .next (readLine a k o line p))
        ∧ (∀ p, o.src.length ≤ line → o.dst[line - o.src.length]? = some p → writesLines o = true →
          o.writeDone.contains (line - o.src.length) = false → mayWrite a o p = true →
          exec (.threadLineAccess k op line) s
            = .next (noteEffect a (writeLine a k o (line - o.src.length) p) o.core o.id false))
        ∧ ((engDone a o = true ∨ (o.kind = .csend ∧ o.fail.isSome = true)) →
          let r := engFinish a k o
          let v := modCluster r.1 k fun y => { y with engine := y.engine.filter fun p => decide (p.id ≠ op) }
          let v := if o.cmpl / 2 % 2 = 1 then spPut v k o.cwoff 8 (completionWord r.2) else v
          let v := if o.cmpl % 2 = 1 && o.fail.isNone then raiseEvent v o.ctx o.evidx 1 else v
          exec (.engineOpComplete k op) s = .next (tryReturn (noteEffect a (returnOpFlags v o) o.core o.id false) o.core)))
      ∧ (∀ x, s.chanTiles[n]? = some x → x.moving = true → (chLocal s (chEntry s x.ctx x.chan) x.to_).isSome = true →
        let e := chEntry s x.ctx x.chan
        let rest := s.chanTiles.eraseIdx n
        (x.sig ≠ chSig s e → exec (.channelTileArrive n) s = .next (failSender { s with chanTiles := rest } x 0x12))
          ∧ (x.sig = chSig s e → mayBox s e x = true →
            let l := if x.complete then rest ++ [{ x with moving := false, senders := [] }]
              else if chCombines e = false then rest ++ [{ x with moving := false, complete := true }]
              else if chWide e then arriveWide e x rest else arriveNarrow e x rest
            exec (.channelTileArrive n) s = .next { s with chanTiles := l }))
      ∧ (∀ x, s.chanTiles[n]? = some x → x.moving = true → chLocal s (chEntry s x.ctx x.chan) x.to_ = none →
        exec (.channelTileArrive n) s = .next (arriveAway s (chEntry s x.ctx x.chan) x (s.chanTiles.eraseIdx n)))
      ∧ (∀ x c o j, a.chanTiles[n]? = some x → x.complete = true → x.moving = false →
        let e := chEntry a x.ctx x.chan
        chLocal a e x.to_ = some c →
        let eng := (clusterOf a (clusterOfCore c)).engine
        let waits (o : EngOp) : Bool := o.kind = .crecv && o.core = c && o.ctx = x.ctx && o.chan = x.chan
        (eng.find? fun o => waits o && decide (o.round = x.round)) = some o → tilePlace e o x = some j →
        o.sent.contains j = false → inTurn e o j = true → roundBehind a e x.ctx x.chan o.round = false →
        tileRoom a o j = true →
          exec (.channelTileDeliver n) s
            = .next (deliverTile { a with chanTiles := a.chanTiles.eraseIdx n } (clusterOfCore c) e o x j))
      ∧ ∀ r o, s.readyTiles[n]? = some r →
        let v := { s with readyTiles := s.readyTiles.eraseIdx n }
        engFind v (clusterOfCore r.core) r.op = some o →
        let w := engSet v (clusterOfCore r.core) { o with tiles := o.tiles ++ [r.tile] }
        (o.head = none → exec (.scratchpadTileReady n) s = .next w)
          ∧ ∀ h, o.head = some h →
            let m := o.tileBytes / max (opHead w o h).ew 1
            exec (.scratchpadTileReady n) s = .next (fillEntries w o h ((List.range m).map fun i => r.tile * m + i))

/-- Launch and placement: entries are fetched, pieces handed out, aged, stolen, started, retired and merged, gangs admitted,
instructions retired and their records written (R144, R152 to R157, R115, R128, R130, R204, R429). -/
def Obligations.SchedulingStepsComplete : Prop :=
  ∀ (lvl unit pool n c : Nat) (s : State),
    (∀ k, nextQp s = some k → exec .fetchEntry s = .next (acceptEntry s k))
      ∧ (2 ≤ lvl → lvl ≤ 5 → ∀ p v, served (eligiblePieces s lvl unit pool) = some p → serve s p = some v →
        exec (.handOutPiece lvl unit pool) s = .next v)
      ∧ (∀ p, (s.pieces.find? fun p => p.id = n && ((p.level = lvl && p.unit = unit && inQueue s p)
          || (lvl = 1 && s.frozen.any fun z => z.core = unit && z.task.piece = n))) = some p →
        ∀ i, tileOf s p.tile = some i → i.ageus ≠ 0xFFFF →
          exec (.agingTick lvl unit n) s = .next (putPiece s { p with aged := p.aged + 1 }))
      ∧ (∀ v p, thefts s [c] = [(c, v)] → oldest (stealable s v c) = some p →
        exec (.steal [c]) s
          = .next (putPiece { s with fresh := s.fresh + 1 } { p with unit := c, aged := 0, seq := s.fresh }))
      ∧ (∀ p i, oldest (s.pieces.filter fun p => p.level = 3 && p.unit = unit && p.state = .queued
          && (match tileOf s p.tile with | some i => isGang i && admissible s i p | none => false)) = some p →
        tileOf s p.tile = some i → exec (.gangAdmit unit) s = .next (startGang s i p))
      ∧ (∀ i p, startable s c = some (i, p) → exec (.taskStart c) s = .next (startPiece s c i p))
      ∧ (∀ t, (coreOf s c).task = some t → (gangCores s c).all (exitDone s) = true →
        let v := (gangCores s c).foldl (fun v d => endTask v t.piece d) s
        exec (.taskRetire c) s = .next { v with
          gangs := v.gangs.filter fun g => decide (some g.id ≠ t.gang)
          pieces := v.pieces.map fun p => if p.id = t.piece then { p with state := .retired } else p })
      ∧ (∀ p i, pieceOf s n = some p → tileOf s p.tile = some i → p.state = .retired → p.level < 5 →
        (castFirst s p = false → exec (.pieceRetireMerge n) s = .next (mergePiece s i p))
          ∧ (castFirst s p = true → exec (.pieceRetireMerge n) s = .next s))
      ∧ (∀ i p, tileOf s n = some i → (s.pieces.find? fun p => p.tile = n && p.level = 5) = some p → p.state = .retired →
        (s.recasts.any fun r => r.tiles.contains n) = false →
        exec (.tileRetire n) s = .next (retireTile s { i with flags := i.flags ||| p.flags, iovf := i.iovf || p.iovf }))
      ∧ (exec (.completionRecordWrite c n) s = .next (writeCqe s c n))
      ∧ ∀ f, s.faults[n]? = some f → exec (.faultRecordReceive n) s = .next (onFault { s with faults := s.faults.eraseIdx n } f)

/-! ## Events of the host, the management processor, the module and the network -/

/-- What a write of a doorbell, of a context's command or plain registers, of a partition or of the invalidation register does
(R95, R139, R141, R143, R145, R146, R149, R410, R430). -/
def Obligations.ContextEventsComplete : Prop :=
  ∀ (ctx qp p word off : Nat) (v : BitVec 32) (x : BitVec 64) (s : State),
    (hasBell s ctx qp = true →
       (let q := qpOf s ctx qp
        (v - q.sqhead).toNat ≤ 2 ^ q.sqlog → (q.sqtail - q.sqhead).toNat ≤ (v - q.sqhead).toNat →
          exec (.sqtailWrite ctx qp v) s = .next (modQp s ctx qp fun q => { q with sqtail := v }))
        ∧ exec (.cqheadWrite ctx qp v) s = .next (refreshFull (modQp s ctx qp fun q => { q with cqhead := v }) ctx qp)
        ∧ exec (.ovrClear ctx qp 1) s = .next (modQp s ctx qp fun q => { q with ovr := false }))
      ∧ (s.bootok = true → (ctxOf s ctx).state = 0 →
        let r := paNum s (ctxOf s ctx).cxrec.toNat 128
        let ds := qpDescs s r
        createCode s r ds = 0 → exec (.contextCreate ctx) s = .next (makeLive s ctx r ds))
      ∧ ((ctxOf s ctx).state = 1 →
         (let r := paNum s (ctxOf s ctx).cxrec.toNat 128
          let old := (ctxOf s ctx).rec_.toNat
          let new := updateFields.foldl (fun a q => setBits a q.1 q.2 ((r >>> q.2) % 2 ^ (q.1 + 1 - q.2))) old
          let ds := qpDescs s old
          let u := ((List.range ds.length).zip ds).foldl (fun s q =>
            modQp s ctx q.1 fun p => { p with en := q.2.testBit 148, pmax := (q.2 >>> 146) % 4 }) s
          exec (.contextUpdate ctx) s = .next (modCtx u ctx fun y => { y with ecode := 0, rec_ := BitVec.ofNat 1024 new }))
          ∧ exec (.contextDestroy ctx) s = .next (modCtx
            (forgetContext (releaseContext (stopContext (modCtx s ctx fun y => { y with state := 2 }) ctx) ctx) ctx) ctx
            fun y => { y with state := 0, ecode := 0 }))
      ∧ (p < 16 → partRefused s p (bitsOf x 31 0) = false → exec (.partitionWrite p x) s = .next { s with
          parts := sput 0 s.parts p (BitVec.ofNat 32 (bitsOf x 31 0)), partBusy := s.partBusy.filter fun r => decide (r ≠ p) })
      ∧ (s.xinvBusy = false → xinvCode x = 0 →
        exec (.xinvWrite x) s = .next { s with xinvEcode := 0, xinvBusy := true, xinvScope := some x })
      ∧ (s.xinvBusy = true → s.xinvScope = some x → exec .xinvDone s = .next { s with
          xinvBusy := false, xinvScope := none
          clusters := s.clusters.map fun q =>
            (q.1, { q.2 with tlb := q.2.tlb.filter fun e => !xinvCovers x e.ctx e.xlat }) })
      ∧ ((ctxOf s ctx).state = 0 → inTiers (bitsOf x 51 16 * 2 ^ 16) (2128 * 2 ^ 20) = true → exec (.cxsaveWrite ctx x) s
          = .next (modCtx s ctx fun y => { y with cxsave := BitVec.ofNat 52 (bitsOf x 51 16 * 2 ^ 16) }))
      ∧ ((ctxOf s ctx).state = 0 → exec (.owndigWrite ctx word x) s
          = .next (modCtx s ctx fun y => { y with owndig := y.owndig.setIfInBounds word x }))
      ∧ (off < 0x1000 → exec (.mgmtRegisterWrite off x) s = .next (writeCtxPlain s (off / 0x40) (off % 0x40) x))
      ∧ exec (.mgmtRegisterWrite 0x90000 x) s = .next { s with netctl := netctlOf x }
      ∧ exec (.mgmtRegisterWrite 0x90200 x) s = .next { s with fabsel := BitVec.ofNat 16 (bitsOf x 15 0) }

/-- A host's write that may apply does, and a host's read answers the bytes (R343, R348, R139). That a read of the management
range returns its registers one after another, and 0 where none stands, is the model's choice (log entries 42 and 17). -/
def Obligations.HostAccessCompletes : Prop :=
  ∀ (k h pa n : Nat) (bs : List (BitVec 8)) (v : BitVec 64) (s : State), s.bootok = true →
    (s.hostBuf[k]? = some (.mem h pa bs) → inTiers pa bs.length = true →
        exec (.hostApply k) s = .next (hostStore { s with hostBuf := s.hostBuf.eraseIdx k } pa bs))
      ∧ (s.hostBuf[k]? = some (.reg h 0x90200 v) → mayApplyHost s k = true → exec (.hostApply k) s
          = .next { s with hostBuf := s.hostBuf.eraseIdx k, fabsel := BitVec.ofNat 16 (bitsOf v 15 0) })
      ∧ (mgmtBase ≤ pa → pa + n ≤ mgmtBase + 2 ^ 32 → exec (.hostRead pa n) s = .next { s with
          hostReply := (List.range n).map fun i => BitVec.ofNat 8
            (fieldAt (readMgmt s ((pa - mgmtBase + i) / 8 * 8)) 8 ((pa - mgmtBase + i) % 8)) })
      ∧ ((pa < mgmtBase ∨ mgmtBase + 2 ^ 32 < pa + n) → inTiers pa n = true → exec (.hostRead pa n) s = .next { s with
          hostReply := (List.range n).map fun i => memByte s.mem (memKey s.pkg.toNat pa + i) })

/-- What the debug unit does (R430 to R432, R435 to R437): a mode is set once it is authorised, tasks halt and go on, and a
readback of a unit in service, authorised, is written to its destination and then ends. -/
def Obligations.DebugEventsComplete : Prop :=
  ∀ (ctx : Nat) (v dst : BitVec 64) (s u : State),
     (let m := bitsOf v 1 0
      m ≠ 3 → (if m = 0 then some s else authorise s ctx (8 + m)) = some u →
        let w := if (ctxOf u ctx).dbgmode = 2 && m ≠ 2 then (coresIn u ctx).foldl resumeHalted u else u
        exec (.debugModeWrite ctx v) s
          = .next (modCtx w ctx fun y => { y with dbgmode := m, trlog := max 8 (min 24 (bitsOf v 47 40)) }))
      ∧ ((ctxOf s ctx).dbgmode = 2 → exec (.debugHalt ctx) s = .next ((coresIn s ctx).foldl haltTask s))
      ∧ exec (.debugResume ctx) s = .next ((coresIn s ctx).foldl resumeHalted s)
      ∧ (let c := rbUnit s
        let mine := match (coreOf s c).task with | some t => [t.ctx] | none => []
        rbMay s 0 = true → c < 512 → diePresent s (c / 64) = true →
        authoriseAll s (rbKind s) (rbCtx s :: mine).eraseDups = (u, true) →
          exec (.readbackCore dst) s = .next (readCore u c (rbAddr dst)))
      ∧ (let k := rbUnit s
        rbMay s 1 = true → k < 256 → diePresent s (k / 32) = true →
        authoriseAll s (rbKind s) (rbCtx s :: (clusterOf s k).spCtx.toList).eraseDups = (u, true) →
          exec (.readbackCluster dst) s = .next (rbRuns (writeClusterImage u k (rbAddr dst)) 8454144 0))
      ∧ (let lvl := rbUnit s / 2 ^ 13
        let n := rbUnit s % 2 ^ 13
        rbMay s 2 = true →
        (lvl = 5 → n = 0 → authoriseAll s 2 (rbCtx s :: schedCtxs s 5 0).eraseDups = (u, true) →
            exec (.readbackScheduler dst) s = .next (readScheduler u 5 0 (rbAddr dst)))
          ∧ ∀ d, (lvl ≠ 5 ∨ n ≠ 0) → schedDie lvl n = some d → diePresent s d = true →
            authoriseAll s (rbKind s) (rbCtx s :: schedCtxs s lvl n).eraseDups = (u, true) →
              exec (.readbackScheduler dst) s = .next (readScheduler u lvl n (rbAddr dst)))
      ∧ (rbMay s 3 = true → (ctxOf s (rbCtx s)).state = 1 → eventOk s (rbCtx s) (rbUnit s) = true →
        authorise s (rbCtx s) 3 = some u → exec (.readbackEvent dst) s
          = .next (rbRuns (storeRange u (rbAddr dst) 64 (evEntry u (rbCtx s) (rbUnit s))) 64 0))
      ∧ (rbMay s 6 = true → exec (.readbackCertChain dst) s = .next
        (rbRuns (storeBytes s (rbAddr dst) Config.certificateChain) Config.certificateChain.length 0))
      ∧ (rbMay s 7 = true →
        let body := reportBody s (memBytes s.mem (memKey s.pkg.toNat (rbAddr dst)) 64)
        let sig := exactly 4627 (Config.attestationSignature (toBytes 64 (Config.shake256 body).toNat))
        exec (.readbackAttestation dst) s = .next (rbRuns (storeBytes s (rbAddr dst) (body ++ sig)) 5315 0))
      ∧ ∀ n e, s.rbPend = some (n, e) → exec .readbackDone s
        = .next { s with rbBusy := false, rbPend := none, rbBytes := BitVec.ofNat 32 n, rbEcode := e }

/-- What the events of the module do (R18, R19, R25, R26, R420, R434, R438): the boot, failures of dies, the clock, the power
limit, an idle die, and a data error that stops the unit that meets it. -/
def Obligations.ModuleEventsComplete : Prop :=
  ∀ (d c k op pa w : Nat) (ds : List Nat) (s : State),
    exec .moduleResetBoot s = .next (loadImages (afterReset s) [0, 1, 2, 3, 4])
      ∧ exec (.dieFatalFault ds) s = .next (failDies s ds)
      ∧ exec (.thermalDieFatal d) s = .next (failDies s [d])
      ∧ (s.reduced = false → exec .powerLimitExceeded s
          = .next (if detJob s then { s with clockPending := some true } else setClock s true))
      ∧ (s.reduced = true → (∀ e ∈ s.dies.toList, e.hot = false) → exec .powerLimitRecovered s
          = .next (if detJob s then { s with clockPending := some false } else setClock s false))
      ∧ (∀ b, s.clockPending = some b → exec .detClockChangeBoundary s = .next (setClock s b))
      ∧ (∀ e, s.dies[d]? = some e →
        (s.switching.contains d = true → exec (.dieSwitchInComplete d) s = .next { s with
            switching := s.switching.filter fun q => decide (q ≠ d)
            dies := s.dies.setIfInBounds d { e with pstate := workState s } })
          ∧ (let v := { s with dies := s.dies.setIfInBounds d { e with hot := true } }
            exec (.thermalTrip d) s = .next (if s.reduced then { v with clockPending := none }
              else if detJob v then { v with clockPending := some true } else setClock v true))
          ∧ (e.dstate = 0 → e.pstate ≤ 1 → dieQuiet s e.log = true →
            exec (.dieIdleEntry d) s = .next { s with dies := s.dies.setIfInBounds d { e with pstate := 2 } }))
      ∧ exec (.setPowerLimit w) s = .next { s with powerLimit := clampTo 1800 2900 w }
      ∧ ((coreOf s c).task.isSome = true → exec (.dataError (.core c) pa) s = .next (failTask s c 2 0x0E pa))
      ∧ (∀ o, engFind s k op = some o →
        let v := modCluster s k fun y => { y with engine := y.engine.filter fun q => decide (q.id ≠ op) }
        exec (.dataError (.engine k op) pa) s = .next (abortOp (if o.cmpl / 2 % 2 = 1
          then spPut v k o.cwoff 8 (completionWord { o with fail := some 0x0E }) else v) o pa))
      ∧ ∀ z, (coreOf s c).mode ≠ .frozen → s.frozen.find? (savedAt s c pa) = some z →
        exec (.dataError (.record c) pa) s = .next (abortFrozen s z pa)

/-- What the network does (R374, R378, R380, R381, R362, R445): recovery, flits with a good or a bad CRC, acknowledgement and
retry, a failed port, a new numbering, packets released in their flow's order, and the geyser. How an acknowledgement names the
flits that it releases and where a retry request starts the resending is the model's choice (log entry 18). -/
def Obligations.NetworkEventsComplete : Prop :=
  ∀ (r c n : Nat) (f : Flit) (rs : List Route) (g : Option (BitVec 64)) (m : BitVec 64) (s : State),
    (vcFlits s r c ≠ [] → exec (.noProgressTimeout r c) s = .next { s with
        reccnt := BitVec.ofNat 32 (min (s.reccnt.toNat + 1) (2 ^ 32 - 1))
        escape := s.escape ++ (vcFlits s r c).map fun f => (r, f)
        vcs := s.vcs.filter fun v => !(decide (v.router = r) && decide (v.vc = c))
        recovering := s.recovering ++ [r] })
      ∧ exec (.recoveryWindowEnd r) s = .next { s with recovering := s.recovering.erase r }
      ∧ (∀ q, portOf s n = some q →
        (flitGood f = true →
          (f.kind = 0 → exec (.headerFlit n f) s = .next (packetFlit s n q f fun s q => openPacket s n q f))
            ∧ (f.kind = 1 → exec (.payloadFlit n f) s = .next (packetFlit s n q f fun s q => addPayload s n q f))
            ∧ (f.kind = 2 → exec (.acknowledge n f) s = .next (setPort s n { q with
                retry := q.retry.filter fun g => !(sameFlow f g && (f.seq - g.seq).toNat < 2 ^ 31) }))
            ∧ (f.kind = 3 → exec (.retryRequest n f) s
                = .next (setPort s n { q with sent := q.sent ++ resend f f.payload.toNat q.retry }))
            ∧ (f.kind = 4 → exec (.idle n f) s = .next s))
          ∧ (flitGood f = false →
            (2 ≤ f.kind.toNat → exec (.flitCrcFail n f) s = .next (badFlit s n f))
              ∧ (resent q f = false → exec (.flitCrcFail n f) s = .next (badFlit s n f))
              ∧ (f.kind = 2 → exec (.acknowledge n f) s = .next (badFlit s n f))
              ∧ (f.kind = 3 → exec (.retryRequest n f) s = .next (badFlit s n f))
              ∧ (f.kind = 4 → exec (.idle n f) s = .next (badFlit s n f)))
          ∧ exec (.portFailure n) s = .next (failAccesses (failEngines (moveFlows
            (withdrawPort (setPort s n { q with failed := true, retry := [], open_ := [], await := none }) n) n q))))
      ∧ exec (.fabricGroupConfigure n rs g) s = .next { s with
          mem := renumber s.mem s.pkg.toNat (n % 2 ^ 16), pkg := BitVec.ofNat 16 n
          routes := ⟨n % 2 ^ 16, 0, []⟩ :: rs.filter fun r => decide (r.pkg ≠ n % 2 ^ 16)
          geyserPending := if fixedLatency s then g.or s.geyserPending else s.geyserPending }
      ∧ (∀ p, s.early[n]? = some p → exec (.fixedLatencyPacketRelease n) s
          = .next (deliverWaiting s.early.length { s with early := s.early.set n { p with released := true } }))
      ∧ (s.geyserPending = none → exec .geyserTick s = .next { s with geyser := s.geyser + 1 })
      ∧ (s.geyserPending = some m → exec .geyserTick s = .next { s with geyser := m, geyserPending := none })
      ∧ (fixedLatency s = true → exec (.geyserAlignMessage m) s = .next { s with geyserPending := some m })

/-- What ends a wait or stops and resumes a task (R176, R402, R409 to R417): a stalled repetition is tried again, the
watchdog's trap, pre-emption requests, a freeze with its record, and a resumption. What the watchdog's withdrawal undoes is the
model's choice (log entry 50), and so are the trap taken in place of a hard freeze and the points at which a record is saved
and a task resumes (log entry 39). -/
def Obligations.StopsAndResumesComplete : Prop :=
  ∀ (c b ctx : Nat) (v : BitVec 64) (s : State),
    exec (.issueBundle [c]) s = .next (issueCycle s [c])
      ∧ ((coreOf s c).mode = .running → (coreOf s c).waiting.isSome = true → exec (.stallRelease c) s = .next (issueCycle s [c]))
      ∧ (∀ h, (coreOf s c).mode = .returning h → exec (.stallRelease c) s = .next (tryReturn s c))
      ∧ (∀ n q, waitSlot s c = some n →
        (asserted (coreOf s c) = true ∨ (coreOf s c).mode = .exiting → exec (.watchdogExpiry c) s
            = .next (takeTrap ((endsWith s c).foldl withdraw s) c (trapOf 0x13 n)))
          ∧ (asserted (coreOf s c) = false → (coreOf s c).mode = .running → nextTrap s c = none →
            exec (.watchdogExpiry c) s = .next (takeTrap s c (trapOf 0x13 n)))
          ∧ (asserted (coreOf s c) = false → (coreOf s c).mode = .running → nextTrap s c = some q →
            exec (.watchdogExpiry c) s = .next (takeTrap s q.1 q.2)))
      ∧ ((ctxOf s ctx).cxsave ≠ 0 →
        let w := modCtx s ctx fun y => { y with hold := bitOf v 63, qmask := BitVec.ofNat 32 (bitsOf v 31 0) }
        (bitsOf v 33 32 = 1 → exec (.preemptSoftRequest ctx v) s
            = .next ((requested w ctx (bitsOf v 31 0)).foldl (fun s c => modCore s c askSoft) w))
          ∧ (bitsOf v 33 32 = 2 → exec (.preemptHardRequest ctx v) s
            = .next ((requested w ctx (bitsOf v 31 0)).foldl (fun s c => modCore s c fun x => { x with hard := true }) w)))
      ∧ ((coreOf s c).soft = true → (coreOf s c).deadline = true → exec (.preemptDeadlineExpiry c) s
          = .next (modCore s c fun x => { x with hard := true }))
      ∧ (let here := (lockstep s c).filter fun c => decide ((coreOf s c).mode ≠ .frozen) && !behind s c
        (coreOf s c).hard = true → here.all (openBoundary s) = true →
          ((here = [] ∨ asserted (coreOf s c) = true ∨ runsFirmware (coreOf s c) = true ∨ nextTrap s c = none) →
            exec (.hardPreemptFreeze c) s = .next (here.foldl (fun s c => freezeCore s c (some 0x10) .frozen) s))
            ∧ ∀ q, here ≠ [] → asserted (coreOf s c) = false → runsFirmware (coreOf s c) = false → nextTrap s c = some q →
              exec (.hardPreemptFreeze c) s = .next (takeTrap s q.1 q.2))
      ∧ (∀ t, (coreOf s c).task = some t → mayRecord s c = true → exec (.freezeRecordSave c) s = .next (saveRecord s c t))
      ∧ (∀ p z, (coreOf s c).mode = .free → (coreOf s c).task = none → servedLocal s c = some p →
        (s.frozen.find? fun z => z.core = c && z.task.piece = p.id) = some z → exec (.frozenTaskResume c) s
          = .next ((s.frozen.filter fun w => (frozenCores s z).contains w.core && w.task.piece = p.id).foldl resumeTask s))
      ∧ ((banksWanted s c).contains b = true → exec (.bankSpill c b) s = .next (spillResident s c b))

/-- What the recast unit, the translation walkers, the fault service and the release of groups do (R82, R84, R91, R98, R356,
R360, R422). The numbers of FAULT_SERVICE_RESOLVE from 512 on for what another package's service does, and from 1024 on for
paging, are the model's choice (log entry 62). -/
def Obligations.ServiceEventsComplete : Prop :=
  ∀ (k c ctx line die g : Nat) (va : BitVec 64) (s : State),
    (∀ r, s.recastReqs[k]? = some r →
      let u := { s with recastReqs := s.recastReqs.eraseIdx k }
      (∀ d n, recastVerdict s r = .start → openHandle s r.ctx r.handle = some (d, n) →
          exec (.recastArrival k) s = .next (startCast u r d (rolesOf s r.ctx d)))
        ∧ (recastVerdict s r = .join → exec (.recastArrival k) s = .next (answered { u with
            recasts := u.recasts.map fun p => if p.ctx = r.ctx && p.index = hIndex r.handle && p.gen = hGen r.handle
              then noteArrival s r.by_ r.evInc p else p } r))
        ∧ (recastVerdict s r = .wait → exec (.recastArrival k) s = .next s)
        ∧ ∀ cause addr, recastVerdict s r = .refuse cause addr → cause ≠ 0x05 →
          exec (.recastArrival k) s = .next (refuseCast u r cause addr))
      ∧ (∀ p, s.recasts[k]? = some p → exec (.recastComplete k) s = .next (completeCast s p))
      ∧ (∀ x, pageOf s ctx va.toNat = some x → s.xinvBusy = false →
        exec (.pageWalkComplete c ctx va) s = .next (modCluster s c fun y => cacheIn y ctx x))
      ∧ (∀ t, c < 512 → (coreOf s c).mode = .service → (coreOf s c).svc = some t → (coreOf s c).resolved = false →
        (t.cause = 0x06 → exec (.faultServiceResolve c) s = .next (serveWrite s c (ctxOfCore s c) t))
          ∧ (t.cause ≠ 0x06 → exec (.faultServiceResolve c) s = .next (serveTranslation s c (ctxOfCore s c) t)))
      ∧ exec (.faultServiceResolve (c % 512 + 512)) s = .next (serveAway s)
      ∧ exec (.faultServiceResolve (c + 1024)) s = .next (serveByPaging s c)
      ∧ ((coreOf s c).mode = .service → (coreOf s c).resolved = true → exec (.faultResolvedRetry c) s
          = .next (setCore s c { coreOf s c with
            mode := if (coreOf s c).shadow.isSome then .handler else .running, svc := none, resolved := false }))
      ∧ (let q := groupOf s ctx line die
        q.open_ = true → (∀ m ∈ q.required, m ∈ q.asserted) →
          exec (.syncRelease ctx line die) s = .next (q.asserted.foldl (endSync ctx line) (putGroup s (nextRound q))))
      ∧ ∀ y, (s.gangs.find? fun y => y.id = g) = some y → y.fused = false →
        let cs := y.members.filter fun m => !y.exited.contains m
        (∀ m ∈ cs, (coreOf s m).rejoinWait = true ∧ (coreOf s m).mode = .running ∧ ∃ q ∈ y.rejoined, q.1 = m) →
          let u := { s with gangs := s.gangs.map fun z => if z.id = g then { z with fused := true, joining := true } else z }
          exec (.rejoinRelease g) s = .next (cs.foldl (fun s c =>
            modCore s c fun x => { x with rejoinWait := false, gskew := 0, follow := [] }) u)

/-! ## Whole-machine rules -/

/-- What reset leaves where the spec gives a value: the registers of the module (R17, R377, R434, R435), of a context and a
queue pair (R139, R143), and of a core (R194, R227, R306). -/
def Obligations.ResetLeavesWhatTheSpecGives : Prop :=
  let s := State.reset
  s.bootok = false ∧ s.booterr = 0 ∧ s.xinvBusy = false
    ∧ s.netctl = 0x0190_0010_0040_0000#64 ∧ s.reccnt = 0 ∧ s.late = 0 ∧ s.retryCnt = 0 ∧ s.pkg = 0 ∧ s.geyser = 0
    ∧ s.meas = Vector.replicate 8 0
    ∧ (∀ n, (ctxOf s n).state = 0 ∧ (ctxOf s n).ecode = 0 ∧ (ctxOf s n).cxsave = 0 ∧ (ctxOf s n).trlog = 8
      ∧ (ctxOf s n).dbgmode = 0)
    ∧ (∀ c q, (qpOf s c q).sqhead = 0 ∧ (qpOf s c q).sqtail = 0 ∧ (qpOf s c q).cqhead = 0 ∧ (qpOf s c q).ovr = false)
    ∧ (∀ p, partMask s p = 0)
    ∧ ∀ c, rdS (coreOf s c) 0 = 0 ∧ rdP (coreOf s c) 0 = true
      ∧ rdM (coreOf s c) false 0 = BitVec.allOnes 64 ∧ rdM (coreOf s c) true 0 = BitVec.allOnes 64

/-- Memory and the scratchpads are in their canonical form at reset. -/
def Obligations.MemoryCanonicalAtReset : Prop :=
  memOk State.reset = true

/-- Every step keeps memory and the scratchpads in their canonical form: equal memories stay equal lists. -/
def Obligations.MemoryStaysCanonical : Prop :=
  ∀ s t : State, memOk s = true → step s = .next t → memOk t = true

/-- What the boot left changes with no step but a reset of the module (R17, R434): the fuses never change, and the boot's
result, its security version and its measurements only in a boot. No instruction, host write or fault changes them. -/
def Obligations.OnlyABootChangesItsResult : Prop :=
  ∀ s t : State, step s = .next t →
    t.fuses = s.fuses ∧ (s.agenda.head? ≠ some .moduleResetBoot → SameBoot t s)

/-- What holds an operation back (R166, R176, R177). Gated off, it does nothing but step its iterators; under an interlock, no
result, register, iterator or issue count of the core changes; and a core that may not issue is unchanged, which is the model's
choice (log entry 5). -/
def Obligations.HeldBackChangesNothing : Prop :=
  ∀ (i : Instr) (s : State), (slotOf i).isSome = true →
    (mayIssue s i = true → gateOpen (actor s) (guardOf i) = false →
      exec i s = .next (issued s i (landed s) .none))
      ∧ (lockstep s s.cur = [s.cur] → issuing s s.cur = true → interlock (landed s) s.cur i = true →
        exec i s = .next (waited s i id)
          ∧ coreOf (waited s i id) s.cur
            = { coreOf s s.cur with
                held := (coreOf s s.cur).held.setIfInBounds ((slotOf i).getD 0) i, waiting := some ((slotOf i).getD 0, i) })
      ∧ (lockstep s s.cur = [s.cur] → issuing s s.cur = false → exec i s = .next s)

/-- A trap outside handler state that no fault service sees first freezes the core with the trap recorded, and enters the
handler at `TVEC` (R400, R403, R407): s1 to s7 and p1 to p7 and the task's loop, flag and collision registers are shadowed and
cleared. Results in flight other than register results, which land at the freeze (log entry 14), are left out. -/
def Obligations.TrapEntersItsHandler : Prop :=
  ∀ (s : State) (c : Nat) (t : Trap),
    let x := coreOf s c
    let u := takeTrap s c t
    let y := coreOf u c
    (∀ a ∈ x.inflight, isRegResult a = true) →
    x.shadow = none → t.cause ≠ 0x05 → t.cause ≠ 0x06 → t.fetch = false → (ctxOf s (ctxOfCore s c)).dbgmode = 0 →
      (∀ r, x.tvec ≠ 0 → kernelRegion u (ctxOfCore s c) x.tvec = some r → gangOf s c = none →
        y.mode = .handler ∧ y.pc = BitVec.ofNat 64 r.base ∧ y.handlerCode = r
          ∧ y.tcause = BitVec.ofNat 64 t.cause ∧ y.tpc = BitVec.ofNat 64 (x.pc.toNat % 2 ^ 56)
          ∧ y.taddr = BitVec.ofNat 64 (t.addr % 2 ^ 56) ∧ y.tdetail = BitVec.ofNat 64 t.detail
          ∧ (∀ n, 1 ≤ n → n ≤ 7 → rdS y n = 0 ∧ rdP y n = false) ∧ (∀ n, 8 ≤ n → n < 16 → rdS y n = rdS x n)
          ∧ y.rbase = 0 ∧ y.loopcnt = 0 ∧ y.loopend = 0 ∧ y.aflags = 0 ∧ y.wcoll = 0 ∧ y.issueCount = 0 ∧ y.repidx = 0
          ∧ y.held = slotNops ∧ y.inflight = [] ∧ y.va = x.va ∧ y.vb = x.vb ∧ y.heads = x.heads ∧ y.its = x.its
          ∧ ∃ sh, y.shadow = some sh ∧ sh.rbase = x.rbase ∧ sh.loopcnt = x.loopcnt ∧ sh.loopend = x.loopend
            ∧ sh.repidx = x.repidx ∧ sh.issueCount = x.issueCount ∧ sh.held = x.held.toList
            ∧ ∀ n, n < 7 → sh.s[n]? = x.s[n + 1]? ∧ sh.p[n]? = x.p[n + 1]?)

/-- ADD of one repetition is seen only in the next (R175): the core's registers still hold the old value after it issues, and
the sum from the landing at its next issue cycle, when no other result lands there. s0 discards it (R194). -/
def Obligations.AddLandsInTheNextCycle : Prop :=
  ∀ (f : SRR) (s t : State),
    let x := actor s
    issues s (.add f) = true → exec (.add f) s = .next t →
      rdS (coreOf t s.cur) f.d.toNat = rdS x f.d.toNat
        ∧ ((∀ a ∈ x.inflight, a.due ≠ some (x.issueCount + 1)) →
          rdS (coreOf (landNow t s.cur) s.cur) f.d.toNat = if f.d = 0 then 0 else sA x f + sB x f)

/-- s0 reads as zero in every use and p0 as 1, and results written to them are discarded: none of them is ever in flight, not
even one that would wait for data, and none takes part in a landing collision (R194). -/
def Obligations.ZeroRegistersDiscard : Prop :=
  (∀ x : Core, rdS x 0 = 0 ∧ rdP x 0 = true)
    ∧ (∀ (s : State) (c slot lat : Nat) (v : Word) (b : Bool), setS s c slot lat 0 v = s ∧ setP s c slot lat 0 b = s)
    ∧ (∀ (s : State) (c d : Nat), coreOf (pendS s c 0).2 d = coreOf s d)
    ∧ ∀ a : Flight, a.dst ∈ [Dest.reg .s 0, .reg .p 0] → collides a = false

/-- The identities of the reductions (R60), in the bits of each format. -/
def Obligations.ReductionIdentities : Prop :=
  (∀ q ∈ [(Fmt.f32, 0x8000_0000, 0x3F80_0000, 0x7F80_0000, 0xFF80_0000), (.f16, 0x8000, 0x3C00, 0x7C00, 0xFC00),
        (.bf16, 0x8000, 0x3F80, 0x7F80, 0xFF80), (.e5m2, 0x80, 0x3C, 0x7C, 0xFC), (.e4m3, 0x80, 0x38, 0x7E, 0xFE),
        (.f64, 0x8000_0000_0000_0000, 0x3FF0_0000_0000_0000, 0x7FF0_0000_0000_0000, 0xFFF0_0000_0000_0000)],
      identityOf q.1 0 = q.2.1 ∧ identityOf q.1 1 = q.2.2.1 ∧ identityOf q.1 2 = q.2.2.2.1 ∧ identityOf q.1 3 = q.2.2.2.2)
    ∧ ∀ q ∈ [(Fmt.i8, 0x7F, 0x80, 0xFF), (.n8, 0xFF, 0, 0xFF), (.i16, 0x7FFF, 0x8000, 0xFFFF),
        (.i32, 0x7FFF_FFFF, 0x8000_0000, 0xFFFF_FFFF), (.n32, 0xFFFF_FFFF, 0, 0xFFFF_FFFF),
        (.i64, 0x7FFF_FFFF_FFFF_FFFF, 0x8000_0000_0000_0000, 0xFFFF_FFFF_FFFF_FFFF)],
      identityOf q.1 0 = 0 ∧ identityOf q.1 1 = 1 ∧ identityOf q.1 2 = q.2.1 ∧ identityOf q.1 3 = q.2.2.1
        ∧ identityOf q.1 4 = q.2.2.2 ∧ identityOf q.1 5 = 0 ∧ identityOf q.1 6 = 0

/-- One increment of a counter (R365): its value saturates and marks `SATD`, exactly the armed thresholds that it crosses fire,
once, and their chains queue in ascending threshold; thresholds and chains themselves stay. -/
def Obligations.IncrementFiresThresholds : Prop :=
  ∀ e inc : Nat, e < 2 ^ 512 →
    let r := incStep e inc
    let old := e % 2 ^ 64
    let new := min (old + inc) (2 ^ 64 - 1)
    let fires (t : Nat) : Bool := evArmed e t && decide (old < evThr e t) && decide (evThr e t ≤ new)
    r.1 % 2 ^ 64 = new ∧ r.1.testBit 80 = (e.testBit 80 || decide (2 ^ 64 ≤ old + inc))
      ∧ (∀ t, t < 4 → evArmed r.1 t = (evArmed e t && !fires t) ∧ r.1.testBit (68 + t) = (e.testBit (68 + t) || fires t)
        ∧ evThr r.1 t = evThr e t ∧ evChain r.1 t = evChain e t)
      ∧ ∃ l : List Nat, l.Nodup ∧ (∀ t, t ∈ l ↔ t < 4 ∧ fires t = true)
        ∧ l.Pairwise (fun t u => evThr e t < evThr e u ∨ (evThr e t = evThr e u ∧ evRank e t ≤ evRank e u))
        ∧ r.2 = (l.filter fun t => decide (evChain e t % 2 ^ 16 ≠ 0)).map fun t => (evChain e t % 2 ^ 16, evChain e t / 2 ^ 16)

/-- An iterator reversed with every index 0 yields its former sequence backwards (R171), over one whole traversal. A stride of
−2^31 has no negation in 32 bits and is left out. -/
def Obligations.ReversedIteratorGoesBack : Prop :=
  ∀ (i : Iter) (k : Nat), (∀ l ∈ [i.l0, i.l1, i.l2, i.l3], l.idx = 0 ∧ l.stride ≠ BitVec.intMin 32) →
    let n := lvCount i.l0 * lvCount i.l1 * lvCount i.l2 * lvCount i.l3
    k < n → itAddr (itSteps k (itReverse i)) = itAddr (itSteps (n - 1 - k) i)

/-! ## Frames -/

/-- What the S operations that only write registers leave (R166, R167, R175, R197 to R200): beside one result in flight,
nothing but the program address and the bookkeeping of the issue. Memory, every scratchpad, every other core, and all the
core's registers, predicates, flags, iterators, heads, special and exception registers are as they were. -/
def Obligations.RegisterOperationsFrame : Prop :=
  ∀ (f : SRR) (r : SRI) (w : SI16) (i : Instr) (s t : State),
    i ∈ [Instr.add f, .sub f, .mul f, .mulh f, .mulhn f, .div f, .divn f, .mod f, .modn f, .and f, .or f, .xor f, .shl f, .shr f,
      .sra f, .min f, .max f, .minn f, .maxn f, .clz f, .popc f, .sext f, .zext f, .addi r, .andi r, .ori r, .xori r, .shli r,
      .shri r, .srai r, .li w, .lih16 w, .lih32 w, .lih48 w, .cmp f, .cmpi r, .pand f, .por f, .pxor f, .sel f, .pmov f,
      .pmovToS f] →
    issues s i = true → exec i s = .next t →
      let u := landed s
      let x := actor s
      let y := coreOf t s.cur
      { t with cores := u.cores, clusters := u.clusters, fresh := u.fresh } = u
        ∧ (∀ c, c ≠ s.cur → coreOf t c = coreOf u c)
        ∧ (∀ k, { clusterOf t k with waitEngine := (clusterOf u k).waitEngine } = clusterOf u k)
        ∧ { y with inflight := x.inflight, issueCount := x.issueCount, waiting := x.waiting, stepWait := x.stepWait, skipS := x.skipS,
                   held := x.held, pc := x.pc, repidx := x.repidx } = x
        ∧ (∃ l, y.inflight = x.inflight ++ l ∧ l.length ≤ 1) ∧ y.pc = x.pc + 8 ∧ y.repidx = 0
        ∧ y.issueCount = x.issueCount + 1

/-- What the vector operations of R231 to R233 that write one vector or mask register leave: beside at most one result in
flight, whose destination is the physical register (R168) that it names in the slot's own file, nothing but the program address
and the bookkeeping of the issue. -/
def Obligations.VectorOperationsFrame : Prop :=
  ∀ (v : VSlot) (f : VF) (e : Elems) (i : Instr) (s t : State),
    i ∈ [Instr.vadd v f, .vsub v f, .vmul v f, .vfma v f, .vfms v f, .vfnma v f, .vmin v f, .vmax v f, .vabs v f, .vneg v f,
      .vdiv v f, .vmulh v f, .vsadd v f, .vssub v f, .vand v f, .vor v f, .vxor v f, .vnot v f, .vshl v f, .vshr v f, .vsra v f,
      .vpopc v f, .vclz v f, .vcmp v f] →
    issues s i = true → vElems (landed s) s.cur v f = .ok (some e) → exec i s = .next t →
      let u := landed s
      let x := actor s
      let y := coreOf t s.cur
      { t with cores := u.cores, clusters := u.clusters, fresh := u.fresh } = u
        ∧ (∀ c, c ≠ s.cur → coreOf t c = coreOf u c)
        ∧ (∀ k, { clusterOf t k with waitEngine := (clusterOf u k).waitEngine } = clusterOf u k)
        ∧ { y with inflight := x.inflight, issueCount := x.issueCount, waiting := x.waiting, stepWait := x.stepWait, skipS := x.skipS,
                   held := x.held, pc := x.pc, repidx := x.repidx } = x
        ∧ (∃ l, y.inflight = x.inflight ++ l ∧ l.length ≤ 1
          ∧ ∀ g ∈ l, g.dst = if i = .vcmp v f then .reg (if isVb v then .mb else .ma) (bitsOf f.d 2 0)
              else .reg (if isVb v then .vb else .va) (physV (coreOf u s.cur).rbase f.d.toNat))
        ∧ y.pc = x.pc + 12

/-- Where stores reach. STL changes no byte of the module's memory and, of its cluster's scratchpad, only the bytes of its own
width from its address (R206, R207); STM changes no byte when it issues (R208, R336); a plain store that applies changes only
the bits of its own bytes (R337). -/
def Obligations.StoresReachOnlyTheirBytes : Prop :=
  ∀ (f : SRR) (s t : State),
    (issues s (.stl f) = true → spReach (sAddr (actor s) f) (sSize f) → memOk s = true → exec (.stl f) s = .next t →
      t.mem = s.mem ∧ ∀ k a,
        (k ≠ clusterOfCore s.cur ∨ a < spOff (sAddr (actor s) f) ∨ spOff (sAddr (actor s) f) + sSize f ≤ a) →
          spByte t k a = spByte s k a)
      ∧ (∀ x, issues s (.stm f) = true → sAddr (actor s) f % sSize f = 0 → isSp (sAddr (actor s) f) = false →
        access (landed s) s.cur (sAddr (actor s) f) .store 0 0 = .ok x → exec (.stm f) s = .next t →
          t.mem = s.mem ∧ ∀ k a, spByte t k a = spByte s k a)
      ∧ ∀ c k e bits, memOk s = true → (coreOf s c).mode = .running → mayApply (coreOf s c) k = some e → e.kind = .store bits →
        exec (.storeApply c k) s = .next t →
          (∀ a, (∀ b ∈ bits, b.1 ≠ a) → memByte t.mem a = memByte s.mem a)
            ∧ (∀ a m v, bits.filter (fun b => decide (b.1 = a)) = [(a, m, v)] →
              memByte t.mem a = (memByte s.mem a &&& ~~~m) ||| (v &&& m))
            ∧ ∀ j a, spByte t j a = spByte s j a

end
end

