-- ==== Sys2Proof/Laws/Encode.lean ====
section
/-!
SUPPORT. The fields of an encoded word read back: one lemma for each word form.
-/
namespace Sys2Proof.Laws
set_option Elab.async false

open Machine

theorem extract_high {n m : Nat} (x : BitVec n) (y : BitVec m) (s l : Nat) (h : m ≤ s) :
    (x ++ y).extractLsb' s l = x.extractLsb' (s - m) l := by
  apply BitVec.eq_of_getLsbD_eq
  intro i hi
  have : ¬ (s + i < m) := by omega
  simp [BitVec.getLsbD_append, hi, this]
  congr 1
  omega

theorem extract_low {n m : Nat} (x : BitVec n) (y : BitVec m) (s l : Nat) (h : s + l ≤ m) :
    (x ++ y).extractLsb' s l = y.extractLsb' s l := by
  apply BitVec.eq_of_getLsbD_eq
  intro i hi
  have : s + i < m := by omega
  simp [BitVec.getLsbD_append, hi, this]

theorem extract_all {n : Nat} (x : BitVec n) : x.extractLsb' 0 n = x := by
  apply BitVec.eq_of_getLsbD_eq
  intro i hi
  simp [hi]

theorem bit_high {n m : Nat} (x : BitVec n) (y : BitVec m) (s : Nat) (h : m ≤ s) :
    (x ++ y).getLsbD s = x.getLsbD (s - m) := by
  have : ¬ (s < m) := by omega
  simp [BitVec.getLsbD_append, this]

theorem bit_low {n m : Nat} (x : BitVec n) (y : BitVec m) (s : Nat) (h : s < m) :
    (x ++ y).getLsbD s = y.getLsbD s := by
  simp [BitVec.getLsbD_append, h]

theorem bit_ofBool (b : Bool) : (BitVec.ofBool b).getLsbD 0 = b := by cases b <;> rfl

theorem halves_append (w : BitVec 64) : w.extractLsb' 32 32 ++ w.extractLsb' 0 32 = w := by
  apply BitVec.eq_of_getLsbD_eq
  intro i hi
  by_cases h : i < 32
  · exact (bit_low _ _ _ h).trans (by simp [h])
  · refine (bit_high _ _ _ (by omega)).trans ?_
    have : i - 32 < 32 := by omega
    have e : 32 + (i - 32) = i := by omega
    simp [this, e]

/-! ## The opcode and the fields of each form -/

theorem op_ofRR (op : BitVec 7) (f : SRR) : (ofRR op f).extractLsb' 25 7 = op := by
  unfold ofRR
  repeat (first
    | refine (extract_high _ _ _ _ (by decide)).trans ?_
    | refine (extract_low _ _ _ _ (by decide)).trans ?_
    | refine (bit_high _ _ _ (by decide)).trans ?_
    | refine (bit_low _ _ _ (by decide)).trans ?_
    | exact extract_all _
    | exact bit_ofBool _)

theorem rr_ofRR (op : BitVec 7) (f : SRR) : rr (ofRR op f) = f := by
  obtain ⟨⟨pg, pn⟩, d, a, b, fn⟩ := f
  simp only [rr, ofRR, sGuard, SRR.mk.injEq, Guard.mk.injEq]
  refine ⟨⟨?_, ?_⟩, ?_, ?_, ?_, ?_⟩ <;>
  repeat (first
    | refine (extract_high _ _ _ _ (by decide)).trans ?_
    | refine (extract_low _ _ _ _ (by decide)).trans ?_
    | refine (bit_high _ _ _ (by decide)).trans ?_
    | refine (bit_low _ _ _ (by decide)).trans ?_
    | exact extract_all _
    | exact bit_ofBool _)

theorem op_ofRI (op : BitVec 7) (f : SRI) : (ofRI op f).extractLsb' 25 7 = op := by
  unfold ofRI
  repeat (first
    | refine (extract_high _ _ _ _ (by decide)).trans ?_
    | refine (extract_low _ _ _ _ (by decide)).trans ?_
    | refine (bit_high _ _ _ (by decide)).trans ?_
    | refine (bit_low _ _ _ (by decide)).trans ?_
    | exact extract_all _
    | exact bit_ofBool _)

theorem ri_ofRI (op : BitVec 7) (f : SRI) : ri (ofRI op f) = f := by
  obtain ⟨⟨pg, pn⟩, d, a, imm⟩ := f
  simp only [ri, ofRI, sGuard, SRI.mk.injEq, Guard.mk.injEq]
  refine ⟨⟨?_, ?_⟩, ?_, ?_, ?_⟩ <;>
  repeat (first
    | refine (extract_high _ _ _ _ (by decide)).trans ?_
    | refine (extract_low _ _ _ _ (by decide)).trans ?_
    | refine (bit_high _ _ _ (by decide)).trans ?_
    | refine (bit_low _ _ _ (by decide)).trans ?_
    | exact extract_all _
    | exact bit_ofBool _)

theorem op_ofI16 (op : BitVec 7) (f : SI16) : (ofI16 op f).extractLsb' 25 7 = op := by
  unfold ofI16
  repeat (first
    | refine (extract_high _ _ _ _ (by decide)).trans ?_
    | refine (extract_low _ _ _ _ (by decide)).trans ?_
    | refine (bit_high _ _ _ (by decide)).trans ?_
    | refine (bit_low _ _ _ (by decide)).trans ?_
    | exact extract_all _
    | exact bit_ofBool _)

theorem i16_ofI16 (op : BitVec 7) (f : SI16) : i16 (ofI16 op f) = f := by
  obtain ⟨⟨pg, pn⟩, d, imm⟩ := f
  simp only [i16, ofI16, sGuard, SI16.mk.injEq, Guard.mk.injEq]
  refine ⟨⟨?_, ?_⟩, ?_, ?_⟩ <;>
  repeat (first
    | refine (extract_high _ _ _ _ (by decide)).trans ?_
    | refine (extract_low _ _ _ _ (by decide)).trans ?_
    | refine (bit_high _ _ _ (by decide)).trans ?_
    | refine (bit_low _ _ _ (by decide)).trans ?_
    | exact extract_all _
    | exact bit_ofBool _)

theorem op_ofD21 (op : BitVec 7) (f : SD21) : (ofD21 op f).extractLsb' 25 7 = op := by
  unfold ofD21
  repeat (first
    | refine (extract_high _ _ _ _ (by decide)).trans ?_
    | refine (extract_low _ _ _ _ (by decide)).trans ?_
    | refine (bit_high _ _ _ (by decide)).trans ?_
    | refine (bit_low _ _ _ (by decide)).trans ?_
    | exact extract_all _
    | exact bit_ofBool _)

theorem d21_ofD21 (op : BitVec 7) (f : SD21) : d21 (ofD21 op f) = f := by
  obtain ⟨⟨pg, pn⟩, disp⟩ := f
  simp only [d21, ofD21, sGuard, SD21.mk.injEq, Guard.mk.injEq]
  refine ⟨⟨?_, ?_⟩, ?_⟩ <;>
  repeat (first
    | refine (extract_high _ _ _ _ (by decide)).trans ?_
    | refine (extract_low _ _ _ _ (by decide)).trans ?_
    | refine (bit_high _ _ _ (by decide)).trans ?_
    | refine (bit_low _ _ _ (by decide)).trans ?_
    | exact extract_all _
    | exact bit_ofBool _)

theorem op_ofC12 (op : BitVec 7) (f : SC12) : (ofC12 op f).extractLsb' 25 7 = op := by
  unfold ofC12
  repeat (first
    | refine (extract_high _ _ _ _ (by decide)).trans ?_
    | refine (extract_low _ _ _ _ (by decide)).trans ?_
    | refine (bit_high _ _ _ (by decide)).trans ?_
    | refine (bit_low _ _ _ (by decide)).trans ?_
    | exact extract_all _
    | exact bit_ofBool _)

theorem c12_ofC12 (op : BitVec 7) (f : SC12) : c12 (ofC12 op f) = f := by
  obtain ⟨⟨pg, pn⟩, d, z, csr⟩ := f
  simp only [c12, ofC12, sGuard, SC12.mk.injEq, Guard.mk.injEq]
  refine ⟨⟨?_, ?_⟩, ?_, ?_, ?_⟩ <;>
  repeat (first
    | refine (extract_high _ _ _ _ (by decide)).trans ?_
    | refine (extract_low _ _ _ _ (by decide)).trans ?_
    | refine (bit_high _ _ _ (by decide)).trans ?_
    | refine (bit_low _ _ _ (by decide)).trans ?_
    | exact extract_all _
    | exact bit_ofBool _)

theorem op_ofVF (op : BitVec 8) (f : VF) : (ofVF op f).extractLsb' 56 8 = op := by
  unfold ofVF
  repeat (first
    | refine (extract_high _ _ _ _ (by decide)).trans ?_
    | refine (extract_low _ _ _ _ (by decide)).trans ?_
    | refine (bit_high _ _ _ (by decide)).trans ?_
    | refine (bit_low _ _ _ (by decide)).trans ?_
    | exact extract_all _
    | exact bit_ofBool _)

theorem vf_ofVF (op : BitVec 8) (f : VF) : vf (ofVF op f) = f := by
  obtain ⟨⟨pg, pn⟩, width, fmt, fmt2, rm, mask, d, a, b, c, hsub, head, imm⟩ := f
  simp only [vf, ofVF, VF.mk.injEq, Guard.mk.injEq]
  refine ⟨⟨?_, ?_⟩, ?_, ?_, ?_, ?_, ?_, ?_, ?_, ?_, ?_, ?_, ?_, ?_⟩ <;>
  repeat (first
    | refine (extract_high _ _ _ _ (by decide)).trans ?_
    | refine (extract_low _ _ _ _ (by decide)).trans ?_
    | refine (bit_high _ _ _ (by decide)).trans ?_
    | refine (bit_low _ _ _ (by decide)).trans ?_
    | exact extract_all _
    | exact bit_ofBool _)

theorem op_ofMF (op : BitVec 6) (f : MF) : (ofMF op f).extractLsb' 58 6 = op := by
  unfold ofMF
  repeat (first
    | refine (extract_high _ _ _ _ (by decide)).trans ?_
    | refine (extract_low _ _ _ _ (by decide)).trans ?_
    | refine (bit_high _ _ _ (by decide)).trans ?_
    | refine (bit_low _ _ _ (by decide)).trans ?_
    | exact extract_all _
    | exact bit_ofBool _)

theorem mf_ofMF (op : BitVec 6) (f : MF) : mf (ofMF op f) = f := by
  obtain ⟨⟨pg, pn⟩, fa, fb, bank, ia, ib, kc, sel, ext⟩ := f
  simp only [mf, ofMF, MF.mk.injEq, Guard.mk.injEq]
  refine ⟨⟨?_, ?_⟩, ?_, ?_, ?_, ?_, ?_, ?_, ?_, ?_⟩ <;>
  repeat (first
    | refine (extract_high _ _ _ _ (by decide)).trans ?_
    | refine (extract_low _ _ _ _ (by decide)).trans ?_
    | refine (bit_high _ _ _ (by decide)).trans ?_
    | refine (bit_low _ _ _ (by decide)).trans ?_
    | exact extract_all _
    | exact bit_ofBool _)

theorem op_ofKF (op : BitVec 5) (f : KF) : (ofKF op f).extractLsb' 27 5 = op := by
  unfold ofKF
  repeat (first
    | refine (extract_high _ _ _ _ (by decide)).trans ?_
    | refine (extract_low _ _ _ _ (by decide)).trans ?_
    | refine (bit_high _ _ _ (by decide)).trans ?_
    | refine (bit_low _ _ _ (by decide)).trans ?_
    | exact extract_all _
    | exact bit_ofBool _)

theorem kf_ofKF (op : BitVec 5) (f : KF) : kf (ofKF op f) = f := by
  obtain ⟨⟨pg, pn⟩, dst, src, imm⟩ := f
  simp only [kf, ofKF, KF.mk.injEq, Guard.mk.injEq]
  refine ⟨⟨?_, ?_⟩, ?_, ?_, ?_⟩ <;>
  repeat (first
    | refine (extract_high _ _ _ _ (by decide)).trans ?_
    | refine (extract_low _ _ _ _ (by decide)).trans ?_
    | refine (bit_high _ _ _ (by decide)).trans ?_
    | refine (bit_low _ _ _ (by decide)).trans ?_
    | exact extract_all _
    | exact bit_ofBool _)

theorem op_ofCF (op : BitVec 6) (f : CF) : (ofCF op f).extractLsb' 58 6 = op := by
  unfold ofCF
  repeat (first
    | refine (extract_high _ _ _ _ (by decide)).trans ?_
    | refine (extract_low _ _ _ _ (by decide)).trans ?_
    | refine (bit_high _ _ _ (by decide)).trans ?_
    | refine (bit_low _ _ _ (by decide)).trans ?_
    | exact extract_all _
    | exact bit_ofBool _)

theorem cf_ofCF (op : BitVec 6) (f : CF) : cf (ofCF op f) = f := by
  obtain ⟨⟨pg, pn⟩, desc, iter, chan, opnds⟩ := f
  simp only [cf, ofCF, CF.mk.injEq, Guard.mk.injEq]
  refine ⟨⟨?_, ?_⟩, ?_, ?_, ?_, ?_⟩ <;>
  repeat (first
    | refine (extract_high _ _ _ _ (by decide)).trans ?_
    | refine (extract_low _ _ _ _ (by decide)).trans ?_
    | refine (bit_high _ _ _ (by decide)).trans ?_
    | refine (bit_low _ _ _ (by decide)).trans ?_
    | exact extract_all _
    | exact bit_ofBool _)

theorem op_ofBare (op : BitVec 7) (g : Guard) : (ofBare op g).extractLsb' 25 7 = op := by
  unfold ofBare
  repeat (first
    | refine (extract_high _ _ _ _ (by decide)).trans ?_
    | refine (extract_low _ _ _ _ (by decide)).trans ?_
    | refine (bit_high _ _ _ (by decide)).trans ?_
    | refine (bit_low _ _ _ (by decide)).trans ?_
    | exact extract_all _
    | exact bit_ofBool _)

theorem zero_ofBare (op : BitVec 7) (g : Guard) : (ofBare op g).extractLsb' 0 21 = 0#21 := by
  unfold ofBare
  repeat (first
    | refine (extract_high _ _ _ _ (by decide)).trans ?_
    | refine (extract_low _ _ _ _ (by decide)).trans ?_
    | refine (bit_high _ _ _ (by decide)).trans ?_
    | refine (bit_low _ _ _ (by decide)).trans ?_
    | exact extract_all _
    | exact bit_ofBool _)

theorem guard_ofBare (op : BitVec 7) (g : Guard) : sGuard (ofBare op g) = g := by
  obtain ⟨pg, pn⟩ := g
  simp only [ofBare, sGuard, Guard.mk.injEq]
  refine ⟨?_, ?_⟩ <;>
  repeat (first
    | refine (extract_high _ _ _ _ (by decide)).trans ?_
    | refine (extract_low _ _ _ _ (by decide)).trans ?_
    | refine (bit_high _ _ _ (by decide)).trans ?_
    | refine (bit_low _ _ _ (by decide)).trans ?_
    | exact extract_all _
    | exact bit_ofBool _)

/-- Bit i of the lowest field of form RR. -/
theorem fn_ofRR (op : BitVec 7) (f : SRR) (i : Nat) (h : i < 6) : (ofRR op f).getLsbD i = f.fn.getLsbD i := by
  unfold ofRR
  exact bit_low _ _ _ h

theorem fn2_ofRR (op : BitVec 7) (f : SRR) : (ofRR op f).extractLsb' 0 2 = f.fn.extractLsb' 0 2 := by
  unfold ofRR
  exact extract_low _ _ _ _ (by decide)

/-! ## Tile instructions and decoding -/

theorem tileOfBits_bitsOfTile (t : Tile) : tileOfBits (bitsOfTile t) = t := by
  obtain ⟨a, b, c, d, e, f, g, h⟩ := t
  simp only [tileOfBits, bitsOfTile, Tile.mk.injEq]
  refine ⟨?_, ?_, ?_, ?_, ?_, ?_, ?_, ?_⟩ <;>
  repeat (first
    | refine (extract_high _ _ _ _ (by decide)).trans ?_
    | refine (extract_low _ _ _ _ (by decide)).trans ?_
    | refine (bit_high _ _ _ (by decide)).trans ?_
    | refine (bit_low _ _ _ (by decide)).trans ?_
    | exact extract_all _
    | exact bit_ofBool _)

theorem checked_ok (i : Instr) (h : i.wellFormed = true) : checked (.ok i) = .ok i := by
  simp [checked, h]

theorem decodeS_ok (w : BitVec 32) (i : Instr) (h : i.wellFormed = true) (e : sOp w = .ok i) : decodeS w = .ok i := by
  simp [decodeS, e, checked_ok, h]

theorem decodeV_ok (x : VSlot) (w : BitVec 64) (i : Instr) (h : i.wellFormed = true) (e : vOp x w = .ok i) :
    decodeV x w = .ok i := by
  simp [decodeV, e, checked_ok, h]

theorem decodeM_ok (w : BitVec 64) (i : Instr) (h : i.wellFormed = true) (e : mOp w = .ok i) : decodeM w = .ok i := by
  simp [decodeM, e, checked_ok, h]

theorem decodeK_ok (w : BitVec 32) (i : Instr) (h : i.wellFormed = true) (e : kOp w = .ok i) : decodeK w = .ok i := by
  simp [decodeK, e, checked_ok, h]

theorem decodeC_ok (x : CSlot) (w : BitVec 64) (i : Instr) (h : i.wellFormed = true) (e : cOp x w = .ok i) :
    decodeC x w = .ok i := by
  simp [decodeC, e, checked_ok, h]

end Sys2Proof.Laws
end

