-- ==== Sys2Proof/Laws/Sparse.lean ====
section
/-!
SUPPORT. The sparse collections: reading after writing, and the canonical form.
-/
namespace Sys2Proof.Laws
set_option Elab.async false

open Machine

/-! ## Collections that keep every entry -/

/-- A set key reads as what was set, every other key as before. -/
theorem sget_sset {α : Type} (d : α) (m : Sparse α) (k j : Nat) (v : α) :
    sget d (sset m k v) j = if j = k then v else sget d m j := by
  induction m with
  | nil =>
    by_cases h : j = k
    · simp [sset, sget, h]
    · have h' : ¬ k = j := fun e => h e.symm
      simp [sset, sget, h, h']
  | cons q r ih =>
    obtain ⟨i, w⟩ := q
    simp only [sset]
    by_cases h1 : k < i
    · rw [if_pos h1]
      by_cases h : j = k
      · simp [sget, h]
      · have h' : ¬ k = j := fun e => h e.symm
        rw [if_neg h, sget, if_neg h']
        by_cases h3 : j < k
        · have a1 : ¬ i = j := by omega
          have a2 : j < i := by omega
          simp [sget, h3, a1, a2]
        · rw [if_neg h3]
    · rw [if_neg h1]
      by_cases h2 : k = i
      · subst h2
        rw [if_pos rfl]
        by_cases h : j = k
        · simp [sget, h]
        · have h' : ¬ k = j := fun e => h e.symm
          simp [sget, h, h']
      · rw [if_neg h2]
        simp only [sget]
        by_cases h3 : i = j
        · have : ¬ j = k := by omega
          simp [h3, this]
        · rw [if_neg h3, if_neg h3]
          by_cases h4 : j < i
          · have : ¬ j = k := by omega
            simp [h4, this]
          · rw [if_neg h4, if_neg h4, ih]

theorem sget_sset_same {α : Type} (d : α) (m : Sparse α) (k : Nat) (v : α) : sget d (sset m k v) k = v := by
  simp [sget_sset]

theorem sget_sset_other {α : Type} (d : α) (m : Sparse α) (k j : Nat) (v : α) (h : j ≠ k) :
    sget d (sset m k v) j = sget d m j := by
  simp [sget_sset, h]

/-! ## Collections in canonical form -/

variable {α : Type} [DecidableEq α]

theorem swfFrom_weaken (d : α) (m : Sparse α) (a b : Nat) (h : a ≤ b) (w : swfFrom d b m = true) : swfFrom d a m = true := by
  cases m with
  | nil => rfl
  | cons q r =>
    obtain ⟨i, v⟩ := q
    simp only [swfFrom, Bool.and_eq_true, decide_eq_true_eq] at w ⊢
    exact ⟨⟨by omega, w.1.2⟩, w.2⟩

/-- Below its first key a canonical collection reads as the default. -/
theorem sget_below (d : α) (m : Sparse α) (lo j : Nat) (w : swfFrom d lo m = true) (h : j < lo) : sget d m j = d := by
  cases m with
  | nil => rfl
  | cons q r =>
    obtain ⟨i, v⟩ := q
    simp only [swfFrom, Bool.and_eq_true, decide_eq_true_eq] at w
    have a1 : ¬ i = j := by omega
    have a2 : j < i := by omega
    simp [sget, a1, a2]

/-- A write keeps the canonical form. -/
theorem swfFrom_sput (d : α) (m : Sparse α) (lo k : Nat) (v : α) (w : swfFrom d lo m = true) (h : lo ≤ k) :
    swfFrom d lo (sput d m k v) = true := by
  induction m generalizing lo with
  | nil =>
    by_cases e : v = d
    · simp [sput, e, swfFrom]
    · simp [sput, e, swfFrom, h]
  | cons q r ih =>
    obtain ⟨i, u⟩ := q
    simp only [swfFrom, Bool.and_eq_true, decide_eq_true_eq] at w
    obtain ⟨⟨w1, w2⟩, w3⟩ := w
    simp only [sput]
    by_cases h1 : k < i
    · rw [if_pos h1]
      by_cases e : v = d
      · simp [e, swfFrom, w1, w2, w3]
      · have : k + 1 ≤ i := by omega
        simp [e, swfFrom, h, w2, w3, this]
    · rw [if_neg h1]
      by_cases h2 : k = i
      · rw [if_pos h2]
        by_cases e : v = d
        · rw [if_pos e]
          exact swfFrom_weaken d r lo (i + 1) (by omega) w3
        · rw [if_neg e, h2]
          simp [swfFrom, w1, e, w3]
      · rw [if_neg h2]
        simp only [swfFrom, Bool.and_eq_true, decide_eq_true_eq]
        exact ⟨⟨w1, w2⟩, ih (i + 1) w3 (by omega)⟩

theorem swf_sput (d : α) (m : Sparse α) (k : Nat) (v : α) (w : swf d m = true) : swf d (sput d m k v) = true :=
  swfFrom_sput d m 0 k v w (Nat.zero_le k)

/-- In a canonical collection a written key reads as what was written, every other key as before. -/
theorem sget_sputFrom (d : α) (m : Sparse α) (lo k j : Nat) (v : α) (w : swfFrom d lo m = true) :
    sget d (sput d m k v) j = if j = k then v else sget d m j := by
  induction m generalizing lo with
  | nil =>
    by_cases e : v = d <;> by_cases h : j = k
    · simp [sput, sget, e]
    · simp [sput, sget, e]
    · simp [sput, sget, e, h]
    · have h' : ¬ k = j := fun e => h e.symm
      simp [sput, sget, e, h, h']
  | cons q r ih =>
    obtain ⟨i, u⟩ := q
    simp only [swfFrom, Bool.and_eq_true, decide_eq_true_eq] at w
    obtain ⟨⟨w1, w2⟩, w3⟩ := w
    simp only [sput]
    by_cases h1 : k < i
    · rw [if_pos h1]
      by_cases e : v = d
      · rw [if_pos e]
        by_cases h : j = k
        · have a1 : ¬ i = j := by omega
          have a2 : j < i := by omega
          simp [sget, h, e, h1]
          omega
        · rw [if_neg h]
      · rw [if_neg e]
        by_cases h : j = k
        · simp [sget, h]
        · have h' : ¬ k = j := fun e => h e.symm
          rw [if_neg h, sget, if_neg h']
          by_cases h3 : j < k
          · have a1 : ¬ i = j := by omega
            have a2 : j < i := by omega
            simp [sget, h3, a1, a2]
          · rw [if_neg h3]
    · rw [if_neg h1]
      by_cases h2 : k = i
      · rw [if_pos h2]
        subst h2
        by_cases e : v = d
        · rw [if_pos e]
          by_cases h : j = k
          · rw [if_pos h, h, e]
            exact sget_below d r (k + 1) k w3 (by omega)
          · have h' : ¬ k = j := fun e => h e.symm
            rw [if_neg h, sget, if_neg h']
            by_cases h3 : j < k
            · rw [if_pos h3]
              exact sget_below d r (k + 1) j w3 (by omega)
            · rw [if_neg h3]
        · rw [if_neg e]
          by_cases h : j = k
          · simp [sget, h]
          · have h' : ¬ k = j := fun e => h e.symm
            simp [sget, h, h']
      · rw [if_neg h2]
        simp only [sget]
        by_cases h3 : i = j
        · have : ¬ j = k := by omega
          simp [h3, this]
        · rw [if_neg h3, if_neg h3]
          by_cases h4 : j < i
          · have : ¬ j = k := by omega
            simp [h4, this]
          · rw [if_neg h4, if_neg h4, ih (i + 1) w3]

theorem sget_sput (d : α) (m : Sparse α) (k j : Nat) (v : α) (w : swf d m = true) :
    sget d (sput d m k v) j = if j = k then v else sget d m j :=
  sget_sputFrom d m 0 k j v w

end Sys2Proof.Laws
end

