-- ==== Sys2Proof/Laws/Memory.lean ====
section
/-!
SUPPORT. Memory: reading after writing, and that every memory operation keeps the canonical form.
-/
namespace Sys2Proof.Laws
set_option Elab.async false

open Machine

/-! ## One byte -/

theorem memSet_wf (m : List Host.Cell) (k : Nat) (b : BitVec 8) (w : Memory.wf m = true) : Memory.wf (memSet m k b) = true :=
  swf_sput _ m k b w

theorem memByte_memSet (m : List Host.Cell) (k j : Nat) (b : BitVec 8) (w : Memory.wf m = true) :
    memByte (memSet m k b) j = if j = k then b else memByte m j :=
  sget_sput _ m k j b w

/-! ## A run of bytes -/

theorem memPut_wf (m : List Host.Cell) (k : Nat) (bs : List (BitVec 8)) (w : Memory.wf m = true) :
    Memory.wf (memPut m k bs) = true := by
  induction bs generalizing m k with
  | nil => exact w
  | cons b bs ih => exact ih _ _ (memSet_wf m k b w)

/-- A byte outside a written run is unchanged. -/
theorem memByte_memPut_outside (m : List Host.Cell) (k j : Nat) (bs : List (BitVec 8)) (w : Memory.wf m = true)
    (h : j < k ∨ k + bs.length ≤ j) : memByte (memPut m k bs) j = memByte m j := by
  induction bs generalizing m k with
  | nil => rfl
  | cons b bs ih =>
    simp only [List.length_cons] at h
    have n : ¬ j = k := by omega
    rw [memPut, ih _ _ (memSet_wf m k b w) (by omega), memByte_memSet m k j b w, if_neg n]

/-- A byte of a written run is the byte written there. -/
theorem memByte_memPut_inside (m : List Host.Cell) (k i : Nat) (bs : List (BitVec 8)) (w : Memory.wf m = true)
    (h : i < bs.length) : memByte (memPut m k bs) (k + i) = bs[i] := by
  induction bs generalizing m k i with
  | nil => simp at h
  | cons b bs ih =>
    rw [memPut]
    cases i with
    | zero =>
      rw [memByte_memPut_outside _ _ _ _ (memSet_wf m k b w) (by omega), memByte_memSet m k _ b w]
      simp
    | succ i =>
      have e : k + (i + 1) = k + 1 + i := by omega
      simp only [e]
      rw [ih _ _ i (memSet_wf m k b w) (by simpa using h)]
      simp

/-- Numbers outside a written run are unchanged. -/
theorem memNum_memPut_outside (m : List Host.Cell) (k j n : Nat) (bs : List (BitVec 8)) (w : Memory.wf m = true)
    (h : j + n ≤ k ∨ k + bs.length ≤ j) : memNum (memPut m k bs) j n = memNum m j n := by
  induction n generalizing j with
  | zero => rfl
  | succ n ih =>
    rw [memNum, memNum, memByte_memPut_outside m k j bs w (by omega), ih (j + 1) (by omega)]

theorem length_toBytes (n v : Nat) : (toBytes n v).length = n := by
  induction n generalizing v with
  | zero => rfl
  | succ n ih => simp [toBytes, ih]

/-- A number written reads back, modulo its bytes (R4). -/
theorem memNum_memPut (m : List Host.Cell) (k n v : Nat) (w : Memory.wf m = true) :
    memNum (memPut m k (toBytes n v)) k n = v % 256 ^ n := by
  induction n generalizing m k v with
  | zero => simp [memNum, Nat.mod_one]
  | succ n ih =>
    have o := memByte_memPut_outside (memSet m k (BitVec.ofNat 8 v)) (k + 1) k (toBytes n (v / 256)) (memSet_wf m k _ w)
      (by omega)
    simp only [toBytes, memPut, memNum, o, memByte_memSet m k k _ w, if_pos, ih _ _ _ (memSet_wf m k _ w)]
    have e : 256 ^ (n + 1) = 256 * 256 ^ n := by rw [Nat.pow_succ, Nat.mul_comm]
    rw [BitVec.toNat_ofNat, e, Nat.mod_mul]

/-! ## Masked bytes -/

theorem memMasked_wf (m : List Host.Cell) (ws : List (Nat × BitVec 8 × BitVec 8)) (w : Memory.wf m = true) :
    Memory.wf (memMasked m ws) = true := by
  induction ws generalizing m with
  | nil => exact w
  | cons q r ih =>
    obtain ⟨k, mask, v⟩ := q
    exact ih _ (memSet_wf m k _ w)

/-- A byte that no masked write names is unchanged. -/
theorem memByte_memMasked_outside (m : List Host.Cell) (ws : List (Nat × BitVec 8 × BitVec 8)) (j : Nat)
    (w : Memory.wf m = true) (h : ∀ q ∈ ws, q.1 ≠ j) : memByte (memMasked m ws) j = memByte m j := by
  induction ws generalizing m with
  | nil => rfl
  | cons q r ih =>
    obtain ⟨k, mask, v⟩ := q
    have n : ¬ j = k := fun e => h (k, mask, v) (by simp) e.symm
    rw [memMasked, ih _ (memSet_wf m k _ w) (fun q hq => h q (by simp [hq])), memByte_memSet m k j _ w, if_neg n]

/-! ## Ranges -/

/-- The canonical form in words: keys rise, no entry is the default, none is below the bound. -/
theorem swfFrom_iff {α : Type} [DecidableEq α] (d : α) (lo : Nat) (m : Sparse α) :
    swfFrom d lo m = true ↔ m.Pairwise (fun a b => a.1 < b.1) ∧ ∀ q ∈ m, lo ≤ q.1 ∧ q.2 ≠ d := by
  induction m generalizing lo with
  | nil => simp [swfFrom]
  | cons q r ih =>
    obtain ⟨i, v⟩ := q
    simp only [swfFrom, Bool.and_eq_true, decide_eq_true_eq, ih, List.pairwise_cons, List.mem_cons]
    constructor
    · rintro ⟨⟨h1, h2⟩, h3, h4⟩
      refine ⟨⟨fun q hq => ?_, h3⟩, ?_⟩
      · have := (h4 q hq).1
        omega
      · rintro q (rfl | hq)
        · exact ⟨h1, h2⟩
        · have := h4 q hq
          exact ⟨by omega, this.2⟩
    · rintro ⟨⟨h1, h2⟩, h3⟩
      refine ⟨h3 (i, v) (Or.inl rfl), h2, fun q hq => ⟨?_, (h3 q (Or.inr hq)).2⟩⟩
      have := h1 q hq
      omega

theorem wf_iff (m : List Host.Cell) :
    Memory.wf m = true ↔ m.Pairwise (fun a b => a.1 < b.1) ∧ ∀ q ∈ m, q.2 ≠ 0#8 := by
  simp [Memory.wf, swf, swfFrom_iff]

theorem wf_filter (m : List Host.Cell) (p : Host.Cell → Bool) (w : Memory.wf m = true) : Memory.wf (m.filter p) = true := by
  rw [wf_iff] at w ⊢
  exact ⟨w.1.filter p, fun q hq => w.2 q (List.mem_filter.mp hq).1⟩

theorem memSplice_wf (m cs : List Host.Cell) (b n : Nat) (w : Memory.wf m = true) (c : Memory.wf cs = true) :
    Memory.wf (memSplice m b n cs) = true := by
  rw [wf_iff] at w c ⊢
  simp only [memSplice, List.pairwise_append, List.mem_append, List.mem_filter, List.mem_map, List.pairwise_map,
    decide_eq_true_eq]
  refine ⟨⟨⟨w.1.filter _, (c.1.filter _).imp (by intro a b h; omega), ?_⟩, w.1.filter _, ?_⟩, ?_⟩
  · rintro x hx y ⟨z, hz, rfl⟩
    simp only
    omega
  · rintro x (hx | ⟨z, hz, rfl⟩) y hy
    · omega
    · simp only
      omega
  · rintro x ((hx | ⟨z, hz, rfl⟩) | hx)
    · exact w.2 x hx.1
    · exact c.2 z hz.1
    · exact w.2 x hx.1

theorem memSlice_wf (m : List Host.Cell) (b n : Nat) (w : Memory.wf m = true) : Memory.wf (memSlice m b n) = true := by
  rw [wf_iff] at w ⊢
  simp only [memSlice, List.pairwise_map, List.mem_map, List.mem_filter]
  refine ⟨?_, ?_⟩
  · refine (List.pairwise_filter.mpr ?_)
    refine w.1.imp ?_
    intro a b h ha hb
    simp only [Bool.and_eq_true, decide_eq_true_eq] at ha hb
    omega
  · rintro x ⟨z, hz, rfl⟩
    exact w.2 z hz.1

theorem memClear_wf (m : List Host.Cell) (b n : Nat) (w : Memory.wf m = true) : Memory.wf (memClear m b n) = true :=
  memSplice_wf m [] b n w rfl

theorem renumber_wf (m : List Host.Cell) (a b : Nat) (w : Memory.wf m = true) : Memory.wf (renumber m a b) = true := by
  unfold renumber
  split
  · exact w
  · exact memSplice_wf _ _ _ _ (memClear_wf _ _ _ w) (memSlice_wf _ _ _ w)

theorem reset_memory_wf : Memory.wf State.reset.mem = true := rfl

end Sys2Proof.Laws
end

