-- ==== Sys2Proof/Laws/PerInstr.lean ====
section
/-!
SUPPORT. The family Encodes: a well-formed instruction has the bits of its slot, and the decoder of that slot reads it back
from them; one lemma for each constructor.
-/
namespace Sys2Proof.Laws
set_option Elab.async false

open Machine

/-- A well-formed instruction has the words of its slot, and decoding them gives it back. -/
def Encodes.Statement (i : Instr) : Prop :=
  i.wellFormed = true → codeBitCount (encode i) = wordBits i ∧ (wordBits i ≠ 0 → reread i = some i)

theorem reread_s (i : Instr) (w : BitVec 32) (e : encode i = .w32 w) (k : slotOf i = some 0) (h : i.wellFormed = true)
    (d : sOp w = .ok i) : codeBitCount (encode i) = wordBits i ∧ (wordBits i ≠ 0 → reread i = some i) := by
  refine ⟨by simp [e, k, wordBits, codeBitCount, slotWords], fun _ => ?_⟩
  simp only [reread, e, k, decodeSlot, decodeS_ok w i h d]
  rfl

theorem reread_k (i : Instr) (w : BitVec 32) (e : encode i = .w32 w) (k : slotOf i = some 4) (h : i.wellFormed = true)
    (d : kOp w = .ok i) : codeBitCount (encode i) = wordBits i ∧ (wordBits i ≠ 0 → reread i = some i) := by
  refine ⟨by simp [e, k, wordBits, codeBitCount, slotWords], fun _ => ?_⟩
  simp only [reread, e, k, decodeSlot, decodeK_ok w i h d]
  rfl

theorem reread_m (i : Instr) (w : BitVec 64) (e : encode i = .w64 w) (k : slotOf i = some 3) (h : i.wellFormed = true)
    (d : mOp w = .ok i) : codeBitCount (encode i) = wordBits i ∧ (wordBits i ≠ 0 → reread i = some i) := by
  refine ⟨by simp [e, k, wordBits, codeBitCount, slotWords], fun _ => ?_⟩
  simp only [reread, e, k, decodeSlot, halves_append, decodeM_ok w i h d]
  rfl

theorem reread_v (i : Instr) (x : VSlot) (w : BitVec 64) (e : encode i = .w64 w) (k : slotOf i = some (vSlotNo x))
    (h : i.wellFormed = true) (d : vOp x w = .ok i) :
    codeBitCount (encode i) = wordBits i ∧ (wordBits i ≠ 0 → reread i = some i) := by
  cases x <;> refine ⟨by simp [e, k, wordBits, codeBitCount, slotWords, vSlotNo], fun _ => ?_⟩ <;>
    (simp only [reread, e, k, vSlotNo, decodeSlot, halves_append, decodeV_ok _ w i h d]; rfl)

theorem reread_c (i : Instr) (x : CSlot) (w : BitVec 64) (e : encode i = .w64 w) (k : slotOf i = some (cSlotNo x))
    (h : i.wellFormed = true) (d : cOp x w = .ok i) :
    codeBitCount (encode i) = wordBits i ∧ (wordBits i ≠ 0 → reread i = some i) := by
  cases x <;> refine ⟨by simp [e, k, wordBits, codeBitCount, slotWords, cSlotNo], fun _ => ?_⟩ <;>
    (simp only [reread, e, k, cSlotNo, decodeSlot, halves_append, decodeC_ok _ w i h d]; rfl)

theorem reread_t (i : Instr) (t : Tile) (e : encode i = .w512 (bitsOfTile t)) (k : slotOf i = none)
    (b : isTileOp i = true) (d : decodeTile t = some i) :
    codeBitCount (encode i) = wordBits i ∧ (wordBits i ≠ 0 → reread i = some i) := by
  refine ⟨by simp [e, k, b, wordBits, codeBitCount], fun _ => ?_⟩
  simp only [reread, e, k, tileOfBits_bitsOfTile, d]

theorem no_words (i : Instr) (e : encode i = .none) (k : slotOf i = none) (b : isTileOp i = false) :
    codeBitCount (encode i) = wordBits i ∧ (wordBits i ≠ 0 → reread i = some i) := by
  have z : wordBits i = 0 := by simp [wordBits, k, b]
  exact ⟨by rw [e, z]; rfl, fun h => absurd z h⟩

/-! ## The bits of `fn` that tell two instructions of one opcode apart -/

theorem fn_eq (f : SRR) (n : Nat) (h : f.fn.toNat = n) : f.fn = BitVec.ofNat 6 n := by
  apply BitVec.eq_of_toNat_eq
  have := f.fn.isLt
  simp [h]
  omega

theorem fn_bit_tagclr (f : SRR) (h : (Instr.tagclr f).wellFormed = true) : f.fn.getLsbD 0 = false := by
  have : f.fn.toNat = 0 := by
    simp [Instr.wellFormed, rrUses] at h
    simp [h]
  rw [fn_eq f _ this]
  rfl

theorem fn_bit_tagclrK (f : SRR) (h : (Instr.tagclrK f).wellFormed = true) : f.fn.getLsbD 0 = true := by
  have : f.fn.toNat = 1 := by
    simp [Instr.wellFormed, rrUses] at h
    simp [h]
  rw [fn_eq f _ this]
  rfl

theorem fn_bit_evarm (f : SRR) (h : (Instr.evarm f).wellFormed = true) : f.fn.getLsbD 2 = false := by
  simp [Instr.wellFormed, rrUses] at h
  rw [← BitVec.testBit_toNat]
  exact Nat.testBit_lt_two_pow (by omega)

theorem fn_bit_evarmDis (f : SRR) (h : (Instr.evarmDis f).wellFormed = true) : f.fn.getLsbD 2 = true := by
  simp [Instr.wellFormed, rrUses] at h
  have : f.fn.toNat = 4 ∨ f.fn.toNat = 5 ∨ f.fn.toNat = 6 ∨ f.fn.toNat = 7 := by omega
  rcases this with e | e | e | e <;> rw [fn_eq f _ e] <;> rfl

theorem fn_bit_pmov (f : SRR) (h : (Instr.pmov f).wellFormed = true) : (f.fn.extractLsb' 0 2).toNat = 0 := by
  have : f.fn.toNat = 0 ∨ f.fn.toNat = 4 := by
    simp [Instr.wellFormed, pmovLegal] at h
    omega
  rcases this with e | e <;> rw [fn_eq f _ e] <;> rfl

theorem fn_bit_pmovToS (f : SRR) (h : (Instr.pmovToS f).wellFormed = true) : (f.fn.extractLsb' 0 2).toNat = 1 := by
  have : f.fn.toNat = 1 := by
    simp [Instr.wellFormed, rrUses] at h
    omega
  rw [fn_eq f _ this]
  rfl

theorem fn_bit_pmovFromS (f : SRR) (h : (Instr.pmovFromS f).wellFormed = true) : (f.fn.extractLsb' 0 2).toNat = 2 := by
  have : f.fn.toNat = 2 := by
    simp [Instr.wellFormed, rrUses] at h
    omega
  rw [fn_eq f _ this]
  rfl

theorem Encodes.nop : Encodes.Statement .nop :=
  fun h => reread_s _ _ rfl rfl h rfl

theorem Encodes.add (f : SRR) : Encodes.Statement (.add f) := by
  intro h
  refine reread_s _ _ rfl rfl h ?_
  unfold sOp
  rw [op_ofRR, rr_ofRR]
  rfl

theorem Encodes.sub (f : SRR) : Encodes.Statement (.sub f) := by
  intro h
  refine reread_s _ _ rfl rfl h ?_
  unfold sOp
  rw [op_ofRR, rr_ofRR]
  rfl

theorem Encodes.mul (f : SRR) : Encodes.Statement (.mul f) := by
  intro h
  refine reread_s _ _ rfl rfl h ?_
  unfold sOp
  rw [op_ofRR, rr_ofRR]
  rfl

theorem Encodes.mulh (f : SRR) : Encodes.Statement (.mulh f) := by
  intro h
  refine reread_s _ _ rfl rfl h ?_
  unfold sOp
  rw [op_ofRR, rr_ofRR]
  rfl

theorem Encodes.mulhn (f : SRR) : Encodes.Statement (.mulhn f) := by
  intro h
  refine reread_s _ _ rfl rfl h ?_
  unfold sOp
  rw [op_ofRR, rr_ofRR]
  rfl

theorem Encodes.div (f : SRR) : Encodes.Statement (.div f) := by
  intro h
  refine reread_s _ _ rfl rfl h ?_
  unfold sOp
  rw [op_ofRR, rr_ofRR]
  rfl

theorem Encodes.divn (f : SRR) : Encodes.Statement (.divn f) := by
  intro h
  refine reread_s _ _ rfl rfl h ?_
  unfold sOp
  rw [op_ofRR, rr_ofRR]
  rfl

theorem Encodes.mod (f : SRR) : Encodes.Statement (.mod f) := by
  intro h
  refine reread_s _ _ rfl rfl h ?_
  unfold sOp
  rw [op_ofRR, rr_ofRR]
  rfl

theorem Encodes.modn (f : SRR) : Encodes.Statement (.modn f) := by
  intro h
  refine reread_s _ _ rfl rfl h ?_
  unfold sOp
  rw [op_ofRR, rr_ofRR]
  rfl

theorem Encodes.and (f : SRR) : Encodes.Statement (.and f) := by
  intro h
  refine reread_s _ _ rfl rfl h ?_
  unfold sOp
  rw [op_ofRR, rr_ofRR]
  rfl

theorem Encodes.or (f : SRR) : Encodes.Statement (.or f) := by
  intro h
  refine reread_s _ _ rfl rfl h ?_
  unfold sOp
  rw [op_ofRR, rr_ofRR]
  rfl

theorem Encodes.xor (f : SRR) : Encodes.Statement (.xor f) := by
  intro h
  refine reread_s _ _ rfl rfl h ?_
  unfold sOp
  rw [op_ofRR, rr_ofRR]
  rfl

theorem Encodes.shl (f : SRR) : Encodes.Statement (.shl f) := by
  intro h
  refine reread_s _ _ rfl rfl h ?_
  unfold sOp
  rw [op_ofRR, rr_ofRR]
  rfl

theorem Encodes.shr (f : SRR) : Encodes.Statement (.shr f) := by
  intro h
  refine reread_s _ _ rfl rfl h ?_
  unfold sOp
  rw [op_ofRR, rr_ofRR]
  rfl

theorem Encodes.sra (f : SRR) : Encodes.Statement (.sra f) := by
  intro h
  refine reread_s _ _ rfl rfl h ?_
  unfold sOp
  rw [op_ofRR, rr_ofRR]
  rfl

theorem Encodes.min (f : SRR) : Encodes.Statement (.min f) := by
  intro h
  refine reread_s _ _ rfl rfl h ?_
  unfold sOp
  rw [op_ofRR, rr_ofRR]
  rfl

theorem Encodes.max (f : SRR) : Encodes.Statement (.max f) := by
  intro h
  refine reread_s _ _ rfl rfl h ?_
  unfold sOp
  rw [op_ofRR, rr_ofRR]
  rfl

theorem Encodes.minn (f : SRR) : Encodes.Statement (.minn f) := by
  intro h
  refine reread_s _ _ rfl rfl h ?_
  unfold sOp
  rw [op_ofRR, rr_ofRR]
  rfl

theorem Encodes.maxn (f : SRR) : Encodes.Statement (.maxn f) := by
  intro h
  refine reread_s _ _ rfl rfl h ?_
  unfold sOp
  rw [op_ofRR, rr_ofRR]
  rfl

theorem Encodes.clz (f : SRR) : Encodes.Statement (.clz f) := by
  intro h
  refine reread_s _ _ rfl rfl h ?_
  unfold sOp
  rw [op_ofRR, rr_ofRR]
  rfl

theorem Encodes.popc (f : SRR) : Encodes.Statement (.popc f) := by
  intro h
  refine reread_s _ _ rfl rfl h ?_
  unfold sOp
  rw [op_ofRR, rr_ofRR]
  rfl

theorem Encodes.sext (f : SRR) : Encodes.Statement (.sext f) := by
  intro h
  refine reread_s _ _ rfl rfl h ?_
  unfold sOp
  rw [op_ofRR, rr_ofRR]
  rfl

theorem Encodes.zext (f : SRR) : Encodes.Statement (.zext f) := by
  intro h
  refine reread_s _ _ rfl rfl h ?_
  unfold sOp
  rw [op_ofRR, rr_ofRR]
  rfl

theorem Encodes.addi (f : SRI) : Encodes.Statement (.addi f) := by
  intro h
  refine reread_s _ _ rfl rfl h ?_
  unfold sOp
  rw [op_ofRI, ri_ofRI]
  rfl

theorem Encodes.andi (f : SRI) : Encodes.Statement (.andi f) := by
  intro h
  refine reread_s _ _ rfl rfl h ?_
  unfold sOp
  rw [op_ofRI, ri_ofRI]
  rfl

theorem Encodes.ori (f : SRI) : Encodes.Statement (.ori f) := by
  intro h
  refine reread_s _ _ rfl rfl h ?_
  unfold sOp
  rw [op_ofRI, ri_ofRI]
  rfl

theorem Encodes.xori (f : SRI) : Encodes.Statement (.xori f) := by
  intro h
  refine reread_s _ _ rfl rfl h ?_
  unfold sOp
  rw [op_ofRI, ri_ofRI]
  rfl

theorem Encodes.shli (f : SRI) : Encodes.Statement (.shli f) := by
  intro h
  refine reread_s _ _ rfl rfl h ?_
  unfold sOp
  rw [op_ofRI, ri_ofRI]
  rfl

theorem Encodes.shri (f : SRI) : Encodes.Statement (.shri f) := by
  intro h
  refine reread_s _ _ rfl rfl h ?_
  unfold sOp
  rw [op_ofRI, ri_ofRI]
  rfl

theorem Encodes.srai (f : SRI) : Encodes.Statement (.srai f) := by
  intro h
  refine reread_s _ _ rfl rfl h ?_
  unfold sOp
  rw [op_ofRI, ri_ofRI]
  rfl

theorem Encodes.li (f : SI16) : Encodes.Statement (.li f) := by
  intro h
  refine reread_s _ _ rfl rfl h ?_
  unfold sOp
  rw [op_ofI16, i16_ofI16]
  rfl

theorem Encodes.lih16 (f : SI16) : Encodes.Statement (.lih16 f) := by
  intro h
  refine reread_s _ _ rfl rfl h ?_
  unfold sOp
  rw [op_ofI16, i16_ofI16]
  rfl

theorem Encodes.lih32 (f : SI16) : Encodes.Statement (.lih32 f) := by
  intro h
  refine reread_s _ _ rfl rfl h ?_
  unfold sOp
  rw [op_ofI16, i16_ofI16]
  rfl

theorem Encodes.lih48 (f : SI16) : Encodes.Statement (.lih48 f) := by
  intro h
  refine reread_s _ _ rfl rfl h ?_
  unfold sOp
  rw [op_ofI16, i16_ofI16]
  rfl

theorem Encodes.cmp (f : SRR) : Encodes.Statement (.cmp f) := by
  intro h
  refine reread_s _ _ rfl rfl h ?_
  unfold sOp
  rw [op_ofRR, rr_ofRR]
  rfl

theorem Encodes.cmpi (f : SRI) : Encodes.Statement (.cmpi f) := by
  intro h
  refine reread_s _ _ rfl rfl h ?_
  unfold sOp
  rw [op_ofRI, ri_ofRI]
  rfl

theorem Encodes.pand (f : SRR) : Encodes.Statement (.pand f) := by
  intro h
  refine reread_s _ _ rfl rfl h ?_
  unfold sOp
  rw [op_ofRR, rr_ofRR]
  rfl

theorem Encodes.por (f : SRR) : Encodes.Statement (.por f) := by
  intro h
  refine reread_s _ _ rfl rfl h ?_
  unfold sOp
  rw [op_ofRR, rr_ofRR]
  rfl

theorem Encodes.pxor (f : SRR) : Encodes.Statement (.pxor f) := by
  intro h
  refine reread_s _ _ rfl rfl h ?_
  unfold sOp
  rw [op_ofRR, rr_ofRR]
  rfl

theorem Encodes.sel (f : SRR) : Encodes.Statement (.sel f) := by
  intro h
  refine reread_s _ _ rfl rfl h ?_
  unfold sOp
  rw [op_ofRR, rr_ofRR]
  rfl

theorem Encodes.pmov (f : SRR) : Encodes.Statement (.pmov f) := by
  intro h
  refine reread_s _ _ rfl rfl h ?_
  have b : (f.fn.extractLsb' 0 2).toNat = 0 := fn_bit_pmov f h
  unfold sOp pmovForm
  rw [op_ofRR, rr_ofRR, fn2_ofRR, b]
  rfl

theorem Encodes.pmovToS (f : SRR) : Encodes.Statement (.pmovToS f) := by
  intro h
  refine reread_s _ _ rfl rfl h ?_
  have b : (f.fn.extractLsb' 0 2).toNat = 1 := fn_bit_pmovToS f h
  unfold sOp pmovForm
  rw [op_ofRR, rr_ofRR, fn2_ofRR, b]
  rfl

theorem Encodes.pmovFromS (f : SRR) : Encodes.Statement (.pmovFromS f) := by
  intro h
  refine reread_s _ _ rfl rfl h ?_
  have b : (f.fn.extractLsb' 0 2).toNat = 2 := fn_bit_pmovFromS f h
  unfold sOp pmovForm
  rw [op_ofRR, rr_ofRR, fn2_ofRR, b]
  rfl

theorem Encodes.br (f : SD21) : Encodes.Statement (.br f) := by
  intro h
  refine reread_s _ _ rfl rfl h ?_
  unfold sOp
  rw [op_ofD21, d21_ofD21]
  rfl

theorem Encodes.jmp (f : SRR) : Encodes.Statement (.jmp f) := by
  intro h
  refine reread_s _ _ rfl rfl h ?_
  unfold sOp
  rw [op_ofRR, rr_ofRR]
  rfl

theorem Encodes.call (f : SD21) : Encodes.Statement (.call f) := by
  intro h
  refine reread_s _ _ rfl rfl h ?_
  unfold sOp
  rw [op_ofD21, d21_ofD21]
  rfl

theorem Encodes.ret (g : Guard) : Encodes.Statement (.ret g) := by
  intro h
  refine reread_s _ _ rfl rfl h ?_
  unfold sOp bare
  rw [op_ofBare, zero_ofBare, guard_ofBare]
  rfl

theorem Encodes.loop (f : SD21) : Encodes.Statement (.loop f) := by
  intro h
  refine reread_s _ _ rfl rfl h ?_
  unfold sOp
  rw [op_ofD21, d21_ofD21]
  rfl

theorem Encodes.rbset (f : SRI) : Encodes.Statement (.rbset f) := by
  intro h
  refine reread_s _ _ rfl rfl h ?_
  unfold sOp
  rw [op_ofRI, ri_ofRI]
  rfl

theorem Encodes.exit (g : Guard) : Encodes.Statement (.exit g) := by
  intro h
  refine reread_s _ _ rfl rfl h ?_
  unfold sOp bare
  rw [op_ofBare, zero_ofBare, guard_ofBare]
  rfl

theorem Encodes.yield (g : Guard) : Encodes.Statement (.yield g) := by
  intro h
  refine reread_s _ _ rfl rfl h ?_
  unfold sOp bare
  rw [op_ofBare, zero_ofBare, guard_ofBare]
  rfl

theorem Encodes.ldl (f : SRR) : Encodes.Statement (.ldl f) := by
  intro h
  refine reread_s _ _ rfl rfl h ?_
  unfold sOp
  rw [op_ofRR, rr_ofRR]
  rfl

theorem Encodes.stl (f : SRR) : Encodes.Statement (.stl f) := by
  intro h
  refine reread_s _ _ rfl rfl h ?_
  unfold sOp
  rw [op_ofRR, rr_ofRR]
  rfl

theorem Encodes.ldm (f : SRR) : Encodes.Statement (.ldm f) := by
  intro h
  refine reread_s _ _ rfl rfl h ?_
  unfold sOp
  rw [op_ofRR, rr_ofRR]
  rfl

theorem Encodes.stm (f : SRR) : Encodes.Statement (.stm f) := by
  intro h
  refine reread_s _ _ rfl rfl h ?_
  unfold sOp
  rw [op_ofRR, rr_ofRR]
  rfl

theorem Encodes.amo (f : SRR) : Encodes.Statement (.amo f) := by
  intro h
  refine reread_s _ _ rfl rfl h ?_
  unfold sOp
  rw [op_ofRR, rr_ofRR]
  rfl

theorem Encodes.sacc (f : SRR) : Encodes.Statement (.sacc f) := by
  intro h
  refine reread_s _ _ rfl rfl h ?_
  unfold sOp
  rw [op_ofRR, rr_ofRR]
  rfl

theorem Encodes.sapp (f : SRR) : Encodes.Statement (.sapp f) := by
  intro h
  refine reread_s _ _ rfl rfl h ?_
  unfold sOp
  rw [op_ofRR, rr_ofRR]
  rfl

theorem Encodes.hld (f : SRR) : Encodes.Statement (.hld f) := by
  intro h
  refine reread_s _ _ rfl rfl h ?_
  unfold sOp
  rw [op_ofRR, rr_ofRR]
  rfl

theorem Encodes.hview (f : SRR) : Encodes.Statement (.hview f) := by
  intro h
  refine reread_s _ _ rfl rfl h ?_
  unfold sOp
  rw [op_ofRR, rr_ofRR]
  rfl

theorem Encodes.rcast (f : SRR) : Encodes.Statement (.rcast f) := by
  intro h
  refine reread_s _ _ rfl rfl h ?_
  unfold sOp
  rw [op_ofRR, rr_ofRR]
  rfl

theorem Encodes.hold (f : SRR) : Encodes.Statement (.hold f) := by
  intro h
  refine reread_s _ _ rfl rfl h ?_
  unfold sOp
  rw [op_ofRR, rr_ofRR]
  rfl

theorem Encodes.rels (f : SRR) : Encodes.Statement (.rels f) := by
  intro h
  refine reread_s _ _ rfl rfl h ?_
  unfold sOp
  rw [op_ofRR, rr_ofRR]
  rfl

theorem Encodes.hgen (f : SRR) : Encodes.Statement (.hgen f) := by
  intro h
  refine reread_s _ _ rfl rfl h ?_
  unfold sOp
  rw [op_ofRR, rr_ofRR]
  rfl

theorem Encodes.taglk (f : SRR) : Encodes.Statement (.taglk f) := by
  intro h
  refine reread_s _ _ rfl rfl h ?_
  unfold sOp
  rw [op_ofRR, rr_ofRR]
  rfl

theorem Encodes.tagset (f : SRR) : Encodes.Statement (.tagset f) := by
  intro h
  refine reread_s _ _ rfl rfl h ?_
  unfold sOp
  rw [op_ofRR, rr_ofRR]
  rfl

theorem Encodes.tagclr (f : SRR) : Encodes.Statement (.tagclr f) := by
  intro h
  refine reread_s _ _ rfl rfl h ?_
  have b : f.fn.getLsbD 0 = false := fn_bit_tagclr f h
  unfold sOp
  rw [op_ofRR, rr_ofRR, fn_ofRR _ _ 0 (by decide), b]
  rfl

theorem Encodes.tagclrK (f : SRR) : Encodes.Statement (.tagclrK f) := by
  intro h
  refine reread_s _ _ rfl rfl h ?_
  have b : f.fn.getLsbD 0 = true := fn_bit_tagclrK f h
  unfold sOp
  rw [op_ofRR, rr_ofRR, fn_ofRR _ _ 0 (by decide), b]
  rfl

theorem Encodes.xsv (f : SRR) : Encodes.Statement (.xsv f) := by
  intro h
  refine reread_s _ _ rfl rfl h ?_
  unfold sOp
  rw [op_ofRR, rr_ofRR]
  rfl

theorem Encodes.xvs (f : SRR) : Encodes.Statement (.xvs f) := by
  intro h
  refine reread_s _ _ rfl rfl h ?_
  unfold sOp
  rw [op_ofRR, rr_ofRR]
  rfl

theorem Encodes.itset (f : SRR) : Encodes.Statement (.itset f) := by
  intro h
  refine reread_s _ _ rfl rfl h ?_
  unfold sOp
  rw [op_ofRR, rr_ofRR]
  rfl

theorem Encodes.itget (f : SRR) : Encodes.Statement (.itget f) := by
  intro h
  refine reread_s _ _ rfl rfl h ?_
  unfold sOp
  rw [op_ofRR, rr_ofRR]
  rfl

theorem Encodes.gjoin (f : SRR) : Encodes.Statement (.gjoin f) := by
  intro h
  refine reread_s _ _ rfl rfl h ?_
  unfold sOp
  rw [op_ofRR, rr_ofRR]
  rfl

theorem Encodes.gleave (f : SRR) : Encodes.Statement (.gleave f) := by
  intro h
  refine reread_s _ _ rfl rfl h ?_
  unfold sOp
  rw [op_ofRR, rr_ofRR]
  rfl

theorem Encodes.sync (f : SRR) : Encodes.Statement (.sync f) := by
  intro h
  refine reread_s _ _ rfl rfl h ?_
  unfold sOp
  rw [op_ofRR, rr_ofRR]
  rfl

theorem Encodes.fuse (f : SRR) : Encodes.Statement (.fuse f) := by
  intro h
  refine reread_s _ _ rfl rfl h ?_
  unfold sOp
  rw [op_ofRR, rr_ofRR]
  rfl

theorem Encodes.decpl (f : SRR) : Encodes.Statement (.decpl f) := by
  intro h
  refine reread_s _ _ rfl rfl h ?_
  unfold sOp
  rw [op_ofRR, rr_ofRR]
  rfl

theorem Encodes.rejoin (g : Guard) : Encodes.Statement (.rejoin g) := by
  intro h
  refine reread_s _ _ rfl rfl h ?_
  unfold sOp bare
  rw [op_ofBare, zero_ofBare, guard_ofBare]
  rfl

theorem Encodes.wstep (f : SRR) : Encodes.Statement (.wstep f) := by
  intro h
  refine reread_s _ _ rfl rfl h ?_
  unfold sOp
  rw [op_ofRR, rr_ofRR]
  rfl

theorem Encodes.evadd (f : SRR) : Encodes.Statement (.evadd f) := by
  intro h
  refine reread_s _ _ rfl rfl h ?_
  unfold sOp
  rw [op_ofRR, rr_ofRR]
  rfl

theorem Encodes.evarm (f : SRR) : Encodes.Statement (.evarm f) := by
  intro h
  refine reread_s _ _ rfl rfl h ?_
  have b : f.fn.getLsbD 2 = false := fn_bit_evarm f h
  unfold sOp
  rw [op_ofRR, rr_ofRR, fn_ofRR _ _ 2 (by decide), b]
  rfl

theorem Encodes.evarmDis (f : SRR) : Encodes.Statement (.evarmDis f) := by
  intro h
  refine reread_s _ _ rfl rfl h ?_
  have b : f.fn.getLsbD 2 = true := fn_bit_evarmDis f h
  unfold sOp
  rw [op_ofRR, rr_ofRR, fn_ofRR _ _ 2 (by decide), b]
  rfl

theorem Encodes.evwait (f : SRR) : Encodes.Statement (.evwait f) := by
  intro h
  refine reread_s _ _ rfl rfl h ?_
  unfold sOp
  rw [op_ofRR, rr_ofRR]
  rfl

theorem Encodes.evrd (f : SRR) : Encodes.Statement (.evrd f) := by
  intro h
  refine reread_s _ _ rfl rfl h ?_
  unfold sOp
  rw [op_ofRR, rr_ofRR]
  rfl

theorem Encodes.fence (f : SRR) : Encodes.Statement (.fence f) := by
  intro h
  refine reread_s _ _ rfl rfl h ?_
  unfold sOp
  rw [op_ofRR, rr_ofRR]
  rfl

theorem Encodes.xfence (f : SRR) : Encodes.Statement (.xfence f) := by
  intro h
  refine reread_s _ _ rfl rfl h ?_
  unfold sOp
  rw [op_ofRR, rr_ofRR]
  rfl

theorem Encodes.tis (f : SRR) : Encodes.Statement (.tis f) := by
  intro h
  refine reread_s _ _ rfl rfl h ?_
  unfold sOp
  rw [op_ofRR, rr_ofRR]
  rfl

theorem Encodes.tiwait (f : SRR) : Encodes.Statement (.tiwait f) := by
  intro h
  refine reread_s _ _ rfl rfl h ?_
  unfold sOp
  rw [op_ofRR, rr_ofRR]
  rfl

theorem Encodes.csrr (f : SC12) : Encodes.Statement (.csrr f) := by
  intro h
  refine reread_s _ _ rfl rfl h ?_
  unfold sOp
  rw [op_ofC12, c12_ofC12]
  rfl

theorem Encodes.csrw (f : SC12) : Encodes.Statement (.csrw f) := by
  intro h
  refine reread_s _ _ rfl rfl h ?_
  unfold sOp
  rw [op_ofC12, c12_ofC12]
  rfl

theorem Encodes.trap (f : SI16) : Encodes.Statement (.trap f) := by
  intro h
  refine reread_s _ _ rfl rfl h ?_
  unfold sOp
  rw [op_ofI16, i16_ofI16]
  rfl

theorem Encodes.eret (f : SRR) : Encodes.Statement (.eret f) := by
  intro h
  refine reread_s _ _ rfl rfl h ?_
  unfold sOp
  rw [op_ofRR, rr_ofRR]
  rfl

theorem Encodes.brk (f : SI16) : Encodes.Statement (.brk f) := by
  intro h
  refine reread_s _ _ rfl rfl h ?_
  unfold sOp
  rw [op_ofI16, i16_ofI16]
  rfl

theorem Encodes.vnop (x : VSlot) : Encodes.Statement (.vnop x) :=
  fun h => reread_v _ x _ rfl rfl h rfl

theorem Encodes.vadd (x : VSlot) (f : VF) : Encodes.Statement (.vadd x f) := by
  intro h
  refine reread_v _ x _ rfl rfl h ?_
  unfold vOp
  rw [op_ofVF, vf_ofVF]
  rfl

theorem Encodes.vsub (x : VSlot) (f : VF) : Encodes.Statement (.vsub x f) := by
  intro h
  refine reread_v _ x _ rfl rfl h ?_
  unfold vOp
  rw [op_ofVF, vf_ofVF]
  rfl

theorem Encodes.vmul (x : VSlot) (f : VF) : Encodes.Statement (.vmul x f) := by
  intro h
  refine reread_v _ x _ rfl rfl h ?_
  unfold vOp
  rw [op_ofVF, vf_ofVF]
  rfl

theorem Encodes.vfma (x : VSlot) (f : VF) : Encodes.Statement (.vfma x f) := by
  intro h
  refine reread_v _ x _ rfl rfl h ?_
  unfold vOp
  rw [op_ofVF, vf_ofVF]
  rfl

theorem Encodes.vfms (x : VSlot) (f : VF) : Encodes.Statement (.vfms x f) := by
  intro h
  refine reread_v _ x _ rfl rfl h ?_
  unfold vOp
  rw [op_ofVF, vf_ofVF]
  rfl

theorem Encodes.vfnma (x : VSlot) (f : VF) : Encodes.Statement (.vfnma x f) := by
  intro h
  refine reread_v _ x _ rfl rfl h ?_
  unfold vOp
  rw [op_ofVF, vf_ofVF]
  rfl

theorem Encodes.vmin (x : VSlot) (f : VF) : Encodes.Statement (.vmin x f) := by
  intro h
  refine reread_v _ x _ rfl rfl h ?_
  unfold vOp
  rw [op_ofVF, vf_ofVF]
  rfl

theorem Encodes.vmax (x : VSlot) (f : VF) : Encodes.Statement (.vmax x f) := by
  intro h
  refine reread_v _ x _ rfl rfl h ?_
  unfold vOp
  rw [op_ofVF, vf_ofVF]
  rfl

theorem Encodes.vabs (x : VSlot) (f : VF) : Encodes.Statement (.vabs x f) := by
  intro h
  refine reread_v _ x _ rfl rfl h ?_
  unfold vOp
  rw [op_ofVF, vf_ofVF]
  rfl

theorem Encodes.vneg (x : VSlot) (f : VF) : Encodes.Statement (.vneg x f) := by
  intro h
  refine reread_v _ x _ rfl rfl h ?_
  unfold vOp
  rw [op_ofVF, vf_ofVF]
  rfl

theorem Encodes.vdiv (x : VSlot) (f : VF) : Encodes.Statement (.vdiv x f) := by
  intro h
  refine reread_v _ x _ rfl rfl h ?_
  unfold vOp
  rw [op_ofVF, vf_ofVF]
  rfl

theorem Encodes.vmulh (x : VSlot) (f : VF) : Encodes.Statement (.vmulh x f) := by
  intro h
  refine reread_v _ x _ rfl rfl h ?_
  unfold vOp
  rw [op_ofVF, vf_ofVF]
  rfl

theorem Encodes.vsadd (x : VSlot) (f : VF) : Encodes.Statement (.vsadd x f) := by
  intro h
  refine reread_v _ x _ rfl rfl h ?_
  unfold vOp
  rw [op_ofVF, vf_ofVF]
  rfl

theorem Encodes.vssub (x : VSlot) (f : VF) : Encodes.Statement (.vssub x f) := by
  intro h
  refine reread_v _ x _ rfl rfl h ?_
  unfold vOp
  rw [op_ofVF, vf_ofVF]
  rfl

theorem Encodes.vand (x : VSlot) (f : VF) : Encodes.Statement (.vand x f) := by
  intro h
  refine reread_v _ x _ rfl rfl h ?_
  unfold vOp
  rw [op_ofVF, vf_ofVF]
  rfl

theorem Encodes.vor (x : VSlot) (f : VF) : Encodes.Statement (.vor x f) := by
  intro h
  refine reread_v _ x _ rfl rfl h ?_
  unfold vOp
  rw [op_ofVF, vf_ofVF]
  rfl

theorem Encodes.vxor (x : VSlot) (f : VF) : Encodes.Statement (.vxor x f) := by
  intro h
  refine reread_v _ x _ rfl rfl h ?_
  unfold vOp
  rw [op_ofVF, vf_ofVF]
  rfl

theorem Encodes.vnot (x : VSlot) (f : VF) : Encodes.Statement (.vnot x f) := by
  intro h
  refine reread_v _ x _ rfl rfl h ?_
  unfold vOp
  rw [op_ofVF, vf_ofVF]
  rfl

theorem Encodes.vshl (x : VSlot) (f : VF) : Encodes.Statement (.vshl x f) := by
  intro h
  refine reread_v _ x _ rfl rfl h ?_
  unfold vOp
  rw [op_ofVF, vf_ofVF]
  rfl

theorem Encodes.vshr (x : VSlot) (f : VF) : Encodes.Statement (.vshr x f) := by
  intro h
  refine reread_v _ x _ rfl rfl h ?_
  unfold vOp
  rw [op_ofVF, vf_ofVF]
  rfl

theorem Encodes.vsra (x : VSlot) (f : VF) : Encodes.Statement (.vsra x f) := by
  intro h
  refine reread_v _ x _ rfl rfl h ?_
  unfold vOp
  rw [op_ofVF, vf_ofVF]
  rfl

theorem Encodes.vpopc (x : VSlot) (f : VF) : Encodes.Statement (.vpopc x f) := by
  intro h
  refine reread_v _ x _ rfl rfl h ?_
  unfold vOp
  rw [op_ofVF, vf_ofVF]
  rfl

theorem Encodes.vclz (x : VSlot) (f : VF) : Encodes.Statement (.vclz x f) := by
  intro h
  refine reread_v _ x _ rfl rfl h ?_
  unfold vOp
  rw [op_ofVF, vf_ofVF]
  rfl

theorem Encodes.vcmp (x : VSlot) (f : VF) : Encodes.Statement (.vcmp x f) := by
  intro h
  refine reread_v _ x _ rfl rfl h ?_
  unfold vOp
  rw [op_ofVF, vf_ofVF]
  rfl

theorem Encodes.vsel (x : VSlot) (f : VF) : Encodes.Statement (.vsel x f) := by
  intro h
  refine reread_v _ x _ rfl rfl h ?_
  unfold vOp
  rw [op_ofVF, vf_ofVF]
  rfl

theorem Encodes.vmand (x : VSlot) (f : VF) : Encodes.Statement (.vmand x f) := by
  intro h
  refine reread_v _ x _ rfl rfl h ?_
  unfold vOp
  rw [op_ofVF, vf_ofVF]
  rfl

theorem Encodes.vmor (x : VSlot) (f : VF) : Encodes.Statement (.vmor x f) := by
  intro h
  refine reread_v _ x _ rfl rfl h ?_
  unfold vOp
  rw [op_ofVF, vf_ofVF]
  rfl

theorem Encodes.vmxor (x : VSlot) (f : VF) : Encodes.Statement (.vmxor x f) := by
  intro h
  refine reread_v _ x _ rfl rfl h ?_
  unfold vOp
  rw [op_ofVF, vf_ofVF]
  rfl

theorem Encodes.vmnot (x : VSlot) (f : VF) : Encodes.Statement (.vmnot x f) := by
  intro h
  refine reread_v _ x _ rfl rfl h ?_
  unfold vOp
  rw [op_ofVF, vf_ofVF]
  rfl

theorem Encodes.vmcnt (x : VSlot) (f : VF) : Encodes.Statement (.vmcnt x f) := by
  intro h
  refine reread_v _ x _ rfl rfl h ?_
  unfold vOp
  rw [op_ofVF, vf_ofVF]
  rfl

theorem Encodes.vcvt (x : VSlot) (f : VF) : Encodes.Statement (.vcvt x f) := by
  intro h
  refine reread_v _ x _ rfl rfl h ?_
  unfold vOp
  rw [op_ofVF, vf_ofVF]
  rfl

theorem Encodes.vqnt (x : VSlot) (f : VF) : Encodes.Statement (.vqnt x f) := by
  intro h
  refine reread_v _ x _ rfl rfl h ?_
  unfold vOp
  rw [op_ofVF, vf_ofVF]
  rfl

theorem Encodes.vdqn (x : VSlot) (f : VF) : Encodes.Statement (.vdqn x f) := by
  intro h
  refine reread_v _ x _ rfl rfl h ?_
  unfold vOp
  rw [op_ofVF, vf_ofVF]
  rfl

theorem Encodes.vcbx (x : VSlot) (f : VF) : Encodes.Statement (.vcbx x f) := by
  intro h
  refine reread_v _ x _ rfl rfl h ?_
  unfold vOp
  rw [op_ofVF, vf_ofVF]
  rfl

theorem Encodes.vcbq (x : VSlot) (f : VF) : Encodes.Statement (.vcbq x f) := by
  intro h
  refine reread_v _ x _ rfl rfl h ?_
  unfold vOp
  rw [op_ofVF, vf_ofVF]
  rfl

theorem Encodes.vamax (x : VSlot) (f : VF) : Encodes.Statement (.vamax x f) := by
  intro h
  refine reread_v _ x _ rfl rfl h ?_
  unfold vOp
  rw [op_ofVF, vf_ofVF]
  rfl

theorem Encodes.vmov (x : VSlot) (f : VF) : Encodes.Statement (.vmov x f) := by
  intro h
  refine reread_v _ x _ rfl rfl h ?_
  unfold vOp
  rw [op_ofVF, vf_ofVF]
  rfl

theorem Encodes.vbcst (x : VSlot) (f : VF) : Encodes.Statement (.vbcst x f) := by
  intro h
  refine reread_v _ x _ rfl rfl h ?_
  unfold vOp
  rw [op_ofVF, vf_ofVF]
  rfl

theorem Encodes.vperm (x : VSlot) (f : VF) : Encodes.Statement (.vperm x f) := by
  intro h
  refine reread_v _ x _ rfl rfl h ?_
  unfold vOp
  rw [op_ofVF, vf_ofVF]
  rfl

theorem Encodes.vshfl (x : VSlot) (f : VF) : Encodes.Statement (.vshfl x f) := by
  intro h
  refine reread_v _ x _ rfl rfl h ?_
  unfold vOp
  rw [op_ofVF, vf_ofVF]
  rfl

theorem Encodes.viota (x : VSlot) (f : VF) : Encodes.Statement (.viota x f) := by
  intro h
  refine reread_v _ x _ rfl rfl h ?_
  unfold vOp
  rw [op_ofVF, vf_ofVF]
  rfl

theorem Encodes.vcmps (x : VSlot) (f : VF) : Encodes.Statement (.vcmps x f) := by
  intro h
  refine reread_v _ x _ rfl rfl h ?_
  unfold vOp
  rw [op_ofVF, vf_ofVF]
  rfl

theorem Encodes.vexpd (x : VSlot) (f : VF) : Encodes.Statement (.vexpd x f) := by
  intro h
  refine reread_v _ x _ rfl rfl h ?_
  unfold vOp
  rw [op_ofVF, vf_ofVF]
  rfl

theorem Encodes.vxv (x : VSlot) (f : VF) : Encodes.Statement (.vxv x f) := by
  intro h
  refine reread_v _ x _ rfl rfl h ?_
  unfold vOp
  rw [op_ofVF, vf_ofVF]
  rfl

theorem Encodes.vred (x : VSlot) (f : VF) : Encodes.Statement (.vred x f) := by
  intro h
  refine reread_v _ x _ rfl rfl h ?_
  unfold vOp
  rw [op_ofVF, vf_ofVF]
  rfl

theorem Encodes.vscan (x : VSlot) (f : VF) : Encodes.Statement (.vscan x f) := by
  intro h
  refine reread_v _ x _ rfl rfl h ?_
  unfold vOp
  rw [op_ofVF, vf_ofVF]
  rfl

theorem Encodes.vdot (x : VSlot) (f : VF) : Encodes.Statement (.vdot x f) := by
  intro h
  refine reread_v _ x _ rfl rfl h ?_
  unfold vOp
  rw [op_ofVF, vf_ofVF]
  rfl

theorem Encodes.vexp2 (x : VSlot) (f : VF) : Encodes.Statement (.vexp2 x f) := by
  intro h
  refine reread_v _ x _ rfl rfl h ?_
  unfold vOp
  rw [op_ofVF, vf_ofVF]
  rfl

theorem Encodes.vlog2 (x : VSlot) (f : VF) : Encodes.Statement (.vlog2 x f) := by
  intro h
  refine reread_v _ x _ rfl rfl h ?_
  unfold vOp
  rw [op_ofVF, vf_ofVF]
  rfl

theorem Encodes.vrcp (x : VSlot) (f : VF) : Encodes.Statement (.vrcp x f) := by
  intro h
  refine reread_v _ x _ rfl rfl h ?_
  unfold vOp
  rw [op_ofVF, vf_ofVF]
  rfl

theorem Encodes.vrsq (x : VSlot) (f : VF) : Encodes.Statement (.vrsq x f) := by
  intro h
  refine reread_v _ x _ rfl rfl h ?_
  unfold vOp
  rw [op_ofVF, vf_ofVF]
  rfl

theorem Encodes.vsqrt (x : VSlot) (f : VF) : Encodes.Statement (.vsqrt x f) := by
  intro h
  refine reread_v _ x _ rfl rfl h ?_
  unfold vOp
  rw [op_ofVF, vf_ofVF]
  rfl

theorem Encodes.vsinpi (x : VSlot) (f : VF) : Encodes.Statement (.vsinpi x f) := by
  intro h
  refine reread_v _ x _ rfl rfl h ?_
  unfold vOp
  rw [op_ofVF, vf_ofVF]
  rfl

theorem Encodes.vcospi (x : VSlot) (f : VF) : Encodes.Statement (.vcospi x f) := by
  intro h
  refine reread_v _ x _ rfl rfl h ?_
  unfold vOp
  rw [op_ofVF, vf_ofVF]
  rfl

theorem Encodes.vtanh (x : VSlot) (f : VF) : Encodes.Statement (.vtanh x f) := by
  intro h
  refine reread_v _ x _ rfl rfl h ?_
  unfold vOp
  rw [op_ofVF, vf_ofVF]
  rfl

theorem Encodes.vsigm (x : VSlot) (f : VF) : Encodes.Statement (.vsigm x f) := by
  intro h
  refine reread_v _ x _ rfl rfl h ?_
  unfold vOp
  rw [op_ofVF, vf_ofVF]
  rfl

theorem Encodes.vld (x : VSlot) (f : VF) : Encodes.Statement (.vld x f) := by
  intro h
  refine reread_v _ x _ rfl rfl h ?_
  unfold vOp
  rw [op_ofVF, vf_ofVF]
  rfl

theorem Encodes.vst (x : VSlot) (f : VF) : Encodes.Statement (.vst x f) := by
  intro h
  refine reread_v _ x _ rfl rfl h ?_
  unfold vOp
  rw [op_ofVF, vf_ofVF]
  rfl

theorem Encodes.vgth (x : VSlot) (f : VF) : Encodes.Statement (.vgth x f) := by
  intro h
  refine reread_v _ x _ rfl rfl h ?_
  unfold vOp
  rw [op_ofVF, vf_ofVF]
  rfl

theorem Encodes.vsct (x : VSlot) (f : VF) : Encodes.Statement (.vsct x f) := by
  intro h
  refine reread_v _ x _ rfl rfl h ?_
  unfold vOp
  rw [op_ofVF, vf_ofVF]
  rfl

theorem Encodes.vacc (x : VSlot) (f : VF) : Encodes.Statement (.vacc x f) := by
  intro h
  refine reread_v _ x _ rfl rfl h ?_
  unfold vOp
  rw [op_ofVF, vf_ofVF]
  rfl

theorem Encodes.vamo (x : VSlot) (f : VF) : Encodes.Statement (.vamo x f) := by
  intro h
  refine reread_v _ x _ rfl rfl h ?_
  unfold vOp
  rw [op_ofVF, vf_ofVF]
  rfl

theorem Encodes.vapp (x : VSlot) (f : VF) : Encodes.Statement (.vapp x f) := by
  intro h
  refine reread_v _ x _ rfl rfl h ?_
  unfold vOp
  rw [op_ofVF, vf_ofVF]
  rfl

theorem Encodes.mnop : Encodes.Statement .mnop :=
  fun h => reread_m _ _ rfl rfl h rfl

theorem Encodes.mma (f : MF) : Encodes.Statement (.mma f) := by
  intro h
  refine reread_m _ _ rfl rfl h ?_
  unfold mOp
  rw [op_ofMF, mf_ofMF]
  rfl

theorem Encodes.mmag (f : MF) : Encodes.Statement (.mmag f) := by
  intro h
  refine reread_m _ _ rfl rfl h ?_
  unfold mOp
  rw [op_ofMF, mf_ofMF]
  rfl

theorem Encodes.mmas (f : MF) : Encodes.Statement (.mmas f) := by
  intro h
  refine reread_m _ _ rfl rfl h ?_
  unfold mOp
  rw [op_ofMF, mf_ofMF]
  rfl

theorem Encodes.mgth (f : MF) : Encodes.Statement (.mgth f) := by
  intro h
  refine reread_m _ _ rfl rfl h ?_
  unfold mOp
  rw [op_ofMF, mf_ofMF]
  rfl

theorem Encodes.aclr (f : MF) : Encodes.Statement (.aclr f) := by
  intro h
  refine reread_m _ _ rfl rfl h ?_
  unfold mOp
  rw [op_ofMF, mf_ofMF]
  rfl

theorem Encodes.aspl (f : MF) : Encodes.Statement (.aspl f) := by
  intro h
  refine reread_m _ _ rfl rfl h ?_
  unfold mOp
  rw [op_ofMF, mf_ofMF]
  rfl

theorem Encodes.afil (f : MF) : Encodes.Statement (.afil f) := by
  intro h
  refine reread_m _ _ rfl rfl h ?_
  unfold mOp
  rw [op_ofMF, mf_ofMF]
  rfl

theorem Encodes.asw (f : MF) : Encodes.Statement (.asw f) := by
  intro h
  refine reread_m _ _ rfl rfl h ?_
  unfold mOp
  rw [op_ofMF, mf_ofMF]
  rfl

theorem Encodes.mdrn (f : MF) : Encodes.Statement (.mdrn f) := by
  intro h
  refine reread_m _ _ rfl rfl h ?_
  unfold mOp
  rw [op_ofMF, mf_ofMF]
  rfl

theorem Encodes.prja (f : MF) : Encodes.Statement (.prja f) := by
  intro h
  refine reread_m _ _ rfl rfl h ?_
  unfold mOp
  rw [op_ofMF, mf_ofMF]
  rfl

theorem Encodes.mwait (f : MF) : Encodes.Statement (.mwait f) := by
  intro h
  refine reread_m _ _ rfl rfl h ?_
  unfold mOp
  rw [op_ofMF, mf_ofMF]
  rfl

theorem Encodes.knop : Encodes.Statement .knop :=
  fun h => reread_k _ _ rfl rfl h rfl

theorem Encodes.klds (f : KF) : Encodes.Statement (.klds f) := by
  intro h
  refine reread_k _ _ rfl rfl h ?_
  unfold kOp
  rw [op_ofKF, kf_ofKF]
  rfl

theorem Encodes.ksts (f : KF) : Encodes.Statement (.ksts f) := by
  intro h
  refine reread_k _ _ rfl rfl h ?_
  unfold kOp
  rw [op_ofKF, kf_ofKF]
  rfl

theorem Encodes.kldc (f : KF) : Encodes.Statement (.kldc f) := by
  intro h
  refine reread_k _ _ rfl rfl h ?_
  unfold kOp
  rw [op_ofKF, kf_ofKF]
  rfl

theorem Encodes.kmov (f : KF) : Encodes.Statement (.kmov f) := by
  intro h
  refine reread_k _ _ rfl rfl h ?_
  unfold kOp
  rw [op_ofKF, kf_ofKF]
  rfl

theorem Encodes.kauto (f : KF) : Encodes.Statement (.kauto f) := by
  intro h
  refine reread_k _ _ rfl rfl h ?_
  unfold kOp
  rw [op_ofKF, kf_ofKF]
  rfl

theorem Encodes.kufc (f : KF) : Encodes.Statement (.kufc f) := by
  intro h
  refine reread_k _ _ rfl rfl h ?_
  unfold kOp
  rw [op_ofKF, kf_ofKF]
  rfl

theorem Encodes.itlvl (f : KF) : Encodes.Statement (.itlvl f) := by
  intro h
  refine reread_k _ _ rfl rfl h ?_
  unfold kOp
  rw [op_ofKF, kf_ofKF]
  rfl

theorem Encodes.itrst (f : KF) : Encodes.Statement (.itrst f) := by
  intro h
  refine reread_k _ _ rfl rfl h ?_
  unfold kOp
  rw [op_ofKF, kf_ofKF]
  rfl

theorem Encodes.itrev (f : KF) : Encodes.Statement (.itrev f) := by
  intro h
  refine reread_k _ _ rfl rfl h ?_
  unfold kOp
  rw [op_ofKF, kf_ofKF]
  rfl

theorem Encodes.itstep (f : KF) : Encodes.Statement (.itstep f) := by
  intro h
  refine reread_k _ _ rfl rfl h ?_
  unfold kOp
  rw [op_ofKF, kf_ofKF]
  rfl

theorem Encodes.kseed (f : KF) : Encodes.Statement (.kseed f) := by
  intro h
  refine reread_k _ _ rfl rfl h ?_
  unfold kOp
  rw [op_ofKF, kf_ofKF]
  rfl

theorem Encodes.cnop (x : CSlot) : Encodes.Statement (.cnop x) :=
  fun h => reread_c _ x _ rfl rfl h rfl

theorem Encodes.copy (x : CSlot) (f : CF) : Encodes.Statement (.copy x f) := by
  intro h
  refine reread_c _ x _ rfl rfl h ?_
  unfold cOp
  rw [op_ofCF, cf_ofCF]
  rfl

theorem Encodes.cprf (x : CSlot) (f : CF) : Encodes.Statement (.cprf x f) := by
  intro h
  refine reread_c _ x _ rfl rfl h ?_
  unfold cOp
  rw [op_ofCF, cf_ofCF]
  rfl

theorem Encodes.cwb (x : CSlot) (f : CF) : Encodes.Statement (.cwb x f) := by
  intro h
  refine reread_c _ x _ rfl rfl h ?_
  unfold cOp
  rw [op_ofCF, cf_ofCF]
  rfl

theorem Encodes.sbind (x : CSlot) (f : CF) : Encodes.Statement (.sbind x f) := by
  intro h
  refine reread_c _ x _ rfl rfl h ?_
  unfold cOp
  rw [op_ofCF, cf_ofCF]
  rfl

theorem Encodes.sadv (x : CSlot) (f : CF) : Encodes.Statement (.sadv x f) := by
  intro h
  refine reread_c _ x _ rfl rfl h ?_
  unfold cOp
  rw [op_ofCF, cf_ofCF]
  rfl

theorem Encodes.swtf (x : CSlot) (f : CF) : Encodes.Statement (.swtf x f) := by
  intro h
  refine reread_c _ x _ rfl rfl h ?_
  unfold cOp
  rw [op_ofCF, cf_ofCF]
  rfl

theorem Encodes.swte (x : CSlot) (f : CF) : Encodes.Statement (.swte x f) := by
  intro h
  refine reread_c _ x _ rfl rfl h ?_
  unfold cOp
  rw [op_ofCF, cf_ofCF]
  rfl

theorem Encodes.mcast (x : CSlot) (f : CF) : Encodes.Statement (.mcast x f) := by
  intro h
  refine reread_c _ x _ rfl rfl h ?_
  unfold cOp
  rw [op_ofCF, cf_ofCF]
  rfl

theorem Encodes.csend (x : CSlot) (f : CF) : Encodes.Statement (.csend x f) := by
  intro h
  refine reread_c _ x _ rfl rfl h ?_
  unfold cOp
  rw [op_ofCF, cf_ofCF]
  rfl

theorem Encodes.crecv (x : CSlot) (f : CF) : Encodes.Statement (.crecv x f) := by
  intro h
  refine reread_c _ x _ rfl rfl h ?_
  unfold cOp
  rw [op_ofCF, cf_ofCF]
  rfl

theorem Encodes.chks (x : CSlot) (f : CF) : Encodes.Statement (.chks x f) := by
  intro h
  refine reread_c _ x _ rfl rfl h ?_
  unfold cOp
  rw [op_ofCF, cf_ofCF]
  rfl

theorem Encodes.cwait (x : CSlot) (f : CF) : Encodes.Statement (.cwait x f) := by
  intro h
  refine reread_c _ x _ rfl rfl h ?_
  unfold cOp
  rw [op_ofCF, cf_ofCF]
  rfl

theorem Encodes.carm (x : CSlot) (f : CF) : Encodes.Statement (.carm x f) := by
  intro h
  refine reread_c _ x _ rfl rfl h ?_
  unfold cOp
  rw [op_ofCF, cf_ofCF]
  rfl

theorem Encodes.cstat (x : CSlot) (f : CF) : Encodes.Statement (.cstat x f) := by
  intro h
  refine reread_c _ x _ rfl rfl h ?_
  unfold cOp
  rw [op_ofCF, cf_ofCF]
  rfl

theorem Encodes.sclose (x : CSlot) (f : CF) : Encodes.Statement (.sclose x f) := by
  intro h
  refine reread_c _ x _ rfl rfl h ?_
  unfold cOp
  rw [op_ofCF, cf_ofCF]
  rfl

theorem Encodes.cdesc (x : CSlot) (f : CF) : Encodes.Statement (.cdesc x f) := by
  intro h
  refine reread_c _ x _ rfl rfl h ?_
  unfold cOp
  rw [op_ofCF, cf_ofCF]
  rfl

theorem Encodes.tnop (t : Tile) : Encodes.Statement (.tnop t) := by
  intro h
  refine reread_t _ t rfl rfl rfl ?_
  simp only [Instr.wellFormed, decide_eq_true_eq] at h
  unfold decodeTile
  rw [h]
  rfl

theorem Encodes.tmm (t : Tile) : Encodes.Statement (.tmm t) := by
  intro h
  refine reread_t _ t rfl rfl rfl ?_
  simp only [Instr.wellFormed, decide_eq_true_eq] at h
  unfold decodeTile
  rw [h]
  rfl

theorem Encodes.tmmg (t : Tile) : Encodes.Statement (.tmmg t) := by
  intro h
  refine reread_t _ t rfl rfl rfl ?_
  simp only [Instr.wellFormed, decide_eq_true_eq] at h
  unfold decodeTile
  rw [h]
  rfl

theorem Encodes.tconv (t : Tile) : Encodes.Statement (.tconv t) := by
  intro h
  refine reread_t _ t rfl rfl rfl ?_
  simp only [Instr.wellFormed, decide_eq_true_eq] at h
  unfold decodeTile
  rw [h]
  rfl

theorem Encodes.tmap (t : Tile) : Encodes.Statement (.tmap t) := by
  intro h
  refine reread_t _ t rfl rfl rfl ?_
  simp only [Instr.wellFormed, decide_eq_true_eq] at h
  unfold decodeTile
  rw [h]
  rfl

theorem Encodes.tred (t : Tile) : Encodes.Statement (.tred t) := by
  intro h
  refine reread_t _ t rfl rfl rfl ?_
  simp only [Instr.wellFormed, decide_eq_true_eq] at h
  unfold decodeTile
  rw [h]
  rfl

theorem Encodes.tscan (t : Tile) : Encodes.Statement (.tscan t) := by
  intro h
  refine reread_t _ t rfl rfl rfl ?_
  simp only [Instr.wellFormed, decide_eq_true_eq] at h
  unfold decodeTile
  rw [h]
  rfl

theorem Encodes.tcopy (t : Tile) : Encodes.Statement (.tcopy t) := by
  intro h
  refine reread_t _ t rfl rfl rfl ?_
  simp only [Instr.wellFormed, decide_eq_true_eq] at h
  unfold decodeTile
  rw [h]
  rfl

theorem Encodes.tcast (t : Tile) : Encodes.Statement (.tcast t) := by
  intro h
  refine reread_t _ t rfl rfl rfl ?_
  simp only [Instr.wellFormed, decide_eq_true_eq] at h
  unfold decodeTile
  rw [h]
  rfl

theorem Encodes.tprj (t : Tile) : Encodes.Statement (.tprj t) := by
  intro h
  refine reread_t _ t rfl rfl rfl ?_
  simp only [Instr.wellFormed, decide_eq_true_eq] at h
  unfold decodeTile
  rw [h]
  rfl

theorem Encodes.tprja (t : Tile) : Encodes.Statement (.tprja t) := by
  intro h
  refine reread_t _ t rfl rfl rfl ?_
  simp only [Instr.wellFormed, decide_eq_true_eq] at h
  unfold decodeTile
  rw [h]
  rfl

theorem Encodes.tcol (t : Tile) : Encodes.Statement (.tcol t) := by
  intro h
  refine reread_t _ t rfl rfl rfl ?_
  simp only [Instr.wellFormed, decide_eq_true_eq] at h
  unfold decodeTile
  rw [h]
  rfl

theorem Encodes.tfill (t : Tile) : Encodes.Statement (.tfill t) := by
  intro h
  refine reread_t _ t rfl rfl rfl ?_
  simp only [Instr.wellFormed, decide_eq_true_eq] at h
  unfold decodeTile
  rw [h]
  rfl

theorem Encodes.tevt (t : Tile) : Encodes.Statement (.tevt t) := by
  intro h
  refine reread_t _ t rfl rfl rfl ?_
  simp only [Instr.wellFormed, decide_eq_true_eq] at h
  unfold decodeTile
  rw [h]
  rfl

theorem Encodes.twait (t : Tile) : Encodes.Statement (.twait t) := by
  intro h
  refine reread_t _ t rfl rfl rfl ?_
  simp only [Instr.wellFormed, decide_eq_true_eq] at h
  unfold decodeTile
  rw [h]
  rfl

theorem Encodes.tchk (t : Tile) : Encodes.Statement (.tchk t) := by
  intro h
  refine reread_t _ t rfl rfl rfl ?_
  simp only [Instr.wellFormed, decide_eq_true_eq] at h
  unfold decodeTile
  rw [h]
  rfl

theorem Encodes.tstep (t : Tile) : Encodes.Statement (.tstep t) := by
  intro h
  refine reread_t _ t rfl rfl rfl ?_
  simp only [Instr.wellFormed, decide_eq_true_eq] at h
  unfold decodeTile
  rw [h]
  rfl

theorem Encodes.issueBundle a0 : Encodes.Statement (.issueBundle a0) :=
  fun _ => no_words _ rfl rfl rfl

theorem Encodes.moduleResetBoot : Encodes.Statement (.moduleResetBoot) :=
  fun _ => no_words _ rfl rfl rfl

theorem Encodes.dieFatalFault a0 : Encodes.Statement (.dieFatalFault a0) :=
  fun _ => no_words _ rfl rfl rfl

theorem Encodes.dieSwitchInComplete a0 : Encodes.Statement (.dieSwitchInComplete a0) :=
  fun _ => no_words _ rfl rfl rfl

theorem Encodes.powerLimitExceeded : Encodes.Statement (.powerLimitExceeded) :=
  fun _ => no_words _ rfl rfl rfl

theorem Encodes.powerLimitRecovered : Encodes.Statement (.powerLimitRecovered) :=
  fun _ => no_words _ rfl rfl rfl

theorem Encodes.detClockChangeBoundary : Encodes.Statement (.detClockChangeBoundary) :=
  fun _ => no_words _ rfl rfl rfl

theorem Encodes.thermalTrip a0 : Encodes.Statement (.thermalTrip a0) :=
  fun _ => no_words _ rfl rfl rfl

theorem Encodes.thermalDieFatal a0 : Encodes.Statement (.thermalDieFatal a0) :=
  fun _ => no_words _ rfl rfl rfl

theorem Encodes.setPowerLimit a0 : Encodes.Statement (.setPowerLimit a0) :=
  fun _ => no_words _ rfl rfl rfl

theorem Encodes.dieIdleEntry a0 : Encodes.Statement (.dieIdleEntry a0) :=
  fun _ => no_words _ rfl rfl rfl

theorem Encodes.dataError a0 a1 : Encodes.Statement (.dataError a0 a1) :=
  fun _ => no_words _ rfl rfl rfl

theorem Encodes.sqtailWrite a0 a1 a2 : Encodes.Statement (.sqtailWrite a0 a1 a2) :=
  fun _ => no_words _ rfl rfl rfl

theorem Encodes.cqheadWrite a0 a1 a2 : Encodes.Statement (.cqheadWrite a0 a1 a2) :=
  fun _ => no_words _ rfl rfl rfl

theorem Encodes.ovrClear a0 a1 a2 : Encodes.Statement (.ovrClear a0 a1 a2) :=
  fun _ => no_words _ rfl rfl rfl

theorem Encodes.contextCreate a0 : Encodes.Statement (.contextCreate a0) :=
  fun _ => no_words _ rfl rfl rfl

theorem Encodes.contextUpdate a0 : Encodes.Statement (.contextUpdate a0) :=
  fun _ => no_words _ rfl rfl rfl

theorem Encodes.contextDestroy a0 : Encodes.Statement (.contextDestroy a0) :=
  fun _ => no_words _ rfl rfl rfl

theorem Encodes.partitionWrite a0 a1 : Encodes.Statement (.partitionWrite a0 a1) :=
  fun _ => no_words _ rfl rfl rfl

theorem Encodes.xinvWrite a0 : Encodes.Statement (.xinvWrite a0) :=
  fun _ => no_words _ rfl rfl rfl

theorem Encodes.xinvDone : Encodes.Statement (.xinvDone) :=
  fun _ => no_words _ rfl rfl rfl

theorem Encodes.preemptSoftRequest a0 a1 : Encodes.Statement (.preemptSoftRequest a0 a1) :=
  fun _ => no_words _ rfl rfl rfl

theorem Encodes.preemptHardRequest a0 a1 : Encodes.Statement (.preemptHardRequest a0 a1) :=
  fun _ => no_words _ rfl rfl rfl

theorem Encodes.cxsaveWrite a0 a1 : Encodes.Statement (.cxsaveWrite a0 a1) :=
  fun _ => no_words _ rfl rfl rfl

theorem Encodes.readbackCore a0 : Encodes.Statement (.readbackCore a0) :=
  fun _ => no_words _ rfl rfl rfl

theorem Encodes.readbackCluster a0 : Encodes.Statement (.readbackCluster a0) :=
  fun _ => no_words _ rfl rfl rfl

theorem Encodes.readbackScheduler a0 : Encodes.Statement (.readbackScheduler a0) :=
  fun _ => no_words _ rfl rfl rfl

theorem Encodes.readbackEvent a0 : Encodes.Statement (.readbackEvent a0) :=
  fun _ => no_words _ rfl rfl rfl

theorem Encodes.readbackCertChain a0 : Encodes.Statement (.readbackCertChain a0) :=
  fun _ => no_words _ rfl rfl rfl

theorem Encodes.readbackAttestation a0 : Encodes.Statement (.readbackAttestation a0) :=
  fun _ => no_words _ rfl rfl rfl

theorem Encodes.readbackDone : Encodes.Statement (.readbackDone) :=
  fun _ => no_words _ rfl rfl rfl

theorem Encodes.debugModeWrite a0 a1 : Encodes.Statement (.debugModeWrite a0 a1) :=
  fun _ => no_words _ rfl rfl rfl

theorem Encodes.debugHalt a0 : Encodes.Statement (.debugHalt a0) :=
  fun _ => no_words _ rfl rfl rfl

theorem Encodes.debugResume a0 : Encodes.Statement (.debugResume a0) :=
  fun _ => no_words _ rfl rfl rfl

theorem Encodes.owndigWrite a0 a1 a2 : Encodes.Statement (.owndigWrite a0 a1 a2) :=
  fun _ => no_words _ rfl rfl rfl

theorem Encodes.mgmtRegisterWrite a0 a1 : Encodes.Statement (.mgmtRegisterWrite a0 a1) :=
  fun _ => no_words _ rfl rfl rfl

theorem Encodes.hostApply a0 : Encodes.Statement (.hostApply a0) :=
  fun _ => no_words _ rfl rfl rfl

theorem Encodes.hostRead a0 a1 : Encodes.Statement (.hostRead a0 a1) :=
  fun _ => no_words _ rfl rfl rfl

theorem Encodes.fetchEntry : Encodes.Statement (.fetchEntry) :=
  fun _ => no_words _ rfl rfl rfl

theorem Encodes.handOutPiece a0 a1 a2 : Encodes.Statement (.handOutPiece a0 a1 a2) :=
  fun _ => no_words _ rfl rfl rfl

theorem Encodes.agingTick a0 a1 a2 : Encodes.Statement (.agingTick a0 a1 a2) :=
  fun _ => no_words _ rfl rfl rfl

theorem Encodes.steal a0 : Encodes.Statement (.steal a0) :=
  fun _ => no_words _ rfl rfl rfl

theorem Encodes.gangAdmit a0 : Encodes.Statement (.gangAdmit a0) :=
  fun _ => no_words _ rfl rfl rfl

theorem Encodes.taskStart a0 : Encodes.Statement (.taskStart a0) :=
  fun _ => no_words _ rfl rfl rfl

theorem Encodes.bankSpill a0 a1 : Encodes.Statement (.bankSpill a0 a1) :=
  fun _ => no_words _ rfl rfl rfl

theorem Encodes.taskRetire a0 : Encodes.Statement (.taskRetire a0) :=
  fun _ => no_words _ rfl rfl rfl

theorem Encodes.pieceRetireMerge a0 : Encodes.Statement (.pieceRetireMerge a0) :=
  fun _ => no_words _ rfl rfl rfl

theorem Encodes.tileRetire a0 : Encodes.Statement (.tileRetire a0) :=
  fun _ => no_words _ rfl rfl rfl

theorem Encodes.completionRecordWrite a0 a1 : Encodes.Statement (.completionRecordWrite a0 a1) :=
  fun _ => no_words _ rfl rfl rfl

theorem Encodes.faultRecordReceive a0 : Encodes.Statement (.faultRecordReceive a0) :=
  fun _ => no_words _ rfl rfl rfl

theorem Encodes.stallRelease a0 : Encodes.Statement (.stallRelease a0) :=
  fun _ => no_words _ rfl rfl rfl

theorem Encodes.watchdogExpiry a0 : Encodes.Statement (.watchdogExpiry a0) :=
  fun _ => no_words _ rfl rfl rfl

theorem Encodes.preemptDeadlineExpiry a0 : Encodes.Statement (.preemptDeadlineExpiry a0) :=
  fun _ => no_words _ rfl rfl rfl

theorem Encodes.hardPreemptFreeze a0 : Encodes.Statement (.hardPreemptFreeze a0) :=
  fun _ => no_words _ rfl rfl rfl

theorem Encodes.freezeRecordSave a0 : Encodes.Statement (.freezeRecordSave a0) :=
  fun _ => no_words _ rfl rfl rfl

theorem Encodes.frozenTaskResume a0 : Encodes.Statement (.frozenTaskResume a0) :=
  fun _ => no_words _ rfl rfl rfl

theorem Encodes.arrayOpStart a0 : Encodes.Statement (.arrayOpStart a0) :=
  fun _ => no_words _ rfl rfl rfl

theorem Encodes.arrayOpComplete a0 : Encodes.Statement (.arrayOpComplete a0) :=
  fun _ => no_words _ rfl rfl rfl

theorem Encodes.mwinModeTakeEffect a0 : Encodes.Statement (.mwinModeTakeEffect a0) :=
  fun _ => no_words _ rfl rfl rfl

theorem Encodes.l0TileStart a0 : Encodes.Statement (.l0TileStart a0) :=
  fun _ => no_words _ rfl rfl rfl

theorem Encodes.l0TileRetire a0 : Encodes.Statement (.l0TileRetire a0) :=
  fun _ => no_words _ rfl rfl rfl

theorem Encodes.storeApply a0 a1 : Encodes.Statement (.storeApply a0 a1) :=
  fun _ => no_words _ rfl rfl rfl

theorem Encodes.loadPerform a0 a1 : Encodes.Statement (.loadPerform a0 a1) :=
  fun _ => no_words _ rfl rfl rfl

theorem Encodes.accCombine a0 : Encodes.Statement (.accCombine a0) :=
  fun _ => no_words _ rfl rfl rfl

theorem Encodes.pipeDeliver a0 a1 : Encodes.Statement (.pipeDeliver a0 a1) :=
  fun _ => no_words _ rfl rfl rfl

theorem Encodes.threadLineAccess a0 a1 a2 : Encodes.Statement (.threadLineAccess a0 a1 a2) :=
  fun _ => no_words _ rfl rfl rfl

theorem Encodes.asyncMerge a0 : Encodes.Statement (.asyncMerge a0) :=
  fun _ => no_words _ rfl rfl rfl

theorem Encodes.engineOpComplete a0 a1 : Encodes.Statement (.engineOpComplete a0 a1) :=
  fun _ => no_words _ rfl rfl rfl

theorem Encodes.pageWalkComplete a0 a1 a2 : Encodes.Statement (.pageWalkComplete a0 a1 a2) :=
  fun _ => no_words _ rfl rfl rfl

theorem Encodes.faultServiceResolve a0 : Encodes.Statement (.faultServiceResolve a0) :=
  fun _ => no_words _ rfl rfl rfl

theorem Encodes.faultResolvedRetry a0 : Encodes.Statement (.faultResolvedRetry a0) :=
  fun _ => no_words _ rfl rfl rfl

theorem Encodes.recastArrival a0 : Encodes.Statement (.recastArrival a0) :=
  fun _ => no_words _ rfl rfl rfl

theorem Encodes.recastComplete a0 : Encodes.Statement (.recastComplete a0) :=
  fun _ => no_words _ rfl rfl rfl

theorem Encodes.eventIncrement a0 : Encodes.Statement (.eventIncrement a0) :=
  fun _ => no_words _ rfl rfl rfl

theorem Encodes.eventChainApply : Encodes.Statement (.eventChainApply) :=
  fun _ => no_words _ rfl rfl rfl

theorem Encodes.syncRelease a0 a1 a2 : Encodes.Statement (.syncRelease a0 a1 a2) :=
  fun _ => no_words _ rfl rfl rfl

theorem Encodes.rejoinRelease a0 : Encodes.Statement (.rejoinRelease a0) :=
  fun _ => no_words _ rfl rfl rfl

theorem Encodes.geyserTick : Encodes.Statement (.geyserTick) :=
  fun _ => no_words _ rfl rfl rfl

theorem Encodes.geyserAlignMessage a0 : Encodes.Statement (.geyserAlignMessage a0) :=
  fun _ => no_words _ rfl rfl rfl

theorem Encodes.noProgressTimeout a0 a1 : Encodes.Statement (.noProgressTimeout a0 a1) :=
  fun _ => no_words _ rfl rfl rfl

theorem Encodes.recoveryWindowEnd a0 : Encodes.Statement (.recoveryWindowEnd a0) :=
  fun _ => no_words _ rfl rfl rfl

theorem Encodes.headerFlit a0 a1 : Encodes.Statement (.headerFlit a0 a1) :=
  fun _ => no_words _ rfl rfl rfl

theorem Encodes.payloadFlit a0 a1 : Encodes.Statement (.payloadFlit a0 a1) :=
  fun _ => no_words _ rfl rfl rfl

theorem Encodes.acknowledge a0 a1 : Encodes.Statement (.acknowledge a0 a1) :=
  fun _ => no_words _ rfl rfl rfl

theorem Encodes.retryRequest a0 a1 : Encodes.Statement (.retryRequest a0 a1) :=
  fun _ => no_words _ rfl rfl rfl

theorem Encodes.idle a0 a1 : Encodes.Statement (.idle a0 a1) :=
  fun _ => no_words _ rfl rfl rfl

theorem Encodes.flitCrcFail a0 a1 : Encodes.Statement (.flitCrcFail a0 a1) :=
  fun _ => no_words _ rfl rfl rfl

theorem Encodes.portFailure a0 : Encodes.Statement (.portFailure a0) :=
  fun _ => no_words _ rfl rfl rfl

theorem Encodes.channelTileArrive a0 : Encodes.Statement (.channelTileArrive a0) :=
  fun _ => no_words _ rfl rfl rfl

theorem Encodes.channelTileDeliver a0 : Encodes.Statement (.channelTileDeliver a0) :=
  fun _ => no_words _ rfl rfl rfl

theorem Encodes.scratchpadTileReady a0 : Encodes.Statement (.scratchpadTileReady a0) :=
  fun _ => no_words _ rfl rfl rfl

theorem Encodes.fabricGroupConfigure a0 a1 a2 : Encodes.Statement (.fabricGroupConfigure a0 a1 a2) :=
  fun _ => no_words _ rfl rfl rfl

theorem Encodes.fixedLatencyPacketRelease a0 : Encodes.Statement (.fixedLatencyPacketRelease a0) :=
  fun _ => no_words _ rfl rfl rfl

end Sys2Proof.Laws
end

