-- ==== Sys2Proof/Laws/State.lean ====
section
/-!
SUPPORT. The updates of the state: one lemma for each field that an update leaves alone, and what the updated collection
reads as.
-/
namespace Sys2Proof.Laws
set_option Elab.async false

open Machine

/-! ## setMem -/

@[simp] theorem setMem_cores (s : State) (m : List Host.Cell) : (setMem s m).cores = s.cores := rfl
@[simp] theorem setMem_clusters (s : State) (m : List Host.Cell) : (setMem s m).clusters = s.clusters := rfl
@[simp] theorem setMem_ctxs (s : State) (m : List Host.Cell) : (setMem s m).ctxs = s.ctxs := rfl
@[simp] theorem setMem_qps (s : State) (m : List Host.Cell) : (setMem s m).qps = s.qps := rfl
@[simp] theorem setMem_tensors (s : State) (m : List Host.Cell) : (setMem s m).tensors = s.tensors := rfl
@[simp] theorem setMem_recastReqs (s : State) (m : List Host.Cell) : (setMem s m).recastReqs = s.recastReqs := rfl
@[simp] theorem setMem_recasts (s : State) (m : List Host.Cell) : (setMem s m).recasts = s.recasts := rfl
@[simp] theorem setMem_incs (s : State) (m : List Host.Cell) : (setMem s m).incs = s.incs := rfl
@[simp] theorem setMem_chains (s : State) (m : List Host.Cell) : (setMem s m).chains = s.chains := rfl
@[simp] theorem setMem_groups (s : State) (m : List Host.Cell) : (setMem s m).groups = s.groups := rfl
@[simp] theorem setMem_gangs (s : State) (m : List Host.Cell) : (setMem s m).gangs = s.gangs := rfl
@[simp] theorem setMem_bags (s : State) (m : List Host.Cell) : (setMem s m).bags = s.bags := rfl
@[simp] theorem setMem_async (s : State) (m : List Host.Cell) : (setMem s m).async = s.async := rfl
@[simp] theorem setMem_hostBuf (s : State) (m : List Host.Cell) : (setMem s m).hostBuf = s.hostBuf := rfl
@[simp] theorem setMem_hostReply (s : State) (m : List Host.Cell) : (setMem s m).hostReply = s.hostReply := rfl
@[simp] theorem setMem_tiles (s : State) (m : List Host.Cell) : (setMem s m).tiles = s.tiles := rfl
@[simp] theorem setMem_pieces (s : State) (m : List Host.Cell) : (setMem s m).pieces = s.pieces := rfl
@[simp] theorem setMem_pointers (s : State) (m : List Host.Cell) : (setMem s m).pointers = s.pointers := rfl
@[simp] theorem setMem_rr (s : State) (m : List Host.Cell) : (setMem s m).rr = s.rr := rfl
@[simp] theorem setMem_faults (s : State) (m : List Host.Cell) : (setMem s m).faults = s.faults := rfl
@[simp] theorem setMem_cqes (s : State) (m : List Host.Cell) : (setMem s m).cqes = s.cqes := rfl
@[simp] theorem setMem_frozen (s : State) (m : List Host.Cell) : (setMem s m).frozen = s.frozen := rfl
@[simp] theorem setMem_savedClusters (s : State) (m : List Host.Cell) : (setMem s m).savedClusters = s.savedClusters := rfl
@[simp] theorem setMem_stoppedOps (s : State) (m : List Host.Cell) : (setMem s m).stoppedOps = s.stoppedOps := rfl
@[simp] theorem setMem_parts (s : State) (m : List Host.Cell) : (setMem s m).parts = s.parts := rfl
@[simp] theorem setMem_partBusy (s : State) (m : List Host.Cell) : (setMem s m).partBusy = s.partBusy := rfl
@[simp] theorem setMem_dies (s : State) (m : List Host.Cell) : (setMem s m).dies = s.dies := rfl
@[simp] theorem setMem_substituted (s : State) (m : List Host.Cell) : (setMem s m).substituted = s.substituted := rfl
@[simp] theorem setMem_switching (s : State) (m : List Host.Cell) : (setMem s m).switching = s.switching := rfl
@[simp] theorem setMem_fuses (s : State) (m : List Host.Cell) : (setMem s m).fuses = s.fuses := rfl
@[simp] theorem setMem_booterr (s : State) (m : List Host.Cell) : (setMem s m).booterr = s.booterr := rfl
@[simp] theorem setMem_bootok (s : State) (m : List Host.Cell) : (setMem s m).bootok = s.bootok := rfl
@[simp] theorem setMem_sec (s : State) (m : List Host.Cell) : (setMem s m).sec = s.sec := rfl
@[simp] theorem setMem_meas (s : State) (m : List Host.Cell) : (setMem s m).meas = s.meas := rfl
@[simp] theorem setMem_powerLimit (s : State) (m : List Host.Cell) : (setMem s m).powerLimit = s.powerLimit := rfl
@[simp] theorem setMem_reduced (s : State) (m : List Host.Cell) : (setMem s m).reduced = s.reduced := rfl
@[simp] theorem setMem_clockPending (s : State) (m : List Host.Cell) : (setMem s m).clockPending = s.clockPending := rfl
@[simp] theorem setMem_xinvBusy (s : State) (m : List Host.Cell) : (setMem s m).xinvBusy = s.xinvBusy := rfl
@[simp] theorem setMem_xinvEcode (s : State) (m : List Host.Cell) : (setMem s m).xinvEcode = s.xinvEcode := rfl
@[simp] theorem setMem_xinvScope (s : State) (m : List Host.Cell) : (setMem s m).xinvScope = s.xinvScope := rfl
@[simp] theorem setMem_netctl (s : State) (m : List Host.Cell) : (setMem s m).netctl = s.netctl := rfl
@[simp] theorem setMem_reccnt (s : State) (m : List Host.Cell) : (setMem s m).reccnt = s.reccnt := rfl
@[simp] theorem setMem_late (s : State) (m : List Host.Cell) : (setMem s m).late = s.late := rfl
@[simp] theorem setMem_retryCnt (s : State) (m : List Host.Cell) : (setMem s m).retryCnt = s.retryCnt := rfl
@[simp] theorem setMem_fabsel (s : State) (m : List Host.Cell) : (setMem s m).fabsel = s.fabsel := rfl
@[simp] theorem setMem_routes (s : State) (m : List Host.Cell) : (setMem s m).routes = s.routes := rfl
@[simp] theorem setMem_rbsel (s : State) (m : List Host.Cell) : (setMem s m).rbsel = s.rbsel := rfl
@[simp] theorem setMem_rbBytes (s : State) (m : List Host.Cell) : (setMem s m).rbBytes = s.rbBytes := rfl
@[simp] theorem setMem_rbEcode (s : State) (m : List Host.Cell) : (setMem s m).rbEcode = s.rbEcode := rfl
@[simp] theorem setMem_rbBusy (s : State) (m : List Host.Cell) : (setMem s m).rbBusy = s.rbBusy := rfl
@[simp] theorem setMem_rbPend (s : State) (m : List Host.Cell) : (setMem s m).rbPend = s.rbPend := rfl
@[simp] theorem setMem_pkg (s : State) (m : List Host.Cell) : (setMem s m).pkg = s.pkg := rfl
@[simp] theorem setMem_geyser (s : State) (m : List Host.Cell) : (setMem s m).geyser = s.geyser := rfl
@[simp] theorem setMem_geyserPending (s : State) (m : List Host.Cell) : (setMem s m).geyserPending = s.geyserPending := rfl
@[simp] theorem setMem_ports (s : State) (m : List Host.Cell) : (setMem s m).ports = s.ports := rfl
@[simp] theorem setMem_vcs (s : State) (m : List Host.Cell) : (setMem s m).vcs = s.vcs := rfl
@[simp] theorem setMem_escape (s : State) (m : List Host.Cell) : (setMem s m).escape = s.escape := rfl
@[simp] theorem setMem_recovering (s : State) (m : List Host.Cell) : (setMem s m).recovering = s.recovering := rfl
@[simp] theorem setMem_linkSlots (s : State) (m : List Host.Cell) : (setMem s m).linkSlots = s.linkSlots := rfl
@[simp] theorem setMem_asserts (s : State) (m : List Host.Cell) : (setMem s m).asserts = s.asserts := rfl
@[simp] theorem setMem_arriving (s : State) (m : List Host.Cell) : (setMem s m).arriving = s.arriving := rfl
@[simp] theorem setMem_flows (s : State) (m : List Host.Cell) : (setMem s m).flows = s.flows := rfl
@[simp] theorem setMem_early (s : State) (m : List Host.Cell) : (setMem s m).early = s.early := rfl
@[simp] theorem setMem_delivered (s : State) (m : List Host.Cell) : (setMem s m).delivered = s.delivered := rfl
@[simp] theorem setMem_chanTiles (s : State) (m : List Host.Cell) : (setMem s m).chanTiles = s.chanTiles := rfl
@[simp] theorem setMem_readyTiles (s : State) (m : List Host.Cell) : (setMem s m).readyTiles = s.readyTiles := rfl
@[simp] theorem setMem_transfers (s : State) (m : List Host.Cell) : (setMem s m).transfers = s.transfers := rfl
@[simp] theorem setMem_chanRounds (s : State) (m : List Host.Cell) : (setMem s m).chanRounds = s.chanRounds := rfl
@[simp] theorem setMem_away (s : State) (m : List Host.Cell) : (setMem s m).away = s.away := rfl
@[simp] theorem setMem_rmUnits (s : State) (m : List Host.Cell) : (setMem s m).rmUnits = s.rmUnits := rfl
@[simp] theorem setMem_poolUsed (s : State) (m : List Host.Cell) : (setMem s m).poolUsed = s.poolUsed := rfl
@[simp] theorem setMem_raced (s : State) (m : List Host.Cell) : (setMem s m).raced = s.raced := rfl
@[simp] theorem setMem_agenda (s : State) (m : List Host.Cell) : (setMem s m).agenda = s.agenda := rfl
@[simp] theorem setMem_free (s : State) (m : List Host.Cell) : (setMem s m).free = s.free := rfl
@[simp] theorem setMem_fresh (s : State) (m : List Host.Cell) : (setMem s m).fresh = s.fresh := rfl
@[simp] theorem setMem_cur (s : State) (m : List Host.Cell) : (setMem s m).cur = s.cur := rfl

/-! ## setCore -/

@[simp] theorem setCore_mem (s : State) (c : Nat) (x : Core) : (setCore s c x).mem = s.mem := rfl
@[simp] theorem setCore_clusters (s : State) (c : Nat) (x : Core) : (setCore s c x).clusters = s.clusters := rfl
@[simp] theorem setCore_ctxs (s : State) (c : Nat) (x : Core) : (setCore s c x).ctxs = s.ctxs := rfl
@[simp] theorem setCore_qps (s : State) (c : Nat) (x : Core) : (setCore s c x).qps = s.qps := rfl
@[simp] theorem setCore_tensors (s : State) (c : Nat) (x : Core) : (setCore s c x).tensors = s.tensors := rfl
@[simp] theorem setCore_recastReqs (s : State) (c : Nat) (x : Core) : (setCore s c x).recastReqs = s.recastReqs := rfl
@[simp] theorem setCore_recasts (s : State) (c : Nat) (x : Core) : (setCore s c x).recasts = s.recasts := rfl
@[simp] theorem setCore_incs (s : State) (c : Nat) (x : Core) : (setCore s c x).incs = s.incs := rfl
@[simp] theorem setCore_chains (s : State) (c : Nat) (x : Core) : (setCore s c x).chains = s.chains := rfl
@[simp] theorem setCore_groups (s : State) (c : Nat) (x : Core) : (setCore s c x).groups = s.groups := rfl
@[simp] theorem setCore_gangs (s : State) (c : Nat) (x : Core) : (setCore s c x).gangs = s.gangs := rfl
@[simp] theorem setCore_bags (s : State) (c : Nat) (x : Core) : (setCore s c x).bags = s.bags := rfl
@[simp] theorem setCore_async (s : State) (c : Nat) (x : Core) : (setCore s c x).async = s.async := rfl
@[simp] theorem setCore_hostBuf (s : State) (c : Nat) (x : Core) : (setCore s c x).hostBuf = s.hostBuf := rfl
@[simp] theorem setCore_hostReply (s : State) (c : Nat) (x : Core) : (setCore s c x).hostReply = s.hostReply := rfl
@[simp] theorem setCore_tiles (s : State) (c : Nat) (x : Core) : (setCore s c x).tiles = s.tiles := rfl
@[simp] theorem setCore_pieces (s : State) (c : Nat) (x : Core) : (setCore s c x).pieces = s.pieces := rfl
@[simp] theorem setCore_pointers (s : State) (c : Nat) (x : Core) : (setCore s c x).pointers = s.pointers := rfl
@[simp] theorem setCore_rr (s : State) (c : Nat) (x : Core) : (setCore s c x).rr = s.rr := rfl
@[simp] theorem setCore_faults (s : State) (c : Nat) (x : Core) : (setCore s c x).faults = s.faults := rfl
@[simp] theorem setCore_cqes (s : State) (c : Nat) (x : Core) : (setCore s c x).cqes = s.cqes := rfl
@[simp] theorem setCore_frozen (s : State) (c : Nat) (x : Core) : (setCore s c x).frozen = s.frozen := rfl
@[simp] theorem setCore_savedClusters (s : State) (c : Nat) (x : Core) : (setCore s c x).savedClusters = s.savedClusters := rfl
@[simp] theorem setCore_stoppedOps (s : State) (c : Nat) (x : Core) : (setCore s c x).stoppedOps = s.stoppedOps := rfl
@[simp] theorem setCore_parts (s : State) (c : Nat) (x : Core) : (setCore s c x).parts = s.parts := rfl
@[simp] theorem setCore_partBusy (s : State) (c : Nat) (x : Core) : (setCore s c x).partBusy = s.partBusy := rfl
@[simp] theorem setCore_dies (s : State) (c : Nat) (x : Core) : (setCore s c x).dies = s.dies := rfl
@[simp] theorem setCore_substituted (s : State) (c : Nat) (x : Core) : (setCore s c x).substituted = s.substituted := rfl
@[simp] theorem setCore_switching (s : State) (c : Nat) (x : Core) : (setCore s c x).switching = s.switching := rfl
@[simp] theorem setCore_fuses (s : State) (c : Nat) (x : Core) : (setCore s c x).fuses = s.fuses := rfl
@[simp] theorem setCore_booterr (s : State) (c : Nat) (x : Core) : (setCore s c x).booterr = s.booterr := rfl
@[simp] theorem setCore_bootok (s : State) (c : Nat) (x : Core) : (setCore s c x).bootok = s.bootok := rfl
@[simp] theorem setCore_sec (s : State) (c : Nat) (x : Core) : (setCore s c x).sec = s.sec := rfl
@[simp] theorem setCore_meas (s : State) (c : Nat) (x : Core) : (setCore s c x).meas = s.meas := rfl
@[simp] theorem setCore_powerLimit (s : State) (c : Nat) (x : Core) : (setCore s c x).powerLimit = s.powerLimit := rfl
@[simp] theorem setCore_reduced (s : State) (c : Nat) (x : Core) : (setCore s c x).reduced = s.reduced := rfl
@[simp] theorem setCore_clockPending (s : State) (c : Nat) (x : Core) : (setCore s c x).clockPending = s.clockPending := rfl
@[simp] theorem setCore_xinvBusy (s : State) (c : Nat) (x : Core) : (setCore s c x).xinvBusy = s.xinvBusy := rfl
@[simp] theorem setCore_xinvEcode (s : State) (c : Nat) (x : Core) : (setCore s c x).xinvEcode = s.xinvEcode := rfl
@[simp] theorem setCore_xinvScope (s : State) (c : Nat) (x : Core) : (setCore s c x).xinvScope = s.xinvScope := rfl
@[simp] theorem setCore_netctl (s : State) (c : Nat) (x : Core) : (setCore s c x).netctl = s.netctl := rfl
@[simp] theorem setCore_reccnt (s : State) (c : Nat) (x : Core) : (setCore s c x).reccnt = s.reccnt := rfl
@[simp] theorem setCore_late (s : State) (c : Nat) (x : Core) : (setCore s c x).late = s.late := rfl
@[simp] theorem setCore_retryCnt (s : State) (c : Nat) (x : Core) : (setCore s c x).retryCnt = s.retryCnt := rfl
@[simp] theorem setCore_fabsel (s : State) (c : Nat) (x : Core) : (setCore s c x).fabsel = s.fabsel := rfl
@[simp] theorem setCore_routes (s : State) (c : Nat) (x : Core) : (setCore s c x).routes = s.routes := rfl
@[simp] theorem setCore_rbsel (s : State) (c : Nat) (x : Core) : (setCore s c x).rbsel = s.rbsel := rfl
@[simp] theorem setCore_rbBytes (s : State) (c : Nat) (x : Core) : (setCore s c x).rbBytes = s.rbBytes := rfl
@[simp] theorem setCore_rbEcode (s : State) (c : Nat) (x : Core) : (setCore s c x).rbEcode = s.rbEcode := rfl
@[simp] theorem setCore_rbBusy (s : State) (c : Nat) (x : Core) : (setCore s c x).rbBusy = s.rbBusy := rfl
@[simp] theorem setCore_rbPend (s : State) (c : Nat) (x : Core) : (setCore s c x).rbPend = s.rbPend := rfl
@[simp] theorem setCore_pkg (s : State) (c : Nat) (x : Core) : (setCore s c x).pkg = s.pkg := rfl
@[simp] theorem setCore_geyser (s : State) (c : Nat) (x : Core) : (setCore s c x).geyser = s.geyser := rfl
@[simp] theorem setCore_geyserPending (s : State) (c : Nat) (x : Core) : (setCore s c x).geyserPending = s.geyserPending := rfl
@[simp] theorem setCore_ports (s : State) (c : Nat) (x : Core) : (setCore s c x).ports = s.ports := rfl
@[simp] theorem setCore_vcs (s : State) (c : Nat) (x : Core) : (setCore s c x).vcs = s.vcs := rfl
@[simp] theorem setCore_escape (s : State) (c : Nat) (x : Core) : (setCore s c x).escape = s.escape := rfl
@[simp] theorem setCore_recovering (s : State) (c : Nat) (x : Core) : (setCore s c x).recovering = s.recovering := rfl
@[simp] theorem setCore_linkSlots (s : State) (c : Nat) (x : Core) : (setCore s c x).linkSlots = s.linkSlots := rfl
@[simp] theorem setCore_asserts (s : State) (c : Nat) (x : Core) : (setCore s c x).asserts = s.asserts := rfl
@[simp] theorem setCore_arriving (s : State) (c : Nat) (x : Core) : (setCore s c x).arriving = s.arriving := rfl
@[simp] theorem setCore_flows (s : State) (c : Nat) (x : Core) : (setCore s c x).flows = s.flows := rfl
@[simp] theorem setCore_early (s : State) (c : Nat) (x : Core) : (setCore s c x).early = s.early := rfl
@[simp] theorem setCore_delivered (s : State) (c : Nat) (x : Core) : (setCore s c x).delivered = s.delivered := rfl
@[simp] theorem setCore_chanTiles (s : State) (c : Nat) (x : Core) : (setCore s c x).chanTiles = s.chanTiles := rfl
@[simp] theorem setCore_readyTiles (s : State) (c : Nat) (x : Core) : (setCore s c x).readyTiles = s.readyTiles := rfl
@[simp] theorem setCore_transfers (s : State) (c : Nat) (x : Core) : (setCore s c x).transfers = s.transfers := rfl
@[simp] theorem setCore_chanRounds (s : State) (c : Nat) (x : Core) : (setCore s c x).chanRounds = s.chanRounds := rfl
@[simp] theorem setCore_away (s : State) (c : Nat) (x : Core) : (setCore s c x).away = s.away := rfl
@[simp] theorem setCore_rmUnits (s : State) (c : Nat) (x : Core) : (setCore s c x).rmUnits = s.rmUnits := rfl
@[simp] theorem setCore_poolUsed (s : State) (c : Nat) (x : Core) : (setCore s c x).poolUsed = s.poolUsed := rfl
@[simp] theorem setCore_raced (s : State) (c : Nat) (x : Core) : (setCore s c x).raced = s.raced := rfl
@[simp] theorem setCore_agenda (s : State) (c : Nat) (x : Core) : (setCore s c x).agenda = s.agenda := rfl
@[simp] theorem setCore_free (s : State) (c : Nat) (x : Core) : (setCore s c x).free = s.free := rfl
@[simp] theorem setCore_fresh (s : State) (c : Nat) (x : Core) : (setCore s c x).fresh = s.fresh := rfl
@[simp] theorem setCore_cur (s : State) (c : Nat) (x : Core) : (setCore s c x).cur = s.cur := rfl

/-! ## modCore -/

@[simp] theorem modCore_mem (s : State) (c : Nat) (f : Core → Core) : (modCore s c f).mem = s.mem := rfl
@[simp] theorem modCore_clusters (s : State) (c : Nat) (f : Core → Core) : (modCore s c f).clusters = s.clusters := rfl
@[simp] theorem modCore_ctxs (s : State) (c : Nat) (f : Core → Core) : (modCore s c f).ctxs = s.ctxs := rfl
@[simp] theorem modCore_qps (s : State) (c : Nat) (f : Core → Core) : (modCore s c f).qps = s.qps := rfl
@[simp] theorem modCore_tensors (s : State) (c : Nat) (f : Core → Core) : (modCore s c f).tensors = s.tensors := rfl
@[simp] theorem modCore_recastReqs (s : State) (c : Nat) (f : Core → Core) : (modCore s c f).recastReqs = s.recastReqs := rfl
@[simp] theorem modCore_recasts (s : State) (c : Nat) (f : Core → Core) : (modCore s c f).recasts = s.recasts := rfl
@[simp] theorem modCore_incs (s : State) (c : Nat) (f : Core → Core) : (modCore s c f).incs = s.incs := rfl
@[simp] theorem modCore_chains (s : State) (c : Nat) (f : Core → Core) : (modCore s c f).chains = s.chains := rfl
@[simp] theorem modCore_groups (s : State) (c : Nat) (f : Core → Core) : (modCore s c f).groups = s.groups := rfl
@[simp] theorem modCore_gangs (s : State) (c : Nat) (f : Core → Core) : (modCore s c f).gangs = s.gangs := rfl
@[simp] theorem modCore_bags (s : State) (c : Nat) (f : Core → Core) : (modCore s c f).bags = s.bags := rfl
@[simp] theorem modCore_async (s : State) (c : Nat) (f : Core → Core) : (modCore s c f).async = s.async := rfl
@[simp] theorem modCore_hostBuf (s : State) (c : Nat) (f : Core → Core) : (modCore s c f).hostBuf = s.hostBuf := rfl
@[simp] theorem modCore_hostReply (s : State) (c : Nat) (f : Core → Core) : (modCore s c f).hostReply = s.hostReply := rfl
@[simp] theorem modCore_tiles (s : State) (c : Nat) (f : Core → Core) : (modCore s c f).tiles = s.tiles := rfl
@[simp] theorem modCore_pieces (s : State) (c : Nat) (f : Core → Core) : (modCore s c f).pieces = s.pieces := rfl
@[simp] theorem modCore_pointers (s : State) (c : Nat) (f : Core → Core) : (modCore s c f).pointers = s.pointers := rfl
@[simp] theorem modCore_rr (s : State) (c : Nat) (f : Core → Core) : (modCore s c f).rr = s.rr := rfl
@[simp] theorem modCore_faults (s : State) (c : Nat) (f : Core → Core) : (modCore s c f).faults = s.faults := rfl
@[simp] theorem modCore_cqes (s : State) (c : Nat) (f : Core → Core) : (modCore s c f).cqes = s.cqes := rfl
@[simp] theorem modCore_frozen (s : State) (c : Nat) (f : Core → Core) : (modCore s c f).frozen = s.frozen := rfl
@[simp] theorem modCore_savedClusters (s : State) (c : Nat) (f : Core → Core) : (modCore s c f).savedClusters = s.savedClusters := rfl
@[simp] theorem modCore_stoppedOps (s : State) (c : Nat) (f : Core → Core) : (modCore s c f).stoppedOps = s.stoppedOps := rfl
@[simp] theorem modCore_parts (s : State) (c : Nat) (f : Core → Core) : (modCore s c f).parts = s.parts := rfl
@[simp] theorem modCore_partBusy (s : State) (c : Nat) (f : Core → Core) : (modCore s c f).partBusy = s.partBusy := rfl
@[simp] theorem modCore_dies (s : State) (c : Nat) (f : Core → Core) : (modCore s c f).dies = s.dies := rfl
@[simp] theorem modCore_substituted (s : State) (c : Nat) (f : Core → Core) : (modCore s c f).substituted = s.substituted := rfl
@[simp] theorem modCore_switching (s : State) (c : Nat) (f : Core → Core) : (modCore s c f).switching = s.switching := rfl
@[simp] theorem modCore_fuses (s : State) (c : Nat) (f : Core → Core) : (modCore s c f).fuses = s.fuses := rfl
@[simp] theorem modCore_booterr (s : State) (c : Nat) (f : Core → Core) : (modCore s c f).booterr = s.booterr := rfl
@[simp] theorem modCore_bootok (s : State) (c : Nat) (f : Core → Core) : (modCore s c f).bootok = s.bootok := rfl
@[simp] theorem modCore_sec (s : State) (c : Nat) (f : Core → Core) : (modCore s c f).sec = s.sec := rfl
@[simp] theorem modCore_meas (s : State) (c : Nat) (f : Core → Core) : (modCore s c f).meas = s.meas := rfl
@[simp] theorem modCore_powerLimit (s : State) (c : Nat) (f : Core → Core) : (modCore s c f).powerLimit = s.powerLimit := rfl
@[simp] theorem modCore_reduced (s : State) (c : Nat) (f : Core → Core) : (modCore s c f).reduced = s.reduced := rfl
@[simp] theorem modCore_clockPending (s : State) (c : Nat) (f : Core → Core) : (modCore s c f).clockPending = s.clockPending := rfl
@[simp] theorem modCore_xinvBusy (s : State) (c : Nat) (f : Core → Core) : (modCore s c f).xinvBusy = s.xinvBusy := rfl
@[simp] theorem modCore_xinvEcode (s : State) (c : Nat) (f : Core → Core) : (modCore s c f).xinvEcode = s.xinvEcode := rfl
@[simp] theorem modCore_xinvScope (s : State) (c : Nat) (f : Core → Core) : (modCore s c f).xinvScope = s.xinvScope := rfl
@[simp] theorem modCore_netctl (s : State) (c : Nat) (f : Core → Core) : (modCore s c f).netctl = s.netctl := rfl
@[simp] theorem modCore_reccnt (s : State) (c : Nat) (f : Core → Core) : (modCore s c f).reccnt = s.reccnt := rfl
@[simp] theorem modCore_late (s : State) (c : Nat) (f : Core → Core) : (modCore s c f).late = s.late := rfl
@[simp] theorem modCore_retryCnt (s : State) (c : Nat) (f : Core → Core) : (modCore s c f).retryCnt = s.retryCnt := rfl
@[simp] theorem modCore_fabsel (s : State) (c : Nat) (f : Core → Core) : (modCore s c f).fabsel = s.fabsel := rfl
@[simp] theorem modCore_routes (s : State) (c : Nat) (f : Core → Core) : (modCore s c f).routes = s.routes := rfl
@[simp] theorem modCore_rbsel (s : State) (c : Nat) (f : Core → Core) : (modCore s c f).rbsel = s.rbsel := rfl
@[simp] theorem modCore_rbBytes (s : State) (c : Nat) (f : Core → Core) : (modCore s c f).rbBytes = s.rbBytes := rfl
@[simp] theorem modCore_rbEcode (s : State) (c : Nat) (f : Core → Core) : (modCore s c f).rbEcode = s.rbEcode := rfl
@[simp] theorem modCore_rbBusy (s : State) (c : Nat) (f : Core → Core) : (modCore s c f).rbBusy = s.rbBusy := rfl
@[simp] theorem modCore_rbPend (s : State) (c : Nat) (f : Core → Core) : (modCore s c f).rbPend = s.rbPend := rfl
@[simp] theorem modCore_pkg (s : State) (c : Nat) (f : Core → Core) : (modCore s c f).pkg = s.pkg := rfl
@[simp] theorem modCore_geyser (s : State) (c : Nat) (f : Core → Core) : (modCore s c f).geyser = s.geyser := rfl
@[simp] theorem modCore_geyserPending (s : State) (c : Nat) (f : Core → Core) : (modCore s c f).geyserPending = s.geyserPending := rfl
@[simp] theorem modCore_ports (s : State) (c : Nat) (f : Core → Core) : (modCore s c f).ports = s.ports := rfl
@[simp] theorem modCore_vcs (s : State) (c : Nat) (f : Core → Core) : (modCore s c f).vcs = s.vcs := rfl
@[simp] theorem modCore_escape (s : State) (c : Nat) (f : Core → Core) : (modCore s c f).escape = s.escape := rfl
@[simp] theorem modCore_recovering (s : State) (c : Nat) (f : Core → Core) : (modCore s c f).recovering = s.recovering := rfl
@[simp] theorem modCore_linkSlots (s : State) (c : Nat) (f : Core → Core) : (modCore s c f).linkSlots = s.linkSlots := rfl
@[simp] theorem modCore_asserts (s : State) (c : Nat) (f : Core → Core) : (modCore s c f).asserts = s.asserts := rfl
@[simp] theorem modCore_arriving (s : State) (c : Nat) (f : Core → Core) : (modCore s c f).arriving = s.arriving := rfl
@[simp] theorem modCore_flows (s : State) (c : Nat) (f : Core → Core) : (modCore s c f).flows = s.flows := rfl
@[simp] theorem modCore_early (s : State) (c : Nat) (f : Core → Core) : (modCore s c f).early = s.early := rfl
@[simp] theorem modCore_delivered (s : State) (c : Nat) (f : Core → Core) : (modCore s c f).delivered = s.delivered := rfl
@[simp] theorem modCore_chanTiles (s : State) (c : Nat) (f : Core → Core) : (modCore s c f).chanTiles = s.chanTiles := rfl
@[simp] theorem modCore_readyTiles (s : State) (c : Nat) (f : Core → Core) : (modCore s c f).readyTiles = s.readyTiles := rfl
@[simp] theorem modCore_transfers (s : State) (c : Nat) (f : Core → Core) : (modCore s c f).transfers = s.transfers := rfl
@[simp] theorem modCore_chanRounds (s : State) (c : Nat) (f : Core → Core) : (modCore s c f).chanRounds = s.chanRounds := rfl
@[simp] theorem modCore_away (s : State) (c : Nat) (f : Core → Core) : (modCore s c f).away = s.away := rfl
@[simp] theorem modCore_rmUnits (s : State) (c : Nat) (f : Core → Core) : (modCore s c f).rmUnits = s.rmUnits := rfl
@[simp] theorem modCore_poolUsed (s : State) (c : Nat) (f : Core → Core) : (modCore s c f).poolUsed = s.poolUsed := rfl
@[simp] theorem modCore_raced (s : State) (c : Nat) (f : Core → Core) : (modCore s c f).raced = s.raced := rfl
@[simp] theorem modCore_agenda (s : State) (c : Nat) (f : Core → Core) : (modCore s c f).agenda = s.agenda := rfl
@[simp] theorem modCore_free (s : State) (c : Nat) (f : Core → Core) : (modCore s c f).free = s.free := rfl
@[simp] theorem modCore_fresh (s : State) (c : Nat) (f : Core → Core) : (modCore s c f).fresh = s.fresh := rfl
@[simp] theorem modCore_cur (s : State) (c : Nat) (f : Core → Core) : (modCore s c f).cur = s.cur := rfl

/-! ## setCluster -/

@[simp] theorem setCluster_mem (s : State) (k : Nat) (x : Cluster) : (setCluster s k x).mem = s.mem := rfl
@[simp] theorem setCluster_cores (s : State) (k : Nat) (x : Cluster) : (setCluster s k x).cores = s.cores := rfl
@[simp] theorem setCluster_ctxs (s : State) (k : Nat) (x : Cluster) : (setCluster s k x).ctxs = s.ctxs := rfl
@[simp] theorem setCluster_qps (s : State) (k : Nat) (x : Cluster) : (setCluster s k x).qps = s.qps := rfl
@[simp] theorem setCluster_tensors (s : State) (k : Nat) (x : Cluster) : (setCluster s k x).tensors = s.tensors := rfl
@[simp] theorem setCluster_recastReqs (s : State) (k : Nat) (x : Cluster) : (setCluster s k x).recastReqs = s.recastReqs := rfl
@[simp] theorem setCluster_recasts (s : State) (k : Nat) (x : Cluster) : (setCluster s k x).recasts = s.recasts := rfl
@[simp] theorem setCluster_incs (s : State) (k : Nat) (x : Cluster) : (setCluster s k x).incs = s.incs := rfl
@[simp] theorem setCluster_chains (s : State) (k : Nat) (x : Cluster) : (setCluster s k x).chains = s.chains := rfl
@[simp] theorem setCluster_groups (s : State) (k : Nat) (x : Cluster) : (setCluster s k x).groups = s.groups := rfl
@[simp] theorem setCluster_gangs (s : State) (k : Nat) (x : Cluster) : (setCluster s k x).gangs = s.gangs := rfl
@[simp] theorem setCluster_bags (s : State) (k : Nat) (x : Cluster) : (setCluster s k x).bags = s.bags := rfl
@[simp] theorem setCluster_async (s : State) (k : Nat) (x : Cluster) : (setCluster s k x).async = s.async := rfl
@[simp] theorem setCluster_hostBuf (s : State) (k : Nat) (x : Cluster) : (setCluster s k x).hostBuf = s.hostBuf := rfl
@[simp] theorem setCluster_hostReply (s : State) (k : Nat) (x : Cluster) : (setCluster s k x).hostReply = s.hostReply := rfl
@[simp] theorem setCluster_tiles (s : State) (k : Nat) (x : Cluster) : (setCluster s k x).tiles = s.tiles := rfl
@[simp] theorem setCluster_pieces (s : State) (k : Nat) (x : Cluster) : (setCluster s k x).pieces = s.pieces := rfl
@[simp] theorem setCluster_pointers (s : State) (k : Nat) (x : Cluster) : (setCluster s k x).pointers = s.pointers := rfl
@[simp] theorem setCluster_rr (s : State) (k : Nat) (x : Cluster) : (setCluster s k x).rr = s.rr := rfl
@[simp] theorem setCluster_faults (s : State) (k : Nat) (x : Cluster) : (setCluster s k x).faults = s.faults := rfl
@[simp] theorem setCluster_cqes (s : State) (k : Nat) (x : Cluster) : (setCluster s k x).cqes = s.cqes := rfl
@[simp] theorem setCluster_frozen (s : State) (k : Nat) (x : Cluster) : (setCluster s k x).frozen = s.frozen := rfl
@[simp] theorem setCluster_savedClusters (s : State) (k : Nat) (x : Cluster) : (setCluster s k x).savedClusters = s.savedClusters := rfl
@[simp] theorem setCluster_stoppedOps (s : State) (k : Nat) (x : Cluster) : (setCluster s k x).stoppedOps = s.stoppedOps := rfl
@[simp] theorem setCluster_parts (s : State) (k : Nat) (x : Cluster) : (setCluster s k x).parts = s.parts := rfl
@[simp] theorem setCluster_partBusy (s : State) (k : Nat) (x : Cluster) : (setCluster s k x).partBusy = s.partBusy := rfl
@[simp] theorem setCluster_dies (s : State) (k : Nat) (x : Cluster) : (setCluster s k x).dies = s.dies := rfl
@[simp] theorem setCluster_substituted (s : State) (k : Nat) (x : Cluster) : (setCluster s k x).substituted = s.substituted := rfl
@[simp] theorem setCluster_switching (s : State) (k : Nat) (x : Cluster) : (setCluster s k x).switching = s.switching := rfl
@[simp] theorem setCluster_fuses (s : State) (k : Nat) (x : Cluster) : (setCluster s k x).fuses = s.fuses := rfl
@[simp] theorem setCluster_booterr (s : State) (k : Nat) (x : Cluster) : (setCluster s k x).booterr = s.booterr := rfl
@[simp] theorem setCluster_bootok (s : State) (k : Nat) (x : Cluster) : (setCluster s k x).bootok = s.bootok := rfl
@[simp] theorem setCluster_sec (s : State) (k : Nat) (x : Cluster) : (setCluster s k x).sec = s.sec := rfl
@[simp] theorem setCluster_meas (s : State) (k : Nat) (x : Cluster) : (setCluster s k x).meas = s.meas := rfl
@[simp] theorem setCluster_powerLimit (s : State) (k : Nat) (x : Cluster) : (setCluster s k x).powerLimit = s.powerLimit := rfl
@[simp] theorem setCluster_reduced (s : State) (k : Nat) (x : Cluster) : (setCluster s k x).reduced = s.reduced := rfl
@[simp] theorem setCluster_clockPending (s : State) (k : Nat) (x : Cluster) : (setCluster s k x).clockPending = s.clockPending := rfl
@[simp] theorem setCluster_xinvBusy (s : State) (k : Nat) (x : Cluster) : (setCluster s k x).xinvBusy = s.xinvBusy := rfl
@[simp] theorem setCluster_xinvEcode (s : State) (k : Nat) (x : Cluster) : (setCluster s k x).xinvEcode = s.xinvEcode := rfl
@[simp] theorem setCluster_xinvScope (s : State) (k : Nat) (x : Cluster) : (setCluster s k x).xinvScope = s.xinvScope := rfl
@[simp] theorem setCluster_netctl (s : State) (k : Nat) (x : Cluster) : (setCluster s k x).netctl = s.netctl := rfl
@[simp] theorem setCluster_reccnt (s : State) (k : Nat) (x : Cluster) : (setCluster s k x).reccnt = s.reccnt := rfl
@[simp] theorem setCluster_late (s : State) (k : Nat) (x : Cluster) : (setCluster s k x).late = s.late := rfl
@[simp] theorem setCluster_retryCnt (s : State) (k : Nat) (x : Cluster) : (setCluster s k x).retryCnt = s.retryCnt := rfl
@[simp] theorem setCluster_fabsel (s : State) (k : Nat) (x : Cluster) : (setCluster s k x).fabsel = s.fabsel := rfl
@[simp] theorem setCluster_routes (s : State) (k : Nat) (x : Cluster) : (setCluster s k x).routes = s.routes := rfl
@[simp] theorem setCluster_rbsel (s : State) (k : Nat) (x : Cluster) : (setCluster s k x).rbsel = s.rbsel := rfl
@[simp] theorem setCluster_rbBytes (s : State) (k : Nat) (x : Cluster) : (setCluster s k x).rbBytes = s.rbBytes := rfl
@[simp] theorem setCluster_rbEcode (s : State) (k : Nat) (x : Cluster) : (setCluster s k x).rbEcode = s.rbEcode := rfl
@[simp] theorem setCluster_rbBusy (s : State) (k : Nat) (x : Cluster) : (setCluster s k x).rbBusy = s.rbBusy := rfl
@[simp] theorem setCluster_rbPend (s : State) (k : Nat) (x : Cluster) : (setCluster s k x).rbPend = s.rbPend := rfl
@[simp] theorem setCluster_pkg (s : State) (k : Nat) (x : Cluster) : (setCluster s k x).pkg = s.pkg := rfl
@[simp] theorem setCluster_geyser (s : State) (k : Nat) (x : Cluster) : (setCluster s k x).geyser = s.geyser := rfl
@[simp] theorem setCluster_geyserPending (s : State) (k : Nat) (x : Cluster) : (setCluster s k x).geyserPending = s.geyserPending := rfl
@[simp] theorem setCluster_ports (s : State) (k : Nat) (x : Cluster) : (setCluster s k x).ports = s.ports := rfl
@[simp] theorem setCluster_vcs (s : State) (k : Nat) (x : Cluster) : (setCluster s k x).vcs = s.vcs := rfl
@[simp] theorem setCluster_escape (s : State) (k : Nat) (x : Cluster) : (setCluster s k x).escape = s.escape := rfl
@[simp] theorem setCluster_recovering (s : State) (k : Nat) (x : Cluster) : (setCluster s k x).recovering = s.recovering := rfl
@[simp] theorem setCluster_linkSlots (s : State) (k : Nat) (x : Cluster) : (setCluster s k x).linkSlots = s.linkSlots := rfl
@[simp] theorem setCluster_asserts (s : State) (k : Nat) (x : Cluster) : (setCluster s k x).asserts = s.asserts := rfl
@[simp] theorem setCluster_arriving (s : State) (k : Nat) (x : Cluster) : (setCluster s k x).arriving = s.arriving := rfl
@[simp] theorem setCluster_flows (s : State) (k : Nat) (x : Cluster) : (setCluster s k x).flows = s.flows := rfl
@[simp] theorem setCluster_early (s : State) (k : Nat) (x : Cluster) : (setCluster s k x).early = s.early := rfl
@[simp] theorem setCluster_delivered (s : State) (k : Nat) (x : Cluster) : (setCluster s k x).delivered = s.delivered := rfl
@[simp] theorem setCluster_chanTiles (s : State) (k : Nat) (x : Cluster) : (setCluster s k x).chanTiles = s.chanTiles := rfl
@[simp] theorem setCluster_readyTiles (s : State) (k : Nat) (x : Cluster) : (setCluster s k x).readyTiles = s.readyTiles := rfl
@[simp] theorem setCluster_transfers (s : State) (k : Nat) (x : Cluster) : (setCluster s k x).transfers = s.transfers := rfl
@[simp] theorem setCluster_chanRounds (s : State) (k : Nat) (x : Cluster) : (setCluster s k x).chanRounds = s.chanRounds := rfl
@[simp] theorem setCluster_away (s : State) (k : Nat) (x : Cluster) : (setCluster s k x).away = s.away := rfl
@[simp] theorem setCluster_rmUnits (s : State) (k : Nat) (x : Cluster) : (setCluster s k x).rmUnits = s.rmUnits := rfl
@[simp] theorem setCluster_poolUsed (s : State) (k : Nat) (x : Cluster) : (setCluster s k x).poolUsed = s.poolUsed := rfl
@[simp] theorem setCluster_raced (s : State) (k : Nat) (x : Cluster) : (setCluster s k x).raced = s.raced := rfl
@[simp] theorem setCluster_agenda (s : State) (k : Nat) (x : Cluster) : (setCluster s k x).agenda = s.agenda := rfl
@[simp] theorem setCluster_free (s : State) (k : Nat) (x : Cluster) : (setCluster s k x).free = s.free := rfl
@[simp] theorem setCluster_fresh (s : State) (k : Nat) (x : Cluster) : (setCluster s k x).fresh = s.fresh := rfl
@[simp] theorem setCluster_cur (s : State) (k : Nat) (x : Cluster) : (setCluster s k x).cur = s.cur := rfl

/-! ## modCluster -/

@[simp] theorem modCluster_mem (s : State) (k : Nat) (f : Cluster → Cluster) : (modCluster s k f).mem = s.mem := rfl
@[simp] theorem modCluster_cores (s : State) (k : Nat) (f : Cluster → Cluster) : (modCluster s k f).cores = s.cores := rfl
@[simp] theorem modCluster_ctxs (s : State) (k : Nat) (f : Cluster → Cluster) : (modCluster s k f).ctxs = s.ctxs := rfl
@[simp] theorem modCluster_qps (s : State) (k : Nat) (f : Cluster → Cluster) : (modCluster s k f).qps = s.qps := rfl
@[simp] theorem modCluster_tensors (s : State) (k : Nat) (f : Cluster → Cluster) : (modCluster s k f).tensors = s.tensors := rfl
@[simp] theorem modCluster_recastReqs (s : State) (k : Nat) (f : Cluster → Cluster) : (modCluster s k f).recastReqs = s.recastReqs := rfl
@[simp] theorem modCluster_recasts (s : State) (k : Nat) (f : Cluster → Cluster) : (modCluster s k f).recasts = s.recasts := rfl
@[simp] theorem modCluster_incs (s : State) (k : Nat) (f : Cluster → Cluster) : (modCluster s k f).incs = s.incs := rfl
@[simp] theorem modCluster_chains (s : State) (k : Nat) (f : Cluster → Cluster) : (modCluster s k f).chains = s.chains := rfl
@[simp] theorem modCluster_groups (s : State) (k : Nat) (f : Cluster → Cluster) : (modCluster s k f).groups = s.groups := rfl
@[simp] theorem modCluster_gangs (s : State) (k : Nat) (f : Cluster → Cluster) : (modCluster s k f).gangs = s.gangs := rfl
@[simp] theorem modCluster_bags (s : State) (k : Nat) (f : Cluster → Cluster) : (modCluster s k f).bags = s.bags := rfl
@[simp] theorem modCluster_async (s : State) (k : Nat) (f : Cluster → Cluster) : (modCluster s k f).async = s.async := rfl
@[simp] theorem modCluster_hostBuf (s : State) (k : Nat) (f : Cluster → Cluster) : (modCluster s k f).hostBuf = s.hostBuf := rfl
@[simp] theorem modCluster_hostReply (s : State) (k : Nat) (f : Cluster → Cluster) : (modCluster s k f).hostReply = s.hostReply := rfl
@[simp] theorem modCluster_tiles (s : State) (k : Nat) (f : Cluster → Cluster) : (modCluster s k f).tiles = s.tiles := rfl
@[simp] theorem modCluster_pieces (s : State) (k : Nat) (f : Cluster → Cluster) : (modCluster s k f).pieces = s.pieces := rfl
@[simp] theorem modCluster_pointers (s : State) (k : Nat) (f : Cluster → Cluster) : (modCluster s k f).pointers = s.pointers := rfl
@[simp] theorem modCluster_rr (s : State) (k : Nat) (f : Cluster → Cluster) : (modCluster s k f).rr = s.rr := rfl
@[simp] theorem modCluster_faults (s : State) (k : Nat) (f : Cluster → Cluster) : (modCluster s k f).faults = s.faults := rfl
@[simp] theorem modCluster_cqes (s : State) (k : Nat) (f : Cluster → Cluster) : (modCluster s k f).cqes = s.cqes := rfl
@[simp] theorem modCluster_frozen (s : State) (k : Nat) (f : Cluster → Cluster) : (modCluster s k f).frozen = s.frozen := rfl
@[simp] theorem modCluster_savedClusters (s : State) (k : Nat) (f : Cluster → Cluster) : (modCluster s k f).savedClusters = s.savedClusters := rfl
@[simp] theorem modCluster_stoppedOps (s : State) (k : Nat) (f : Cluster → Cluster) : (modCluster s k f).stoppedOps = s.stoppedOps := rfl
@[simp] theorem modCluster_parts (s : State) (k : Nat) (f : Cluster → Cluster) : (modCluster s k f).parts = s.parts := rfl
@[simp] theorem modCluster_partBusy (s : State) (k : Nat) (f : Cluster → Cluster) : (modCluster s k f).partBusy = s.partBusy := rfl
@[simp] theorem modCluster_dies (s : State) (k : Nat) (f : Cluster → Cluster) : (modCluster s k f).dies = s.dies := rfl
@[simp] theorem modCluster_substituted (s : State) (k : Nat) (f : Cluster → Cluster) : (modCluster s k f).substituted = s.substituted := rfl
@[simp] theorem modCluster_switching (s : State) (k : Nat) (f : Cluster → Cluster) : (modCluster s k f).switching = s.switching := rfl
@[simp] theorem modCluster_fuses (s : State) (k : Nat) (f : Cluster → Cluster) : (modCluster s k f).fuses = s.fuses := rfl
@[simp] theorem modCluster_booterr (s : State) (k : Nat) (f : Cluster → Cluster) : (modCluster s k f).booterr = s.booterr := rfl
@[simp] theorem modCluster_bootok (s : State) (k : Nat) (f : Cluster → Cluster) : (modCluster s k f).bootok = s.bootok := rfl
@[simp] theorem modCluster_sec (s : State) (k : Nat) (f : Cluster → Cluster) : (modCluster s k f).sec = s.sec := rfl
@[simp] theorem modCluster_meas (s : State) (k : Nat) (f : Cluster → Cluster) : (modCluster s k f).meas = s.meas := rfl
@[simp] theorem modCluster_powerLimit (s : State) (k : Nat) (f : Cluster → Cluster) : (modCluster s k f).powerLimit = s.powerLimit := rfl
@[simp] theorem modCluster_reduced (s : State) (k : Nat) (f : Cluster → Cluster) : (modCluster s k f).reduced = s.reduced := rfl
@[simp] theorem modCluster_clockPending (s : State) (k : Nat) (f : Cluster → Cluster) : (modCluster s k f).clockPending = s.clockPending := rfl
@[simp] theorem modCluster_xinvBusy (s : State) (k : Nat) (f : Cluster → Cluster) : (modCluster s k f).xinvBusy = s.xinvBusy := rfl
@[simp] theorem modCluster_xinvEcode (s : State) (k : Nat) (f : Cluster → Cluster) : (modCluster s k f).xinvEcode = s.xinvEcode := rfl
@[simp] theorem modCluster_xinvScope (s : State) (k : Nat) (f : Cluster → Cluster) : (modCluster s k f).xinvScope = s.xinvScope := rfl
@[simp] theorem modCluster_netctl (s : State) (k : Nat) (f : Cluster → Cluster) : (modCluster s k f).netctl = s.netctl := rfl
@[simp] theorem modCluster_reccnt (s : State) (k : Nat) (f : Cluster → Cluster) : (modCluster s k f).reccnt = s.reccnt := rfl
@[simp] theorem modCluster_late (s : State) (k : Nat) (f : Cluster → Cluster) : (modCluster s k f).late = s.late := rfl
@[simp] theorem modCluster_retryCnt (s : State) (k : Nat) (f : Cluster → Cluster) : (modCluster s k f).retryCnt = s.retryCnt := rfl
@[simp] theorem modCluster_fabsel (s : State) (k : Nat) (f : Cluster → Cluster) : (modCluster s k f).fabsel = s.fabsel := rfl
@[simp] theorem modCluster_routes (s : State) (k : Nat) (f : Cluster → Cluster) : (modCluster s k f).routes = s.routes := rfl
@[simp] theorem modCluster_rbsel (s : State) (k : Nat) (f : Cluster → Cluster) : (modCluster s k f).rbsel = s.rbsel := rfl
@[simp] theorem modCluster_rbBytes (s : State) (k : Nat) (f : Cluster → Cluster) : (modCluster s k f).rbBytes = s.rbBytes := rfl
@[simp] theorem modCluster_rbEcode (s : State) (k : Nat) (f : Cluster → Cluster) : (modCluster s k f).rbEcode = s.rbEcode := rfl
@[simp] theorem modCluster_rbBusy (s : State) (k : Nat) (f : Cluster → Cluster) : (modCluster s k f).rbBusy = s.rbBusy := rfl
@[simp] theorem modCluster_rbPend (s : State) (k : Nat) (f : Cluster → Cluster) : (modCluster s k f).rbPend = s.rbPend := rfl
@[simp] theorem modCluster_pkg (s : State) (k : Nat) (f : Cluster → Cluster) : (modCluster s k f).pkg = s.pkg := rfl
@[simp] theorem modCluster_geyser (s : State) (k : Nat) (f : Cluster → Cluster) : (modCluster s k f).geyser = s.geyser := rfl
@[simp] theorem modCluster_geyserPending (s : State) (k : Nat) (f : Cluster → Cluster) : (modCluster s k f).geyserPending = s.geyserPending := rfl
@[simp] theorem modCluster_ports (s : State) (k : Nat) (f : Cluster → Cluster) : (modCluster s k f).ports = s.ports := rfl
@[simp] theorem modCluster_vcs (s : State) (k : Nat) (f : Cluster → Cluster) : (modCluster s k f).vcs = s.vcs := rfl
@[simp] theorem modCluster_escape (s : State) (k : Nat) (f : Cluster → Cluster) : (modCluster s k f).escape = s.escape := rfl
@[simp] theorem modCluster_recovering (s : State) (k : Nat) (f : Cluster → Cluster) : (modCluster s k f).recovering = s.recovering := rfl
@[simp] theorem modCluster_linkSlots (s : State) (k : Nat) (f : Cluster → Cluster) : (modCluster s k f).linkSlots = s.linkSlots := rfl
@[simp] theorem modCluster_asserts (s : State) (k : Nat) (f : Cluster → Cluster) : (modCluster s k f).asserts = s.asserts := rfl
@[simp] theorem modCluster_arriving (s : State) (k : Nat) (f : Cluster → Cluster) : (modCluster s k f).arriving = s.arriving := rfl
@[simp] theorem modCluster_flows (s : State) (k : Nat) (f : Cluster → Cluster) : (modCluster s k f).flows = s.flows := rfl
@[simp] theorem modCluster_early (s : State) (k : Nat) (f : Cluster → Cluster) : (modCluster s k f).early = s.early := rfl
@[simp] theorem modCluster_delivered (s : State) (k : Nat) (f : Cluster → Cluster) : (modCluster s k f).delivered = s.delivered := rfl
@[simp] theorem modCluster_chanTiles (s : State) (k : Nat) (f : Cluster → Cluster) : (modCluster s k f).chanTiles = s.chanTiles := rfl
@[simp] theorem modCluster_readyTiles (s : State) (k : Nat) (f : Cluster → Cluster) : (modCluster s k f).readyTiles = s.readyTiles := rfl
@[simp] theorem modCluster_transfers (s : State) (k : Nat) (f : Cluster → Cluster) : (modCluster s k f).transfers = s.transfers := rfl
@[simp] theorem modCluster_chanRounds (s : State) (k : Nat) (f : Cluster → Cluster) : (modCluster s k f).chanRounds = s.chanRounds := rfl
@[simp] theorem modCluster_away (s : State) (k : Nat) (f : Cluster → Cluster) : (modCluster s k f).away = s.away := rfl
@[simp] theorem modCluster_rmUnits (s : State) (k : Nat) (f : Cluster → Cluster) : (modCluster s k f).rmUnits = s.rmUnits := rfl
@[simp] theorem modCluster_poolUsed (s : State) (k : Nat) (f : Cluster → Cluster) : (modCluster s k f).poolUsed = s.poolUsed := rfl
@[simp] theorem modCluster_raced (s : State) (k : Nat) (f : Cluster → Cluster) : (modCluster s k f).raced = s.raced := rfl
@[simp] theorem modCluster_agenda (s : State) (k : Nat) (f : Cluster → Cluster) : (modCluster s k f).agenda = s.agenda := rfl
@[simp] theorem modCluster_free (s : State) (k : Nat) (f : Cluster → Cluster) : (modCluster s k f).free = s.free := rfl
@[simp] theorem modCluster_fresh (s : State) (k : Nat) (f : Cluster → Cluster) : (modCluster s k f).fresh = s.fresh := rfl
@[simp] theorem modCluster_cur (s : State) (k : Nat) (f : Cluster → Cluster) : (modCluster s k f).cur = s.cur := rfl

/-! ## modCtx -/

@[simp] theorem modCtx_mem (s : State) (c : Nat) (f : Ctx → Ctx) : (modCtx s c f).mem = s.mem := rfl
@[simp] theorem modCtx_cores (s : State) (c : Nat) (f : Ctx → Ctx) : (modCtx s c f).cores = s.cores := rfl
@[simp] theorem modCtx_clusters (s : State) (c : Nat) (f : Ctx → Ctx) : (modCtx s c f).clusters = s.clusters := rfl
@[simp] theorem modCtx_qps (s : State) (c : Nat) (f : Ctx → Ctx) : (modCtx s c f).qps = s.qps := rfl
@[simp] theorem modCtx_tensors (s : State) (c : Nat) (f : Ctx → Ctx) : (modCtx s c f).tensors = s.tensors := rfl
@[simp] theorem modCtx_recastReqs (s : State) (c : Nat) (f : Ctx → Ctx) : (modCtx s c f).recastReqs = s.recastReqs := rfl
@[simp] theorem modCtx_recasts (s : State) (c : Nat) (f : Ctx → Ctx) : (modCtx s c f).recasts = s.recasts := rfl
@[simp] theorem modCtx_incs (s : State) (c : Nat) (f : Ctx → Ctx) : (modCtx s c f).incs = s.incs := rfl
@[simp] theorem modCtx_chains (s : State) (c : Nat) (f : Ctx → Ctx) : (modCtx s c f).chains = s.chains := rfl
@[simp] theorem modCtx_groups (s : State) (c : Nat) (f : Ctx → Ctx) : (modCtx s c f).groups = s.groups := rfl
@[simp] theorem modCtx_gangs (s : State) (c : Nat) (f : Ctx → Ctx) : (modCtx s c f).gangs = s.gangs := rfl
@[simp] theorem modCtx_bags (s : State) (c : Nat) (f : Ctx → Ctx) : (modCtx s c f).bags = s.bags := rfl
@[simp] theorem modCtx_async (s : State) (c : Nat) (f : Ctx → Ctx) : (modCtx s c f).async = s.async := rfl
@[simp] theorem modCtx_hostBuf (s : State) (c : Nat) (f : Ctx → Ctx) : (modCtx s c f).hostBuf = s.hostBuf := rfl
@[simp] theorem modCtx_hostReply (s : State) (c : Nat) (f : Ctx → Ctx) : (modCtx s c f).hostReply = s.hostReply := rfl
@[simp] theorem modCtx_tiles (s : State) (c : Nat) (f : Ctx → Ctx) : (modCtx s c f).tiles = s.tiles := rfl
@[simp] theorem modCtx_pieces (s : State) (c : Nat) (f : Ctx → Ctx) : (modCtx s c f).pieces = s.pieces := rfl
@[simp] theorem modCtx_pointers (s : State) (c : Nat) (f : Ctx → Ctx) : (modCtx s c f).pointers = s.pointers := rfl
@[simp] theorem modCtx_rr (s : State) (c : Nat) (f : Ctx → Ctx) : (modCtx s c f).rr = s.rr := rfl
@[simp] theorem modCtx_faults (s : State) (c : Nat) (f : Ctx → Ctx) : (modCtx s c f).faults = s.faults := rfl
@[simp] theorem modCtx_cqes (s : State) (c : Nat) (f : Ctx → Ctx) : (modCtx s c f).cqes = s.cqes := rfl
@[simp] theorem modCtx_frozen (s : State) (c : Nat) (f : Ctx → Ctx) : (modCtx s c f).frozen = s.frozen := rfl
@[simp] theorem modCtx_savedClusters (s : State) (c : Nat) (f : Ctx → Ctx) : (modCtx s c f).savedClusters = s.savedClusters := rfl
@[simp] theorem modCtx_stoppedOps (s : State) (c : Nat) (f : Ctx → Ctx) : (modCtx s c f).stoppedOps = s.stoppedOps := rfl
@[simp] theorem modCtx_parts (s : State) (c : Nat) (f : Ctx → Ctx) : (modCtx s c f).parts = s.parts := rfl
@[simp] theorem modCtx_partBusy (s : State) (c : Nat) (f : Ctx → Ctx) : (modCtx s c f).partBusy = s.partBusy := rfl
@[simp] theorem modCtx_dies (s : State) (c : Nat) (f : Ctx → Ctx) : (modCtx s c f).dies = s.dies := rfl
@[simp] theorem modCtx_substituted (s : State) (c : Nat) (f : Ctx → Ctx) : (modCtx s c f).substituted = s.substituted := rfl
@[simp] theorem modCtx_switching (s : State) (c : Nat) (f : Ctx → Ctx) : (modCtx s c f).switching = s.switching := rfl
@[simp] theorem modCtx_fuses (s : State) (c : Nat) (f : Ctx → Ctx) : (modCtx s c f).fuses = s.fuses := rfl
@[simp] theorem modCtx_booterr (s : State) (c : Nat) (f : Ctx → Ctx) : (modCtx s c f).booterr = s.booterr := rfl
@[simp] theorem modCtx_bootok (s : State) (c : Nat) (f : Ctx → Ctx) : (modCtx s c f).bootok = s.bootok := rfl
@[simp] theorem modCtx_sec (s : State) (c : Nat) (f : Ctx → Ctx) : (modCtx s c f).sec = s.sec := rfl
@[simp] theorem modCtx_meas (s : State) (c : Nat) (f : Ctx → Ctx) : (modCtx s c f).meas = s.meas := rfl
@[simp] theorem modCtx_powerLimit (s : State) (c : Nat) (f : Ctx → Ctx) : (modCtx s c f).powerLimit = s.powerLimit := rfl
@[simp] theorem modCtx_reduced (s : State) (c : Nat) (f : Ctx → Ctx) : (modCtx s c f).reduced = s.reduced := rfl
@[simp] theorem modCtx_clockPending (s : State) (c : Nat) (f : Ctx → Ctx) : (modCtx s c f).clockPending = s.clockPending := rfl
@[simp] theorem modCtx_xinvBusy (s : State) (c : Nat) (f : Ctx → Ctx) : (modCtx s c f).xinvBusy = s.xinvBusy := rfl
@[simp] theorem modCtx_xinvEcode (s : State) (c : Nat) (f : Ctx → Ctx) : (modCtx s c f).xinvEcode = s.xinvEcode := rfl
@[simp] theorem modCtx_xinvScope (s : State) (c : Nat) (f : Ctx → Ctx) : (modCtx s c f).xinvScope = s.xinvScope := rfl
@[simp] theorem modCtx_netctl (s : State) (c : Nat) (f : Ctx → Ctx) : (modCtx s c f).netctl = s.netctl := rfl
@[simp] theorem modCtx_reccnt (s : State) (c : Nat) (f : Ctx → Ctx) : (modCtx s c f).reccnt = s.reccnt := rfl
@[simp] theorem modCtx_late (s : State) (c : Nat) (f : Ctx → Ctx) : (modCtx s c f).late = s.late := rfl
@[simp] theorem modCtx_retryCnt (s : State) (c : Nat) (f : Ctx → Ctx) : (modCtx s c f).retryCnt = s.retryCnt := rfl
@[simp] theorem modCtx_fabsel (s : State) (c : Nat) (f : Ctx → Ctx) : (modCtx s c f).fabsel = s.fabsel := rfl
@[simp] theorem modCtx_routes (s : State) (c : Nat) (f : Ctx → Ctx) : (modCtx s c f).routes = s.routes := rfl
@[simp] theorem modCtx_rbsel (s : State) (c : Nat) (f : Ctx → Ctx) : (modCtx s c f).rbsel = s.rbsel := rfl
@[simp] theorem modCtx_rbBytes (s : State) (c : Nat) (f : Ctx → Ctx) : (modCtx s c f).rbBytes = s.rbBytes := rfl
@[simp] theorem modCtx_rbEcode (s : State) (c : Nat) (f : Ctx → Ctx) : (modCtx s c f).rbEcode = s.rbEcode := rfl
@[simp] theorem modCtx_rbBusy (s : State) (c : Nat) (f : Ctx → Ctx) : (modCtx s c f).rbBusy = s.rbBusy := rfl
@[simp] theorem modCtx_rbPend (s : State) (c : Nat) (f : Ctx → Ctx) : (modCtx s c f).rbPend = s.rbPend := rfl
@[simp] theorem modCtx_pkg (s : State) (c : Nat) (f : Ctx → Ctx) : (modCtx s c f).pkg = s.pkg := rfl
@[simp] theorem modCtx_geyser (s : State) (c : Nat) (f : Ctx → Ctx) : (modCtx s c f).geyser = s.geyser := rfl
@[simp] theorem modCtx_geyserPending (s : State) (c : Nat) (f : Ctx → Ctx) : (modCtx s c f).geyserPending = s.geyserPending := rfl
@[simp] theorem modCtx_ports (s : State) (c : Nat) (f : Ctx → Ctx) : (modCtx s c f).ports = s.ports := rfl
@[simp] theorem modCtx_vcs (s : State) (c : Nat) (f : Ctx → Ctx) : (modCtx s c f).vcs = s.vcs := rfl
@[simp] theorem modCtx_escape (s : State) (c : Nat) (f : Ctx → Ctx) : (modCtx s c f).escape = s.escape := rfl
@[simp] theorem modCtx_recovering (s : State) (c : Nat) (f : Ctx → Ctx) : (modCtx s c f).recovering = s.recovering := rfl
@[simp] theorem modCtx_linkSlots (s : State) (c : Nat) (f : Ctx → Ctx) : (modCtx s c f).linkSlots = s.linkSlots := rfl
@[simp] theorem modCtx_asserts (s : State) (c : Nat) (f : Ctx → Ctx) : (modCtx s c f).asserts = s.asserts := rfl
@[simp] theorem modCtx_arriving (s : State) (c : Nat) (f : Ctx → Ctx) : (modCtx s c f).arriving = s.arriving := rfl
@[simp] theorem modCtx_flows (s : State) (c : Nat) (f : Ctx → Ctx) : (modCtx s c f).flows = s.flows := rfl
@[simp] theorem modCtx_early (s : State) (c : Nat) (f : Ctx → Ctx) : (modCtx s c f).early = s.early := rfl
@[simp] theorem modCtx_delivered (s : State) (c : Nat) (f : Ctx → Ctx) : (modCtx s c f).delivered = s.delivered := rfl
@[simp] theorem modCtx_chanTiles (s : State) (c : Nat) (f : Ctx → Ctx) : (modCtx s c f).chanTiles = s.chanTiles := rfl
@[simp] theorem modCtx_readyTiles (s : State) (c : Nat) (f : Ctx → Ctx) : (modCtx s c f).readyTiles = s.readyTiles := rfl
@[simp] theorem modCtx_transfers (s : State) (c : Nat) (f : Ctx → Ctx) : (modCtx s c f).transfers = s.transfers := rfl
@[simp] theorem modCtx_chanRounds (s : State) (c : Nat) (f : Ctx → Ctx) : (modCtx s c f).chanRounds = s.chanRounds := rfl
@[simp] theorem modCtx_away (s : State) (c : Nat) (f : Ctx → Ctx) : (modCtx s c f).away = s.away := rfl
@[simp] theorem modCtx_rmUnits (s : State) (c : Nat) (f : Ctx → Ctx) : (modCtx s c f).rmUnits = s.rmUnits := rfl
@[simp] theorem modCtx_poolUsed (s : State) (c : Nat) (f : Ctx → Ctx) : (modCtx s c f).poolUsed = s.poolUsed := rfl
@[simp] theorem modCtx_raced (s : State) (c : Nat) (f : Ctx → Ctx) : (modCtx s c f).raced = s.raced := rfl
@[simp] theorem modCtx_agenda (s : State) (c : Nat) (f : Ctx → Ctx) : (modCtx s c f).agenda = s.agenda := rfl
@[simp] theorem modCtx_free (s : State) (c : Nat) (f : Ctx → Ctx) : (modCtx s c f).free = s.free := rfl
@[simp] theorem modCtx_fresh (s : State) (c : Nat) (f : Ctx → Ctx) : (modCtx s c f).fresh = s.fresh := rfl
@[simp] theorem modCtx_cur (s : State) (c : Nat) (f : Ctx → Ctx) : (modCtx s c f).cur = s.cur := rfl

/-! ## modQp -/

@[simp] theorem modQp_mem (s : State) (c q : Nat) (f : Qp → Qp) : (modQp s c q f).mem = s.mem := rfl
@[simp] theorem modQp_cores (s : State) (c q : Nat) (f : Qp → Qp) : (modQp s c q f).cores = s.cores := rfl
@[simp] theorem modQp_clusters (s : State) (c q : Nat) (f : Qp → Qp) : (modQp s c q f).clusters = s.clusters := rfl
@[simp] theorem modQp_ctxs (s : State) (c q : Nat) (f : Qp → Qp) : (modQp s c q f).ctxs = s.ctxs := rfl
@[simp] theorem modQp_tensors (s : State) (c q : Nat) (f : Qp → Qp) : (modQp s c q f).tensors = s.tensors := rfl
@[simp] theorem modQp_recastReqs (s : State) (c q : Nat) (f : Qp → Qp) : (modQp s c q f).recastReqs = s.recastReqs := rfl
@[simp] theorem modQp_recasts (s : State) (c q : Nat) (f : Qp → Qp) : (modQp s c q f).recasts = s.recasts := rfl
@[simp] theorem modQp_incs (s : State) (c q : Nat) (f : Qp → Qp) : (modQp s c q f).incs = s.incs := rfl
@[simp] theorem modQp_chains (s : State) (c q : Nat) (f : Qp → Qp) : (modQp s c q f).chains = s.chains := rfl
@[simp] theorem modQp_groups (s : State) (c q : Nat) (f : Qp → Qp) : (modQp s c q f).groups = s.groups := rfl
@[simp] theorem modQp_gangs (s : State) (c q : Nat) (f : Qp → Qp) : (modQp s c q f).gangs = s.gangs := rfl
@[simp] theorem modQp_bags (s : State) (c q : Nat) (f : Qp → Qp) : (modQp s c q f).bags = s.bags := rfl
@[simp] theorem modQp_async (s : State) (c q : Nat) (f : Qp → Qp) : (modQp s c q f).async = s.async := rfl
@[simp] theorem modQp_hostBuf (s : State) (c q : Nat) (f : Qp → Qp) : (modQp s c q f).hostBuf = s.hostBuf := rfl
@[simp] theorem modQp_hostReply (s : State) (c q : Nat) (f : Qp → Qp) : (modQp s c q f).hostReply = s.hostReply := rfl
@[simp] theorem modQp_tiles (s : State) (c q : Nat) (f : Qp → Qp) : (modQp s c q f).tiles = s.tiles := rfl
@[simp] theorem modQp_pieces (s : State) (c q : Nat) (f : Qp → Qp) : (modQp s c q f).pieces = s.pieces := rfl
@[simp] theorem modQp_pointers (s : State) (c q : Nat) (f : Qp → Qp) : (modQp s c q f).pointers = s.pointers := rfl
@[simp] theorem modQp_rr (s : State) (c q : Nat) (f : Qp → Qp) : (modQp s c q f).rr = s.rr := rfl
@[simp] theorem modQp_faults (s : State) (c q : Nat) (f : Qp → Qp) : (modQp s c q f).faults = s.faults := rfl
@[simp] theorem modQp_cqes (s : State) (c q : Nat) (f : Qp → Qp) : (modQp s c q f).cqes = s.cqes := rfl
@[simp] theorem modQp_frozen (s : State) (c q : Nat) (f : Qp → Qp) : (modQp s c q f).frozen = s.frozen := rfl
@[simp] theorem modQp_savedClusters (s : State) (c q : Nat) (f : Qp → Qp) : (modQp s c q f).savedClusters = s.savedClusters := rfl
@[simp] theorem modQp_stoppedOps (s : State) (c q : Nat) (f : Qp → Qp) : (modQp s c q f).stoppedOps = s.stoppedOps := rfl
@[simp] theorem modQp_parts (s : State) (c q : Nat) (f : Qp → Qp) : (modQp s c q f).parts = s.parts := rfl
@[simp] theorem modQp_partBusy (s : State) (c q : Nat) (f : Qp → Qp) : (modQp s c q f).partBusy = s.partBusy := rfl
@[simp] theorem modQp_dies (s : State) (c q : Nat) (f : Qp → Qp) : (modQp s c q f).dies = s.dies := rfl
@[simp] theorem modQp_substituted (s : State) (c q : Nat) (f : Qp → Qp) : (modQp s c q f).substituted = s.substituted := rfl
@[simp] theorem modQp_switching (s : State) (c q : Nat) (f : Qp → Qp) : (modQp s c q f).switching = s.switching := rfl
@[simp] theorem modQp_fuses (s : State) (c q : Nat) (f : Qp → Qp) : (modQp s c q f).fuses = s.fuses := rfl
@[simp] theorem modQp_booterr (s : State) (c q : Nat) (f : Qp → Qp) : (modQp s c q f).booterr = s.booterr := rfl
@[simp] theorem modQp_bootok (s : State) (c q : Nat) (f : Qp → Qp) : (modQp s c q f).bootok = s.bootok := rfl
@[simp] theorem modQp_sec (s : State) (c q : Nat) (f : Qp → Qp) : (modQp s c q f).sec = s.sec := rfl
@[simp] theorem modQp_meas (s : State) (c q : Nat) (f : Qp → Qp) : (modQp s c q f).meas = s.meas := rfl
@[simp] theorem modQp_powerLimit (s : State) (c q : Nat) (f : Qp → Qp) : (modQp s c q f).powerLimit = s.powerLimit := rfl
@[simp] theorem modQp_reduced (s : State) (c q : Nat) (f : Qp → Qp) : (modQp s c q f).reduced = s.reduced := rfl
@[simp] theorem modQp_clockPending (s : State) (c q : Nat) (f : Qp → Qp) : (modQp s c q f).clockPending = s.clockPending := rfl
@[simp] theorem modQp_xinvBusy (s : State) (c q : Nat) (f : Qp → Qp) : (modQp s c q f).xinvBusy = s.xinvBusy := rfl
@[simp] theorem modQp_xinvEcode (s : State) (c q : Nat) (f : Qp → Qp) : (modQp s c q f).xinvEcode = s.xinvEcode := rfl
@[simp] theorem modQp_xinvScope (s : State) (c q : Nat) (f : Qp → Qp) : (modQp s c q f).xinvScope = s.xinvScope := rfl
@[simp] theorem modQp_netctl (s : State) (c q : Nat) (f : Qp → Qp) : (modQp s c q f).netctl = s.netctl := rfl
@[simp] theorem modQp_reccnt (s : State) (c q : Nat) (f : Qp → Qp) : (modQp s c q f).reccnt = s.reccnt := rfl
@[simp] theorem modQp_late (s : State) (c q : Nat) (f : Qp → Qp) : (modQp s c q f).late = s.late := rfl
@[simp] theorem modQp_retryCnt (s : State) (c q : Nat) (f : Qp → Qp) : (modQp s c q f).retryCnt = s.retryCnt := rfl
@[simp] theorem modQp_fabsel (s : State) (c q : Nat) (f : Qp → Qp) : (modQp s c q f).fabsel = s.fabsel := rfl
@[simp] theorem modQp_routes (s : State) (c q : Nat) (f : Qp → Qp) : (modQp s c q f).routes = s.routes := rfl
@[simp] theorem modQp_rbsel (s : State) (c q : Nat) (f : Qp → Qp) : (modQp s c q f).rbsel = s.rbsel := rfl
@[simp] theorem modQp_rbBytes (s : State) (c q : Nat) (f : Qp → Qp) : (modQp s c q f).rbBytes = s.rbBytes := rfl
@[simp] theorem modQp_rbEcode (s : State) (c q : Nat) (f : Qp → Qp) : (modQp s c q f).rbEcode = s.rbEcode := rfl
@[simp] theorem modQp_rbBusy (s : State) (c q : Nat) (f : Qp → Qp) : (modQp s c q f).rbBusy = s.rbBusy := rfl
@[simp] theorem modQp_rbPend (s : State) (c q : Nat) (f : Qp → Qp) : (modQp s c q f).rbPend = s.rbPend := rfl
@[simp] theorem modQp_pkg (s : State) (c q : Nat) (f : Qp → Qp) : (modQp s c q f).pkg = s.pkg := rfl
@[simp] theorem modQp_geyser (s : State) (c q : Nat) (f : Qp → Qp) : (modQp s c q f).geyser = s.geyser := rfl
@[simp] theorem modQp_geyserPending (s : State) (c q : Nat) (f : Qp → Qp) : (modQp s c q f).geyserPending = s.geyserPending := rfl
@[simp] theorem modQp_ports (s : State) (c q : Nat) (f : Qp → Qp) : (modQp s c q f).ports = s.ports := rfl
@[simp] theorem modQp_vcs (s : State) (c q : Nat) (f : Qp → Qp) : (modQp s c q f).vcs = s.vcs := rfl
@[simp] theorem modQp_escape (s : State) (c q : Nat) (f : Qp → Qp) : (modQp s c q f).escape = s.escape := rfl
@[simp] theorem modQp_recovering (s : State) (c q : Nat) (f : Qp → Qp) : (modQp s c q f).recovering = s.recovering := rfl
@[simp] theorem modQp_linkSlots (s : State) (c q : Nat) (f : Qp → Qp) : (modQp s c q f).linkSlots = s.linkSlots := rfl
@[simp] theorem modQp_asserts (s : State) (c q : Nat) (f : Qp → Qp) : (modQp s c q f).asserts = s.asserts := rfl
@[simp] theorem modQp_arriving (s : State) (c q : Nat) (f : Qp → Qp) : (modQp s c q f).arriving = s.arriving := rfl
@[simp] theorem modQp_flows (s : State) (c q : Nat) (f : Qp → Qp) : (modQp s c q f).flows = s.flows := rfl
@[simp] theorem modQp_early (s : State) (c q : Nat) (f : Qp → Qp) : (modQp s c q f).early = s.early := rfl
@[simp] theorem modQp_delivered (s : State) (c q : Nat) (f : Qp → Qp) : (modQp s c q f).delivered = s.delivered := rfl
@[simp] theorem modQp_chanTiles (s : State) (c q : Nat) (f : Qp → Qp) : (modQp s c q f).chanTiles = s.chanTiles := rfl
@[simp] theorem modQp_readyTiles (s : State) (c q : Nat) (f : Qp → Qp) : (modQp s c q f).readyTiles = s.readyTiles := rfl
@[simp] theorem modQp_transfers (s : State) (c q : Nat) (f : Qp → Qp) : (modQp s c q f).transfers = s.transfers := rfl
@[simp] theorem modQp_chanRounds (s : State) (c q : Nat) (f : Qp → Qp) : (modQp s c q f).chanRounds = s.chanRounds := rfl
@[simp] theorem modQp_away (s : State) (c q : Nat) (f : Qp → Qp) : (modQp s c q f).away = s.away := rfl
@[simp] theorem modQp_rmUnits (s : State) (c q : Nat) (f : Qp → Qp) : (modQp s c q f).rmUnits = s.rmUnits := rfl
@[simp] theorem modQp_poolUsed (s : State) (c q : Nat) (f : Qp → Qp) : (modQp s c q f).poolUsed = s.poolUsed := rfl
@[simp] theorem modQp_raced (s : State) (c q : Nat) (f : Qp → Qp) : (modQp s c q f).raced = s.raced := rfl
@[simp] theorem modQp_agenda (s : State) (c q : Nat) (f : Qp → Qp) : (modQp s c q f).agenda = s.agenda := rfl
@[simp] theorem modQp_free (s : State) (c q : Nat) (f : Qp → Qp) : (modQp s c q f).free = s.free := rfl
@[simp] theorem modQp_fresh (s : State) (c q : Nat) (f : Qp → Qp) : (modQp s c q f).fresh = s.fresh := rfl
@[simp] theorem modQp_cur (s : State) (c q : Nat) (f : Qp → Qp) : (modQp s c q f).cur = s.cur := rfl

/-! ## putRec -/

@[simp] theorem putRec_mem (s : State) (t : TensorRec) : (putRec s t).mem = s.mem := rfl
@[simp] theorem putRec_cores (s : State) (t : TensorRec) : (putRec s t).cores = s.cores := rfl
@[simp] theorem putRec_clusters (s : State) (t : TensorRec) : (putRec s t).clusters = s.clusters := rfl
@[simp] theorem putRec_ctxs (s : State) (t : TensorRec) : (putRec s t).ctxs = s.ctxs := rfl
@[simp] theorem putRec_qps (s : State) (t : TensorRec) : (putRec s t).qps = s.qps := rfl
@[simp] theorem putRec_recastReqs (s : State) (t : TensorRec) : (putRec s t).recastReqs = s.recastReqs := rfl
@[simp] theorem putRec_recasts (s : State) (t : TensorRec) : (putRec s t).recasts = s.recasts := rfl
@[simp] theorem putRec_incs (s : State) (t : TensorRec) : (putRec s t).incs = s.incs := rfl
@[simp] theorem putRec_chains (s : State) (t : TensorRec) : (putRec s t).chains = s.chains := rfl
@[simp] theorem putRec_groups (s : State) (t : TensorRec) : (putRec s t).groups = s.groups := rfl
@[simp] theorem putRec_gangs (s : State) (t : TensorRec) : (putRec s t).gangs = s.gangs := rfl
@[simp] theorem putRec_bags (s : State) (t : TensorRec) : (putRec s t).bags = s.bags := rfl
@[simp] theorem putRec_async (s : State) (t : TensorRec) : (putRec s t).async = s.async := rfl
@[simp] theorem putRec_hostBuf (s : State) (t : TensorRec) : (putRec s t).hostBuf = s.hostBuf := rfl
@[simp] theorem putRec_hostReply (s : State) (t : TensorRec) : (putRec s t).hostReply = s.hostReply := rfl
@[simp] theorem putRec_tiles (s : State) (t : TensorRec) : (putRec s t).tiles = s.tiles := rfl
@[simp] theorem putRec_pieces (s : State) (t : TensorRec) : (putRec s t).pieces = s.pieces := rfl
@[simp] theorem putRec_pointers (s : State) (t : TensorRec) : (putRec s t).pointers = s.pointers := rfl
@[simp] theorem putRec_rr (s : State) (t : TensorRec) : (putRec s t).rr = s.rr := rfl
@[simp] theorem putRec_faults (s : State) (t : TensorRec) : (putRec s t).faults = s.faults := rfl
@[simp] theorem putRec_cqes (s : State) (t : TensorRec) : (putRec s t).cqes = s.cqes := rfl
@[simp] theorem putRec_frozen (s : State) (t : TensorRec) : (putRec s t).frozen = s.frozen := rfl
@[simp] theorem putRec_savedClusters (s : State) (t : TensorRec) : (putRec s t).savedClusters = s.savedClusters := rfl
@[simp] theorem putRec_stoppedOps (s : State) (t : TensorRec) : (putRec s t).stoppedOps = s.stoppedOps := rfl
@[simp] theorem putRec_parts (s : State) (t : TensorRec) : (putRec s t).parts = s.parts := rfl
@[simp] theorem putRec_partBusy (s : State) (t : TensorRec) : (putRec s t).partBusy = s.partBusy := rfl
@[simp] theorem putRec_dies (s : State) (t : TensorRec) : (putRec s t).dies = s.dies := rfl
@[simp] theorem putRec_substituted (s : State) (t : TensorRec) : (putRec s t).substituted = s.substituted := rfl
@[simp] theorem putRec_switching (s : State) (t : TensorRec) : (putRec s t).switching = s.switching := rfl
@[simp] theorem putRec_fuses (s : State) (t : TensorRec) : (putRec s t).fuses = s.fuses := rfl
@[simp] theorem putRec_booterr (s : State) (t : TensorRec) : (putRec s t).booterr = s.booterr := rfl
@[simp] theorem putRec_bootok (s : State) (t : TensorRec) : (putRec s t).bootok = s.bootok := rfl
@[simp] theorem putRec_sec (s : State) (t : TensorRec) : (putRec s t).sec = s.sec := rfl
@[simp] theorem putRec_meas (s : State) (t : TensorRec) : (putRec s t).meas = s.meas := rfl
@[simp] theorem putRec_powerLimit (s : State) (t : TensorRec) : (putRec s t).powerLimit = s.powerLimit := rfl
@[simp] theorem putRec_reduced (s : State) (t : TensorRec) : (putRec s t).reduced = s.reduced := rfl
@[simp] theorem putRec_clockPending (s : State) (t : TensorRec) : (putRec s t).clockPending = s.clockPending := rfl
@[simp] theorem putRec_xinvBusy (s : State) (t : TensorRec) : (putRec s t).xinvBusy = s.xinvBusy := rfl
@[simp] theorem putRec_xinvEcode (s : State) (t : TensorRec) : (putRec s t).xinvEcode = s.xinvEcode := rfl
@[simp] theorem putRec_xinvScope (s : State) (t : TensorRec) : (putRec s t).xinvScope = s.xinvScope := rfl
@[simp] theorem putRec_netctl (s : State) (t : TensorRec) : (putRec s t).netctl = s.netctl := rfl
@[simp] theorem putRec_reccnt (s : State) (t : TensorRec) : (putRec s t).reccnt = s.reccnt := rfl
@[simp] theorem putRec_late (s : State) (t : TensorRec) : (putRec s t).late = s.late := rfl
@[simp] theorem putRec_retryCnt (s : State) (t : TensorRec) : (putRec s t).retryCnt = s.retryCnt := rfl
@[simp] theorem putRec_fabsel (s : State) (t : TensorRec) : (putRec s t).fabsel = s.fabsel := rfl
@[simp] theorem putRec_routes (s : State) (t : TensorRec) : (putRec s t).routes = s.routes := rfl
@[simp] theorem putRec_rbsel (s : State) (t : TensorRec) : (putRec s t).rbsel = s.rbsel := rfl
@[simp] theorem putRec_rbBytes (s : State) (t : TensorRec) : (putRec s t).rbBytes = s.rbBytes := rfl
@[simp] theorem putRec_rbEcode (s : State) (t : TensorRec) : (putRec s t).rbEcode = s.rbEcode := rfl
@[simp] theorem putRec_rbBusy (s : State) (t : TensorRec) : (putRec s t).rbBusy = s.rbBusy := rfl
@[simp] theorem putRec_rbPend (s : State) (t : TensorRec) : (putRec s t).rbPend = s.rbPend := rfl
@[simp] theorem putRec_pkg (s : State) (t : TensorRec) : (putRec s t).pkg = s.pkg := rfl
@[simp] theorem putRec_geyser (s : State) (t : TensorRec) : (putRec s t).geyser = s.geyser := rfl
@[simp] theorem putRec_geyserPending (s : State) (t : TensorRec) : (putRec s t).geyserPending = s.geyserPending := rfl
@[simp] theorem putRec_ports (s : State) (t : TensorRec) : (putRec s t).ports = s.ports := rfl
@[simp] theorem putRec_vcs (s : State) (t : TensorRec) : (putRec s t).vcs = s.vcs := rfl
@[simp] theorem putRec_escape (s : State) (t : TensorRec) : (putRec s t).escape = s.escape := rfl
@[simp] theorem putRec_recovering (s : State) (t : TensorRec) : (putRec s t).recovering = s.recovering := rfl
@[simp] theorem putRec_linkSlots (s : State) (t : TensorRec) : (putRec s t).linkSlots = s.linkSlots := rfl
@[simp] theorem putRec_asserts (s : State) (t : TensorRec) : (putRec s t).asserts = s.asserts := rfl
@[simp] theorem putRec_arriving (s : State) (t : TensorRec) : (putRec s t).arriving = s.arriving := rfl
@[simp] theorem putRec_flows (s : State) (t : TensorRec) : (putRec s t).flows = s.flows := rfl
@[simp] theorem putRec_early (s : State) (t : TensorRec) : (putRec s t).early = s.early := rfl
@[simp] theorem putRec_delivered (s : State) (t : TensorRec) : (putRec s t).delivered = s.delivered := rfl
@[simp] theorem putRec_chanTiles (s : State) (t : TensorRec) : (putRec s t).chanTiles = s.chanTiles := rfl
@[simp] theorem putRec_readyTiles (s : State) (t : TensorRec) : (putRec s t).readyTiles = s.readyTiles := rfl
@[simp] theorem putRec_transfers (s : State) (t : TensorRec) : (putRec s t).transfers = s.transfers := rfl
@[simp] theorem putRec_chanRounds (s : State) (t : TensorRec) : (putRec s t).chanRounds = s.chanRounds := rfl
@[simp] theorem putRec_away (s : State) (t : TensorRec) : (putRec s t).away = s.away := rfl
@[simp] theorem putRec_rmUnits (s : State) (t : TensorRec) : (putRec s t).rmUnits = s.rmUnits := rfl
@[simp] theorem putRec_poolUsed (s : State) (t : TensorRec) : (putRec s t).poolUsed = s.poolUsed := rfl
@[simp] theorem putRec_raced (s : State) (t : TensorRec) : (putRec s t).raced = s.raced := rfl
@[simp] theorem putRec_agenda (s : State) (t : TensorRec) : (putRec s t).agenda = s.agenda := rfl
@[simp] theorem putRec_free (s : State) (t : TensorRec) : (putRec s t).free = s.free := rfl
@[simp] theorem putRec_fresh (s : State) (t : TensorRec) : (putRec s t).fresh = s.fresh := rfl
@[simp] theorem putRec_cur (s : State) (t : TensorRec) : (putRec s t).cur = s.cur := rfl

/-! ## putGroup -/

@[simp] theorem putGroup_mem (s : State) (g : Group) : (putGroup s g).mem = s.mem := rfl
@[simp] theorem putGroup_cores (s : State) (g : Group) : (putGroup s g).cores = s.cores := rfl
@[simp] theorem putGroup_clusters (s : State) (g : Group) : (putGroup s g).clusters = s.clusters := rfl
@[simp] theorem putGroup_ctxs (s : State) (g : Group) : (putGroup s g).ctxs = s.ctxs := rfl
@[simp] theorem putGroup_qps (s : State) (g : Group) : (putGroup s g).qps = s.qps := rfl
@[simp] theorem putGroup_tensors (s : State) (g : Group) : (putGroup s g).tensors = s.tensors := rfl
@[simp] theorem putGroup_recastReqs (s : State) (g : Group) : (putGroup s g).recastReqs = s.recastReqs := rfl
@[simp] theorem putGroup_recasts (s : State) (g : Group) : (putGroup s g).recasts = s.recasts := rfl
@[simp] theorem putGroup_incs (s : State) (g : Group) : (putGroup s g).incs = s.incs := rfl
@[simp] theorem putGroup_chains (s : State) (g : Group) : (putGroup s g).chains = s.chains := rfl
@[simp] theorem putGroup_gangs (s : State) (g : Group) : (putGroup s g).gangs = s.gangs := rfl
@[simp] theorem putGroup_bags (s : State) (g : Group) : (putGroup s g).bags = s.bags := rfl
@[simp] theorem putGroup_async (s : State) (g : Group) : (putGroup s g).async = s.async := rfl
@[simp] theorem putGroup_hostBuf (s : State) (g : Group) : (putGroup s g).hostBuf = s.hostBuf := rfl
@[simp] theorem putGroup_hostReply (s : State) (g : Group) : (putGroup s g).hostReply = s.hostReply := rfl
@[simp] theorem putGroup_tiles (s : State) (g : Group) : (putGroup s g).tiles = s.tiles := rfl
@[simp] theorem putGroup_pieces (s : State) (g : Group) : (putGroup s g).pieces = s.pieces := rfl
@[simp] theorem putGroup_pointers (s : State) (g : Group) : (putGroup s g).pointers = s.pointers := rfl
@[simp] theorem putGroup_rr (s : State) (g : Group) : (putGroup s g).rr = s.rr := rfl
@[simp] theorem putGroup_faults (s : State) (g : Group) : (putGroup s g).faults = s.faults := rfl
@[simp] theorem putGroup_cqes (s : State) (g : Group) : (putGroup s g).cqes = s.cqes := rfl
@[simp] theorem putGroup_frozen (s : State) (g : Group) : (putGroup s g).frozen = s.frozen := rfl
@[simp] theorem putGroup_savedClusters (s : State) (g : Group) : (putGroup s g).savedClusters = s.savedClusters := rfl
@[simp] theorem putGroup_stoppedOps (s : State) (g : Group) : (putGroup s g).stoppedOps = s.stoppedOps := rfl
@[simp] theorem putGroup_parts (s : State) (g : Group) : (putGroup s g).parts = s.parts := rfl
@[simp] theorem putGroup_partBusy (s : State) (g : Group) : (putGroup s g).partBusy = s.partBusy := rfl
@[simp] theorem putGroup_dies (s : State) (g : Group) : (putGroup s g).dies = s.dies := rfl
@[simp] theorem putGroup_substituted (s : State) (g : Group) : (putGroup s g).substituted = s.substituted := rfl
@[simp] theorem putGroup_switching (s : State) (g : Group) : (putGroup s g).switching = s.switching := rfl
@[simp] theorem putGroup_fuses (s : State) (g : Group) : (putGroup s g).fuses = s.fuses := rfl
@[simp] theorem putGroup_booterr (s : State) (g : Group) : (putGroup s g).booterr = s.booterr := rfl
@[simp] theorem putGroup_bootok (s : State) (g : Group) : (putGroup s g).bootok = s.bootok := rfl
@[simp] theorem putGroup_sec (s : State) (g : Group) : (putGroup s g).sec = s.sec := rfl
@[simp] theorem putGroup_meas (s : State) (g : Group) : (putGroup s g).meas = s.meas := rfl
@[simp] theorem putGroup_powerLimit (s : State) (g : Group) : (putGroup s g).powerLimit = s.powerLimit := rfl
@[simp] theorem putGroup_reduced (s : State) (g : Group) : (putGroup s g).reduced = s.reduced := rfl
@[simp] theorem putGroup_clockPending (s : State) (g : Group) : (putGroup s g).clockPending = s.clockPending := rfl
@[simp] theorem putGroup_xinvBusy (s : State) (g : Group) : (putGroup s g).xinvBusy = s.xinvBusy := rfl
@[simp] theorem putGroup_xinvEcode (s : State) (g : Group) : (putGroup s g).xinvEcode = s.xinvEcode := rfl
@[simp] theorem putGroup_xinvScope (s : State) (g : Group) : (putGroup s g).xinvScope = s.xinvScope := rfl
@[simp] theorem putGroup_netctl (s : State) (g : Group) : (putGroup s g).netctl = s.netctl := rfl
@[simp] theorem putGroup_reccnt (s : State) (g : Group) : (putGroup s g).reccnt = s.reccnt := rfl
@[simp] theorem putGroup_late (s : State) (g : Group) : (putGroup s g).late = s.late := rfl
@[simp] theorem putGroup_retryCnt (s : State) (g : Group) : (putGroup s g).retryCnt = s.retryCnt := rfl
@[simp] theorem putGroup_fabsel (s : State) (g : Group) : (putGroup s g).fabsel = s.fabsel := rfl
@[simp] theorem putGroup_routes (s : State) (g : Group) : (putGroup s g).routes = s.routes := rfl
@[simp] theorem putGroup_rbsel (s : State) (g : Group) : (putGroup s g).rbsel = s.rbsel := rfl
@[simp] theorem putGroup_rbBytes (s : State) (g : Group) : (putGroup s g).rbBytes = s.rbBytes := rfl
@[simp] theorem putGroup_rbEcode (s : State) (g : Group) : (putGroup s g).rbEcode = s.rbEcode := rfl
@[simp] theorem putGroup_rbBusy (s : State) (g : Group) : (putGroup s g).rbBusy = s.rbBusy := rfl
@[simp] theorem putGroup_rbPend (s : State) (g : Group) : (putGroup s g).rbPend = s.rbPend := rfl
@[simp] theorem putGroup_pkg (s : State) (g : Group) : (putGroup s g).pkg = s.pkg := rfl
@[simp] theorem putGroup_geyser (s : State) (g : Group) : (putGroup s g).geyser = s.geyser := rfl
@[simp] theorem putGroup_geyserPending (s : State) (g : Group) : (putGroup s g).geyserPending = s.geyserPending := rfl
@[simp] theorem putGroup_ports (s : State) (g : Group) : (putGroup s g).ports = s.ports := rfl
@[simp] theorem putGroup_vcs (s : State) (g : Group) : (putGroup s g).vcs = s.vcs := rfl
@[simp] theorem putGroup_escape (s : State) (g : Group) : (putGroup s g).escape = s.escape := rfl
@[simp] theorem putGroup_recovering (s : State) (g : Group) : (putGroup s g).recovering = s.recovering := rfl
@[simp] theorem putGroup_linkSlots (s : State) (g : Group) : (putGroup s g).linkSlots = s.linkSlots := rfl
@[simp] theorem putGroup_asserts (s : State) (g : Group) : (putGroup s g).asserts = s.asserts := rfl
@[simp] theorem putGroup_arriving (s : State) (g : Group) : (putGroup s g).arriving = s.arriving := rfl
@[simp] theorem putGroup_flows (s : State) (g : Group) : (putGroup s g).flows = s.flows := rfl
@[simp] theorem putGroup_early (s : State) (g : Group) : (putGroup s g).early = s.early := rfl
@[simp] theorem putGroup_delivered (s : State) (g : Group) : (putGroup s g).delivered = s.delivered := rfl
@[simp] theorem putGroup_chanTiles (s : State) (g : Group) : (putGroup s g).chanTiles = s.chanTiles := rfl
@[simp] theorem putGroup_readyTiles (s : State) (g : Group) : (putGroup s g).readyTiles = s.readyTiles := rfl
@[simp] theorem putGroup_transfers (s : State) (g : Group) : (putGroup s g).transfers = s.transfers := rfl
@[simp] theorem putGroup_chanRounds (s : State) (g : Group) : (putGroup s g).chanRounds = s.chanRounds := rfl
@[simp] theorem putGroup_away (s : State) (g : Group) : (putGroup s g).away = s.away := rfl
@[simp] theorem putGroup_rmUnits (s : State) (g : Group) : (putGroup s g).rmUnits = s.rmUnits := rfl
@[simp] theorem putGroup_poolUsed (s : State) (g : Group) : (putGroup s g).poolUsed = s.poolUsed := rfl
@[simp] theorem putGroup_raced (s : State) (g : Group) : (putGroup s g).raced = s.raced := rfl
@[simp] theorem putGroup_agenda (s : State) (g : Group) : (putGroup s g).agenda = s.agenda := rfl
@[simp] theorem putGroup_free (s : State) (g : Group) : (putGroup s g).free = s.free := rfl
@[simp] theorem putGroup_fresh (s : State) (g : Group) : (putGroup s g).fresh = s.fresh := rfl
@[simp] theorem putGroup_cur (s : State) (g : Group) : (putGroup s g).cur = s.cur := rfl

@[simp] theorem setMem_mem (s : State) (m : List Host.Cell) : (setMem s m).mem = m := rfl

/-! ## The collections -/

@[simp] theorem coreOf_setCore_same (s : State) (c : Nat) (x : Core) : coreOf (setCore s c x) c = x := sget_sset_same _ _ _ _
theorem coreOf_setCore_other (s : State) (c d : Nat) (x : Core) (h : d ≠ c) : coreOf (setCore s c x) d = coreOf s d :=
  sget_sset_other _ _ _ _ _ h
@[simp] theorem coreOf_modCore_same (s : State) (c : Nat) (f : Core → Core) : coreOf (modCore s c f) c = f (coreOf s c) :=
  sget_sset_same _ _ _ _
theorem coreOf_modCore_other (s : State) (c d : Nat) (f : Core → Core) (h : d ≠ c) : coreOf (modCore s c f) d = coreOf s d :=
  sget_sset_other _ _ _ _ _ h
@[simp] theorem clusterOf_setCluster_same (s : State) (k : Nat) (x : Cluster) : clusterOf (setCluster s k x) k = x :=
  sget_sset_same _ _ _ _
@[simp] theorem clusterOf_modCluster_same (s : State) (k : Nat) (f : Cluster → Cluster) :
    clusterOf (modCluster s k f) k = f (clusterOf s k) := sget_sset_same _ _ _ _
theorem clusterOf_modCluster_other (s : State) (k j : Nat) (f : Cluster → Cluster) (h : j ≠ k) :
    clusterOf (modCluster s k f) j = clusterOf s j := sget_sset_other _ _ _ _ _ h
@[simp] theorem ctxOf_modCtx_same (s : State) (c : Nat) (f : Ctx → Ctx) : ctxOf (modCtx s c f) c = f (ctxOf s c) :=
  sget_sset_same _ _ _ _
theorem ctxOf_modCtx_other (s : State) (c d : Nat) (f : Ctx → Ctx) (h : d ≠ c) : ctxOf (modCtx s c f) d = ctxOf s d :=
  sget_sset_other _ _ _ _ _ h
@[simp] theorem qpOf_modQp_same (s : State) (c q : Nat) (f : Qp → Qp) : qpOf (modQp s c q f) c q = f (qpOf s c q) :=
  sget_sset_same _ _ _ _

@[simp] theorem coreOf_setMem (s : State) (m : List Host.Cell) (d : Nat) : coreOf (setMem s m) d = coreOf s d := rfl
@[simp] theorem clusterOf_setMem (s : State) (m : List Host.Cell) (j : Nat) : clusterOf (setMem s m) j = clusterOf s j := rfl
@[simp] theorem ctxOf_setMem (s : State) (m : List Host.Cell) (d : Nat) : ctxOf (setMem s m) d = ctxOf s d := rfl
@[simp] theorem clusterOf_setCore (s : State) (c : Nat) (x : Core) (j : Nat) : clusterOf (setCore s c x) j = clusterOf s j := rfl
@[simp] theorem ctxOf_setCore (s : State) (c : Nat) (x : Core) (d : Nat) : ctxOf (setCore s c x) d = ctxOf s d := rfl
@[simp] theorem clusterOf_modCore (s : State) (c : Nat) (f : Core → Core) (j : Nat) : clusterOf (modCore s c f) j = clusterOf s j := rfl
@[simp] theorem ctxOf_modCore (s : State) (c : Nat) (f : Core → Core) (d : Nat) : ctxOf (modCore s c f) d = ctxOf s d := rfl
@[simp] theorem coreOf_setCluster (s : State) (k : Nat) (x : Cluster) (d : Nat) : coreOf (setCluster s k x) d = coreOf s d := rfl
@[simp] theorem ctxOf_setCluster (s : State) (k : Nat) (x : Cluster) (d : Nat) : ctxOf (setCluster s k x) d = ctxOf s d := rfl
@[simp] theorem coreOf_modCluster (s : State) (k : Nat) (f : Cluster → Cluster) (d : Nat) : coreOf (modCluster s k f) d = coreOf s d := rfl
@[simp] theorem ctxOf_modCluster (s : State) (k : Nat) (f : Cluster → Cluster) (d : Nat) : ctxOf (modCluster s k f) d = ctxOf s d := rfl
@[simp] theorem coreOf_modCtx (s : State) (c : Nat) (f : Ctx → Ctx) (d : Nat) : coreOf (modCtx s c f) d = coreOf s d := rfl
@[simp] theorem clusterOf_modCtx (s : State) (c : Nat) (f : Ctx → Ctx) (j : Nat) : clusterOf (modCtx s c f) j = clusterOf s j := rfl
@[simp] theorem coreOf_modQp (s : State) (c q : Nat) (f : Qp → Qp) (d : Nat) : coreOf (modQp s c q f) d = coreOf s d := rfl
@[simp] theorem clusterOf_modQp (s : State) (c q : Nat) (f : Qp → Qp) (j : Nat) : clusterOf (modQp s c q f) j = clusterOf s j := rfl
@[simp] theorem ctxOf_modQp (s : State) (c q : Nat) (f : Qp → Qp) (d : Nat) : ctxOf (modQp s c q f) d = ctxOf s d := rfl
@[simp] theorem coreOf_putRec (s : State) (t : TensorRec) (d : Nat) : coreOf (putRec s t) d = coreOf s d := rfl
@[simp] theorem clusterOf_putRec (s : State) (t : TensorRec) (j : Nat) : clusterOf (putRec s t) j = clusterOf s j := rfl
@[simp] theorem ctxOf_putRec (s : State) (t : TensorRec) (d : Nat) : ctxOf (putRec s t) d = ctxOf s d := rfl
@[simp] theorem coreOf_putGroup (s : State) (g : Group) (d : Nat) : coreOf (putGroup s g) d = coreOf s d := rfl
@[simp] theorem clusterOf_putGroup (s : State) (g : Group) (j : Nat) : clusterOf (putGroup s g) j = clusterOf s j := rfl
@[simp] theorem ctxOf_putGroup (s : State) (g : Group) (d : Nat) : ctxOf (putGroup s g) d = ctxOf s d := rfl

end Sys2Proof.Laws
end

