-- ==== Sys2Proof/Laws/Slot.lean ====
section
/-!
SUPPORT. What the issue of one operation alone can do: it takes effect, its gate is closed, it traps, or it waits.
-/
namespace Sys2Proof.Laws
set_option Elab.async false

open Machine

@[simp] theorem none_add (e : Effects) : Effects.none.add e = e := by
  cases e
  simp [Effects.add, Effects.none]

@[simp] theorem add_none (e : Effects) : e.add Effects.none = e := by
  cases e
  simp [Effects.add, Effects.none]

/-- The parts of `mayIssue`. -/
theorem mayIssue_iff (s : State) (i : Instr) :
    mayIssue s i = true ↔ lockstep s s.cur = [s.cur] ∧ issuing s s.cur = true ∧ interlock (landed s) s.cur i = false
      ∧ ((coreOf (landed s) s.cur).skipS && decide (slotOf i = some 0)) = false := by
  simp only [mayIssue, Bool.and_eq_true, decide_eq_true_eq, Bool.not_eq_true', and_assoc]

/-- An operation that no interlock holds back finds no shared resource full: it issues under its gate. -/
theorem runFull_eq (i : Instr) (act : Act) (s : State) (c : Nat) (at_ : Site) (w : interlock s c i = false) :
    runFull i act s c at_ = runOne i act s c at_ := by
  have h : (fullFor s c i && gateOpen (coreOf s c) (guardOf i)) = false := by
    cases g : gateOpen (coreOf s c) (guardOf i)
    · simp
    · simp only [interlock, g, Bool.or_eq_false_iff, Bool.and_eq_false_iff] at w
      simp_all
  simp [runFull, h]

/-- An engine operation that issues has found a place in the engine of its cluster (R312). -/
theorem issues_places (s : State) (i : Instr) (h : issues s i = true) (e : entersEngine i = true) :
    enginePlaces (landed s) (clusterOfCore s.cur) < 16 := by
  simp only [issues, Bool.and_eq_true] at h
  obtain ⟨-, -, w, -⟩ := (mayIssue_iff s i).mp h.1
  have g := h.2
  simp only [interlock, g, Bool.or_eq_false_iff, Bool.true_and, fullFor] at w
  simp_all

/-- A repetition of one operation that nothing holds back is that operation under its gate. -/
theorem solo_rep (s : State) (slot : Nat) (i : Instr) (act : Act) (w : mayIssue s i = true) :
    groupRep s [soloLane s slot i act s.cur] =
      match runOne i act (landed s) s.cur (soloSite (coreOf s s.cur) slot) with
      | .trap t => .trap s.cur t
      | .stall f => .stall s.cur slot i f
      | .ok t e => .ok t [e] := by
  obtain ⟨-, -, w, -⟩ := (mayIssue_iff s i).mp w
  unfold landed at *
  simp only [groupRep, groupOps, landLanes, List.foldl, soloLane, List.findSome?, laneWaits, List.find?, w, popsUse, Option.map_none,
    runLanes, runLane, runOps, runFull_eq _ _ _ _ _ w]
  cases runOne i act (landNow s s.cur) s.cur (soloSite (coreOf s s.cur) slot) <;> simp [runOps]

/-- An operation that completes. -/
theorem solo_ok (s : State) (slot : Nat) (i : Instr) (act : Act) (t : State) (e : Effects) (w : issues s i = true)
    (k : slotOf i = some slot) (a : act (landed s) s.cur (siteOf s i) = .ok t e) :
    issueSolo slot i act s = .next (issued s i t e) := by
  simp only [issues, Bool.and_eq_true] at w
  obtain ⟨l, g, -, sk⟩ := (mayIssue_iff s i).mp w.1
  have r : runOne i act (landed s) s.cur (soloSite (coreOf s s.cur) slot)
      = .ok t ((baseEffects i (soloSite (coreOf s s.cur) slot)).add e) := by
    have a' : act (landed s) s.cur (soloSite (coreOf s s.cur) slot) = .ok t e := by simpa [siteOf, k] using a
    simp only [runOne, w.2, sk, a', Bool.not_false, Bool.and_self, if_true]
  simp only [issueSolo, soloStep, l, List.all_cons, List.all_nil, g, List.map_cons, List.map_nil,
    solo_rep s slot i act w.1, r]
  simp [issued, siteOf, k, finishLanes, soloLane, begun, closeEach, joinEach, leadEffects]

/-- An operation whose gate is closed only steps its iterators (R166). -/
theorem solo_gated (s : State) (slot : Nat) (i : Instr) (act : Act) (w : mayIssue s i = true)
    (k : slotOf i = some slot) (g : gateOpen (coreOf (landed s) s.cur) (guardOf i) = false) :
    issueSolo slot i act s = .next (issued s i (landed s) .none) := by
  obtain ⟨l, r, -, -⟩ := (mayIssue_iff s i).mp w
  have o : runOne i act (landed s) s.cur (soloSite (coreOf s s.cur) slot)
      = .ok (landed s) (baseEffects i (soloSite (coreOf s s.cur) slot)) := by
    simp only [runOne, g, Bool.false_and, Bool.false_eq_true, if_false]
  simp only [issueSolo, soloStep, l, List.all_cons, List.all_nil, r, List.map_cons, List.map_nil,
    solo_rep s slot i act w, o]
  simp [issued, siteOf, k, finishLanes, soloLane, begun, closeEach, joinEach, leadEffects]

/-- An operation that traps: nothing of its repetition issues (R169, R401). -/
theorem solo_trap (s : State) (slot : Nat) (i : Instr) (act : Act) (t : Trap) (w : issues s i = true)
    (k : slotOf i = some slot) (a : act (landed s) s.cur (siteOf s i) = .trap t) :
    issueSolo slot i act s = .next (trapped s i t) := by
  simp only [issues, Bool.and_eq_true] at w
  obtain ⟨l, g, -, sk⟩ := (mayIssue_iff s i).mp w.1
  have r : runOne i act (landed s) s.cur (soloSite (coreOf s s.cur) slot) = .trap t := by
    have a' : act (landed s) s.cur (soloSite (coreOf s s.cur) slot) = .trap t := by simpa [siteOf, k] using a
    simp only [runOne, w.2, sk, a', Bool.not_false, Bool.and_self, if_true]
  simp only [issueSolo, soloStep, l, List.all_cons, List.all_nil, g, List.map_cons, List.map_nil,
    solo_rep s slot i act w.1, r]
  simp [notIssued, trapped, holding, k]

/-- An operation that waits: nothing of its repetition issues (R176, R177). -/
theorem solo_stall (s : State) (slot : Nat) (i : Instr) (act : Act) (f : State → State) (w : issues s i = true)
    (k : slotOf i = some slot) (a : act (landed s) s.cur (siteOf s i) = .stall f) :
    issueSolo slot i act s = .next (waited s i f) := by
  simp only [issues, Bool.and_eq_true] at w
  obtain ⟨l, g, -, sk⟩ := (mayIssue_iff s i).mp w.1
  have r : runOne i act (landed s) s.cur (soloSite (coreOf s s.cur) slot) = .stall f := by
    have a' : act (landed s) s.cur (soloSite (coreOf s s.cur) slot) = .stall f := by simpa [siteOf, k] using a
    simp only [runOne, w.2, sk, a', Bool.not_false, Bool.and_self, if_true]
  simp only [issueSolo, soloStep, l, List.all_cons, List.all_nil, g, List.map_cons, List.map_nil,
    solo_rep s slot i act w.1, r]
  simp [notIssued, waited, holding, k]

/-- A slot operation is the issue of its meaning alone in its slot. -/
theorem exec_slot (i : Instr) (k : Nat) (s : State) (h : slotOf i = some k) : exec i s = issueSolo k i (actOf i) s := by
  cases i
  all_goals first | (cases h; rfl) | simp [slotOf] at h

/-- An operation does what its meaning gives on the state after the landings. -/
theorem does_of (i : Instr) (k : Nat) (act : Act) (p : State → Nat → Prop) (t : State → Nat → State) (e : State → Nat → Effects)
    (h : slotOf i = some k) (x : ∀ s, exec i s = issueSolo k i act s)
    (a : ∀ s, p (landed s) s.cur → act (landed s) s.cur (siteOf s i) = .ok (t (landed s) s.cur) (e (landed s) s.cur)) :
    Does i p t e := by
  intro s w g
  rw [x]
  exact solo_ok s k i _ _ _ w h (a s g)

/-- A trap of its meaning is taken. -/
theorem traps_of (i : Instr) (k : Nat) (act : Act) (p : State → Nat → Prop) (t : State → Nat → Trap) (h : slotOf i = some k)
    (x : ∀ s, exec i s = issueSolo k i act s)
    (a : ∀ s, p (landed s) s.cur → act (landed s) s.cur (siteOf s i) = .trap (t (landed s) s.cur)) : Traps i p t := by
  intro s w g
  rw [x]
  exact solo_trap s k i _ _ w h (a s g)

/-- A wait of its meaning is noted. -/
theorem waits_of (i : Instr) (k : Nat) (act : Act) (p : State → Nat → Prop) (f : State → State) (h : slotOf i = some k)
    (x : ∀ s, exec i s = issueSolo k i act s)
    (a : ∀ s, p (landed s) s.cur → act (landed s) s.cur (siteOf s i) = .stall f) : Waits i p f := by
  intro s w g
  rw [x]
  exact solo_stall s k i _ f w h (a s g)

/-- A vector operation does on its elements what its meaning gives on them. -/
theorem onElements_of (i : Instr) (x : VSlot) (f : VF) (act : Act) (t : State → Nat → Elems → State)
    (h : slotOf i = some (vSlotNo x)) (y : ∀ s, exec i s = issueSolo (vSlotNo x) i act s)
    (a : ∀ u c z at_, vElems u c x f = .ok (some z) → act u c at_ = .ok (t u c z) .none) : OnElements i x f t := by
  intro s z w g
  rw [y]
  exact solo_ok s _ i _ _ _ w h (a _ _ _ _ g)

/-! ## The end of a repetition that leaves no effects -/

/-- A repetition without gang effects leaves the gangs. -/
theorem moveGang_none (s : State) (c : Nat) : moveGang s c .none = s := by
  have h (g : Gang) : (fun y : Gang => if y.id = g.id then { y with fused := y.fused && !false, step := y.step } else y) = id := by
    funext y; split <;> simp
  unfold moveGang
  split
  · rename_i g _
    simp only [Effects.none, Option.getD_none]
    simp
  · rfl

/-- The end of a repetition and of its quiet bundle that leave no effects: the core's bookkeeping only. -/
theorem issued_plain (s : State) (i : Instr) (k : Nat) (t : State) (hk : slotOf i = some k) (ho : oneShot i = false)
    (hb : baseEffects i (siteOf s i) = .none) :
    issued s i t .none = modCore (modCluster (modCore (modCore (modCore t s.cur fun x => { x with held := x.held.setIfInBounds k i })
        s.cur fun x => x) s.cur fun x => { x with issueCount := x.issueCount + 1, waiting := none, stepWait := false, skipS := false })
        (clusterOfCore s.cur) fun y => { y with waitEngine := y.waitEngine.filter fun c => decide (c ≠ s.cur) })
      s.cur fun x => { x with repidx := 0, pc := (siteOf s i).next } := by
  have e : Effects.add .none .none = .none := rfl
  simp only [issued, hk, hb, Option.getD_some, e, finishBundle]
  simp only [Effects.none, Option.getD_none]
  have m := moveGang_none
  simp only [Effects.none] at m
  simp only [m]
  simp [finishRep, applyIters, advHeads, applySps, joinLines, closeWait, leaveEngine, ho, List.eraseDups]

theorem issued_core (s : State) (i : Instr) (k : Nat) (t : State) (hk : slotOf i = some k) (ho : oneShot i = false)
    (hb : baseEffects i (siteOf s i) = .none) :
    coreOf (issued s i t .none) s.cur = { coreOf t s.cur with
      issueCount := (coreOf t s.cur).issueCount + 1, waiting := none, stepWait := false, skipS := false
      held := (coreOf t s.cur).held.setIfInBounds k i, pc := (siteOf s i).next, repidx := 0 } := by
  rw [issued_plain s i k t hk ho hb]; simp

theorem issued_other (s : State) (i : Instr) (k : Nat) (t : State) (hk : slotOf i = some k) (ho : oneShot i = false)
    (hb : baseEffects i (siteOf s i) = .none) (c : Nat) (h : c ≠ s.cur) : coreOf (issued s i t .none) c = coreOf t c := by
  rw [issued_plain s i k t hk ho hb]
  simp [coreOf_modCore_other, h]

theorem issued_rest (s : State) (i : Instr) (k : Nat) (t : State) (hk : slotOf i = some k) (ho : oneShot i = false)
    (hb : baseEffects i (siteOf s i) = .none) :
    { issued s i t .none with cores := t.cores, clusters := t.clusters } = t := by
  rw [issued_plain s i k t hk ho hb]; rfl

theorem issued_cluster (s : State) (i : Instr) (k : Nat) (t : State) (hk : slotOf i = some k) (ho : oneShot i = false)
    (hb : baseEffects i (siteOf s i) = .none) (j : Nat) :
    { clusterOf (issued s i t .none) j with waitEngine := (clusterOf t j).waitEngine } = clusterOf t j := by
  rw [issued_plain s i k t hk ho hb]
  simp only [clusterOf_modCore]
  by_cases h : j = clusterOfCore s.cur
  · subst h; simp
  · rw [clusterOf_modCluster_other _ _ _ _ h]; simp
end Sys2Proof.Laws
end

