-- ==== Sys2Proof/Tests/Slice0.lean ====
section
/-! SUPPORT. Tests: words of the spec decode to their instructions, ill-formed terms are refused, one step of each instruction on a
small state, and for every obligation with hypotheses a concrete state that meets them together. -/

namespace Sys2Proof.Tests
open Sys2Proof Sys2Proof.Machine
set_option Elab.async false

/-! ## One word of every constructor, written from the spec's encoding tables -/

theorem test_decode_scalar_0 :
    (([
      (0x0364_6EC0, .add ⟨⟨5, true⟩, 4, 13, 27, 0⟩), (0x05E1_7D00, .sub ⟨⟨7, true⟩, 1, 15, 20, 0⟩),
      (0x07B1_A980, .mul ⟨⟨6, true⟩, 17, 21, 6, 0⟩), (0x08B7_8E80, .mulh ⟨⟨2, true⟩, 23, 17, 26, 0⟩),
      (0x0BA1_4A80, .mulhn ⟨⟨6, true⟩, 1, 9, 10, 0⟩), (0x0D3A_E300, .div ⟨⟨4, true⟩, 26, 28, 12, 0⟩),
      (0x0EB0_4D80, .divn ⟨⟨2, true⟩, 16, 9, 22, 0⟩), (0x11EE_C140, .mod ⟨⟨7, true⟩, 14, 24, 5, 0⟩),
      (0x13FD_CD80, .modn ⟨⟨7, true⟩, 29, 25, 22, 0⟩), (0x147B_AC00, .and ⟨⟨1, true⟩, 27, 21, 16, 0⟩),
      (0x17FC_1080, .or ⟨⟨7, true⟩, 28, 2, 2, 0⟩), (0x1922_B340, .xor ⟨⟨4, true⟩, 2, 22, 13, 0⟩)
    ] : List (BitVec 32 × Instr)).all fun p => decide ((decodeS p.1).toOption = some p.2)) = true := by
  decide +kernel

theorem test_decode_scalar_1 :
    (([
      (0x1AF9_2700, .shl ⟨⟨3, true⟩, 25, 4, 28, 0⟩), (0x1D72_6240, .shr ⟨⟨5, true⟩, 18, 12, 9, 0⟩),
      (0x1F68_9A80, .sra ⟨⟨5, true⟩, 8, 19, 10, 0⟩), (0x21AB_4580, .min ⟨⟨6, true⟩, 11, 8, 22, 0⟩),
      (0x233F_8F40, .max ⟨⟨4, true⟩, 31, 17, 29, 0⟩), (0x24F2_A2C0, .minn ⟨⟨3, true⟩, 18, 20, 11, 0⟩),
      (0x2739_8C00, .maxn ⟨⟨4, true⟩, 25, 17, 16, 0⟩), (0x2973_A000, .clz ⟨⟨5, true⟩, 19, 20, 0, 0⟩),
      (0x2AF5_C800, .popc ⟨⟨3, true⟩, 21, 25, 0, 0⟩), (0x2DA8_2001, .sext ⟨⟨6, true⟩, 8, 4, 0, 1⟩),
      (0x2E77_0801, .zext ⟨⟨1, true⟩, 23, 1, 0, 1⟩), (0x30A3_F064, .addi ⟨⟨2, true⟩, 3, 30, 100⟩)
    ] : List (BitVec 32 × Instr)).all fun p => decide ((decodeS p.1).toOption = some p.2)) = true := by
  decide +kernel

theorem test_decode_scalar_2 :
    (([
      (0x3268_E010, .andi ⟨⟨1, true⟩, 8, 28, 16⟩), (0x3570_A802, .ori ⟨⟨5, true⟩, 16, 21, 2⟩),
      (0x36F2_1020, .xori ⟨⟨3, true⟩, 18, 2, 32⟩), (0x39A9_2804, .shli ⟨⟨6, true⟩, 9, 5, 4⟩),
      (0x3AE9_C822, .shri ⟨⟨3, true⟩, 9, 25, 34⟩), (0x3DE5_B004, .srai ⟨⟨7, true⟩, 5, 22, 4⟩),
      (0x3EEE_0006, .li ⟨⟨3, true⟩, 14, 6⟩), (0x41B2_0002, .lih16 ⟨⟨6, true⟩, 18, 2⟩),
      (0x4265_0007, .lih32 ⟨⟨1, true⟩, 5, 7⟩), (0x4475_1F71, .lih48 ⟨⟨1, true⟩, 21, 8049⟩),
      (0x49E4_1785, .cmp ⟨⟨7, true⟩, 4, 2, 30, 5⟩), (0x4AE3_E9D3, .cmpi ⟨⟨3, true⟩, 3, 29, 467⟩)
    ] : List (BitVec 32 × Instr)).all fun p => decide ((decodeS p.1).toOption = some p.2)) = true := by
  decide +kernel

theorem test_decode_scalar_3 :
    (([
      (0x4CA5_31C3, .pand ⟨⟨2, true⟩, 5, 6, 7, 3⟩), (0x4F24_3982, .por ⟨⟨4, true⟩, 4, 7, 6, 2⟩),
      (0x50A7_10C1, .pxor ⟨⟨2, true⟩, 7, 2, 3, 1⟩), (0x52A1_22C2, .sel ⟨⟨2, true⟩, 1, 4, 11, 2⟩),
      (0x5522_1804, .pmov ⟨⟨4, true⟩, 2, 3, 0, 4⟩), (0x5462_0001, .pmovToS ⟨⟨1, true⟩, 2, 0, 0, 1⟩),
      (0x5460_B802, .pmovFromS ⟨⟨1, true⟩, 0, 23, 0, 2⟩), (0x60BF_75F4, .br ⟨⟨2, true⟩, 2061812⟩),
      (0x62E0_1001, .jmp ⟨⟨3, true⟩, 0, 2, 0, 1⟩), (0x6463_24AA, .call ⟨⟨1, true⟩, 205994⟩), (0x6660_0000, .ret ⟨1, true⟩),
      (0x68F3_4C1B, .loop ⟨⟨3, true⟩, 1264667⟩)
    ] : List (BitVec 32 × Instr)).all fun p => decide ((decodeS p.1).toOption = some p.2)) = true := by
  decide +kernel

theorem test_decode_scalar_4 :
    (([
      (0x6B60_0008, .rbset ⟨⟨5, true⟩, 0, 0, 8⟩), (0x6CE0_0000, .exit ⟨3, true⟩), (0x6F60_0000, .yield ⟨5, true⟩),
      (0x80BE_AD47, .ldl ⟨⟨2, true⟩, 30, 21, 21, 7⟩), (0x827D_9A01, .stl ⟨⟨1, true⟩, 29, 19, 8, 1⟩),
      (0x85AE_C581, .ldm ⟨⟨6, true⟩, 14, 24, 22, 1⟩), (0x8663_6482, .stm ⟨⟨1, true⟩, 3, 12, 18, 2⟩),
      (0x88FC_D207, .amo ⟨⟨3, true⟩, 28, 26, 8, 7⟩), (0x8AAC_ABC2, .sacc ⟨⟨2, true⟩, 12, 21, 15, 2⟩),
      (0x8C71_F800, .sapp ⟨⟨1, true⟩, 17, 31, 0, 0⟩), (0xA1F7_F804, .hld ⟨⟨7, true⟩, 23, 31, 0, 4⟩),
      (0xA2B7_B8C0, .hview ⟨⟨2, true⟩, 23, 23, 3, 0⟩)
    ] : List (BitVec 32 × Instr)).all fun p => decide ((decodeS p.1).toOption = some p.2)) = true := by
  decide +kernel

theorem test_decode_scalar_5 :
    (([
      (0xA4FB_65C0, .rcast ⟨⟨3, true⟩, 27, 12, 23, 0⟩), (0xA720_9000, .hold ⟨⟨4, true⟩, 0, 18, 0, 0⟩),
      (0xA8A0_8800, .rels ⟨⟨2, true⟩, 0, 17, 0, 0⟩), (0xAAEF_3000, .hgen ⟨⟨3, true⟩, 15, 6, 0, 0⟩),
      (0xB12C_3100, .taglk ⟨⟨4, true⟩, 12, 6, 4, 0⟩), (0xB3AD_38C0, .tagset ⟨⟨6, true⟩, 13, 7, 3, 0⟩),
      (0xB4EA_0000, .tagclr ⟨⟨3, true⟩, 10, 0, 0, 0⟩), (0xB460_5B01, .tagclrK ⟨⟨1, true⟩, 0, 11, 12, 1⟩),
      (0xB96A_D804, .xsv ⟨⟨5, true⟩, 10, 27, 0, 4⟩), (0xBAE6_8808, .xvs ⟨⟨3, true⟩, 6, 17, 0, 8⟩),
      (0xBDA2_6004, .itset ⟨⟨6, true⟩, 2, 12, 0, 4⟩), (0xBFF8_6803, .itget ⟨⟨7, true⟩, 24, 13, 0, 3⟩)
    ] : List (BitVec 32 × Instr)).all fun p => decide ((decodeS p.1).toOption = some p.2)) = true := by
  decide +kernel

theorem test_decode_scalar_6 :
    (([
      (0xC160_0004, .gjoin ⟨⟨5, true⟩, 0, 0, 0, 4⟩), (0xC2A0_0001, .gleave ⟨⟨2, true⟩, 0, 0, 0, 1⟩),
      (0xC4A0_0005, .sync ⟨⟨2, true⟩, 0, 0, 0, 5⟩), (0xC720_0800, .fuse ⟨⟨4, true⟩, 0, 1, 0, 0⟩),
      (0xC860_9000, .decpl ⟨⟨1, true⟩, 0, 18, 0, 0⟩), (0xCA60_0000, .rejoin ⟨1, true⟩),
      (0xCDA0_2801, .wstep ⟨⟨6, true⟩, 0, 5, 0, 1⟩), (0xD0AC_0D81, .evadd ⟨⟨2, true⟩, 12, 1, 22, 1⟩),
      (0xD326_47C2, .evarm ⟨⟨4, true⟩, 6, 8, 31, 2⟩), (0xD2E0_3004, .evarmDis ⟨⟨3, true⟩, 0, 6, 0, 4⟩),
      (0xD4A0_A140, .evwait ⟨⟨2, true⟩, 0, 20, 5, 0⟩), (0xD7EF_B804, .evrd ⟨⟨7, true⟩, 15, 23, 0, 4⟩)
    ] : List (BitVec 32 × Instr)).all fun p => decide ((decodeS p.1).toOption = some p.2)) = true := by
  decide +kernel

theorem test_decode_scalar_7 :
    (([
      (0xD960_0003, .fence ⟨⟨5, true⟩, 0, 0, 0, 3⟩), (0xDBA0_0003, .xfence ⟨⟨6, true⟩, 0, 0, 0, 3⟩),
      (0xE0FF_4000, .tis ⟨⟨3, true⟩, 31, 8, 0, 0⟩), (0xE2FE_F800, .tiwait ⟨⟨3, true⟩, 30, 31, 0, 0⟩),
      (0xF0EB_003D, .csrr ⟨⟨3, true⟩, 11, 0, 61⟩), (0xF371_0006, .csrw ⟨⟨5, true⟩, 17, 0, 6⟩),
      (0xF5E0_4000, .trap ⟨⟨7, true⟩, 0, 16384⟩), (0xF660_0001, .eret ⟨⟨1, true⟩, 0, 0, 0, 1⟩),
      (0xF9A0_04C2, .brk ⟨⟨6, true⟩, 0, 1218⟩)
    ] : List (BitVec 32 × Instr)).all fun p => decide ((decodeS p.1).toOption = some p.2)) = true := by
  decide +kernel

theorem test_decode_vector_0 :
    (([
      (0x01B8_401F_5B00_0000, .vadd .va ⟨⟨5, true⟩, 2, 1, 0, 0, 1, 15, 5, 11, 0, 0, 0, 0⟩),
      (0x02D5_0037_D700_0000, .vsub .vb ⟨⟨6, true⟩, 1, 4, 0, 0, 3, 7, 13, 7, 0, 0, 0, 0⟩),
      (0x0395_8014_1000_0000, .vmul .va ⟨⟨4, true⟩, 1, 6, 0, 0, 1, 4, 1, 0, 0, 0, 0, 0⟩),
      (0x04DA_4323_A000_0000, .vfma .vb ⟨⟨6, true⟩, 2, 9, 0, 6, 2, 3, 10, 0, 0, 0, 0, 0⟩),
      (0x05F4_C048_1AC0_0000, .vfms .va ⟨⟨7, true⟩, 1, 3, 0, 0, 4, 8, 1, 10, 12, 0, 0, 0⟩),
      (0x06F9_81F3_6606_0000, .vfnma .vb ⟨⟨7, true⟩, 2, 6, 0, 3, 7, 3, 6, 6, 0, 3, 0, 0⟩),
      (0x077A_4076_6004_0000, .vmin .va ⟨⟨3, true⟩, 2, 9, 0, 0, 7, 6, 6, 0, 0, 2, 0, 0⟩),
      (0x0878_801C_BB00_0000, .vmax .vb ⟨⟨3, true⟩, 2, 2, 0, 0, 1, 12, 11, 11, 0, 0, 0, 0⟩),
      (0x095A_0011_1000_0000, .vabs .va ⟨⟨2, true⟩, 2, 8, 0, 0, 1, 1, 1, 0, 0, 0, 0, 0⟩),
      (0x0A35_C021_7000_0000, .vneg .vb ⟨⟨1, true⟩, 1, 7, 0, 0, 2, 1, 7, 0, 0, 0, 0, 0⟩),
      (0x0B95_8064_E004_0000, .vdiv .va ⟨⟨4, true⟩, 1, 6, 0, 0, 6, 4, 14, 0, 0, 2, 0, 0⟩),
      (0x0C35_0058_6900_0000, .vmulh .vb ⟨⟨1, true⟩, 1, 4, 0, 0, 5, 8, 6, 9, 0, 0, 0, 0⟩)
    ] : List (BitVec 64 × Instr)).all fun p => decide ((decodeV (if slotOf p.2 = some 2 then .vb else .va) p.1).toOption = some p.2)) = true := by
  decide +kernel

theorem test_decode_vector_1 :
    (([
      (0x0D94_C04A_AE00_0000, .vsadd .va ⟨⟨4, true⟩, 1, 3, 0, 0, 4, 10, 10, 14, 0, 0, 0, 0⟩),
      (0x0E35_0019_4800_0000, .vssub .vb ⟨⟨1, true⟩, 1, 4, 0, 0, 1, 9, 4, 8, 0, 0, 0, 0⟩),
      (0x1038_4044_6B00_0000, .vand .va ⟨⟨1, true⟩, 2, 1, 0, 0, 4, 4, 6, 11, 0, 0, 0, 0⟩),
      (0x11F9_006C_EF00_0000, .vor .vb ⟨⟨7, true⟩, 2, 4, 0, 0, 6, 12, 14, 15, 0, 0, 0, 0⟩),
      (0x12B4_8049_D000_0000, .vxor .va ⟨⟨5, true⟩, 1, 2, 0, 0, 4, 9, 13, 0, 0, 0, 0, 0⟩),
      (0x13D8_4011_1000_0000, .vnot .vb ⟨⟨6, true⟩, 2, 1, 0, 0, 1, 1, 1, 0, 0, 0, 0, 0⟩),
      (0x14B5_0065_C000_0040, .vshl .va ⟨⟨5, true⟩, 1, 4, 0, 0, 6, 5, 12, 0, 0, 0, 0, 64⟩),
      (0x1531_0055_9000_0040, .vshr .vb ⟨⟨1, true⟩, 0, 4, 0, 0, 5, 5, 9, 0, 0, 0, 0, 64⟩),
      (0x16D9_4011_D000_0040, .vsra .va ⟨⟨6, true⟩, 2, 5, 0, 0, 1, 1, 13, 0, 0, 0, 0, 64⟩),
      (0x1778_4043_4000_0000, .vpopc .vb ⟨⟨3, true⟩, 2, 1, 0, 0, 4, 3, 4, 0, 0, 0, 0, 0⟩),
      (0x1855_402F_A000_0000, .vclz .va ⟨⟨2, true⟩, 1, 5, 0, 0, 2, 15, 10, 0, 0, 0, 0, 0⟩),
      (0x207A_0042_2800_0004, .vcmp .vb ⟨⟨3, true⟩, 2, 8, 0, 0, 4, 2, 2, 8, 0, 0, 0, 4⟩)
    ] : List (BitVec 64 × Instr)).all fun p => decide ((decodeV (if slotOf p.2 = some 2 then .vb else .va) p.1).toOption = some p.2)) = true := by
  decide +kernel

theorem test_decode_vector_2 :
    (([
      (0x217A_004A_B000_0000, .vsel .va ⟨⟨3, true⟩, 2, 8, 0, 0, 4, 10, 11, 0, 0, 0, 0, 0⟩),
      (0x2298_0001_2000_0000, .vmand .vb ⟨⟨4, true⟩, 2, 0, 0, 0, 0, 1, 2, 0, 0, 0, 0, 0⟩),
      (0x2330_0006_3500_0000, .vmor .va ⟨⟨1, true⟩, 0, 0, 0, 0, 0, 6, 3, 5, 0, 0, 0, 0⟩),
      (0x2490_0003_2000_0003, .vmxor .vb ⟨⟨4, true⟩, 0, 0, 0, 0, 0, 3, 2, 0, 0, 0, 0, 3⟩),
      (0x25F8_0003_0000_0000, .vmnot .va ⟨⟨7, true⟩, 2, 0, 0, 0, 0, 3, 0, 0, 0, 0, 0, 0⟩),
      (0x2631_0006_4000_0002, .vmcnt .vb ⟨⟨1, true⟩, 0, 4, 0, 0, 0, 6, 4, 0, 0, 0, 0, 2⟩),
      (0x3076_983B_A000_0004, .vcvt .va ⟨⟨3, true⟩, 1, 10, 6, 0, 3, 11, 10, 0, 0, 0, 0, 4⟩),
      (0x31E1_F34D_E8C0_0004, .vqnt .vb ⟨⟨7, false⟩, 0, 7, 12, 6, 4, 13, 14, 8, 12, 0, 0, 4⟩),
      (0x32B8_2468_4900_0004, .vdqn .va ⟨⟨5, true⟩, 2, 0, 9, 0, 6, 8, 4, 9, 0, 0, 0, 4⟩),
      (0x3363_1C20_0400_0003, .vcbx .vb ⟨⟨3, false⟩, 0, 12, 7, 0, 2, 0, 0, 4, 0, 0, 0, 3⟩),
      (0x345A_71D6_7800_0001, .vcbq .va ⟨⟨2, true⟩, 2, 9, 12, 3, 5, 6, 7, 8, 0, 0, 0, 1⟩),
      (0x359A_0015_E000_0080, .vamax .vb ⟨⟨4, true⟩, 2, 8, 0, 0, 1, 5, 14, 0, 0, 0, 0, 128⟩)
    ] : List (BitVec 64 × Instr)).all fun p => decide ((decodeV (if slotOf p.2 = some 2 then .vb else .va) p.1).toOption = some p.2)) = true := by
  decide +kernel

theorem test_decode_vector_3 :
    (([
      (0x4074_C061_1000_0000, .vmov .va ⟨⟨3, true⟩, 1, 3, 0, 0, 6, 1, 1, 0, 0, 0, 0, 0⟩),
      (0x4138_8055_3000_0001, .vbcst .vb ⟨⟨1, true⟩, 2, 2, 0, 0, 5, 5, 3, 0, 0, 0, 0, 1⟩),
      (0x425B_8079_BDD0_0000, .vperm .va ⟨⟨2, true⟩, 2, 14, 0, 0, 7, 9, 11, 13, 13, 0, 0, 0⟩),
      (0x43D9_005F_5B00_0005, .vshfl .vb ⟨⟨6, true⟩, 2, 4, 0, 0, 5, 15, 5, 11, 0, 0, 0, 5⟩),
      (0x4498_C04E_0000_0004, .viota .va ⟨⟨4, true⟩, 2, 3, 0, 0, 4, 14, 0, 0, 0, 0, 0, 4⟩),
      (0x45D9_4075_3000_0000, .vcmps .vb ⟨⟨6, true⟩, 2, 5, 0, 0, 7, 5, 3, 0, 0, 0, 0, 0⟩),
      (0x46D9_803B_7B00_0000, .vexpd .va ⟨⟨6, true⟩, 2, 6, 0, 0, 3, 11, 7, 11, 0, 0, 0, 0⟩),
      (0x47F8_C07E_8000_0000, .vxv .vb ⟨⟨7, true⟩, 2, 3, 0, 0, 7, 14, 8, 0, 0, 0, 0, 0⟩),
      (0x5038_4075_5000_0001, .vred .va ⟨⟨1, true⟩, 2, 1, 0, 0, 7, 5, 5, 0, 0, 0, 0, 1⟩),
      (0x5171_80CB_9000_0008, .vscan .vb ⟨⟨3, true⟩, 0, 6, 0, 1, 4, 11, 9, 0, 0, 0, 0, 8⟩),
      (0x5256_1CD0_0E12_C001, .vdot .va ⟨⟨2, true⟩, 1, 8, 7, 1, 5, 0, 0, 14, 1, 1, 3, 1⟩),
      (0x6099_C047_8000_0000, .vexp2 .vb ⟨⟨4, true⟩, 2, 7, 0, 0, 4, 7, 8, 0, 0, 0, 0, 0⟩)
    ] : List (BitVec 64 × Instr)).all fun p => decide ((decodeV (if slotOf p.2 = some 2 then .vb else .va) p.1).toOption = some p.2)) = true := by
  decide +kernel

theorem test_decode_vector_4 :
    (([
      (0x6195_8071_E000_0001, .vlog2 .va ⟨⟨4, true⟩, 1, 6, 0, 0, 7, 1, 14, 0, 0, 0, 0, 1⟩),
      (0x62D5_8025_D000_0001, .vrcp .vb ⟨⟨6, true⟩, 1, 6, 0, 0, 2, 5, 13, 0, 0, 0, 0, 1⟩),
      (0x6375_C018_0003_C000, .vrsq .va ⟨⟨3, true⟩, 1, 7, 0, 0, 1, 8, 0, 0, 0, 1, 7, 0⟩),
      (0x64B9_C018_4000_0000, .vsqrt .vb ⟨⟨5, true⟩, 2, 7, 0, 0, 1, 8, 4, 0, 0, 0, 0, 0⟩),
      (0x65B5_C027_6000_0001, .vsinpi .va ⟨⟨5, true⟩, 1, 7, 0, 0, 2, 7, 6, 0, 0, 0, 0, 1⟩),
      (0x66D5_C01E_3000_0001, .vcospi .vb ⟨⟨6, true⟩, 1, 7, 0, 0, 1, 14, 3, 0, 0, 0, 0, 1⟩),
      (0x67D9_C076_A000_0001, .vtanh .va ⟨⟨6, true⟩, 2, 7, 0, 0, 7, 6, 10, 0, 0, 0, 0, 1⟩),
      (0x6875_C04D_D000_0000, .vsigm .vb ⟨⟨3, true⟩, 1, 7, 0, 0, 4, 13, 13, 0, 0, 0, 0, 0⟩),
      (0x7095_8065_0000_0800, .vld .va ⟨⟨4, true⟩, 1, 6, 0, 0, 6, 5, 0, 0, 0, 0, 0, 2048⟩),
      (0x71D7_0030_6000_1000, .vst .vb ⟨⟨6, true⟩, 1, 12, 0, 0, 3, 0, 6, 0, 0, 0, 0, 4096⟩),
      (0x7296_4040_0900_2000, .vgth .va ⟨⟨4, true⟩, 1, 9, 0, 0, 4, 0, 0, 9, 0, 0, 0, 8192⟩),
      (0x73B1_5050_6900_0400, .vsct .vb ⟨⟨5, true⟩, 0, 5, 4, 0, 5, 0, 6, 9, 0, 0, 0, 1024⟩)
    ] : List (BitVec 64 × Instr)).all fun p => decide ((decodeV (if slotOf p.2 = some 2 then .vb else .va) p.1).toOption = some p.2)) = true := by
  decide +kernel

theorem test_decode_vector_5 :
    (([
      (0x7498_8060_0302_5000, .vacc .va ⟨⟨4, true⟩, 2, 2, 0, 0, 6, 0, 0, 3, 0, 1, 1, 4096⟩),
      (0x7535_0069_5000_2016, .vamo .vb ⟨⟨1, true⟩, 1, 4, 0, 0, 6, 9, 5, 0, 0, 0, 0, 8214⟩),
      (0x7698_4040_A700_0000, .vapp .va ⟨⟨4, true⟩, 2, 1, 0, 0, 4, 0, 10, 7, 0, 0, 0, 0⟩)
    ] : List (BitVec 64 × Instr)).all fun p => decide ((decodeV (if slotOf p.2 = some 2 then .vb else .va) p.1).toOption = some p.2)) = true := by
  decide +kernel

theorem test_decode_matrix_0 :
    (([
      (0x0566_1C0D_9800_0000, .mma ⟨⟨2, true⟩, 9, 8, 1, 12, 0, 54, 3, 0⟩),
      (0x0B6A_8020_3000_0000, .mmag ⟨⟨6, true⟩, 10, 10, 0, 0, 2, 0, 6, 0⟩),
      (0x0E6A_8C11_8800_0000, .mmas ⟨⟨4, true⟩, 10, 10, 0, 12, 1, 6, 1, 0⟩),
      (0x12C4_0C61_0000_0000, .mgth ⟨⟨5, true⟩, 1, 0, 0, 12, 6, 4, 0, 0⟩),
      (0x17C0_0000_0800_0007, .aclr ⟨⟨7, true⟩, 0, 0, 0, 0, 0, 0, 1, 7⟩),
      (0x1BC0_0500_0000_0000, .aspl ⟨⟨7, true⟩, 0, 0, 0, 5, 0, 0, 0, 0⟩),
      (0x1DC0_0400_0000_0000, .afil ⟨⟨3, true⟩, 0, 0, 0, 4, 0, 0, 0, 0⟩),
      (0x21C0_0000_0000_0000, .asw ⟨⟨3, true⟩, 0, 0, 0, 0, 0, 0, 0, 0⟩),
      (0x27AF_CF41_A100_2000, .mdrn ⟨⟨7, false⟩, 11, 15, 0, 15, 4, 6, 4, 16785408⟩),
      (0x291D_C505_6200_0000, .prja ⟨⟨2, false⟩, 7, 7, 0, 5, 0, 21, 4, 33554432⟩),
      (0x2DC0_1000_0000_0000, .mwait ⟨⟨3, true⟩, 0, 0, 1, 0, 0, 0, 0, 0⟩)
    ] : List (BitVec 64 × Instr)).all fun p => decide ((decodeM p.1).toOption = some p.2)) = true := by
  decide +kernel

theorem test_decode_scale_0 :
    (([
      (0x09C0_0002, .klds ⟨⟨1, true⟩, 8, 0, 2⟩), (0x1285_0004, .ksts ⟨⟨2, true⟩, 0, 10, 4⟩),
      (0x1988_0003, .kldc ⟨⟨1, true⟩, 1, 0, 3⟩), (0x21D9_0002, .kmov ⟨⟨1, true⟩, 11, 2, 2⟩),
      (0x2B98_0002, .kauto ⟨⟨3, true⟩, 3, 0, 2⟩), (0x3A80_0004, .kufc ⟨⟨2, true⟩, 0, 0, 4⟩),
      (0x42C8_604D, .itlvl ⟨⟨2, true⟩, 9, 0, 24653⟩), (0x4BA8_0000, .itrst ⟨⟨3, true⟩, 5, 0, 0⟩),
      (0x54D8_0000, .itrev ⟨⟨4, true⟩, 11, 0, 0⟩), (0x5EE8_0000, .itstep ⟨⟨6, true⟩, 13, 0, 0⟩),
      (0x6783_0000, .kseed ⟨⟨7, true⟩, 0, 6, 0⟩)
    ] : List (BitVec 32 × Instr)).all fun p => decide ((decodeK p.1).toOption = some p.2)) = true := by
  decide +kernel

theorem test_decode_feed_0 :
    (([
      (0x04C0_C020_0000_0000, .copy .ca ⟨⟨1, true⟩, 0, 3, 0, 137438953472⟩),
      (0x08C1_C020_0000_0000, .cprf .cb ⟨⟨1, true⟩, 0, 7, 0, 137438953472⟩),
      (0x0C8A_4020_0000_0000, .cwb .ca ⟨⟨1, false⟩, 2, 9, 0, 137438953472⟩),
      (0x11C0_0C88_C000_0000, .sbind .cb ⟨⟨3, true⟩, 0, 0, 50, 37580963840⟩),
      (0x17C0_0000_0000_0003, .sadv .ca ⟨⟨7, true⟩, 0, 0, 0, 3⟩), (0x1B40_0000_0000_0006, .swtf .cb ⟨⟨6, true⟩, 0, 0, 0, 6⟩),
      (0x1EC0_0000_0000_0006, .swte .ca ⟨⟨5, true⟩, 0, 0, 0, 6⟩), (0x2350_0000_0000_0000, .mcast .cb ⟨⟨6, true⟩, 4, 0, 0, 0⟩),
      (0x27C0_FF20_0000_0000, .csend .ca ⟨⟨7, true⟩, 0, 3, 252, 137438953472⟩),
      (0x28C8_0C50_0000_0000, .crecv .cb ⟨⟨1, true⟩, 2, 0, 49, 68719476736⟩),
      (0x2F4A_0020_0000_0000, .chks .ca ⟨⟨6, true⟩, 2, 8, 0, 137438953472⟩),
      (0x3140_0000_0000_0001, .cwait .cb ⟨⟨2, true⟩, 0, 0, 0, 1⟩)
    ] : List (BitVec 64 × Instr)).all fun p => decide ((decodeC (if slotOf p.2 = some 6 then .cb else .ca) p.1).toOption = some p.2)) = true := by
  decide +kernel

theorem test_decode_feed_1 :
    (([
      (0x3758_0000_0000_0002, .carm .ca ⟨⟨6, true⟩, 6, 0, 0, 2⟩),
      (0x3AC1_0020_0000_0000, .cstat .cb ⟨⟨5, true⟩, 0, 4, 0, 137438953472⟩),
      (0x3ED0_0000_0000_0000, .sclose .ca ⟨⟨5, true⟩, 4, 0, 0, 0⟩),
      (0x4244_0020_0000_0000, .cdesc .cb ⟨⟨4, true⟩, 1, 0, 0, 137438953472⟩)
    ] : List (BitVec 64 × Instr)).all fun p => decide ((decodeC (if slotOf p.2 = some 6 then .cb else .ca) p.1).toOption = some p.2)) = true := by
  decide +kernel

/-! ## Words that the spec writes out (its tables of encodings) -/

theorem test_worked_scalar_0 :
    (([
      (0x0203_0880, .add ⟨⟨0, false⟩, 3, 1, 2, 0⟩), (0x04A4_2980, .sub ⟨⟨2, true⟩, 4, 5, 6, 0⟩),
      (0x3007_3FFD, .addi ⟨⟨0, false⟩, 7, 7, 2045⟩), (0x4209_1234, .lih32 ⟨⟨0, false⟩, 9, 4660⟩),
      (0x4803_0884, .cmp ⟨⟨0, false⟩, 3, 1, 2, 4⟩), (0x4A11_2064, .cmpi ⟨⟨0, false⟩, 17, 4, 100⟩),
      (0x605F_FFFA, .br ⟨⟨1, false⟩, 2097146⟩), (0x840A_10C6, .ldm ⟨⟨0, false⟩, 10, 2, 3, 6⟩),
      (0x860A_10C2, .stm ⟨⟨0, false⟩, 10, 2, 3, 2⟩), (0x8805_424B, .amo ⟨⟨0, false⟩, 5, 8, 9, 11⟩),
      (0xB803_3003, .xsv ⟨⟨0, false⟩, 3, 6, 0, 3⟩), (0xF004_0008, .csrr ⟨⟨0, false⟩, 4, 0, 8⟩),
      (0xF400_002A, .trap ⟨⟨0, false⟩, 0, 42⟩), (0xB806_780F, .xsv ⟨⟨0, false⟩, 6, 15, 0, 15⟩),
      (0x681F_FFCA, .loop ⟨⟨0, false⟩, 2097098⟩), (0x4414_0080, .lih48 ⟨⟨0, false⟩, 20, 128⟩),
      (0x0217_A580, .add ⟨⟨0, false⟩, 23, 20, 22, 0⟩), (0xBC01_8801, .itset ⟨⟨0, false⟩, 1, 17, 0, 1⟩),
      (0xF214_001A, .csrw ⟨⟨0, false⟩, 20, 0, 26⟩), (0xA215_0800, .hview ⟨⟨0, false⟩, 21, 1, 0, 0⟩),
      (0x320C_5807, .andi ⟨⟨0, false⟩, 12, 11, 7⟩), (0xB803_6000, .xsv ⟨⟨0, false⟩, 3, 12, 0, 0⟩),
      (0xB814_D000, .xsv ⟨⟨0, false⟩, 20, 26, 0, 0⟩), (0x300B_5801, .addi ⟨⟨0, false⟩, 11, 11, 1⟩),
      (0x681F_FFF0, .loop ⟨⟨0, false⟩, 2097136⟩), (0xA410_1B40, .rcast ⟨⟨0, false⟩, 16, 3, 13, 0⟩),
      (0xD800_0004, .fence ⟨⟨0, false⟩, 0, 0, 0, 4⟩), (0xD800_000C, .fence ⟨⟨0, false⟩, 0, 0, 0, 12⟩),
      (0xD800_0014, .fence ⟨⟨0, false⟩, 0, 0, 0, 20⟩), (0xD800_000B, .fence ⟨⟨0, false⟩, 0, 0, 0, 11⟩)
    ] : List (BitVec 32 × Instr)).all fun p => decide ((decodeS p.1).toOption = some p.2)) = true := by
  decide +kernel

theorem test_worked_scalar_1 :
    (([
      (0xD840_0011, .fence ⟨⟨1, false⟩, 0, 0, 0, 17⟩), (0xDA00_0004, .xfence ⟨⟨0, false⟩, 0, 0, 0, 4⟩),
      (0xDA00_0003, .xfence ⟨⟨0, false⟩, 0, 0, 0, 3⟩), (0xC000_0003, .gjoin ⟨⟨0, false⟩, 0, 0, 0, 3⟩),
      (0xC200_0011, .gleave ⟨⟨0, false⟩, 0, 0, 0, 17⟩), (0xC400_0003, .sync ⟨⟨0, false⟩, 0, 0, 0, 3⟩),
      (0xC600_2800, .fuse ⟨⟨0, false⟩, 0, 5, 0, 0⟩), (0xC800_3000, .decpl ⟨⟨0, false⟩, 0, 6, 0, 0⟩),
      (0xCA00_0000, .rejoin ⟨0, false⟩), (0xCC00_2001, .wstep ⟨⟨0, false⟩, 0, 4, 0, 1⟩),
      (0xD005_1901, .evadd ⟨⟨0, false⟩, 5, 3, 4, 1⟩), (0xD206_19C1, .evarm ⟨⟨0, false⟩, 6, 3, 7, 1⟩),
      (0xD200_1806, .evarmDis ⟨⟨0, false⟩, 0, 3, 0, 6⟩), (0xD400_1A00, .evwait ⟨⟨0, false⟩, 0, 3, 8, 0⟩),
      (0xD609_1800, .evrd ⟨⟨0, false⟩, 9, 3, 0, 0⟩), (0x3A0B_2806, .shri ⟨⟨0, false⟩, 11, 5, 6⟩),
      (0x4014_FFFF, .lih16 ⟨⟨0, false⟩, 20, 65535⟩), (0x4A01_5803, .cmpi ⟨⟨0, false⟩, 1, 11, 3⟩),
      (0x6040_004C, .br ⟨⟨1, false⟩, 76⟩), (0xC000_0005, .gjoin ⟨⟨0, false⟩, 0, 0, 0, 5⟩),
      (0xD000_A540, .evadd ⟨⟨0, false⟩, 0, 20, 21, 0⟩), (0xD400_A580, .evwait ⟨⟨0, false⟩, 0, 20, 22, 0⟩),
      (0xA217_1600, .hview ⟨⟨0, false⟩, 23, 2, 24, 0⟩), (0x840D_B846, .ldm ⟨⟨0, false⟩, 13, 23, 1, 6⟩),
      (0x840C_B80E, .ldm ⟨⟨0, false⟩, 12, 23, 0, 14⟩), (0x520D_A807, .sel ⟨⟨0, false⟩, 13, 21, 0, 7⟩),
      (0x0611_6B80, .mul ⟨⟨0, false⟩, 17, 13, 14, 0⟩), (0x8A13_0B03, .sacc ⟨⟨0, false⟩, 19, 1, 12, 3⟩),
      (0x681F_FFEC, .loop ⟨⟨0, false⟩, 2097132⟩), (0xA41C_0E40, .rcast ⟨⟨0, false⟩, 28, 1, 25, 0⟩)
    ] : List (BitVec 32 × Instr)).all fun p => decide ((decodeS p.1).toOption = some p.2)) = true := by
  decide +kernel

theorem test_worked_scalar_2 :
    (([
      (0xAA1E_0800, .hgen ⟨⟨0, false⟩, 30, 1, 0, 0⟩), (0x860C_B802, .stm ⟨⟨0, false⟩, 12, 23, 0, 2⟩),
      (0xC000_0002, .gjoin ⟨⟨0, false⟩, 0, 0, 0, 2⟩), (0xC400_0002, .sync ⟨⟨0, false⟩, 0, 0, 0, 2⟩),
      (0x4A09_2800, .cmpi ⟨⟨0, false⟩, 9, 5, 0⟩), (0x520F_7341, .sel ⟨⟨0, false⟩, 15, 14, 13, 1⟩),
      (0x8011_C803, .ldl ⟨⟨0, false⟩, 17, 25, 0, 3⟩), (0x8611_4803, .stm ⟨⟨0, false⟩, 17, 9, 0, 3⟩),
      (0x020D_6300, .add ⟨⟨0, false⟩, 13, 12, 12, 0⟩), (0x020E_6300, .add ⟨⟨0, false⟩, 14, 12, 12, 0⟩),
      (0xF001_0010, .csrr ⟨⟨0, false⟩, 1, 0, 16⟩), (0x4A01_080B, .cmpi ⟨⟨0, false⟩, 1, 1, 11⟩),
      (0xF640_0001, .eret ⟨⟨1, false⟩, 0, 0, 0, 1⟩), (0x6C00_0000, .exit ⟨0, false⟩),
      (0xAA09_4800, .hgen ⟨⟨0, false⟩, 9, 9, 0, 0⟩), (0xA20D_4AC0, .hview ⟨⟨0, false⟩, 13, 9, 11, 0⟩),
      (0xB00E_4B40, .taglk ⟨⟨0, false⟩, 14, 9, 13, 0⟩), (0x380F_6834, .shli ⟨⟨0, false⟩, 15, 13, 52⟩),
      (0x4A19_7000, .cmpi ⟨⟨0, false⟩, 25, 14, 0⟩), (0x6040_0021, .br ⟨⟨1, false⟩, 33⟩),
      (0x6400_004A, .call ⟨⟨0, false⟩, 74⟩), (0x861B_6802, .stm ⟨⟨0, false⟩, 27, 13, 0, 2⟩),
      (0xD000_E740, .evadd ⟨⟨0, false⟩, 0, 28, 29, 0⟩), (0xD400_E740, .evwait ⟨⟨0, false⟩, 0, 28, 29, 0⟩),
      (0x840C_680E, .ldm ⟨⟨0, false⟩, 12, 13, 0, 14⟩), (0x520C_6787, .sel ⟨⟨0, false⟩, 12, 12, 30, 7⟩),
      (0x800C_9006, .ldl ⟨⟨0, false⟩, 12, 18, 0, 6⟩)
    ] : List (BitVec 32 × Instr)).all fun p => decide ((decodeS p.1).toOption = some p.2)) = true := by
  decide +kernel

theorem test_worked_vector_0 :
    (([
      (0x0109_C001_2300_0000, .vadd .va ⟨⟨0, false⟩, 2, 7, 0, 0, 0, 1, 2, 3, 0, 0, 0, 0⟩),
      (0x3049_E684_5000_0001, .vcvt .vb ⟨⟨2, false⟩, 2, 7, 9, 5, 0, 4, 5, 0, 0, 0, 0, 1⟩),
      (0x7006_4006_0000_0C00, .vld .va ⟨⟨0, false⟩, 1, 9, 0, 0, 0, 6, 0, 0, 0, 0, 0, 3072⟩),
      (0x6009_C007_8000_0001, .vexp2 .va ⟨⟨0, false⟩, 2, 7, 0, 0, 0, 7, 8, 0, 0, 0, 0, 1⟩),
      (0x5100_C005_4020_0020, .vscan .va ⟨⟨0, false⟩, 0, 3, 0, 0, 0, 5, 4, 0, 2, 0, 0, 32⟩),
      (0x7008_C002_0000_1000, .vld .va ⟨⟨0, false⟩, 2, 3, 0, 0, 0, 2, 0, 0, 0, 0, 0, 4096⟩),
      (0x5108_C005_4000_0002, .vscan .va ⟨⟨0, false⟩, 2, 3, 0, 0, 0, 5, 4, 0, 0, 0, 0, 2⟩),
      (0x4308_C007_3600_000A, .vshfl .va ⟨⟨0, false⟩, 2, 3, 0, 0, 0, 7, 3, 6, 0, 0, 0, 10⟩),
      (0x4208_C000_7500_0000, .vperm .va ⟨⟨0, false⟩, 2, 3, 0, 0, 0, 0, 7, 5, 0, 0, 0, 0⟩),
      (0x2601_0001_4000_0002, .vmcnt .va ⟨⟨0, false⟩, 0, 4, 0, 0, 0, 1, 4, 0, 0, 0, 0, 2⟩),
      (0x7006_4012_0000_1000, .vld .va ⟨⟨0, false⟩, 1, 9, 0, 0, 1, 2, 0, 0, 0, 0, 0, 4096⟩),
      (0x7506_4290_2300_0407, .vamo .va ⟨⟨0, false⟩, 1, 9, 0, 5, 1, 0, 2, 3, 0, 0, 0, 1031⟩),
      (0x7506_4010_2000_0807, .vamo .vb ⟨⟨0, false⟩, 1, 9, 0, 0, 1, 0, 2, 0, 0, 0, 0, 2055⟩),
      (0x7406_4010_2500_0C00, .vacc .va ⟨⟨0, false⟩, 1, 9, 0, 0, 1, 0, 2, 5, 0, 0, 0, 3072⟩)
    ] : List (BitVec 64 × Instr)).all fun p => decide ((decodeV (if slotOf p.2 = some 2 then .vb else .va) p.1).toOption = some p.2)) = true := by
  decide +kernel

theorem test_worked_matrix_0 :
    (([
      (0x1400_0000_0000_0103, .aclr ⟨⟨0, false⟩, 0, 0, 0, 0, 0, 0, 0, 259⟩),
      (0x0426_4120_6000_0000, .mma ⟨⟨0, false⟩, 9, 9, 0, 1, 2, 1, 4, 0⟩),
      (0x241C_0040_8000_8000, .mdrn ⟨⟨0, false⟩, 7, 0, 0, 0, 4, 2, 0, 32768⟩),
      (0x241C_0230_5280_0000, .mdrn ⟨⟨0, false⟩, 7, 0, 0, 2, 3, 1, 2, 41943040⟩),
      (0x281C_1240_5000_0000, .prja ⟨⟨0, false⟩, 7, 0, 1, 2, 4, 1, 2, 0⟩),
      (0x0400_0124_2000_0000, .mma ⟨⟨0, false⟩, 0, 0, 0, 1, 2, 16, 4, 0⟩),
      (0x240C_0030_0000_0000, .mdrn ⟨⟨0, false⟩, 3, 0, 0, 0, 3, 0, 0, 0⟩),
      (0x2C00_0000_0800_0000, .mwait ⟨⟨0, false⟩, 0, 0, 0, 0, 0, 0, 1, 0⟩),
      (0x1400_0000_0000_0206, .aclr ⟨⟨0, false⟩, 0, 0, 0, 0, 0, 0, 0, 518⟩),
      (0x2424_0311_1290_0000, .mdrn ⟨⟨0, false⟩, 9, 0, 0, 3, 1, 4, 2, 42991616⟩),
      (0x1400_1000_0000_0208, .aclr ⟨⟨0, false⟩, 0, 0, 1, 0, 0, 0, 0, 520⟩),
      (0x241C_1041_0000_0000, .mdrn ⟨⟨0, false⟩, 7, 0, 1, 0, 4, 4, 0, 0⟩),
      (0x281C_0341_1290_0000, .prja ⟨⟨0, false⟩, 7, 0, 0, 3, 4, 4, 2, 42991616⟩)
    ] : List (BitVec 64 × Instr)).all fun p => decide ((decodeM p.1).toOption = some p.2)) = true := by
  decide +kernel

theorem test_worked_scale_0 :
    (([
      (0x0810_0005, .klds ⟨⟨0, false⟩, 2, 0, 5⟩), (0x2818_30A6, .kauto ⟨⟨0, false⟩, 3, 0, 12454⟩),
      (0x5020_0000, .itrev ⟨⟨0, false⟩, 4, 0, 0⟩), (0x0828_0009, .klds ⟨⟨0, false⟩, 5, 0, 9⟩)
    ] : List (BitVec 32 × Instr)).all fun p => decide ((decodeK p.1).toOption = some p.2)) = true := by
  decide +kernel

theorem test_worked_feed_0 :
    (([
      (0x0408_0000_0000_0000, .copy .ca ⟨⟨0, false⟩, 2, 0, 0, 0⟩),
      (0x0800_C020_0000_0001, .cprf .ca ⟨⟨0, false⟩, 0, 3, 0, 137438953473⟩),
      (0x1000_0004_6000_0000, .sbind .cb ⟨⟨0, false⟩, 0, 0, 0, 18790481920⟩),
      (0x1800_0004_0000_0004, .swtf .ca ⟨⟨0, false⟩, 0, 0, 0, 17179869188⟩),
      (0x2010_0000_0000_0000, .mcast .ca ⟨⟨0, false⟩, 4, 0, 0, 0⟩),
      (0x2400_0140_0000_0000, .csend .ca ⟨⟨0, false⟩, 0, 0, 5, 0⟩),
      (0x3000_0000_0000_0003, .cwait .cb ⟨⟨0, false⟩, 0, 0, 0, 3⟩),
      (0x2808_0247_0000_0000, .crecv .cb ⟨⟨0, false⟩, 2, 0, 9, 30064771072⟩),
      (0x2CC0_4020_0000_0000, .chks .ca ⟨⟨1, true⟩, 0, 1, 0, 137438953472⟩),
      (0x30C0_8020_4000_0000, .cwait .ca ⟨⟨1, true⟩, 0, 2, 0, 138512695296⟩),
      (0x4000_C020_0000_0000, .cdesc .ca ⟨⟨0, false⟩, 0, 3, 0, 137438953472⟩),
      (0x0800_4020_0000_0001, .cprf .ca ⟨⟨0, false⟩, 0, 1, 0, 137438953473⟩),
      (0x3000_8020_4000_0000, .cwait .ca ⟨⟨0, false⟩, 0, 2, 0, 138512695296⟩),
      (0x4000_C020_0000_0000, .cdesc .ca ⟨⟨0, false⟩, 0, 3, 0, 137438953472⟩)
    ] : List (BitVec 64 × Instr)).all fun p => decide ((decodeC (if slotOf p.2 = some 6 then .cb else .ca) p.1).toOption = some p.2)) = true := by
  decide +kernel

/-- Header words written out (R161). -/
theorem test_worked_headers :
    (([
      (0x3081_8103, ⟨3, 0, false, false, true, 3, 2, 3⟩), (0x3200_0003, ⟨3, 0, true, false, false, 0, 0, 3⟩),
      (0x3200_0009, ⟨3, 0, true, false, false, 0, 0, 9⟩), (0x0201_0000, ⟨0, 0, true, false, false, 2, 0, 0⟩),
      (0x2200_0011, ⟨2, 0, true, false, false, 0, 0, 17⟩), (0x2200_0008, ⟨2, 0, true, false, false, 0, 0, 8⟩),
      (0x5200_0007, ⟨5, 0, true, false, false, 0, 0, 7⟩), (0x4200_0006, ⟨4, 0, true, false, false, 0, 0, 6⟩),
      (0x1400_0001, ⟨1, 1, false, false, false, 0, 0, 1⟩), (0x1200_0001, ⟨1, 0, true, false, false, 0, 0, 1⟩),
      (0x2200_0020, ⟨2, 0, true, false, false, 0, 0, 32⟩), (0x0281_8000, ⟨0, 0, true, false, true, 3, 0, 0⟩),
      (0x0200_8000, ⟨0, 0, true, false, false, 1, 0, 0⟩), (0x0201_8000, ⟨0, 0, true, false, false, 3, 0, 0⟩)
    ] : List (BitVec 32 × Header)).all fun p => decide (header p.1 = p.2 ∧ encodeHeader p.2 = p.1)) = true := by
  decide +kernel

/-- An all-zero slot word is a NOP, and a word with an unassigned opcode is rejected (R183 to R188). -/
theorem test_nop_unassigned :
    [(decodeS 0).toOption, (decodeV .va 0).toOption, (decodeM 0).toOption, (decodeK 0).toOption, (decodeC .cb 0).toOption]
        = [some .nop, some (.vnop .va), some .mnop, some .knop, some (.cnop .cb)]
      ∧ ([decodeS 0xFE00_0000, decodeV .vb 0xFF00_0000_0000_0000, decodeM 0xFC00_0000_0000_0000, decodeK 0xF800_0000,
        decodeC .ca 0xFC00_0000_0000_0000].all fun r => r.toOption.isNone) = true := by
  decide +kernel

/-- Every tile opcode decodes by the low byte of `CTL`, and the first unassigned one does not (R99, R100, R105). -/
theorem test_tile_opcodes :
    (let t (n : Nat) : Tile := ⟨BitVec.ofNat 64 n, 0, 0, 0, 0, 0, 0, 0⟩
     (List.range 17).all (fun n => decide (decodeTile (t n) = some ([.tnop, .tmm, .tmmg, .tconv, .tmap, .tred, .tscan, .tcopy, .tcast,
       .tprj, .tprja, .tcol, .tfill, .tevt, .twait, .tchk, .tstep].getD n Instr.tnop (t n)))) && (decodeTile (t 17)).isNone
       && (decodeTile (t 0xFF)).isNone) = true := by
  decide +kernel

/-! ## Ill-formed terms: one for each check of `WellFormed`, refused by it -/

theorem test_ill_formed_scalar_0 :
    (([
      .add ⟨⟨5, true⟩, 4, 13, 27, 63⟩, .clz ⟨⟨5, true⟩, 19, 20, 31, 0⟩, .clz ⟨⟨5, true⟩, 19, 20, 0, 63⟩,
      .sext ⟨⟨6, true⟩, 8, 4, 31, 1⟩, .sext ⟨⟨6, true⟩, 8, 4, 0, 63⟩, .shli ⟨⟨6, true⟩, 9, 5, 2047⟩,
      .cmp ⟨⟨7, true⟩, 31, 2, 30, 5⟩, .cmp ⟨⟨7, true⟩, 4, 2, 30, 63⟩, .pand ⟨⟨2, true⟩, 31, 6, 7, 3⟩,
      .pand ⟨⟨2, true⟩, 5, 31, 7, 3⟩, .pand ⟨⟨2, true⟩, 5, 6, 31, 3⟩, .pand ⟨⟨2, true⟩, 5, 6, 7, 63⟩,
      .sel ⟨⟨2, true⟩, 1, 4, 11, 63⟩, .pmov ⟨⟨4, true⟩, 31, 3, 0, 4⟩, .pmov ⟨⟨4, true⟩, 2, 31, 0, 4⟩,
      .pmov ⟨⟨4, true⟩, 2, 3, 31, 4⟩, .pmov ⟨⟨4, true⟩, 2, 3, 0, 63⟩, .pmovToS ⟨⟨1, true⟩, 2, 31, 0, 1⟩,
      .pmovToS ⟨⟨1, true⟩, 2, 0, 31, 1⟩, .pmovToS ⟨⟨1, true⟩, 2, 0, 0, 63⟩, .pmovFromS ⟨⟨1, true⟩, 31, 23, 0, 2⟩,
      .pmovFromS ⟨⟨1, true⟩, 0, 23, 31, 2⟩, .pmovFromS ⟨⟨1, true⟩, 0, 23, 0, 63⟩, .jmp ⟨⟨3, true⟩, 31, 2, 0, 1⟩,
      .jmp ⟨⟨3, true⟩, 0, 2, 31, 1⟩, .jmp ⟨⟨3, true⟩, 0, 2, 0, 63⟩, .rbset ⟨⟨5, true⟩, 31, 0, 8⟩,
      .rbset ⟨⟨5, true⟩, 0, 31, 8⟩, .rbset ⟨⟨5, true⟩, 0, 0, 2047⟩, .ldl ⟨⟨2, true⟩, 30, 21, 21, 63⟩,
      .stl ⟨⟨1, true⟩, 29, 19, 8, 63⟩, .amo ⟨⟨3, true⟩, 28, 26, 8, 63⟩, .sacc ⟨⟨2, true⟩, 12, 21, 15, 63⟩,
      .hld ⟨⟨7, true⟩, 23, 31, 31, 4⟩, .hld ⟨⟨7, true⟩, 23, 31, 0, 63⟩, .rcast ⟨⟨3, true⟩, 27, 12, 31, 0⟩,
      .rcast ⟨⟨3, true⟩, 27, 12, 23, 63⟩, .hold ⟨⟨4, true⟩, 31, 18, 0, 0⟩, .hold ⟨⟨4, true⟩, 0, 18, 31, 0⟩,
      .hold ⟨⟨4, true⟩, 0, 18, 0, 63⟩
    ] : List Instr).all fun i => !i.wellFormed) = true := by
  decide +kernel

theorem test_ill_formed_scalar_1 :
    (([
      .tagclr ⟨⟨3, true⟩, 10, 31, 0, 0⟩, .tagclr ⟨⟨3, true⟩, 10, 0, 31, 0⟩, .tagclr ⟨⟨3, true⟩, 10, 0, 0, 63⟩,
      .tagclrK ⟨⟨1, true⟩, 31, 11, 12, 1⟩, .tagclrK ⟨⟨1, true⟩, 0, 11, 12, 63⟩, .xsv ⟨⟨5, true⟩, 10, 27, 31, 4⟩,
      .xsv ⟨⟨5, true⟩, 10, 27, 0, 63⟩, .itset ⟨⟨6, true⟩, 31, 12, 0, 4⟩, .itset ⟨⟨6, true⟩, 2, 12, 31, 4⟩,
      .itset ⟨⟨6, true⟩, 2, 12, 0, 63⟩, .itget ⟨⟨7, true⟩, 24, 31, 0, 3⟩, .itget ⟨⟨7, true⟩, 24, 13, 31, 3⟩,
      .itget ⟨⟨7, true⟩, 24, 13, 0, 63⟩, .gjoin ⟨⟨5, true⟩, 31, 0, 0, 4⟩, .gjoin ⟨⟨5, true⟩, 0, 31, 0, 4⟩,
      .gjoin ⟨⟨5, true⟩, 0, 0, 31, 4⟩, .gjoin ⟨⟨5, true⟩, 0, 0, 0, 63⟩, .evadd ⟨⟨2, true⟩, 12, 1, 22, 63⟩,
      .evarmDis ⟨⟨3, true⟩, 31, 6, 0, 4⟩, .evarmDis ⟨⟨3, true⟩, 0, 6, 31, 4⟩, .evarmDis ⟨⟨3, true⟩, 0, 6, 0, 63⟩,
      .evwait ⟨⟨2, true⟩, 31, 20, 5, 0⟩, .evwait ⟨⟨2, true⟩, 0, 20, 5, 63⟩, .fence ⟨⟨5, true⟩, 31, 0, 0, 3⟩,
      .fence ⟨⟨5, true⟩, 0, 31, 0, 3⟩, .fence ⟨⟨5, true⟩, 0, 0, 31, 3⟩, .fence ⟨⟨5, true⟩, 0, 0, 0, 63⟩,
      .xfence ⟨⟨6, true⟩, 31, 0, 0, 3⟩, .xfence ⟨⟨6, true⟩, 0, 31, 0, 3⟩, .xfence ⟨⟨6, true⟩, 0, 0, 31, 3⟩,
      .xfence ⟨⟨6, true⟩, 0, 0, 0, 63⟩, .csrr ⟨⟨3, true⟩, 11, 15, 61⟩, .csrr ⟨⟨3, true⟩, 11, 0, 4095⟩,
      .trap ⟨⟨7, true⟩, 31, 16384⟩, .eret ⟨⟨1, true⟩, 31, 0, 0, 1⟩, .eret ⟨⟨1, true⟩, 0, 31, 0, 1⟩,
      .eret ⟨⟨1, true⟩, 0, 0, 31, 1⟩, .eret ⟨⟨1, true⟩, 0, 0, 0, 63⟩
    ] : List Instr).all fun i => !i.wellFormed) = true := by
  decide +kernel

theorem test_ill_formed_vector_0 :
    (([
      .vadd .va ⟨⟨5, true⟩, 3, 1, 0, 0, 1, 15, 5, 11, 0, 0, 0, 0⟩,
      .vadd .va ⟨⟨5, true⟩, 2, 15, 0, 0, 1, 15, 5, 11, 0, 0, 0, 0⟩,
      .vadd .va ⟨⟨5, true⟩, 2, 1, 15, 0, 1, 15, 5, 11, 0, 0, 0, 0⟩,
      .vadd .va ⟨⟨5, true⟩, 2, 1, 0, 7, 1, 15, 5, 11, 0, 0, 0, 0⟩,
      .vadd .va ⟨⟨5, true⟩, 2, 1, 0, 0, 1, 15, 5, 11, 15, 0, 0, 0⟩,
      .vadd .va ⟨⟨5, true⟩, 2, 1, 0, 0, 1, 15, 5, 11, 0, 7, 0, 0⟩,
      .vadd .va ⟨⟨5, true⟩, 2, 1, 0, 0, 1, 15, 5, 11, 0, 0, 7, 0⟩,
      .vadd .va ⟨⟨5, true⟩, 2, 1, 0, 0, 1, 15, 5, 11, 0, 0, 0, 16383⟩,
      .vfma .va ⟨⟨6, true⟩, 3, 9, 0, 6, 2, 3, 10, 0, 0, 0, 0, 0⟩, .vfma .va ⟨⟨6, true⟩, 2, 15, 0, 6, 2, 3, 10, 0, 0, 0, 0, 0⟩,
      .vfma .va ⟨⟨6, true⟩, 2, 9, 15, 6, 2, 3, 10, 0, 0, 0, 0, 0⟩, .vfma .va ⟨⟨6, true⟩, 2, 9, 0, 7, 2, 3, 10, 0, 0, 0, 0, 0⟩,
      .vfma .va ⟨⟨6, true⟩, 2, 9, 0, 6, 2, 3, 10, 0, 0, 7, 0, 0⟩, .vfma .va ⟨⟨6, true⟩, 2, 9, 0, 6, 2, 3, 10, 0, 0, 0, 7, 0⟩,
      .vfma .va ⟨⟨6, true⟩, 2, 9, 0, 6, 2, 3, 10, 0, 0, 0, 0, 16383⟩,
      .vmin .va ⟨⟨3, true⟩, 3, 9, 0, 0, 7, 6, 6, 0, 0, 2, 0, 0⟩, .vmin .va ⟨⟨3, true⟩, 2, 15, 0, 0, 7, 6, 6, 0, 0, 2, 0, 0⟩,
      .vmin .va ⟨⟨3, true⟩, 2, 9, 15, 0, 7, 6, 6, 0, 0, 2, 0, 0⟩, .vmin .va ⟨⟨3, true⟩, 2, 9, 0, 7, 7, 6, 6, 0, 0, 2, 0, 0⟩,
      .vmin .va ⟨⟨3, true⟩, 2, 9, 0, 0, 7, 6, 6, 15, 0, 2, 0, 0⟩, .vmin .va ⟨⟨3, true⟩, 2, 9, 0, 0, 7, 6, 6, 0, 15, 2, 0, 0⟩,
      .vmin .va ⟨⟨3, true⟩, 2, 9, 0, 0, 7, 6, 6, 0, 0, 7, 0, 0⟩,
      .vmin .va ⟨⟨3, true⟩, 2, 9, 0, 0, 7, 6, 6, 0, 0, 2, 0, 16383⟩,
      .vabs .va ⟨⟨2, true⟩, 3, 8, 0, 0, 1, 1, 1, 0, 0, 0, 0, 0⟩, .vabs .va ⟨⟨2, true⟩, 2, 15, 0, 0, 1, 1, 1, 0, 0, 0, 0, 0⟩,
      .vabs .va ⟨⟨2, true⟩, 2, 8, 15, 0, 1, 1, 1, 0, 0, 0, 0, 0⟩, .vabs .va ⟨⟨2, true⟩, 2, 8, 0, 7, 1, 1, 1, 0, 0, 0, 0, 0⟩,
      .vabs .va ⟨⟨2, true⟩, 2, 8, 0, 0, 1, 1, 1, 15, 0, 0, 0, 0⟩, .vabs .va ⟨⟨2, true⟩, 2, 8, 0, 0, 1, 1, 1, 0, 15, 0, 0, 0⟩,
      .vabs .va ⟨⟨2, true⟩, 2, 8, 0, 0, 1, 1, 1, 0, 0, 7, 0, 0⟩, .vabs .va ⟨⟨2, true⟩, 2, 8, 0, 0, 1, 1, 1, 0, 0, 0, 7, 0⟩,
      .vabs .va ⟨⟨2, true⟩, 2, 8, 0, 0, 1, 1, 1, 0, 0, 0, 0, 16383⟩,
      .vdiv .va ⟨⟨4, true⟩, 3, 6, 0, 0, 6, 4, 14, 0, 0, 2, 0, 0⟩, .vdiv .va ⟨⟨4, true⟩, 1, 15, 0, 0, 6, 4, 14, 0, 0, 2, 0, 0⟩,
      .vdiv .va ⟨⟨4, true⟩, 1, 6, 15, 0, 6, 4, 14, 0, 0, 2, 0, 0⟩, .vdiv .va ⟨⟨4, true⟩, 1, 6, 0, 7, 6, 4, 14, 0, 0, 2, 0, 0⟩,
      .vdiv .va ⟨⟨4, true⟩, 1, 6, 0, 0, 6, 4, 14, 15, 0, 2, 0, 0⟩,
      .vdiv .va ⟨⟨4, true⟩, 1, 6, 0, 0, 6, 4, 14, 0, 15, 2, 0, 0⟩, .vdiv .va ⟨⟨4, true⟩, 1, 6, 0, 0, 6, 4, 14, 0, 0, 7, 0, 0⟩,
      .vdiv .va ⟨⟨4, true⟩, 1, 6, 0, 0, 6, 4, 14, 0, 0, 2, 0, 16383⟩
    ] : List Instr).all fun i => !i.wellFormed) = true := by
  decide +kernel

theorem test_ill_formed_vector_1 :
    (([
      .vmulh .va ⟨⟨1, true⟩, 3, 4, 0, 0, 5, 8, 6, 9, 0, 0, 0, 0⟩, .vmulh .va ⟨⟨1, true⟩, 1, 15, 0, 0, 5, 8, 6, 9, 0, 0, 0, 0⟩,
      .vmulh .va ⟨⟨1, true⟩, 1, 4, 15, 0, 5, 8, 6, 9, 0, 0, 0, 0⟩, .vmulh .va ⟨⟨1, true⟩, 1, 4, 0, 7, 5, 8, 6, 9, 0, 0, 0, 0⟩,
      .vmulh .va ⟨⟨1, true⟩, 1, 4, 0, 0, 5, 8, 6, 9, 15, 0, 0, 0⟩, .vmulh .va ⟨⟨1, true⟩, 1, 4, 0, 0, 5, 8, 6, 9, 0, 7, 0, 0⟩,
      .vmulh .va ⟨⟨1, true⟩, 1, 4, 0, 0, 5, 8, 6, 9, 0, 0, 7, 0⟩,
      .vmulh .va ⟨⟨1, true⟩, 1, 4, 0, 0, 5, 8, 6, 9, 0, 0, 0, 16383⟩,
      .vand .va ⟨⟨1, true⟩, 3, 1, 0, 0, 4, 4, 6, 11, 0, 0, 0, 0⟩, .vand .va ⟨⟨1, true⟩, 2, 15, 0, 0, 4, 4, 6, 11, 0, 0, 0, 0⟩,
      .vand .va ⟨⟨1, true⟩, 2, 1, 15, 0, 4, 4, 6, 11, 0, 0, 0, 0⟩, .vand .va ⟨⟨1, true⟩, 2, 1, 0, 7, 4, 4, 6, 11, 0, 0, 0, 0⟩,
      .vand .va ⟨⟨1, true⟩, 2, 1, 0, 0, 4, 4, 6, 11, 15, 0, 0, 0⟩, .vand .va ⟨⟨1, true⟩, 2, 1, 0, 0, 4, 4, 6, 11, 0, 7, 0, 0⟩,
      .vand .va ⟨⟨1, true⟩, 2, 1, 0, 0, 4, 4, 6, 11, 0, 0, 7, 0⟩,
      .vand .va ⟨⟨1, true⟩, 2, 1, 0, 0, 4, 4, 6, 11, 0, 0, 0, 16383⟩,
      .vnot .va ⟨⟨6, true⟩, 3, 1, 0, 0, 1, 1, 1, 0, 0, 0, 0, 0⟩, .vnot .va ⟨⟨6, true⟩, 2, 15, 0, 0, 1, 1, 1, 0, 0, 0, 0, 0⟩,
      .vnot .va ⟨⟨6, true⟩, 2, 1, 15, 0, 1, 1, 1, 0, 0, 0, 0, 0⟩, .vnot .va ⟨⟨6, true⟩, 2, 1, 0, 7, 1, 1, 1, 0, 0, 0, 0, 0⟩,
      .vnot .va ⟨⟨6, true⟩, 2, 1, 0, 0, 1, 1, 1, 15, 0, 0, 0, 0⟩, .vnot .va ⟨⟨6, true⟩, 2, 1, 0, 0, 1, 1, 1, 0, 15, 0, 0, 0⟩,
      .vnot .va ⟨⟨6, true⟩, 2, 1, 0, 0, 1, 1, 1, 0, 0, 7, 0, 0⟩, .vnot .va ⟨⟨6, true⟩, 2, 1, 0, 0, 1, 1, 1, 0, 0, 0, 7, 0⟩,
      .vnot .va ⟨⟨6, true⟩, 2, 1, 0, 0, 1, 1, 1, 0, 0, 0, 0, 16383⟩,
      .vshl .va ⟨⟨5, true⟩, 3, 4, 0, 0, 6, 5, 12, 0, 0, 0, 0, 64⟩,
      .vshl .va ⟨⟨5, true⟩, 1, 15, 0, 0, 6, 5, 12, 0, 0, 0, 0, 64⟩,
      .vshl .va ⟨⟨5, true⟩, 1, 4, 15, 0, 6, 5, 12, 0, 0, 0, 0, 64⟩,
      .vshl .va ⟨⟨5, true⟩, 1, 4, 0, 7, 6, 5, 12, 0, 0, 0, 0, 64⟩,
      .vshl .va ⟨⟨5, true⟩, 1, 4, 0, 0, 6, 5, 12, 15, 0, 0, 0, 64⟩,
      .vshl .va ⟨⟨5, true⟩, 1, 4, 0, 0, 6, 5, 12, 0, 15, 0, 0, 64⟩,
      .vshl .va ⟨⟨5, true⟩, 1, 4, 0, 0, 6, 5, 12, 0, 0, 7, 0, 64⟩,
      .vshl .va ⟨⟨5, true⟩, 1, 4, 0, 0, 6, 5, 12, 0, 0, 0, 7, 64⟩,
      .vshl .va ⟨⟨5, true⟩, 1, 4, 0, 0, 6, 5, 12, 0, 0, 0, 0, 16383⟩,
      .vpopc .va ⟨⟨3, true⟩, 3, 1, 0, 0, 4, 3, 4, 0, 0, 0, 0, 0⟩, .vpopc .va ⟨⟨3, true⟩, 2, 15, 0, 0, 4, 3, 4, 0, 0, 0, 0, 0⟩,
      .vpopc .va ⟨⟨3, true⟩, 2, 1, 15, 0, 4, 3, 4, 0, 0, 0, 0, 0⟩, .vpopc .va ⟨⟨3, true⟩, 2, 1, 0, 7, 4, 3, 4, 0, 0, 0, 0, 0⟩,
      .vpopc .va ⟨⟨3, true⟩, 2, 1, 0, 0, 4, 3, 4, 15, 0, 0, 0, 0⟩, .vpopc .va ⟨⟨3, true⟩, 2, 1, 0, 0, 4, 3, 4, 0, 15, 0, 0, 0⟩
    ] : List Instr).all fun i => !i.wellFormed) = true := by
  decide +kernel

theorem test_ill_formed_vector_2 :
    (([
      .vpopc .va ⟨⟨3, true⟩, 2, 1, 0, 0, 4, 3, 4, 0, 0, 7, 0, 0⟩, .vpopc .va ⟨⟨3, true⟩, 2, 1, 0, 0, 4, 3, 4, 0, 0, 0, 7, 0⟩,
      .vpopc .va ⟨⟨3, true⟩, 2, 1, 0, 0, 4, 3, 4, 0, 0, 0, 0, 16383⟩,
      .vcmp .va ⟨⟨3, true⟩, 3, 8, 0, 0, 4, 2, 2, 8, 0, 0, 0, 4⟩, .vcmp .va ⟨⟨3, true⟩, 2, 15, 0, 0, 4, 2, 2, 8, 0, 0, 0, 4⟩,
      .vcmp .va ⟨⟨3, true⟩, 2, 8, 15, 0, 4, 2, 2, 8, 0, 0, 0, 4⟩, .vcmp .va ⟨⟨3, true⟩, 2, 8, 0, 7, 4, 2, 2, 8, 0, 0, 0, 4⟩,
      .vcmp .va ⟨⟨3, true⟩, 2, 8, 0, 0, 4, 15, 2, 8, 0, 0, 0, 4⟩, .vcmp .va ⟨⟨3, true⟩, 2, 8, 0, 0, 4, 2, 2, 8, 15, 0, 0, 4⟩,
      .vcmp .va ⟨⟨3, true⟩, 2, 8, 0, 0, 4, 2, 2, 8, 0, 7, 0, 4⟩, .vcmp .va ⟨⟨3, true⟩, 2, 8, 0, 0, 4, 2, 2, 8, 0, 0, 7, 4⟩,
      .vcmp .va ⟨⟨3, true⟩, 2, 8, 0, 0, 4, 2, 2, 8, 0, 0, 0, 16383⟩,
      .vsel .va ⟨⟨3, true⟩, 3, 8, 0, 0, 4, 10, 11, 0, 0, 0, 0, 0⟩,
      .vsel .va ⟨⟨3, true⟩, 2, 15, 0, 0, 4, 10, 11, 0, 0, 0, 0, 0⟩,
      .vsel .va ⟨⟨3, true⟩, 2, 8, 15, 0, 4, 10, 11, 0, 0, 0, 0, 0⟩,
      .vsel .va ⟨⟨3, true⟩, 2, 8, 0, 7, 4, 10, 11, 0, 0, 0, 0, 0⟩,
      .vsel .va ⟨⟨3, true⟩, 2, 8, 0, 0, 4, 10, 11, 0, 15, 0, 0, 0⟩,
      .vsel .va ⟨⟨3, true⟩, 2, 8, 0, 0, 4, 10, 11, 0, 0, 7, 0, 0⟩,
      .vsel .va ⟨⟨3, true⟩, 2, 8, 0, 0, 4, 10, 11, 0, 0, 0, 7, 0⟩,
      .vsel .va ⟨⟨3, true⟩, 2, 8, 0, 0, 4, 10, 11, 0, 0, 0, 0, 16383⟩,
      .vmand .va ⟨⟨4, true⟩, 3, 0, 0, 0, 0, 1, 2, 0, 0, 0, 0, 0⟩, .vmand .va ⟨⟨4, true⟩, 2, 15, 0, 0, 0, 1, 2, 0, 0, 0, 0, 0⟩,
      .vmand .va ⟨⟨4, true⟩, 2, 0, 15, 0, 0, 1, 2, 0, 0, 0, 0, 0⟩, .vmand .va ⟨⟨4, true⟩, 2, 0, 0, 7, 0, 1, 2, 0, 0, 0, 0, 0⟩,
      .vmand .va ⟨⟨4, true⟩, 2, 0, 0, 0, 7, 1, 2, 0, 0, 0, 0, 0⟩, .vmand .va ⟨⟨4, true⟩, 2, 0, 0, 0, 0, 15, 2, 0, 0, 0, 0, 0⟩,
      .vmand .va ⟨⟨4, true⟩, 2, 0, 0, 0, 0, 1, 15, 0, 0, 0, 0, 0⟩,
      .vmand .va ⟨⟨4, true⟩, 2, 0, 0, 0, 0, 1, 2, 15, 0, 0, 0, 0⟩,
      .vmand .va ⟨⟨4, true⟩, 2, 0, 0, 0, 0, 1, 2, 0, 15, 0, 0, 0⟩, .vmand .va ⟨⟨4, true⟩, 2, 0, 0, 0, 0, 1, 2, 0, 0, 7, 0, 0⟩,
      .vmand .va ⟨⟨4, true⟩, 2, 0, 0, 0, 0, 1, 2, 0, 0, 0, 7, 0⟩,
      .vmand .va ⟨⟨4, true⟩, 2, 0, 0, 0, 0, 1, 2, 0, 0, 0, 0, 16383⟩,
      .vmnot .va ⟨⟨7, true⟩, 3, 0, 0, 0, 0, 3, 0, 0, 0, 0, 0, 0⟩, .vmnot .va ⟨⟨7, true⟩, 2, 15, 0, 0, 0, 3, 0, 0, 0, 0, 0, 0⟩,
      .vmnot .va ⟨⟨7, true⟩, 2, 0, 15, 0, 0, 3, 0, 0, 0, 0, 0, 0⟩, .vmnot .va ⟨⟨7, true⟩, 2, 0, 0, 7, 0, 3, 0, 0, 0, 0, 0, 0⟩,
      .vmnot .va ⟨⟨7, true⟩, 2, 0, 0, 0, 7, 3, 0, 0, 0, 0, 0, 0⟩, .vmnot .va ⟨⟨7, true⟩, 2, 0, 0, 0, 0, 15, 0, 0, 0, 0, 0, 0⟩,
      .vmnot .va ⟨⟨7, true⟩, 2, 0, 0, 0, 0, 3, 15, 0, 0, 0, 0, 0⟩, .vmnot .va ⟨⟨7, true⟩, 2, 0, 0, 0, 0, 3, 0, 15, 0, 0, 0, 0⟩
    ] : List Instr).all fun i => !i.wellFormed) = true := by
  decide +kernel

theorem test_ill_formed_vector_3 :
    (([
      .vmnot .va ⟨⟨7, true⟩, 2, 0, 0, 0, 0, 3, 0, 0, 15, 0, 0, 0⟩, .vmnot .va ⟨⟨7, true⟩, 2, 0, 0, 0, 0, 3, 0, 0, 0, 7, 0, 0⟩,
      .vmnot .va ⟨⟨7, true⟩, 2, 0, 0, 0, 0, 3, 0, 0, 0, 0, 7, 0⟩,
      .vmnot .va ⟨⟨7, true⟩, 2, 0, 0, 0, 0, 3, 0, 0, 0, 0, 0, 16383⟩,
      .vmcnt .va ⟨⟨1, true⟩, 3, 4, 0, 0, 0, 6, 4, 0, 0, 0, 0, 2⟩, .vmcnt .va ⟨⟨1, true⟩, 0, 15, 0, 0, 0, 6, 4, 0, 0, 0, 0, 2⟩,
      .vmcnt .va ⟨⟨1, true⟩, 0, 4, 15, 0, 0, 6, 4, 0, 0, 0, 0, 2⟩, .vmcnt .va ⟨⟨1, true⟩, 0, 4, 0, 7, 0, 6, 4, 0, 0, 0, 0, 2⟩,
      .vmcnt .va ⟨⟨1, true⟩, 0, 4, 0, 0, 7, 6, 4, 0, 0, 0, 0, 2⟩, .vmcnt .va ⟨⟨1, true⟩, 0, 4, 0, 0, 0, 15, 4, 0, 0, 0, 0, 2⟩,
      .vmcnt .va ⟨⟨1, true⟩, 0, 4, 0, 0, 0, 6, 4, 15, 0, 0, 0, 2⟩,
      .vmcnt .va ⟨⟨1, true⟩, 0, 4, 0, 0, 0, 6, 4, 0, 15, 0, 0, 2⟩, .vmcnt .va ⟨⟨1, true⟩, 0, 4, 0, 0, 0, 6, 4, 0, 0, 7, 0, 2⟩,
      .vmcnt .va ⟨⟨1, true⟩, 0, 4, 0, 0, 0, 6, 4, 0, 0, 0, 7, 2⟩,
      .vmcnt .va ⟨⟨1, true⟩, 0, 4, 0, 0, 0, 6, 4, 0, 0, 0, 0, 16383⟩,
      .vcvt .va ⟨⟨3, true⟩, 3, 10, 6, 0, 3, 11, 10, 0, 0, 0, 0, 4⟩,
      .vcvt .va ⟨⟨3, true⟩, 1, 15, 6, 0, 3, 11, 10, 0, 0, 0, 0, 4⟩,
      .vcvt .va ⟨⟨3, true⟩, 1, 10, 15, 0, 3, 11, 10, 0, 0, 0, 0, 4⟩,
      .vcvt .va ⟨⟨3, true⟩, 1, 10, 6, 7, 3, 11, 10, 0, 0, 0, 0, 4⟩,
      .vcvt .va ⟨⟨3, true⟩, 1, 10, 6, 0, 3, 11, 10, 15, 0, 0, 0, 4⟩,
      .vcvt .va ⟨⟨3, true⟩, 1, 10, 6, 0, 3, 11, 10, 0, 15, 0, 0, 4⟩,
      .vcvt .va ⟨⟨3, true⟩, 1, 10, 6, 0, 3, 11, 10, 0, 0, 7, 0, 4⟩,
      .vcvt .va ⟨⟨3, true⟩, 1, 10, 6, 0, 3, 11, 10, 0, 0, 0, 7, 4⟩,
      .vcvt .va ⟨⟨3, true⟩, 1, 10, 6, 0, 3, 11, 10, 0, 0, 0, 0, 16383⟩,
      .vqnt .va ⟨⟨7, false⟩, 3, 7, 12, 6, 4, 13, 14, 8, 12, 0, 0, 4⟩,
      .vqnt .va ⟨⟨7, false⟩, 0, 15, 12, 6, 4, 13, 14, 8, 12, 0, 0, 4⟩,
      .vqnt .va ⟨⟨7, false⟩, 0, 7, 15, 6, 4, 13, 14, 8, 12, 0, 0, 4⟩,
      .vqnt .va ⟨⟨7, false⟩, 0, 7, 12, 7, 4, 13, 14, 8, 12, 0, 0, 4⟩,
      .vqnt .va ⟨⟨7, false⟩, 0, 7, 12, 6, 4, 13, 14, 8, 12, 7, 0, 4⟩,
      .vqnt .va ⟨⟨7, false⟩, 0, 7, 12, 6, 4, 13, 14, 8, 12, 0, 7, 4⟩,
      .vqnt .va ⟨⟨7, false⟩, 0, 7, 12, 6, 4, 13, 14, 8, 12, 0, 0, 16383⟩,
      .vdqn .va ⟨⟨5, true⟩, 3, 0, 9, 0, 6, 8, 4, 9, 0, 0, 0, 4⟩, .vdqn .va ⟨⟨5, true⟩, 2, 15, 9, 0, 6, 8, 4, 9, 0, 0, 0, 4⟩,
      .vdqn .va ⟨⟨5, true⟩, 2, 0, 15, 0, 6, 8, 4, 9, 0, 0, 0, 4⟩, .vdqn .va ⟨⟨5, true⟩, 2, 0, 9, 7, 6, 8, 4, 9, 0, 0, 0, 4⟩,
      .vdqn .va ⟨⟨5, true⟩, 2, 0, 9, 0, 6, 8, 4, 9, 15, 0, 0, 4⟩, .vdqn .va ⟨⟨5, true⟩, 2, 0, 9, 0, 6, 8, 4, 9, 0, 7, 0, 4⟩,
      .vdqn .va ⟨⟨5, true⟩, 2, 0, 9, 0, 6, 8, 4, 9, 0, 0, 7, 4⟩,
      .vdqn .va ⟨⟨5, true⟩, 2, 0, 9, 0, 6, 8, 4, 9, 0, 0, 0, 16383⟩,
      .vcbx .va ⟨⟨3, false⟩, 3, 12, 7, 0, 2, 0, 0, 4, 0, 0, 0, 3⟩
    ] : List Instr).all fun i => !i.wellFormed) = true := by
  decide +kernel

theorem test_ill_formed_vector_4 :
    (([
      .vcbx .va ⟨⟨3, false⟩, 0, 15, 7, 0, 2, 0, 0, 4, 0, 0, 0, 3⟩,
      .vcbx .va ⟨⟨3, false⟩, 0, 12, 15, 0, 2, 0, 0, 4, 0, 0, 0, 3⟩,
      .vcbx .va ⟨⟨3, false⟩, 0, 12, 7, 7, 2, 0, 0, 4, 0, 0, 0, 3⟩,
      .vcbx .va ⟨⟨3, false⟩, 0, 12, 7, 0, 2, 0, 0, 4, 15, 0, 0, 3⟩,
      .vcbx .va ⟨⟨3, false⟩, 0, 12, 7, 0, 2, 0, 0, 4, 0, 7, 0, 3⟩,
      .vcbx .va ⟨⟨3, false⟩, 0, 12, 7, 0, 2, 0, 0, 4, 0, 0, 7, 3⟩,
      .vcbx .va ⟨⟨3, false⟩, 0, 12, 7, 0, 2, 0, 0, 4, 0, 0, 0, 16383⟩,
      .vcbq .va ⟨⟨2, true⟩, 3, 9, 12, 3, 5, 6, 7, 8, 0, 0, 0, 1⟩, .vcbq .va ⟨⟨2, true⟩, 2, 15, 12, 3, 5, 6, 7, 8, 0, 0, 0, 1⟩,
      .vcbq .va ⟨⟨2, true⟩, 2, 9, 15, 3, 5, 6, 7, 8, 0, 0, 0, 1⟩, .vcbq .va ⟨⟨2, true⟩, 2, 9, 12, 7, 5, 6, 7, 8, 0, 0, 0, 1⟩,
      .vcbq .va ⟨⟨2, true⟩, 2, 9, 12, 3, 5, 6, 7, 8, 15, 0, 0, 1⟩, .vcbq .va ⟨⟨2, true⟩, 2, 9, 12, 3, 5, 6, 7, 8, 0, 7, 0, 1⟩,
      .vcbq .va ⟨⟨2, true⟩, 2, 9, 12, 3, 5, 6, 7, 8, 0, 0, 7, 1⟩,
      .vcbq .va ⟨⟨2, true⟩, 2, 9, 12, 3, 5, 6, 7, 8, 0, 0, 0, 16383⟩,
      .vamax .va ⟨⟨4, true⟩, 3, 8, 0, 0, 1, 5, 14, 0, 0, 0, 0, 128⟩,
      .vamax .va ⟨⟨4, true⟩, 2, 15, 0, 0, 1, 5, 14, 0, 0, 0, 0, 128⟩,
      .vamax .va ⟨⟨4, true⟩, 2, 8, 15, 0, 1, 5, 14, 0, 0, 0, 0, 128⟩,
      .vamax .va ⟨⟨4, true⟩, 2, 8, 0, 7, 1, 5, 14, 0, 0, 0, 0, 128⟩,
      .vamax .va ⟨⟨4, true⟩, 2, 8, 0, 0, 1, 5, 14, 15, 0, 0, 0, 128⟩,
      .vamax .va ⟨⟨4, true⟩, 2, 8, 0, 0, 1, 5, 14, 0, 15, 0, 0, 128⟩,
      .vamax .va ⟨⟨4, true⟩, 2, 8, 0, 0, 1, 5, 14, 0, 0, 7, 0, 128⟩,
      .vamax .va ⟨⟨4, true⟩, 2, 8, 0, 0, 1, 5, 14, 0, 0, 0, 7, 128⟩,
      .vamax .va ⟨⟨4, true⟩, 2, 8, 0, 0, 1, 5, 14, 0, 0, 0, 0, 16383⟩,
      .vmov .va ⟨⟨3, true⟩, 3, 3, 0, 0, 6, 1, 1, 0, 0, 0, 0, 0⟩, .vmov .va ⟨⟨3, true⟩, 1, 15, 0, 0, 6, 1, 1, 0, 0, 0, 0, 0⟩,
      .vmov .va ⟨⟨3, true⟩, 1, 3, 15, 0, 6, 1, 1, 0, 0, 0, 0, 0⟩, .vmov .va ⟨⟨3, true⟩, 1, 3, 0, 7, 6, 1, 1, 0, 0, 0, 0, 0⟩,
      .vmov .va ⟨⟨3, true⟩, 1, 3, 0, 0, 6, 1, 1, 15, 0, 0, 0, 0⟩, .vmov .va ⟨⟨3, true⟩, 1, 3, 0, 0, 6, 1, 1, 0, 15, 0, 0, 0⟩,
      .vmov .va ⟨⟨3, true⟩, 1, 3, 0, 0, 6, 1, 1, 0, 0, 7, 0, 0⟩, .vmov .va ⟨⟨3, true⟩, 1, 3, 0, 0, 6, 1, 1, 0, 0, 0, 7, 0⟩,
      .vmov .va ⟨⟨3, true⟩, 1, 3, 0, 0, 6, 1, 1, 0, 0, 0, 0, 16383⟩,
      .vbcst .va ⟨⟨1, true⟩, 3, 2, 0, 0, 5, 5, 3, 0, 0, 0, 0, 1⟩, .vbcst .va ⟨⟨1, true⟩, 2, 15, 0, 0, 5, 5, 3, 0, 0, 0, 0, 1⟩,
      .vbcst .va ⟨⟨1, true⟩, 2, 2, 15, 0, 5, 5, 3, 0, 0, 0, 0, 1⟩, .vbcst .va ⟨⟨1, true⟩, 2, 2, 0, 7, 5, 5, 3, 0, 0, 0, 0, 1⟩,
      .vbcst .va ⟨⟨1, true⟩, 2, 2, 0, 0, 5, 5, 3, 15, 0, 0, 0, 1⟩,
      .vbcst .va ⟨⟨1, true⟩, 2, 2, 0, 0, 5, 5, 3, 0, 15, 0, 0, 1⟩, .vbcst .va ⟨⟨1, true⟩, 2, 2, 0, 0, 5, 5, 3, 0, 0, 7, 0, 1⟩
    ] : List Instr).all fun i => !i.wellFormed) = true := by
  decide +kernel

theorem test_ill_formed_vector_5 :
    (([
      .vbcst .va ⟨⟨1, true⟩, 2, 2, 0, 0, 5, 5, 3, 0, 0, 0, 7, 1⟩,
      .vbcst .va ⟨⟨1, true⟩, 2, 2, 0, 0, 5, 5, 3, 0, 0, 0, 0, 16383⟩,
      .vperm .va ⟨⟨2, true⟩, 3, 14, 0, 0, 7, 9, 11, 13, 13, 0, 0, 0⟩,
      .vperm .va ⟨⟨2, true⟩, 2, 15, 0, 0, 7, 9, 11, 13, 13, 0, 0, 0⟩,
      .vperm .va ⟨⟨2, true⟩, 2, 14, 15, 0, 7, 9, 11, 13, 13, 0, 0, 0⟩,
      .vperm .va ⟨⟨2, true⟩, 2, 14, 0, 7, 7, 9, 11, 13, 13, 0, 0, 0⟩,
      .vperm .va ⟨⟨2, true⟩, 2, 14, 0, 0, 7, 9, 11, 13, 13, 7, 0, 0⟩,
      .vperm .va ⟨⟨2, true⟩, 2, 14, 0, 0, 7, 9, 11, 13, 13, 0, 7, 0⟩,
      .vperm .va ⟨⟨2, true⟩, 2, 14, 0, 0, 7, 9, 11, 13, 13, 0, 0, 16383⟩,
      .vshfl .va ⟨⟨6, true⟩, 3, 4, 0, 0, 5, 15, 5, 11, 0, 0, 0, 5⟩,
      .vshfl .va ⟨⟨6, true⟩, 2, 15, 0, 0, 5, 15, 5, 11, 0, 0, 0, 5⟩,
      .vshfl .va ⟨⟨6, true⟩, 2, 4, 15, 0, 5, 15, 5, 11, 0, 0, 0, 5⟩,
      .vshfl .va ⟨⟨6, true⟩, 2, 4, 0, 7, 5, 15, 5, 11, 0, 0, 0, 5⟩,
      .vshfl .va ⟨⟨6, true⟩, 2, 4, 0, 0, 5, 15, 5, 11, 15, 0, 0, 5⟩,
      .vshfl .va ⟨⟨6, true⟩, 2, 4, 0, 0, 5, 15, 5, 11, 0, 7, 0, 5⟩,
      .vshfl .va ⟨⟨6, true⟩, 2, 4, 0, 0, 5, 15, 5, 11, 0, 0, 7, 5⟩,
      .vshfl .va ⟨⟨6, true⟩, 2, 4, 0, 0, 5, 15, 5, 11, 0, 0, 0, 16383⟩,
      .viota .va ⟨⟨4, true⟩, 3, 3, 0, 0, 4, 14, 0, 0, 0, 0, 0, 4⟩,
      .viota .va ⟨⟨4, true⟩, 2, 15, 0, 0, 4, 14, 0, 0, 0, 0, 0, 4⟩,
      .viota .va ⟨⟨4, true⟩, 2, 3, 15, 0, 4, 14, 0, 0, 0, 0, 0, 4⟩,
      .viota .va ⟨⟨4, true⟩, 2, 3, 0, 7, 4, 14, 0, 0, 0, 0, 0, 4⟩,
      .viota .va ⟨⟨4, true⟩, 2, 3, 0, 0, 4, 14, 15, 0, 0, 0, 0, 4⟩,
      .viota .va ⟨⟨4, true⟩, 2, 3, 0, 0, 4, 14, 0, 15, 0, 0, 0, 4⟩,
      .viota .va ⟨⟨4, true⟩, 2, 3, 0, 0, 4, 14, 0, 0, 15, 0, 0, 4⟩,
      .viota .va ⟨⟨4, true⟩, 2, 3, 0, 0, 4, 14, 0, 0, 0, 7, 0, 4⟩,
      .viota .va ⟨⟨4, true⟩, 2, 3, 0, 0, 4, 14, 0, 0, 0, 0, 7, 4⟩, .vcmps .va ⟨⟨6, true⟩, 3, 5, 0, 0, 7, 5, 3, 0, 0, 0, 0, 0⟩,
      .vcmps .va ⟨⟨6, true⟩, 2, 15, 0, 0, 7, 5, 3, 0, 0, 0, 0, 0⟩,
      .vcmps .va ⟨⟨6, true⟩, 2, 5, 15, 0, 7, 5, 3, 0, 0, 0, 0, 0⟩, .vcmps .va ⟨⟨6, true⟩, 2, 5, 0, 7, 7, 5, 3, 0, 0, 0, 0, 0⟩,
      .vcmps .va ⟨⟨6, true⟩, 2, 5, 0, 0, 7, 5, 3, 15, 0, 0, 0, 0⟩,
      .vcmps .va ⟨⟨6, true⟩, 2, 5, 0, 0, 7, 5, 3, 0, 15, 0, 0, 0⟩, .vcmps .va ⟨⟨6, true⟩, 2, 5, 0, 0, 7, 5, 3, 0, 0, 7, 0, 0⟩,
      .vcmps .va ⟨⟨6, true⟩, 2, 5, 0, 0, 7, 5, 3, 0, 0, 0, 7, 0⟩,
      .vcmps .va ⟨⟨6, true⟩, 2, 5, 0, 0, 7, 5, 3, 0, 0, 0, 0, 16383⟩,
      .vexpd .va ⟨⟨6, true⟩, 3, 6, 0, 0, 3, 11, 7, 11, 0, 0, 0, 0⟩,
      .vexpd .va ⟨⟨6, true⟩, 2, 15, 0, 0, 3, 11, 7, 11, 0, 0, 0, 0⟩,
      .vexpd .va ⟨⟨6, true⟩, 2, 6, 15, 0, 3, 11, 7, 11, 0, 0, 0, 0⟩,
      .vexpd .va ⟨⟨6, true⟩, 2, 6, 0, 7, 3, 11, 7, 11, 0, 0, 0, 0⟩,
      .vexpd .va ⟨⟨6, true⟩, 2, 6, 0, 0, 3, 11, 7, 11, 15, 0, 0, 0⟩
    ] : List Instr).all fun i => !i.wellFormed) = true := by
  decide +kernel

theorem test_ill_formed_vector_6 :
    (([
      .vexpd .va ⟨⟨6, true⟩, 2, 6, 0, 0, 3, 11, 7, 11, 0, 7, 0, 0⟩,
      .vexpd .va ⟨⟨6, true⟩, 2, 6, 0, 0, 3, 11, 7, 11, 0, 0, 7, 0⟩,
      .vexpd .va ⟨⟨6, true⟩, 2, 6, 0, 0, 3, 11, 7, 11, 0, 0, 0, 16383⟩,
      .vred .va ⟨⟨1, true⟩, 3, 1, 0, 0, 7, 5, 5, 0, 0, 0, 0, 1⟩, .vred .va ⟨⟨1, true⟩, 2, 15, 0, 0, 7, 5, 5, 0, 0, 0, 0, 1⟩,
      .vred .va ⟨⟨1, true⟩, 2, 1, 15, 0, 7, 5, 5, 0, 0, 0, 0, 1⟩, .vred .va ⟨⟨1, true⟩, 2, 1, 0, 7, 7, 5, 5, 0, 0, 0, 0, 1⟩,
      .vred .va ⟨⟨1, true⟩, 2, 1, 0, 0, 7, 5, 5, 15, 0, 0, 0, 1⟩, .vred .va ⟨⟨1, true⟩, 2, 1, 0, 0, 7, 5, 5, 0, 15, 0, 0, 1⟩,
      .vred .va ⟨⟨1, true⟩, 2, 1, 0, 0, 7, 5, 5, 0, 0, 7, 0, 1⟩, .vred .va ⟨⟨1, true⟩, 2, 1, 0, 0, 7, 5, 5, 0, 0, 0, 7, 1⟩,
      .vred .va ⟨⟨1, true⟩, 2, 1, 0, 0, 7, 5, 5, 0, 0, 0, 0, 16383⟩,
      .vscan .va ⟨⟨3, true⟩, 3, 6, 0, 1, 4, 11, 9, 0, 0, 0, 0, 8⟩,
      .vscan .va ⟨⟨3, true⟩, 0, 15, 0, 1, 4, 11, 9, 0, 0, 0, 0, 8⟩,
      .vscan .va ⟨⟨3, true⟩, 0, 6, 15, 1, 4, 11, 9, 0, 0, 0, 0, 8⟩,
      .vscan .va ⟨⟨3, true⟩, 0, 6, 0, 7, 4, 11, 9, 0, 0, 0, 0, 8⟩,
      .vscan .va ⟨⟨3, true⟩, 0, 6, 0, 1, 4, 11, 9, 15, 0, 0, 0, 8⟩,
      .vscan .va ⟨⟨3, true⟩, 0, 6, 0, 1, 4, 11, 9, 0, 15, 0, 0, 8⟩,
      .vscan .va ⟨⟨3, true⟩, 0, 6, 0, 1, 4, 11, 9, 0, 0, 7, 0, 8⟩,
      .vscan .va ⟨⟨3, true⟩, 0, 6, 0, 1, 4, 11, 9, 0, 0, 0, 7, 8⟩,
      .vscan .va ⟨⟨3, true⟩, 0, 6, 0, 1, 4, 11, 9, 0, 0, 0, 0, 16383⟩,
      .vdot .va ⟨⟨2, true⟩, 3, 8, 7, 1, 5, 0, 0, 14, 1, 1, 3, 1⟩, .vdot .va ⟨⟨2, true⟩, 1, 15, 7, 1, 5, 0, 0, 14, 1, 1, 3, 1⟩,
      .vdot .va ⟨⟨2, true⟩, 1, 8, 15, 1, 5, 0, 0, 14, 1, 1, 3, 1⟩, .vdot .va ⟨⟨2, true⟩, 1, 8, 7, 7, 5, 0, 0, 14, 1, 1, 3, 1⟩,
      .vdot .va ⟨⟨2, true⟩, 1, 8, 7, 1, 5, 0, 15, 14, 1, 1, 3, 1⟩, .vdot .va ⟨⟨2, true⟩, 1, 8, 7, 1, 5, 0, 0, 14, 1, 7, 3, 1⟩,
      .vdot .va ⟨⟨2, true⟩, 1, 8, 7, 1, 5, 0, 0, 14, 1, 1, 3, 16383⟩,
      .vexp2 .va ⟨⟨4, true⟩, 3, 7, 0, 0, 4, 7, 8, 0, 0, 0, 0, 0⟩, .vexp2 .va ⟨⟨4, true⟩, 2, 15, 0, 0, 4, 7, 8, 0, 0, 0, 0, 0⟩,
      .vexp2 .va ⟨⟨4, true⟩, 2, 7, 15, 0, 4, 7, 8, 0, 0, 0, 0, 0⟩, .vexp2 .va ⟨⟨4, true⟩, 2, 7, 0, 7, 4, 7, 8, 0, 0, 0, 0, 0⟩,
      .vexp2 .va ⟨⟨4, true⟩, 2, 7, 0, 0, 4, 7, 8, 15, 0, 0, 0, 0⟩,
      .vexp2 .va ⟨⟨4, true⟩, 2, 7, 0, 0, 4, 7, 8, 0, 15, 0, 0, 0⟩, .vexp2 .va ⟨⟨4, true⟩, 2, 7, 0, 0, 4, 7, 8, 0, 0, 7, 0, 0⟩,
      .vexp2 .va ⟨⟨4, true⟩, 2, 7, 0, 0, 4, 7, 8, 0, 0, 0, 7, 0⟩,
      .vexp2 .va ⟨⟨4, true⟩, 2, 7, 0, 0, 4, 7, 8, 0, 0, 0, 0, 16383⟩,
      .vrsq .va ⟨⟨3, true⟩, 3, 7, 0, 0, 1, 8, 0, 0, 0, 1, 7, 0⟩, .vrsq .va ⟨⟨3, true⟩, 1, 15, 0, 0, 1, 8, 0, 0, 0, 1, 7, 0⟩,
      .vrsq .va ⟨⟨3, true⟩, 1, 7, 15, 0, 1, 8, 0, 0, 0, 1, 7, 0⟩
    ] : List Instr).all fun i => !i.wellFormed) = true := by
  decide +kernel

theorem test_ill_formed_vector_7 :
    (([
      .vrsq .va ⟨⟨3, true⟩, 1, 7, 0, 7, 1, 8, 0, 0, 0, 1, 7, 0⟩, .vrsq .va ⟨⟨3, true⟩, 1, 7, 0, 0, 1, 8, 15, 0, 0, 1, 7, 0⟩,
      .vrsq .va ⟨⟨3, true⟩, 1, 7, 0, 0, 1, 8, 0, 15, 0, 1, 7, 0⟩, .vrsq .va ⟨⟨3, true⟩, 1, 7, 0, 0, 1, 8, 0, 0, 15, 1, 7, 0⟩,
      .vrsq .va ⟨⟨3, true⟩, 1, 7, 0, 0, 1, 8, 0, 0, 0, 7, 7, 0⟩,
      .vrsq .va ⟨⟨3, true⟩, 1, 7, 0, 0, 1, 8, 0, 0, 0, 1, 7, 16383⟩,
      .vld .va ⟨⟨4, true⟩, 3, 6, 0, 0, 6, 5, 0, 0, 0, 0, 0, 2048⟩,
      .vld .va ⟨⟨4, true⟩, 1, 15, 0, 0, 6, 5, 0, 0, 0, 0, 0, 2048⟩,
      .vld .va ⟨⟨4, true⟩, 1, 6, 15, 0, 6, 5, 0, 0, 0, 0, 0, 2048⟩,
      .vld .va ⟨⟨4, true⟩, 1, 6, 0, 7, 6, 5, 0, 0, 0, 0, 0, 2048⟩,
      .vld .va ⟨⟨4, true⟩, 1, 6, 0, 0, 6, 5, 15, 0, 0, 0, 0, 2048⟩,
      .vld .va ⟨⟨4, true⟩, 1, 6, 0, 0, 6, 5, 0, 15, 0, 0, 0, 2048⟩,
      .vld .va ⟨⟨4, true⟩, 1, 6, 0, 0, 6, 5, 0, 0, 15, 0, 0, 2048⟩,
      .vld .va ⟨⟨4, true⟩, 1, 6, 0, 0, 6, 5, 0, 0, 0, 7, 0, 2048⟩,
      .vld .va ⟨⟨4, true⟩, 1, 6, 0, 0, 6, 5, 0, 0, 0, 0, 7, 2048⟩,
      .vld .va ⟨⟨4, true⟩, 1, 6, 0, 0, 6, 5, 0, 0, 0, 0, 0, 16383⟩,
      .vst .va ⟨⟨6, true⟩, 3, 12, 0, 0, 3, 0, 6, 0, 0, 0, 0, 4096⟩,
      .vst .va ⟨⟨6, true⟩, 1, 15, 0, 0, 3, 0, 6, 0, 0, 0, 0, 4096⟩,
      .vst .va ⟨⟨6, true⟩, 1, 12, 15, 0, 3, 0, 6, 0, 0, 0, 0, 4096⟩,
      .vst .va ⟨⟨6, true⟩, 1, 12, 0, 7, 3, 0, 6, 0, 0, 0, 0, 4096⟩,
      .vst .va ⟨⟨6, true⟩, 1, 12, 0, 0, 3, 15, 6, 0, 0, 0, 0, 4096⟩,
      .vst .va ⟨⟨6, true⟩, 1, 12, 0, 0, 3, 0, 6, 15, 0, 0, 0, 4096⟩,
      .vst .va ⟨⟨6, true⟩, 1, 12, 0, 0, 3, 0, 6, 0, 15, 0, 0, 4096⟩,
      .vst .va ⟨⟨6, true⟩, 1, 12, 0, 0, 3, 0, 6, 0, 0, 7, 0, 4096⟩,
      .vst .va ⟨⟨6, true⟩, 1, 12, 0, 0, 3, 0, 6, 0, 0, 0, 7, 4096⟩,
      .vst .va ⟨⟨6, true⟩, 1, 12, 0, 0, 3, 0, 6, 0, 0, 0, 0, 16383⟩,
      .vgth .va ⟨⟨4, true⟩, 3, 9, 0, 0, 4, 0, 0, 9, 0, 0, 0, 8192⟩,
      .vgth .va ⟨⟨4, true⟩, 1, 15, 0, 0, 4, 0, 0, 9, 0, 0, 0, 8192⟩,
      .vgth .va ⟨⟨4, true⟩, 1, 9, 15, 0, 4, 0, 0, 9, 0, 0, 0, 8192⟩,
      .vgth .va ⟨⟨4, true⟩, 1, 9, 0, 7, 4, 0, 0, 9, 0, 0, 0, 8192⟩,
      .vgth .va ⟨⟨4, true⟩, 1, 9, 0, 0, 4, 0, 15, 9, 0, 0, 0, 8192⟩,
      .vgth .va ⟨⟨4, true⟩, 1, 9, 0, 0, 4, 0, 0, 9, 15, 0, 0, 8192⟩,
      .vgth .va ⟨⟨4, true⟩, 1, 9, 0, 0, 4, 0, 0, 9, 0, 7, 0, 8192⟩,
      .vgth .va ⟨⟨4, true⟩, 1, 9, 0, 0, 4, 0, 0, 9, 0, 0, 7, 8192⟩,
      .vgth .va ⟨⟨4, true⟩, 1, 9, 0, 0, 4, 0, 0, 9, 0, 0, 0, 16383⟩,
      .vsct .va ⟨⟨5, true⟩, 3, 5, 4, 0, 5, 0, 6, 9, 0, 0, 0, 1024⟩,
      .vsct .va ⟨⟨5, true⟩, 0, 15, 4, 0, 5, 0, 6, 9, 0, 0, 0, 1024⟩,
      .vsct .va ⟨⟨5, true⟩, 0, 5, 15, 0, 5, 0, 6, 9, 0, 0, 0, 1024⟩,
      .vsct .va ⟨⟨5, true⟩, 0, 5, 4, 7, 5, 0, 6, 9, 0, 0, 0, 1024⟩,
      .vsct .va ⟨⟨5, true⟩, 0, 5, 4, 0, 5, 15, 6, 9, 0, 0, 0, 1024⟩
    ] : List Instr).all fun i => !i.wellFormed) = true := by
  decide +kernel

theorem test_ill_formed_vector_8 :
    (([
      .vsct .va ⟨⟨5, true⟩, 0, 5, 4, 0, 5, 0, 6, 9, 15, 0, 0, 1024⟩,
      .vsct .va ⟨⟨5, true⟩, 0, 5, 4, 0, 5, 0, 6, 9, 0, 7, 0, 1024⟩,
      .vsct .va ⟨⟨5, true⟩, 0, 5, 4, 0, 5, 0, 6, 9, 0, 0, 7, 1024⟩,
      .vsct .va ⟨⟨5, true⟩, 0, 5, 4, 0, 5, 0, 6, 9, 0, 0, 0, 16383⟩,
      .vacc .va ⟨⟨4, true⟩, 3, 2, 0, 0, 6, 0, 0, 3, 0, 1, 1, 4096⟩,
      .vacc .va ⟨⟨4, true⟩, 2, 15, 0, 0, 6, 0, 0, 3, 0, 1, 1, 4096⟩,
      .vacc .va ⟨⟨4, true⟩, 2, 2, 15, 0, 6, 0, 0, 3, 0, 1, 1, 4096⟩,
      .vacc .va ⟨⟨4, true⟩, 2, 2, 0, 7, 6, 0, 0, 3, 0, 1, 1, 4096⟩,
      .vacc .va ⟨⟨4, true⟩, 2, 2, 0, 0, 6, 15, 0, 3, 0, 1, 1, 4096⟩,
      .vacc .va ⟨⟨4, true⟩, 2, 2, 0, 0, 6, 0, 15, 3, 0, 1, 1, 4096⟩,
      .vacc .va ⟨⟨4, true⟩, 2, 2, 0, 0, 6, 0, 0, 3, 15, 1, 1, 4096⟩,
      .vacc .va ⟨⟨4, true⟩, 2, 2, 0, 0, 6, 0, 0, 3, 0, 7, 1, 4096⟩,
      .vacc .va ⟨⟨4, true⟩, 2, 2, 0, 0, 6, 0, 0, 3, 0, 1, 1, 16383⟩,
      .vamo .va ⟨⟨1, true⟩, 3, 4, 0, 0, 6, 9, 5, 0, 0, 0, 0, 8214⟩,
      .vamo .va ⟨⟨1, true⟩, 1, 15, 0, 0, 6, 9, 5, 0, 0, 0, 0, 8214⟩,
      .vamo .va ⟨⟨1, true⟩, 1, 4, 15, 0, 6, 9, 5, 0, 0, 0, 0, 8214⟩,
      .vamo .va ⟨⟨1, true⟩, 1, 4, 0, 7, 6, 9, 5, 0, 0, 0, 0, 8214⟩,
      .vamo .va ⟨⟨1, true⟩, 1, 4, 0, 0, 6, 9, 5, 15, 0, 0, 0, 8214⟩,
      .vamo .va ⟨⟨1, true⟩, 1, 4, 0, 0, 6, 9, 5, 0, 15, 0, 0, 8214⟩,
      .vamo .va ⟨⟨1, true⟩, 1, 4, 0, 0, 6, 9, 5, 0, 0, 7, 0, 8214⟩,
      .vamo .va ⟨⟨1, true⟩, 1, 4, 0, 0, 6, 9, 5, 0, 0, 0, 7, 8214⟩,
      .vamo .va ⟨⟨1, true⟩, 1, 4, 0, 0, 6, 9, 5, 0, 0, 0, 0, 16383⟩,
      .vapp .va ⟨⟨4, true⟩, 3, 1, 0, 0, 4, 0, 10, 7, 0, 0, 0, 0⟩, .vapp .va ⟨⟨4, true⟩, 2, 15, 0, 0, 4, 0, 10, 7, 0, 0, 0, 0⟩,
      .vapp .va ⟨⟨4, true⟩, 2, 1, 15, 0, 4, 0, 10, 7, 0, 0, 0, 0⟩, .vapp .va ⟨⟨4, true⟩, 2, 1, 0, 7, 4, 0, 10, 7, 0, 0, 0, 0⟩,
      .vapp .va ⟨⟨4, true⟩, 2, 1, 0, 0, 4, 15, 10, 7, 0, 0, 0, 0⟩,
      .vapp .va ⟨⟨4, true⟩, 2, 1, 0, 0, 4, 0, 10, 7, 15, 0, 0, 0⟩, .vapp .va ⟨⟨4, true⟩, 2, 1, 0, 0, 4, 0, 10, 7, 0, 7, 0, 0⟩,
      .vapp .va ⟨⟨4, true⟩, 2, 1, 0, 0, 4, 0, 10, 7, 0, 0, 7, 0⟩,
      .vapp .va ⟨⟨4, true⟩, 2, 1, 0, 0, 4, 0, 10, 7, 0, 0, 0, 16383⟩
    ] : List Instr).all fun i => !i.wellFormed) = true := by
  decide +kernel

theorem test_ill_formed_matrix_0 :
    (([
      .mma ⟨⟨2, true⟩, 15, 8, 1, 12, 0, 54, 3, 0⟩, .mma ⟨⟨2, true⟩, 9, 15, 1, 12, 0, 54, 3, 0⟩,
      .mma ⟨⟨2, true⟩, 9, 8, 3, 12, 0, 54, 3, 0⟩, .mma ⟨⟨2, true⟩, 9, 8, 1, 12, 0, 54, 3, 134217727⟩,
      .mma ⟨⟨2, true⟩, 9, 8, 1, 12, 0, 54, 3, 67108864⟩, .mmag ⟨⟨6, true⟩, 15, 10, 0, 0, 2, 0, 6, 0⟩,
      .mmag ⟨⟨6, true⟩, 10, 15, 0, 0, 2, 0, 6, 0⟩, .mmag ⟨⟨6, true⟩, 10, 10, 3, 0, 2, 0, 6, 0⟩,
      .mmag ⟨⟨6, true⟩, 10, 10, 0, 15, 2, 0, 6, 0⟩, .mmag ⟨⟨6, true⟩, 10, 10, 0, 0, 2, 0, 7, 0⟩,
      .mmag ⟨⟨6, true⟩, 10, 10, 0, 0, 2, 0, 6, 134217727⟩, .mmag ⟨⟨6, true⟩, 10, 10, 0, 0, 2, 0, 6, 67108864⟩,
      .mmas ⟨⟨4, true⟩, 15, 10, 0, 12, 1, 6, 1, 0⟩, .mmas ⟨⟨4, true⟩, 10, 15, 0, 12, 1, 6, 1, 0⟩,
      .mmas ⟨⟨4, true⟩, 10, 10, 3, 12, 1, 6, 1, 0⟩, .mmas ⟨⟨4, true⟩, 10, 10, 0, 12, 1, 6, 1, 134217727⟩,
      .mmas ⟨⟨4, true⟩, 10, 10, 0, 12, 1, 6, 1, 67108864⟩, .mgth ⟨⟨5, true⟩, 15, 0, 0, 12, 6, 4, 0, 0⟩,
      .mgth ⟨⟨5, true⟩, 1, 15, 0, 12, 6, 4, 0, 0⟩, .mgth ⟨⟨5, true⟩, 1, 0, 3, 12, 6, 4, 0, 0⟩,
      .mgth ⟨⟨5, true⟩, 1, 0, 0, 12, 6, 63, 0, 0⟩, .mgth ⟨⟨5, true⟩, 1, 0, 0, 12, 6, 4, 7, 0⟩,
      .mgth ⟨⟨5, true⟩, 1, 0, 0, 12, 6, 4, 0, 134217727⟩, .mgth ⟨⟨5, true⟩, 1, 0, 0, 12, 6, 4, 0, 1⟩,
      .aclr ⟨⟨7, true⟩, 15, 0, 0, 0, 0, 0, 1, 7⟩, .aclr ⟨⟨7, true⟩, 0, 15, 0, 0, 0, 0, 1, 7⟩,
      .aclr ⟨⟨7, true⟩, 0, 0, 3, 0, 0, 0, 1, 7⟩, .aclr ⟨⟨7, true⟩, 0, 0, 0, 15, 0, 0, 1, 7⟩,
      .aclr ⟨⟨7, true⟩, 0, 0, 0, 0, 15, 0, 1, 7⟩, .aclr ⟨⟨7, true⟩, 0, 0, 0, 0, 0, 63, 1, 7⟩,
      .aclr ⟨⟨7, true⟩, 0, 0, 0, 0, 0, 0, 7, 7⟩, .aclr ⟨⟨7, true⟩, 0, 0, 0, 0, 0, 0, 1, 134217727⟩,
      .aclr ⟨⟨7, true⟩, 0, 0, 0, 0, 0, 0, 1, 67108864⟩, .aspl ⟨⟨7, true⟩, 15, 0, 0, 5, 0, 0, 0, 0⟩,
      .aspl ⟨⟨7, true⟩, 0, 15, 0, 5, 0, 0, 0, 0⟩, .aspl ⟨⟨7, true⟩, 0, 0, 3, 5, 0, 0, 0, 0⟩,
      .aspl ⟨⟨7, true⟩, 0, 0, 0, 5, 15, 0, 0, 0⟩, .aspl ⟨⟨7, true⟩, 0, 0, 0, 5, 0, 63, 0, 0⟩,
      .aspl ⟨⟨7, true⟩, 0, 0, 0, 5, 0, 0, 7, 0⟩, .aspl ⟨⟨7, true⟩, 0, 0, 0, 5, 0, 0, 0, 134217727⟩
    ] : List Instr).all fun i => !i.wellFormed) = true := by
  decide +kernel

theorem test_ill_formed_matrix_1 :
    (([
      .aspl ⟨⟨7, true⟩, 0, 0, 0, 5, 0, 0, 0, 67108864⟩, .asw ⟨⟨3, true⟩, 15, 0, 0, 0, 0, 0, 0, 0⟩,
      .asw ⟨⟨3, true⟩, 0, 15, 0, 0, 0, 0, 0, 0⟩, .asw ⟨⟨3, true⟩, 0, 0, 3, 0, 0, 0, 0, 0⟩,
      .asw ⟨⟨3, true⟩, 0, 0, 0, 15, 0, 0, 0, 0⟩, .asw ⟨⟨3, true⟩, 0, 0, 0, 0, 15, 0, 0, 0⟩,
      .asw ⟨⟨3, true⟩, 0, 0, 0, 0, 0, 63, 0, 0⟩, .asw ⟨⟨3, true⟩, 0, 0, 0, 0, 0, 0, 7, 0⟩,
      .asw ⟨⟨3, true⟩, 0, 0, 0, 0, 0, 0, 0, 134217727⟩, .asw ⟨⟨3, true⟩, 0, 0, 0, 0, 0, 0, 0, 67108864⟩,
      .mdrn ⟨⟨7, false⟩, 15, 15, 0, 15, 4, 6, 4, 16785408⟩, .mdrn ⟨⟨7, false⟩, 11, 15, 3, 15, 4, 6, 4, 16785408⟩,
      .mdrn ⟨⟨7, false⟩, 11, 15, 0, 15, 4, 63, 4, 16785408⟩, .mdrn ⟨⟨7, false⟩, 11, 15, 0, 15, 4, 6, 7, 16785408⟩,
      .mdrn ⟨⟨7, false⟩, 11, 15, 0, 15, 4, 6, 4, 134217727⟩, .mdrn ⟨⟨7, false⟩, 11, 15, 0, 15, 4, 6, 4, 67108864⟩,
      .prja ⟨⟨2, false⟩, 15, 7, 0, 5, 0, 21, 4, 33554432⟩, .prja ⟨⟨2, false⟩, 7, 15, 0, 5, 0, 21, 4, 33554432⟩,
      .prja ⟨⟨2, false⟩, 7, 7, 3, 5, 0, 21, 4, 33554432⟩, .prja ⟨⟨2, false⟩, 7, 7, 0, 5, 0, 21, 7, 33554432⟩,
      .prja ⟨⟨2, false⟩, 7, 7, 0, 5, 0, 21, 4, 134217727⟩, .prja ⟨⟨2, false⟩, 7, 7, 0, 5, 0, 21, 4, 1⟩,
      .mwait ⟨⟨3, true⟩, 15, 0, 1, 0, 0, 0, 0, 0⟩, .mwait ⟨⟨3, true⟩, 0, 15, 1, 0, 0, 0, 0, 0⟩,
      .mwait ⟨⟨3, true⟩, 0, 0, 3, 0, 0, 0, 0, 0⟩, .mwait ⟨⟨3, true⟩, 0, 0, 1, 15, 0, 0, 0, 0⟩,
      .mwait ⟨⟨3, true⟩, 0, 0, 1, 0, 15, 0, 0, 0⟩, .mwait ⟨⟨3, true⟩, 0, 0, 1, 0, 0, 63, 0, 0⟩,
      .mwait ⟨⟨3, true⟩, 0, 0, 1, 0, 0, 0, 7, 0⟩, .mwait ⟨⟨3, true⟩, 0, 0, 1, 0, 0, 0, 0, 134217727⟩,
      .mwait ⟨⟨3, true⟩, 0, 0, 1, 0, 0, 0, 0, 67108864⟩
    ] : List Instr).all fun i => !i.wellFormed) = true := by
  decide +kernel

theorem test_ill_formed_scale_0 :
    (([
      .klds ⟨⟨1, true⟩, 8, 15, 2⟩, .klds ⟨⟨1, true⟩, 8, 0, 32767⟩, .ksts ⟨⟨2, true⟩, 15, 10, 4⟩,
      .ksts ⟨⟨2, true⟩, 0, 10, 32767⟩, .kldc ⟨⟨1, true⟩, 15, 0, 3⟩, .kldc ⟨⟨1, true⟩, 1, 15, 3⟩,
      .kldc ⟨⟨1, true⟩, 1, 0, 32767⟩, .kmov ⟨⟨1, true⟩, 11, 15, 2⟩, .kmov ⟨⟨1, true⟩, 11, 2, 32767⟩,
      .kauto ⟨⟨3, true⟩, 3, 15, 2⟩, .kauto ⟨⟨3, true⟩, 3, 0, 32767⟩, .kufc ⟨⟨2, true⟩, 15, 0, 4⟩, .kufc ⟨⟨2, true⟩, 0, 15, 4⟩,
      .kufc ⟨⟨2, true⟩, 0, 0, 32767⟩, .itlvl ⟨⟨2, true⟩, 9, 15, 24653⟩, .itlvl ⟨⟨2, true⟩, 9, 0, 1⟩,
      .itrst ⟨⟨3, true⟩, 5, 15, 0⟩, .itrst ⟨⟨3, true⟩, 5, 0, 32767⟩, .kseed ⟨⟨7, true⟩, 15, 6, 0⟩,
      .kseed ⟨⟨7, true⟩, 0, 6, 32767⟩
    ] : List Instr).all fun i => !i.wellFormed) = true := by
  decide +kernel

theorem test_ill_formed_feed_0 :
    (([
      .copy .ca ⟨⟨1, true⟩, 15, 3, 0, 137438953472⟩, .copy .ca ⟨⟨1, true⟩, 0, 3, 255, 137438953472⟩,
      .copy .ca ⟨⟨1, true⟩, 0, 3, 0, 274877906943⟩, .copy .ca ⟨⟨1, true⟩, 0, 3, 0, 1⟩,
      .cprf .ca ⟨⟨1, true⟩, 15, 7, 0, 137438953472⟩, .cprf .ca ⟨⟨1, true⟩, 0, 7, 255, 137438953472⟩,
      .cprf .ca ⟨⟨1, true⟩, 0, 7, 0, 274877906943⟩, .cprf .ca ⟨⟨1, true⟩, 0, 7, 0, 1⟩,
      .sbind .ca ⟨⟨3, true⟩, 15, 0, 50, 37580963840⟩, .sbind .ca ⟨⟨3, true⟩, 0, 15, 50, 37580963840⟩,
      .sbind .ca ⟨⟨3, true⟩, 0, 0, 50, 274877906943⟩, .sbind .ca ⟨⟨3, true⟩, 0, 0, 50, 137438953472⟩,
      .sadv .ca ⟨⟨7, true⟩, 15, 0, 0, 3⟩, .sadv .ca ⟨⟨7, true⟩, 0, 15, 0, 3⟩, .sadv .ca ⟨⟨7, true⟩, 0, 0, 255, 3⟩,
      .sadv .ca ⟨⟨7, true⟩, 0, 0, 0, 274877906943⟩, .sadv .ca ⟨⟨7, true⟩, 0, 0, 0, 137438953472⟩,
      .swtf .ca ⟨⟨6, true⟩, 15, 0, 0, 6⟩, .swtf .ca ⟨⟨6, true⟩, 0, 15, 0, 6⟩, .swtf .ca ⟨⟨6, true⟩, 0, 0, 255, 6⟩,
      .swtf .ca ⟨⟨6, true⟩, 0, 0, 0, 274877906943⟩, .swtf .ca ⟨⟨6, true⟩, 0, 0, 0, 137438953472⟩,
      .mcast .ca ⟨⟨6, true⟩, 15, 0, 0, 0⟩, .mcast .ca ⟨⟨6, true⟩, 4, 15, 0, 0⟩, .mcast .ca ⟨⟨6, true⟩, 4, 0, 255, 0⟩,
      .mcast .ca ⟨⟨6, true⟩, 4, 0, 0, 274877906943⟩, .mcast .ca ⟨⟨6, true⟩, 4, 0, 0, 1⟩,
      .csend .ca ⟨⟨7, true⟩, 15, 3, 252, 137438953472⟩, .csend .ca ⟨⟨7, true⟩, 0, 3, 252, 274877906943⟩,
      .csend .ca ⟨⟨7, true⟩, 0, 3, 252, 1⟩, .crecv .ca ⟨⟨1, true⟩, 15, 0, 49, 68719476736⟩,
      .crecv .ca ⟨⟨1, true⟩, 2, 15, 49, 68719476736⟩, .crecv .ca ⟨⟨1, true⟩, 2, 0, 49, 274877906943⟩,
      .crecv .ca ⟨⟨1, true⟩, 2, 0, 49, 1⟩, .chks .ca ⟨⟨6, true⟩, 15, 8, 0, 137438953472⟩,
      .chks .ca ⟨⟨6, true⟩, 2, 8, 255, 137438953472⟩, .chks .ca ⟨⟨6, true⟩, 2, 8, 0, 274877906943⟩,
      .chks .ca ⟨⟨6, true⟩, 2, 8, 0, 1⟩, .cwait .ca ⟨⟨2, true⟩, 15, 0, 0, 1⟩, .cwait .ca ⟨⟨2, true⟩, 0, 15, 0, 1⟩
    ] : List Instr).all fun i => !i.wellFormed) = true := by
  decide +kernel

theorem test_ill_formed_feed_1 :
    (([
      .cwait .ca ⟨⟨2, true⟩, 0, 0, 255, 1⟩, .cwait .ca ⟨⟨2, true⟩, 0, 0, 0, 274877906943⟩,
      .cwait .ca ⟨⟨2, true⟩, 0, 0, 0, 137438953472⟩, .carm .ca ⟨⟨6, true⟩, 15, 0, 0, 2⟩, .carm .ca ⟨⟨6, true⟩, 6, 15, 0, 2⟩,
      .carm .ca ⟨⟨6, true⟩, 6, 0, 255, 2⟩, .carm .ca ⟨⟨6, true⟩, 6, 0, 0, 274877906943⟩,
      .carm .ca ⟨⟨6, true⟩, 6, 0, 0, 137438953472⟩, .cstat .ca ⟨⟨5, true⟩, 15, 4, 0, 137438953472⟩,
      .cstat .ca ⟨⟨5, true⟩, 0, 4, 255, 137438953472⟩, .cstat .ca ⟨⟨5, true⟩, 0, 4, 0, 274877906943⟩,
      .cstat .ca ⟨⟨5, true⟩, 0, 4, 0, 1⟩, .sclose .ca ⟨⟨5, true⟩, 15, 0, 0, 0⟩, .sclose .ca ⟨⟨5, true⟩, 4, 15, 0, 0⟩,
      .sclose .ca ⟨⟨5, true⟩, 4, 0, 255, 0⟩, .sclose .ca ⟨⟨5, true⟩, 4, 0, 0, 274877906943⟩,
      .sclose .ca ⟨⟨5, true⟩, 4, 0, 0, 137438953472⟩, .cdesc .ca ⟨⟨4, true⟩, 15, 0, 0, 137438953472⟩,
      .cdesc .ca ⟨⟨4, true⟩, 1, 0, 255, 137438953472⟩, .cdesc .ca ⟨⟨4, true⟩, 1, 0, 0, 274877906943⟩,
      .cdesc .ca ⟨⟨4, true⟩, 1, 0, 0, 1⟩
    ] : List Instr).all fun i => !i.wellFormed) = true := by
  decide +kernel

/-! ## Small states -/

/-- No gate. -/
def g0 : Guard := ⟨0, false⟩

/-- An S word of form RR without a gate. -/
def rrr (d a b fn : Nat) : SRR := ⟨g0, BitVec.ofNat 5 d, BitVec.ofNat 5 a, BitVec.ofNat 5 b, BitVec.ofNat 6 fn⟩
/-- Form RI. -/
def rri (d a imm : Nat) : SRI := ⟨g0, BitVec.ofNat 5 d, BitVec.ofNat 5 a, BitVec.ofNat 11 imm⟩
/-- Form I16. -/
def ri16 (d imm : Nat) : SI16 := ⟨g0, BitVec.ofNat 5 d, BitVec.ofNat 16 imm⟩
/-- Form C12. -/
def rc12 (d csr : Nat) : SC12 := ⟨g0, BitVec.ofNat 5 d, 0, BitVec.ofNat 12 csr⟩

/-- Core 0 runs a task whose code, an add, stands in a cached page. -/
def base : State := { placeSlotWord State.reset 32 0x0203_0880 with agenda := [] }

/-- Registers of core 0 set. -/
def withS (s : State) (l : List (Nat × Nat)) : State :=
  modCore s 0 fun x => { x with s := l.foldl (fun v q => v.setIfInBounds q.1 (BitVec.ofNat 64 q.2)) x.s }

/-- The state after one operation. -/
def after (i : Instr) (s : State) : Option State :=
  match exec i s with
  | .next t => some t
  | .fault _ => none
  | .refused _ => none

/-- Every result of core 0 in flight with a landing cycle lands. -/
def settled (s : State) : State :=
  ((coreOf s 0).inflight.filterMap (·.due)).foldl (fun s n => landNow (modCore s 0 fun x => { x with issueCount := n }) 0) s

/-- An S register of core 0 after one operation and its landing. -/
def sAfter (i : Instr) (s : State) (n : Nat) : Option Nat := (after i s).map fun t => (rdS (coreOf (settled t) 0) n).toNat
/-- A predicate after one operation and its landing. -/
def pAfter (i : Instr) (s : State) (n : Nat) : Option Bool := (after i s).map fun t => rdP (coreOf (settled t) 0) n
/-- The trap registers after one operation. -/
def trapAfter (i : Instr) (s : State) : Option (Nat × Nat × Nat × Nat) := (after i s).map fun t =>
  let x := coreOf t 0
  (x.tcause.toNat, x.tpc.toNat, x.taddr.toNat, x.tdetail.toNat)

/-- Operand values: s1 = 7, s2 = 3, s3 = 2^63, s4 = −1, s5 = 0x1234_5678_9ABC_DEF0, s6 = −7, s8 = 2^64 − 2. -/
def nums : State := withS base [(1, 7), (2, 3), (3, 2 ^ 63), (4, 2 ^ 64 - 1), (5, 0x1234_5678_9ABC_DEF0), (6, 2 ^ 64 - 7),
  (8, 2 ^ 64 - 2)]

/-! ## Scalar operations -/

/-- Values worked by hand from R197, R198 and R200. -/
theorem test_scalar_values_0 :
    (([
      (.add (rrr 9 4 1 0), 9, 6), (.add (rrr 9 5 6 0), 9, 0x123456789ABCDEE9), (.sub (rrr 9 1 2 0), 9, 4),
      (.sub (rrr 9 2 1 0), 9, 0xFFFFFFFFFFFFFFFC), (.mul (rrr 9 4 6 0), 9, 7), (.mul (rrr 9 5 5 0), 9, 0xA5E20890F2A52100),
      (.mulh (rrr 9 4 5 0), 9, 0xFFFFFFFFFFFFFFFF), (.mulh (rrr 9 3 6 0), 9, 3),
      (.mulhn (rrr 9 4 5 0), 9, 0x123456789ABCDEEF), (.mulhn (rrr 9 3 6 0), 9, 0x7FFFFFFFFFFFFFFC),
      (.div (rrr 9 6 2 0), 9, 0xFFFFFFFFFFFFFFFE), (.div (rrr 9 3 4 0), 9, 0x8000000000000000),
      (.divn (rrr 9 6 2 0), 9, 0x5555555555555553), (.divn (rrr 9 5 0 0), 9, 0xFFFFFFFFFFFFFFFF),
      (.mod (rrr 9 6 2 0), 9, 0xFFFFFFFFFFFFFFFF), (.mod (rrr 9 5 0 0), 9, 0x123456789ABCDEF0), (.modn (rrr 9 6 2 0), 9, 0),
      (.modn (rrr 9 5 0 0), 9, 0x123456789ABCDEF0), (.and (rrr 9 5 6 0), 9, 0x123456789ABCDEF0), (.and (rrr 9 1 4 0), 9, 7),
      (.or (rrr 9 5 6 0), 9, 0xFFFFFFFFFFFFFFF9), (.or (rrr 9 1 4 0), 9, 0xFFFFFFFFFFFFFFFF),
      (.xor (rrr 9 5 6 0), 9, 0xEDCBA98765432109), (.xor (rrr 9 1 4 0), 9, 0xFFFFFFFFFFFFFFF8),
      (.shl (rrr 9 5 1 0), 9, 0x1A2B3C4D5E6F7800), (.shl (rrr 9 4 6 0), 9, 0xFE00000000000000),
      (.shr (rrr 9 5 1 0), 9, 0x2468ACF13579BD), (.shr (rrr 9 4 6 0), 9, 0x7F), (.sra (rrr 9 6 2 0), 9, 0xFFFFFFFFFFFFFFFF),
      (.sra (rrr 9 3 4 0), 9, 0xFFFFFFFFFFFFFFFF), (.min (rrr 9 5 6 0), 9, 0xFFFFFFFFFFFFFFF9),
      (.min (rrr 9 1 4 0), 9, 0xFFFFFFFFFFFFFFFF), (.max (rrr 9 5 6 0), 9, 0x123456789ABCDEF0)
    ] : List (Instr × Nat × Nat)).all fun q => decide (sAfter q.1 nums q.2.1 = some q.2.2)) = true := by
  decide +kernel

/-- Values worked by hand from R197, R198 and R200. -/
theorem test_scalar_values_1 :
    (([
      (.max (rrr 9 1 4 0), 9, 7), (.minn (rrr 9 5 6 0), 9, 0x123456789ABCDEF0), (.minn (rrr 9 1 4 0), 9, 7),
      (.maxn (rrr 9 5 6 0), 9, 0xFFFFFFFFFFFFFFF9), (.maxn (rrr 9 1 4 0), 9, 0xFFFFFFFFFFFFFFFF), (.clz (rrr 9 5 0 0), 9, 3),
      (.clz (rrr 9 0 0 0), 9, 0x40), (.popc (rrr 9 5 0 0), 9, 0x20), (.popc (rrr 9 4 0 0), 9, 0x40),
      (.sext (rrr 9 5 0 0), 9, 0xFFFFFFFFFFFFFFF0), (.zext (rrr 9 5 0 0), 9, 0xF0),
      (.sext (rrr 9 5 0 2), 9, 0xFFFFFFFF9ABCDEF0), (.zext (rrr 9 5 0 2), 9, 0x9ABCDEF0),
      (.addi (rri 9 5 0x7FD), 9, 0x123456789ABCDEED), (.addi (rri 9 1 0x5), 9, 0xC),
      (.andi (rri 9 5 0x7FD), 9, 0x123456789ABCDEF0), (.andi (rri 9 1 0x5), 9, 5),
      (.ori (rri 9 5 0x7FD), 9, 0xFFFFFFFFFFFFFFFD), (.ori (rri 9 1 0x5), 9, 7),
      (.xori (rri 9 5 0x7FD), 9, 0xEDCBA9876543210D), (.xori (rri 9 1 0x5), 9, 2), (.shli (rri 9 6 4), 9, 0xFFFFFFFFFFFFFF90),
      (.shri (rri 9 6 4), 9, 0xFFFFFFFFFFFFFFF), (.srai (rri 9 6 4), 9, 0xFFFFFFFFFFFFFFFF),
      (.li (ri16 9 0xFFFE), 9, 0xFFFFFFFFFFFFFFFE), (.li (ri16 9 0x7FFE), 9, 0x7FFE),
      (.lih16 (ri16 5 0xABCD), 5, 0x12345678ABCDDEF0), (.lih32 (ri16 5 0xABCD), 5, 0x1234ABCD9ABCDEF0),
      (.lih48 (ri16 5 0xABCD), 5, 0xABCD56789ABCDEF0), (.sel (rrr 9 1 2 0), 9, 7), (.sel (rrr 9 1 2 8), 9, 3),
      (.pmovToS (rrr 9 0 0 1), 9, 1)
    ] : List (Instr × Nat × Nat)).all fun q => decide (sAfter q.1 nums q.2.1 = some q.2.2)) = true := by
  decide +kernel

/-- Conditions and predicates (R199, R200); p0 is 1 and p1 is 0. -/
theorem test_predicate_values :
    (([
      (.cmp (rrr 3 6 1 0), 3, false), (.cmp (rrr 3 1 1 0), 3, true), (.cmp (rrr 3 6 1 1), 3, true),
      (.cmp (rrr 3 1 1 1), 3, false), (.cmp (rrr 3 6 1 2), 3, true), (.cmp (rrr 3 1 1 2), 3, false),
      (.cmp (rrr 3 6 1 3), 3, false), (.cmp (rrr 3 1 1 3), 3, true), (.cmp (rrr 3 6 1 4), 3, false),
      (.cmp (rrr 3 1 1 4), 3, false), (.cmp (rrr 3 6 1 5), 3, true), (.cmp (rrr 3 1 1 5), 3, true),
      (.cmpi (rri 4 6 5), 4, false), (.cmpi (rri 4 1 7), 4, true), (.cmpi (rri 12 6 5), 4, true),
      (.cmpi (rri 12 1 7), 4, false), (.cmpi (rri 20 6 5), 4, true), (.cmpi (rri 20 1 7), 4, false),
      (.cmpi (rri 28 6 5), 4, false), (.cmpi (rri 28 1 7), 4, true), (.pand (rrr 2 0 1 0), 2, false),
      (.pand (rrr 2 0 1 2), 2, true), (.por (rrr 2 0 1 0), 2, true), (.por (rrr 2 0 1 1), 2, false),
      (.pxor (rrr 2 0 1 0), 2, true), (.pxor (rrr 2 0 0 0), 2, false), (.pmov (rrr 2 0 0 0), 2, true),
      (.pmov (rrr 2 0 0 4), 2, false), (.pmovFromS (rrr 0 1 0 2), 2, true), (.pmovFromS (rrr 0 1 0 2), 3, false)
    ] : List (Instr × Nat × Bool)).all fun q => decide (pAfter q.1 nums q.2.1 = some q.2.2)) = true := by
  decide +kernel

/-- The operations of RegisterOperationsFrame issue and complete. -/
theorem witness_RegisterOperationsFrame :
    (([.add (rrr 9 1 2 0), .sub (rrr 9 1 2 0), .mul (rrr 9 1 2 0), .mulh (rrr 9 1 2 0), .mulhn (rrr 9 1 2 0),
      .div (rrr 9 1 2 0), .divn (rrr 9 1 2 0), .mod (rrr 9 1 2 0), .modn (rrr 9 1 2 0), .and (rrr 9 1 2 0), .or (rrr 9 1 2 0),
      .xor (rrr 9 1 2 0), .shl (rrr 9 1 2 0), .shr (rrr 9 1 2 0), .sra (rrr 9 1 2 0), .min (rrr 9 1 2 0), .max (rrr 9 1 2 0),
      .minn (rrr 9 1 2 0), .maxn (rrr 9 1 2 0), .clz (rrr 9 1 0 0), .popc (rrr 9 1 0 0), .sext (rrr 9 1 0 0),
      .sext (rrr 9 1 0 1), .sext (rrr 9 1 0 2), .zext (rrr 9 1 0 0), .zext (rrr 9 1 0 1), .zext (rrr 9 1 0 2),
      .addi (rri 9 1 1), .andi (rri 9 1 1), .ori (rri 9 1 1), .xori (rri 9 1 1), .shli (rri 9 1 63), .shri (rri 9 1 63),
      .srai (rri 9 1 63), .li (ri16 9 1), .lih16 (ri16 9 1), .lih32 (ri16 9 1), .lih48 (ri16 9 1), .cmp (rrr 3 1 2 5),
      .cmpi (rri 3 1 1), .pand (rrr 3 1 2 3), .por (rrr 3 1 2 3), .pxor (rrr 3 1 2 3), .sel (rrr 9 1 2 8), .pmov (rrr 3 1 0 4),
      .pmovToS (rrr 9 0 0 1), .add (rrr 0 0 0 0)]
      : List Instr).all fun i => issues nums i && (after i nums).isSome) = true := by
  decide +kernel

/-- They are the witnesses of ScalarOperationsComplete too. -/
theorem witness_ScalarOperationsComplete :
    issues nums (.add (rrr 0 31 31 0)) = true ∧ issues nums (.sext (rrr 9 5 0 2)) = true
      ∧ issues nums (.srai (rri 31 0 63)) = true ∧ issues nums (.lih48 (ri16 31 0xFFFF)) = true := by
  decide +kernel

/-- One divisor for each row of the table of R198. -/
theorem witness_DivisionFollowsItsTable :
    let a := actor nums
    (issues nums (.div (rrr 9 5 0 0)) = true ∧ sB a (rrr 9 5 0 0) = 0)
      ∧ (issues nums (.div (rrr 9 3 4 0)) = true ∧ sA a (rrr 9 3 4 0) = BitVec.intMin 64 ∧ sB a (rrr 9 3 4 0) = BitVec.allOnes 64)
      ∧ (issues nums (.mod (rrr 9 3 6 0)) = true ∧ sB a (rrr 9 3 6 0) ≠ 0)
      ∧ issues nums (.divn (rrr 9 5 0 0)) = true ∧ issues nums (.modn (rrr 9 3 4 0)) = true := by
  decide +kernel

theorem witness_ComparesWriteOnePredicate :
    ((List.range 6).all fun n => issues nums (.cmp (rrr 7 1 2 n)) && issues nums (.cmpi (rri (8 * (n % 4) + 7) 1 2))) = true := by
  decide +kernel

theorem witness_PredicateOperationsComplete :
    (([.pand (rrr 7 7 1 3), .por (rrr 7 7 1 0), .pxor (rrr 0 0 0 0), .pmov (rrr 7 7 0 4), .sel (rrr 31 0 31 15),
      .pmovToS (rrr 31 0 0 1), .pmovFromS (rrr 0 31 0 2)] : List Instr).all (issues nums)) = true := by
  decide +kernel

theorem witness_CopiesIteratorsAndBaseComplete :
    (((List.range 6).flatMap fun n => [Instr.itset (rrr 15 1 0 n), .itget (rrr 9 15 0 n)]).all (issues nums)
      && issues nums (.xsv (rrr 31 1 0 15)) && issues nums (.xvs (rrr 9 31 0 15))
      && issues nums (.rbset (rri 0 0 15)) && (Instr.rbset (rri 0 0 15)).wellFormed) = true := by
  decide +kernel

/-- ADD issues, and nothing else of core 0 lands in the next cycle. -/
theorem witness_AddLandsInTheNextCycle :
    issues nums (.add (rrr 0 1 2 0)) = true ∧ issues nums (.add (rrr 31 1 2 0)) = true
      ∧ (after (.add (rrr 0 1 2 0)) nums).isSome = true ∧ (after (.add (rrr 31 1 2 0)) nums).isSome = true
      ∧ (actor nums).inflight = [] := by
  decide +kernel

/-! ## Iterators and the register base -/

/-- ITSET writes and ITGET reads the parts (R218). -/
theorem test_itset_itget :
    (let s := withS base [(1, 0x0040_0007)]
     (after (.itset (rrr 3 1 0 1)) s).map fun t =>
       let t := settled t
       ((rdS (coreOf (settled ((after (.itget (rrr 9 3 0 1)) t).getD t)) 0) 9).toNat, (itOf (coreOf t 0) 3).l0.count.toNat,
         (itOf (coreOf t 0) 3).l0.stride.toNat)) = some (0x0040_0007, 7, 0x40) := by
  decide +kernel

/-- The iterator of the example of R170: offsets 0, 64, 128, 192, 1024, 1088, 1152, 1216, then 0 again. -/
theorem test_iterator_of_R170 :
    (let i : Iter := { Iter.zero with base := 0x0080_0000_0000_1000, l0 := ⟨4, 64, 0⟩, l1 := ⟨2, 1024, 0⟩, l2 := ⟨1, 0, 0⟩, l3 := ⟨1, 0, 0⟩ }
     (itWalk 9 i).map fun a => a - 0x0080_0000_0000_1000) = [0, 64, 128, 192, 1024, 1088, 1152, 1216, 0] := by
  decide +kernel

/-- The same iterator satisfies the premise of ReversedIteratorGoesBack, and reversed it yields that sequence backwards (R171). -/
theorem witness_ReversedIteratorGoesBack :
    (let i : Iter := { Iter.zero with base := 0x0080_0000_0000_1000, l0 := ⟨4, 64, 0⟩, l1 := ⟨2, 1024, 0⟩, l2 := ⟨1, 0, 0⟩, l3 := ⟨1, 0, 0⟩ }
     ([i.l0, i.l1, i.l2, i.l3].all fun l => decide (l.idx = 0 ∧ l.stride ≠ BitVec.intMin 32)) = true
       ∧ (itWalk 8 (itReverse i)).map (fun a => a - 0x0080_0000_0000_1000) = [1216, 1152, 1088, 1024, 192, 128, 64, 0]) := by
  decide +kernel

/-- RBSET lands in the next cycle and rotates the upper vector registers (R168, R203). -/
theorem test_rbset :
    ((after (.rbset (rri 0 0 5)) base).map fun t => ((coreOf t 0).rbase, (coreOf (settled t) 0).rbase)) = some (0, 5) := by
  decide +kernel

/-- XSV writes one lane and leaves the others (R217). -/
theorem test_xsv :
    ((after (.xsv (rrr 3 5 0 2)) nums).map fun t => ((rdV (coreOf (settled t) 0) false 3).toNat)) = some (0x1234_5678_9ABC_DEF0 * 2 ^ 128) := by
  decide +kernel

/-- XVS reads one lane (R217). -/
theorem test_xvs :
    (let s := modCore base 0 fun x => { x with vb := x.vb.setIfInBounds 3 (BitVec.ofNat 1024 (0xABCD * 2 ^ 960)) }
     sAfter (.xvs (rrr 9 19 0 15)) s 9) = some 0xABCD := by
  decide +kernel

/-! ## Control -/

/-- LOOPCNT of core 0 set. -/
def loops (n : Nat) : State := modCore nums 0 fun x => { x with loopcnt := BitVec.ofNat 64 n }

/-- A core in its handler. -/
def inHandler : State := modCore nums 0 fun x =>
  { x with mode := .handler, handlerCode := ⟨0x10000, 8⟩
           shadow := some ⟨slotNops.toList, [1, 2, 3, 4, 5, 6, 7], [true, false, true, false, true, false, true], 2, 9, 8, 0, 0, 40, 3, false⟩ }

theorem witness_ControlTransfersComplete :
    (([.br ⟨g0, 0x1F_FFFF⟩, .call ⟨g0, 0x0F_FFFF⟩, .jmp (rrr 0 1 0 0), .jmp (rrr 0 1 0 1), .ret g0, .nop, .vnop .va, .vnop .vb, .mnop,
      .knop, .cnop .ca, .cnop .cb, .exit g0, .yield g0] : List Instr).all (issues nums)
      && issues (loops 2) (.loop ⟨g0, 0⟩) && decide ((actor (loops 2)).loopcnt = 2)
      && issues (loops 1) (.loop ⟨g0, 0⟩) && decide ((actor (loops 1)).loopcnt = 1)
      && issues (loops 0) (.loop ⟨g0, 0⟩)) = true := by
  decide +kernel

theorem witness_CsrAccessCompletes :
    (let lands (s : State) (i v fl : Nat) : State := modCore s 0 fun x =>
       { x with issueCount := 5, inflight := [⟨1, some 5, 0, .csr i, 2 ^ 64 - 1, v, fl, 0, 64⟩] }
     let lone (s : State) (i : Nat) : Bool := decide (((coreOf s 0).inflight.filter fun b => decide (b.due = some (coreOf s 0).issueCount))
       = [⟨1, some 5, 0, .csr i, 2 ^ 64 - 1, 0xFFFF, 0, 0, 64⟩])
     issues nums (.csrr (rc12 9 0x008)) && issues nums (.csrw (rc12 1 0x008))
       && ([nums, inHandler].all fun s => [0x000, 0x006, 0x007, 0x008, 0x011, 0x014, 0x018, 0x01A, 0x01B, 0x01C, 0x021, 0x024, 0x025, 0x026,
         0x027, 0xFFF].all fun i => lone (lands s i 0xFFFF 0) i)
       && decide ((coreOf nums 0).shadow = none) && (coreOf inHandler 0).shadow.isSome) = true := by
  decide +kernel

/-- W1C clears what a landing CSRW writes as 1 and keeps what lands with it (R36, R407); an RO register keeps its value and RBASE takes its four bits (R222). -/
theorem test_csr_landing :
    (let lands (i v fl : Nat) : State := landNow (modCore nums 0 fun x =>
       { x with issueCount := 5, aflags := 0x2F, inflight := [⟨1, some 5, 0, .csr i, 2 ^ 64 - 1, v, fl, 0, 64⟩] }) 0
     (((coreOf (lands 0x01C 0x0B 0) 0).aflags.toNat, (coreOf (lands 0x01C 0x0B 1) 0).aflags.toNat),
       (csrRead (lands 0x000 0xFFFF 0) 0 0x000).toNat, (csrRead (lands 0x006 0xFFFF 0) 0 0x006).toNat))
      = ((0x24, 0x25), (csrRead nums 0 0x000).toNat, 0xF) := by
  decide +kernel

theorem witness_TrapsAndReturnComplete :
    issues nums (.trap (ri16 0 0xFFFF)) = true ∧ issues nums (.brk (ri16 0 0)) = true
      ∧ issues inHandler (.eret (rrr 0 0 0 1)) = true ∧ (actor inHandler).shadow.isSome = true
      ∧ issues nums (.eret (rrr 0 0 0 0)) = true ∧ (actor nums).shadow = none := by
  decide +kernel

/-- Where control goes (R201, R202): the header address plus 4 × disp21, or the register; the link is the next bundle. -/
theorem test_control_targets :
    (let pc (i : Instr) (s : State) : Option (Nat × Nat) := (after i s).map fun t =>
       ((coreOf t 0).pc.toNat, (rdS (coreOf (settled t) 0) 31).toNat)
     let far := withS nums [(1, 0x1_0400), (31, 0x1_0800)]
     [pc (.br ⟨g0, 0x1F_FFFF⟩) nums, pc (.br ⟨g0, 3⟩) nums, pc (.call ⟨g0, 16⟩) nums, pc (.jmp (rrr 0 1 0 0)) far,
       pc (.jmp (rrr 0 1 0 1)) far, pc (.ret g0) far, pc (.loop ⟨g0, 0x1F_FFFC⟩) (loops 2), pc (.loop ⟨g0, 0x1F_FFFC⟩) (loops 1),
       pc .nop nums])
      = [some (0xFFFC, 0), some (0x1_000C, 0), some (0x1_0040, 0x1_0008), some (0x1_0400, 0x1_0800), some (0x1_0400, 0x1_0008),
         some (0x1_0800, 0x1_0800), some (0xFFF0, 0), some (0x1_0008, 0), some (0x1_0008, 0)] := by
  decide +kernel

/-- LOOP counts down to 0 and leaves LOOPEND at its bundle (R202). -/
theorem test_loop_count :
    ([loops 3, loops 1, loops 0].map fun s => (after (.loop ⟨g0, 0⟩) s).map fun t =>
      ((coreOf t 0).loopcnt.toNat, (coreOf t 0).loopend.toNat)) = [some (2, 0x10000), some (0, 0x10000), some (0, 0x10000)] := by
  decide +kernel

/-- CSRW of LOOPCNT lands in the next cycle, and CSRR reads it (R221, R222). -/
theorem test_csr_access :
    ((after (.csrw (rc12 5 0x008)) nums).map fun t => ((coreOf t 0).loopcnt.toNat, (coreOf (settled t) 0).loopcnt.toNat))
      = some (0, 0x1234_5678_9ABC_DEF0) ∧ sAfter (.csrr (rc12 9 0x008)) (loops 77) 9 = some 77 := by
  decide +kernel

/-- TRAP, BRK, and an ERET outside handler state (R223, R224): cause, address, TADDR and TDETAIL. -/
theorem test_traps :
    [trapAfter (.trap (ri16 0 0x2A)) nums, trapAfter (.brk (ri16 0 0x31)) nums, trapAfter (.eret (rrr 0 0 0 0)) nums]
      = [some (0x0B, 0x1_0000, 0, 0x2A), some (0x0C, 0x1_0000, 0, 0x31), some (0x02, 0x1_0000, 0x1_0000, 0)] := by
  decide +kernel

/-- ERET restores what the handler shadowed (R409). -/
theorem test_eret :
    ((after (.eret (rrr 0 0 0 0)) inHandler).map fun t =>
      let x := coreOf t 0
      decide (x.mode = .running) && decide ((rdS x 3).toNat = 3) && rdP x 3 && decide (x.rbase = 2) && decide (x.loopcnt = 9)
        && decide (x.loopend = 8) && decide (x.issueCount = 40) && decide (x.repidx = 3) && x.shadow.isNone) = some true := by
  decide +kernel

/-! ## A context with tensors -/

/-- A context record (R140): its tables at fixed addresses, 16 event entries, one queue pair. -/
def recordImage : Nat :=
  2 ^ 63 + 0xFF * 2 ^ 48 + 0x4000 * 2 ^ 64 + 0x8000 * 2 ^ 128 + 0x3_0000 * 2 ^ 192 + 0x3000 * 2 ^ 256 + 0x3800 * 2 ^ 320
    + 0x1000 * 2 ^ 384 + 0x8_0000 * 2 ^ 448 + 0x9_0000 * 2 ^ 512 + 16 * 2 ^ 576 + 4 * 2 ^ 592 + 1 * 2 ^ 600

/-- A cached page of context 0 whose virtual and physical addresses agree: base, role, owner kind. -/
def cachedPage (addr role ownk : Nat) : TlbEntry := ⟨0, ⟨addr, 2 ^ 16, addr, 0, role, ownk, 0, 0, 0, 0⟩⟩

/-- Memory with the code at 0x1_0000 and a descriptor table at 0x4000 (R66), byte by byte: descriptors 1 (IMM INT32 × 4 at 0x13_0000),
2 (ACC INT32 × 4 at 0x11_0000, line 5), 3 (STR INT32 × 16 at 0x12_0000), 4 (OWN INT32 × 16 at 0x10_0000, owner kind 2) and 5 (ACC
FP32 × 4 at 0x11_1000, line 5), each of generation 1 with one axis of unit stride; and page tables from 0x8000 (R92, R93) that map
their pages and the code. -/
def tables : List Host.Cell := [
    (0x4042, 0x13), (0x4047, 0x83), (0x4048, 0x01), (0x404C, 0x01), (0x405C, 0x04), (0x406B, 0x01), (0x4082, 0x11),
    (0x4087, 0xA3), (0x4088, 0x01), (0x408C, 0x01), (0x408F, 0x14), (0x409C, 0x04), (0x40AB, 0x01), (0x40C2, 0x12),
    (0x40C7, 0x93), (0x40C8, 0x01), (0x40CC, 0x01), (0x40DC, 0x10), (0x40EB, 0x01), (0x4102, 0x10), (0x4107, 0xB3),
    (0x4108, 0x01), (0x410C, 0x01), (0x410F, 0x02), (0x411C, 0x10), (0x412B, 0x01), (0x4141, 0x10), (0x4142, 0x11),
    (0x4147, 0xA7), (0x4148, 0x01), (0x414C, 0x01), (0x414F, 0x14), (0x415C, 0x04), (0x416B, 0x01), (0x8000, 0x19),
    (0x8001, 0x82), (0x8200, 0x19), (0x8201, 0x84), (0x8400, 0x19), (0x8401, 0x86), (0x8600, 0x19), (0x8601, 0x88),
    (0x8810, 0x01), (0x8812, 0x01), (0x8900, 0x07), (0x8901, 0x01), (0x8902, 0x10), (0x8910, 0x05), (0x8912, 0x11),
    (0x8920, 0x03), (0x8922, 0x12), (0x8930, 0x01), (0x8932, 0x13), (0x10000, 0x01), (0x10003, 0x12), (0x10004, 0x80),
    (0x10005, 0x08), (0x10006, 0x03), (0x10007, 0x02)
  ]

/-- Context 0 is live with those descriptors, whose pages are cached. -/
def rich : State :=
  let s := modCtx (setMem nums tables) 0 fun y => { y with state := 1, rec_ := BitVec.ofNat 1024 recordImage }
  modCluster s 0 fun k => { k with tlb := k.tlb ++
    [cachedPage 0x10_0000 3 2, cachedPage 0x11_0000 2 0, cachedPage 0x12_0000 1 0, cachedPage 0x13_0000 0 0] }

/-- The handle of a descriptor at generation 1 (R64). -/
def handle (i : Nat) : Nat := 0x1_0000 + i

/-- Core 0 holds handles, addresses and data: s10 to s14 the handles of descriptors 1 to 5. -/
def held : State := withS rich [(10, handle 1), (11, handle 2), (12, handle 3), (13, handle 4), (14, handle 5),
  (16, 0x10_0000), (17, 0x13_0000), (18, 2 ^ 55 + 0x40), (19, 2 ^ 55 + 2 ^ 23 - 8), (20, 2 ^ 55 + 2 ^ 23), (21, 0x20_0000), (22, 2 ^ 55 + 0x41)]

/-- An outcome that has a value. -/
def okay {α : Type} (r : Except Trap α) : Bool :=
  match r with
  | .ok _ => true
  | .error _ => false

theorem witness_states_canonical : memOk base = true ∧ memOk held = true := by decide +kernel

/-! ## Loads, stores and atomics -/

theorem witness_ScratchpadAccessCompletes :
    (let x := actor held
     ([rrr 9 19 0 3, rrr 9 18 0 4, rrr 9 18 7 0].all fun f => issues held (.ldl f)
       && isSp (sAddr x f) && spBounds (sAddr x f) (sSize f) && decide (sAddr x f % sSize f = 0))
     && ([rrr 9 19 0 3, rrr 9 18 0 0].all fun f => issues held (.stl f)
       && isSp (sAddr x f) && spBounds (sAddr x f) (sSize f) && decide (sAddr x f % sSize f = 0))
     && ([rrr 9 16 0 3].all fun f => issues held (.ldl f) && issues held (.stl f) && !isSp (sAddr x f) && decide (sAddr x f % sSize f = 0))
     && ([rrr 9 20 0 0].all fun f => issues held (.ldl f) && issues held (.stl f) && !spBounds (sAddr x f) (sSize f) && decide (sAddr x f % sSize f = 0))
     && ([rrr 9 22 0 3].all fun f => issues held (.ldl f) && issues held (.stl f) && isSp (sAddr x f)
       && spBounds (sAddr x f) (sSize f) && decide (sAddr x f % sSize f ≠ 0))) = true := by
  decide +kernel

/-- STL writes at the end of its repetition, and LDL reads back with its sign (R206): −7 as 16 bits, at offset 0x40. -/
theorem test_ldl_stl :
    ((after (.stl (rrr 6 18 0 1)) held).map fun t => (spNum t 0 0x40 4, sAfter (.ldl (rrr 9 18 0 5)) t 9, sAfter (.ldl (rrr 9 18 0 1)) t 9))
      = some (0xFFF9, some (2 ^ 64 - 7), some 0xFFF9) := by
  decide +kernel

/-- A scratchpad address past the end and a misaligned one (R172, R206). -/
theorem test_ldl_traps :
    [trapAfter (.ldl (rrr 9 20 0 0)) held, trapAfter (.stl (rrr 9 22 1 3)) held,
      trapAfter (.ldl (rrr 9 16 0 0)) held]
      = [some (0x0A, 0x1_0000, 2 ^ 55 + 2 ^ 23, 0), some (0x09, 0x1_0000, 2 ^ 55 + 0x41 + 8, 0), some (0x0A, 0x1_0000, 0x10_0000, 0)] := by
  decide +kernel

theorem witness_MemoryAccessCompletes :
    (let x := actor held
     let u := landed held
     ([rrr 9 16 0 3, rrr 9 17 0 6, rrr 9 17 0 11].all fun f => issues held (.ldm f) && decide (sAddr x f % sSize f = 0)
       && !isSp (sAddr x f) && okay (access u 0 (sAddr x f) .load 0 0))
     && ([rrr 9 21 0 3].all fun f => issues held (.ldm f) && issues held (.stm f) && decide (sAddr x f % sSize f = 0)
       && !okay (access u 0 (sAddr x f) .load 0 0) && !okay (access u 0 (sAddr x f) .store 0 0))
     && ([rrr 9 17 0 3].all fun f => issues held (.stm f) && decide (sAddr x f % sSize f = 0)
       && !okay (access u 0 (sAddr x f) .store 0 0))
     && ([rrr 9 16 0 3, rrr 9 16 1 0].all fun f => issues held (.stm f) && decide (sAddr x f % sSize f = 0)
       && okay (access u 0 (sAddr x f) .store 0 0))) = true := by
  decide +kernel

/-- A store is in memory once it applies, and a load that performs then brings it back (R208, R336 to R338). -/
theorem test_stm_ldm :
    (let t := (after (.stm (rrr 5 16 0 3)) held).getD base
     let a := (after (.storeApply 0 0) t).getD base
     let l := (after (.ldm (rrr 9 16 0 6)) a).getD base
     let p := (after (.loadPerform 0 0) l).getD base
     (memNum t.mem 0x10_0000 8, memNum a.mem 0x10_0000 8, (rdS (coreOf (settled p) 0) 9).toNat)) 
      = (0, 0x1234_5678_9ABC_DEF0, 0xFFFF_FFFF_9ABC_DEF0) := by
  decide +kernel

/-- A store to an IMM page is write protection, and a load off every page a translation fault, which the fault service sees
first (R71, R92, R98). -/
theorem test_stm_protection :
    ([Instr.stm (rrr 5 17 0 3), .ldm (rrr 5 21 0 3)].map fun i => (after i held).map fun t =>
      (decide ((coreOf t 0).mode = .service), (coreOf t 0).svc.map fun q => (q.cause, q.addr)))
      = [some (true, some (0x06, 0x13_0000)), some (true, some (0x05, 0x20_0000))] := by
  decide +kernel

/-- The store clauses of the frame hold on STL at the last aligned address, on STM, and on a plain entry that applies. -/
theorem witness_StoresReachOnlyTheirBytes :
    (let t := (after (.stm (rrr 5 16 0 3)) held).getD base
     issues held (.stl (rrr 9 19 0 3)) && decide (spOff (sAddr (actor held) (rrr 9 19 0 3)) = 2 ^ 23 - 8)
       && spBounds (sAddr (actor held) (rrr 9 19 0 3)) 8 && (after (.stl (rrr 9 19 0 3)) held).isSome
       && issues held (.stm (rrr 5 16 0 3)) && okay (access (landed held) 0 (sAddr (actor held) (rrr 5 16 0 3)) .store 0 0)
       && memOk t && decide ((coreOf t 0).mode = .running) && (mayApply (coreOf t 0) 0).isSome
       && (match (mayApply (coreOf t 0) 0).map (·.kind) with | some (SqKind.store bs) => decide (bs.length = 8) | _ => false)
       && (after (.storeApply 0 0) t).isSome) = true := by
  decide +kernel

theorem witness_AtomicsAddsAndAppendsComplete :
    (let u := landed held
     let joined := (after (.gjoin (rrr 0 0 0 5)) held).getD base
     let v := landed joined
     issues held (.amo (rrr 9 16 1 15)) && okay (access u 0 0x10_0000 .atomic 0 0)
       && issues held (.amo (rrr 9 18 1 14)) && isSp (sA (actor held) (rrr 9 18 1 14)).toNat && issues held (.amo (rrr 0 1 1 9))
       && issues joined (.sacc (rrr 1 11 2 3)) && okay (slotHandle v 0 0 (sA (actor joined) (rrr 1 11 2 3)))
       && okay (accPage v 0 0 0 (accVa (descOf v 0 2) 3) 2 1 5)
       && issues held (.sapp (rrr 1 12 0 0)) && okay (appendCheck u 0 0 (sA (actor held) (rrr 1 12 0 0)) 1)
       && (match appendCheck u 0 0 (sA (actor held) (rrr 1 12 0 0)) 1 with
           | .ok (d, t) => okay (appendPages u 0 0 d t.issued [0])
           | .error _ => false)) = true := by
  decide +kernel

/-- AMO.add on the scratchpad takes effect at the end of its repetition and returns the old value (R209). -/
theorem test_amo_scratchpad :
    (let s := (after (.stl (rrr 1 18 0 3)) held).getD base
     (after (.amo (rrr 9 18 2 11)) s).map fun t => (spNum t 0 0x40 8, (rdS (coreOf (settled t) 0) 9).toNat)) = some (10, 7) := by
  decide +kernel

/-- AMO.add on memory takes effect when its entry applies (R209, R336). -/
theorem test_amo_memory :
    (let t := (after (.amo (rrr 9 16 1 11)) held).getD base
     (after (.storeApply 0 0) t).map fun t => (memNum t.mem 0x10_0000 8, (rdS (coreOf (settled t) 0) 9).toNat)) = some (7, 0) := by
  decide +kernel

/-- SACC of 7 into element 3 of descriptor 2: after it has applied and combined, the holding word (8 bytes each) is 7 (R211, R69);
outside line 5 it is a role fault with TADDR 0. -/
theorem test_sacc :
    (let s := (after (.gjoin (rrr 0 0 0 5)) held).getD base
     let t := (after (.sacc (rrr 1 11 2 3)) s).getD base
     let t := (after (.storeApply 0 0) t).getD base
     (after (.accCombine 0) t).map fun t => memNum t.mem (0x11_0000 + 24) 8) = some 7
      ∧ trapAfter (.sacc (rrr 1 11 2 3)) held = some (0x07, 0x1_0000, 0, 0) := by
  decide +kernel

/-- SAPP appends one element at the append position (R212). -/
theorem test_sapp :
    (let t := (after (.sapp (rrr 5 12 0 0)) held).getD base
     (after (.storeApply 0 0) t).map fun t => (memNum t.mem 0x12_0000 4, (recOf t 0 3 1).appended, (recOf t 0 3 1).producer))
      = some (0x9ABC_DEF0, 1, some 0) := by
  decide +kernel

/-! ## Handles and tags -/

theorem witness_HandleOperationsComplete :
    (let u := landed held
     let counted := (after (.hold (rrr 0 10 0 0)) held).getD base
     issues held (.hld (rrr 9 10 0 7)) && okay (slotHandle u 0 0 (sA (actor held) (rrr 9 10 0 7)))
       && issues held (.hview (rrr 9 10 2 0)) && issues held (.hgen (rrr 9 10 0 0)) && decide (df (descOf u 0 1) 63 63 = 1)
       && issues (withS held [(10, 9)]) (.hgen (rrr 9 10 0 0)) && decide (df (descOf u 0 9) 63 63 = 0)
       && issues held (.hold (rrr 0 10 0 0)) && countsImm u 0 (descOf u 0 1) false
       && (raiseReaders u 0 (heldWith u 0 (descOf u 0 1) 1 1)).isSome
       && issues counted (.rels (rrr 0 10 0 0)) && decide (readerCount (landed counted) 0 1 1 ≠ 0)) = true := by
  decide +kernel

/-- HLD word 1, HVIEW of element 3 and past the end, HGEN (R213). -/
theorem test_handles :
    [sAfter (.hld (rrr 9 10 0 1)) held 9, sAfter (.hview (rrr 9 10 2 0)) held 9, sAfter (.hview (rrr 9 10 1 0)) held 9,
      sAfter (.hgen (rrr 9 10 0 0)) held 9]
      = [some 0x1_0000_0001, some 0x13_000C, some (2 ^ 64 - 1), some 0x1_0001] := by
  decide +kernel

/-- A handle of a generation that is not live (R65): TCAUSE 0x08 with the descriptor index. -/
theorem test_stale_handle :
    trapAfter (.hld (rrr 9 10 0 1)) (withS held [(10, 0x2_0001)]) = some (0x08, 0x1_0000, 0, 0x1_0000) := by
  decide +kernel

/-- HOLD and RELS move the reader count (R214, R77). -/
theorem test_hold_rels :
    (let t := (after (.hold (rrr 0 10 0 0)) held).getD base
     (readerCount t 0 1 1, (after (.rels (rrr 0 10 0 0)) t).map fun v => readerCount v 0 1 1)) = (1, some 0) := by
  decide +kernel

theorem witness_RecastsAndTagsComplete :
    (let u := landed held
     let asked := modCore held 0 fun x => { x with asked := true }
     let yes := modCore held 0 fun x => { x with asked := true, answer := some .accepted }
     let f := rrr 2 13 24 0
     let t : Terms := ⟨sB (actor held) f, rdS (actor held) 25, rdS (actor held) 26⟩
     issues yes (.rcast f) && issues asked (.rcast f) && decide ((actor asked).answer = none)
       && issues held (.rcast (rrr 0 13 24 0)) && decide ((actor held).answer = none) && !(actor held).asked
       && okay (slotHandle u 0 0 (sA (actor held) f)) && (termsBad (descOf u 0 4) (rolesOf u 0 (descOf u 0 4)) t).isNone
       && (rcastEvent u 0 (sD (actor held) (rrr 0 13 24 0))).isNone
       && okay (slotHandle u 0 0 (sA (actor held) (rrr 9 10 17 0)))
       && issues held (.taglk (rrr 9 10 17 0)) && issues held (.tagset (rrr 1 10 17 0)) && issues held (.tagclr (rrr 1 0 0 0))
       && issues held (.tagclrK (rrr 0 10 17 1))
       && issues (withS held [(1, 2047)]) (.tagset (rrr 1 10 17 0)) && issues (withS held [(1, 2047)]) (.tagclr (rrr 1 0 0 0))) = true := by
  decide +kernel

/-- TAGSET installs, TAGLK finds, TAGCLR and TAGCLR.k clear (R216): slot 7. -/
theorem test_tags :
    (let t := settled ((after (.tagset (rrr 1 10 17 0)) held).getD base)
     let c := settled ((after (.tagclr (rrr 1 0 0 0)) t).getD base)
     let k := settled ((after (.tagclrK (rrr 0 10 17 1)) t).getD base)
     [sAfter (.taglk (rrr 9 10 17 0)) held 9, sAfter (.taglk (rrr 9 10 17 0)) t 9, sAfter (.taglk (rrr 9 10 17 0)) c 9,
       sAfter (.taglk (rrr 9 10 17 0)) k 9]) = [some (2 ^ 64 - 1), some 7, some (2 ^ 64 - 1), some (2 ^ 64 - 1)] := by
  decide +kernel

/-- RCAST of descriptor 4 from OWN to IMM: the request goes out and the core waits; once accepted, no event is named, the role
changes and the generation rises (R82 to R84, R215). -/
theorem test_rcast :
    (let t := (after (.rcast (rrr 0 13 24 0)) held).getD base
     let a := (after (.recastArrival 0) t).getD base
     let d := (after (.recastComplete 0) a).getD base
     (t.recastReqs.length, (coreOf t 0).asked, a.recasts.length, (coreOf a 0).answer.isSome, dRole (descOf d 0 4), df (descOf d 0 4) 95 64))
      = (1, true, 1, true, 0, 2) := by
  decide +kernel

/-! ## Groups, gangs, events and fences -/

/-- Core 0 is a member of line 5. -/
def member : State := (after (.gjoin (rrr 0 0 0 5)) held).getD base

/-- Cores 0 and 2 form a gang, fused or not. -/
def gang (fused : Bool) : State :=
  let s := modCore held 2 fun _ => { Core.init with mode := .running, task := some { placeTask 12 with gang := some 1 } }
  let s := modCore s 0 fun x => { x with task := some { placeTask 12 with gang := some 1 } }
  { s with gangs := [⟨1, 0, [0, 2], [], fused, 0, [], false, 0⟩] }

theorem witness_GroupsAndGangsComplete :
    (let owed := modCore member 0 fun x => { x with sq := [⟨5, .mem 0, .acc ⟨0, 2, 1, 0, 0, 3, 0, 3, 1, none, none, false⟩, none, false, 0⟩] }
     let sole (fused : Bool) (ms : List Nat) (out : List Nat := []) (joins : Bool := false) : State :=
       { modCore held 0 (fun x => { x with task := some { placeTask 12 with gang := some 1 } }) with gangs := [⟨1, 0, ms, out, fused, 0, [], joins, 0⟩] }
     issues held (.gjoin (rrr 0 0 0 5)) && !isMember (landed held) 0 5 && issues member (.gjoin (rrr 0 0 0 5))
       && isMember (landed member) 0 5 && issues member (.gleave (rrr 0 0 0 5)) && !accOwed (landed member) 0
       && issues owed (.gleave (rrr 0 0 0 5)) && isMember (landed owed) 0 5 && accOwed (landed owed) 0
       && issues member (.sync (rrr 0 0 0 5)) && issues held (.sync (rrr 0 0 0 5)) && issues held (.gleave (rrr 0 0 0 5))
       && issues held (.gjoin (rrr 0 0 0 19)) && !isMember (landed held) 0 19
       && issues (sole true [0]) (.fuse (rrr 0 1 0 0)) && (gangOf (landed (sole true [0])) 0).isSome
       && decide ((sA (actor (sole true [0])) (rrr 0 1 0 0)).toNat = 7)
       && issues (sole true [0]) (.decpl (rrr 0 1 0 0)) && issues (sole false [0, 2]) (.rejoin g0)
       && (gangOf (landed (sole false [0, 2])) 0).isSome
       && issues (sole true [2, 0] [2]) (.fuse (rrr 0 1 0 0)) && issues (sole true [0] [] true) (.rejoin g0)
       && decide ((landed (sole true [2, 0] [2])).gangs.map (·.members.head?) = [some 2])
       && issues held (.wstep (rrr 0 1 0 0)) && decide ((landed held).geyser.toNat < (sA (actor held) (rrr 0 1 0 0)).toNat)
       && issues held (.wstep (rrr 0 0 0 0)) && issues held (.wstep (rrr 0 0 0 1))
       && decide ((sA (actor held) (rrr 0 0 0 1)).toNat ≤ (landed held).geyser.toNat)) = true := by
  decide +kernel

/-- GJOIN, then SYNC asserts and waits; the round of a sole member releases (R355 to R357). -/
theorem test_sync :
    (let t := (after (.sync (rrr 0 0 0 5)) member).getD base
     ((groupOf t 0 5 0).asserted, (coreOf t 0).syncWait, (after (.syncRelease 0 5 0) t).map fun u => (coreOf u 0).syncWait)) 
      = ([0], some 5, some none) := by
  decide +kernel

/-- The wrong side of a line is group misuse with the line in TDETAIL (R355, R400). -/
theorem test_group_misuse :
    [trapAfter (.gjoin (rrr 0 0 0 5)) member, trapAfter (.gleave (rrr 0 0 0 3)) held, trapAfter (.sync (rrr 0 0 0 19)) held]
      = [some (0x11, 0x1_0008, 0, 5), some (0x11, 0x1_0000, 0, 3), some (0x11, 0x1_0000, 0, 19)] := by
  decide +kernel

/-- WSTEP.late clears p7 when the count is already passed, and sets it otherwise (R363). -/
theorem test_wstep_late :
    pAfter (.wstep (rrr 0 1 0 1)) { held with geyser := 9 } 7 = some false
      ∧ pAfter (.wstep (rrr 0 1 0 1)) { held with geyser := 7 } 7 = some true := by
  decide +kernel

/-- An event named by s23: index 2 of this package; s24 names 0xFFFF for the own package. -/
def evented : State := withS held [(23, 2), (24, 0xFFFF_0002), (25, 3)]

theorem witness_EventsAndFencesComplete :
    (let u := landed evented
     let waits := modCore evented 0 fun x => { x with loads := [⟨1, 0x10_0000, 4, 0, .vec 1 0, 0⟩] }
     let async := { evented with async := [⟨4, [(0x10_0000, 1)], 0, some 0, 0, 0⟩] }
     ([rrr 9 24 2 1, rrr 0 23 2 0].all fun f => issues evented (.evadd f))
       && decide (bitsOf (sA (actor evented) (rrr 9 24 2 1)) 31 16 = 0xFFFF) && eventOk u 0 2
       && decide (bitsOf (sA (actor evented) (rrr 9 23 2 1)) 31 16 = u.pkg.toNat)
       && issues evented (.evarm (rrr 25 24 2 3)) && eventOk u 0 3 && issues evented (.evarm (rrr 0 23 2 0))
       && issues evented (.evarmDis (rrr 0 23 0 7)) && issues evented (.evwait (rrr 0 23 2 0)) && decide (evValue u 0 2 < 3)
       && issues evented (.evwait (rrr 0 23 0 0)) && issues evented (.evrd (rrr 9 23 0 7))
       && issues evented (.fence (rrr 0 0 0 5)) && (actor evented).sq.isEmpty && (actor evented).loads.isEmpty
       && issues waits (.fence (rrr 0 0 0 16)) && !(actor waits).loads.isEmpty
       && issues evented (.xfence (rrr 0 0 0 5)) && u.async.isEmpty
       && issues async (.xfence (rrr 0 0 0 4)) && !(asyncIn (landed async) 0 4).isEmpty) = true := by
  decide +kernel

/-- EVADD raises the counter when its increment lands, EVWAIT then passes, and EVRD brings the value back once it has reached the home slice (R365, R366). -/
theorem test_event_add :
    (let t := (after (.evadd (rrr 0 23 2 0)) evented).getD base
     let u := (after (.eventIncrement 0) t).getD base
     (t.incs.length, evValue u 0 2, ((after (.evrd (rrr 9 23 0 0)) u).bind (after (.eventIncrement 0))).map fun v => (rdS (coreOf (settled v) 0) 9).toNat,
       (after (.evwait (rrr 0 23 2 0)) u).map fun v => (coreOf v 0).waiting.isNone,
       (after (.evwait (rrr 0 23 2 0)) evented).map fun v => (coreOf v 0).waiting.isSome))
      = (1, 3, some 3, some true, some true) := by
  decide +kernel

/-- EVARM.t1 at threshold 3 with a chain of 2 to counter 3 fires when the counter reaches it; EVARM.dis disarms (R365, R366). -/
theorem test_event_chain :
    (let a := (after (.evarm (rrr 25 23 2 1)) (withS evented [(25, 0x0002_0003)])).getD base
     let t := (after (.evadd (rrr 0 23 2 0)) a).getD base
     let u := (after (.eventIncrement 0) t).getD base
     let v := (after .eventChainApply u).getD base
     let d := (after (.evarmDis (rrr 0 23 0 5)) a).getD base
     (evArmed (evEntry a 0 2) 1, evArmed (evEntry d 0 2) 1, evArmed (evEntry u 0 2) 1, evValue v 0 3)) = (true, false, false, 2) := by
  decide +kernel

/-- The premise of IncrementFiresThresholds is an entry of 512 bits; thresholds 0 and 1 of this one stand at 5 and 4, and only
those that the step from 2 by 2 reaches fire (R365). -/
theorem witness_IncrementFiresThresholds :
    (let e := 2 + 1 * 2 ^ 64 + 2 * 2 ^ 64 + 5 * 2 ^ 128 + 4 * 2 ^ 192
     decide (e < 2 ^ 512) && evArmed e 0 && evArmed e 1 && !evArmed (incStep e 2).1 1 && evArmed (incStep e 2).1 0
       && decide ((incStep e 2).1 % 2 ^ 64 = 4)) = true := by
  decide +kernel

/-- FENCE waits for a load that has not performed (R345). -/
theorem test_fence :
    (let waits := modCore evented 0 fun x => { x with loads := [⟨1, 0x10_0000, 4, 0, .vec 1 0, 0⟩] }
     ((after (.fence (rrr 0 0 0 4)) waits).map fun t => (coreOf t 0).waiting.isSome, (after (.fence (rrr 0 0 0 12)) waits).map fun t => (coreOf t 0).waiting.isSome)) 
      = (some true, some false) := by
  decide +kernel

/-- XFENCE waits for an entry of the async path (R346). -/
theorem test_xfence :
    (let async := { evented with async := [⟨4, [(0x10_0000, 1)], 0, some 0, 0, 0⟩] }
     let t := (after (.xfence (rrr 0 0 0 4)) async).getD base
     let m := (after (.asyncMerge 0) t).getD base
     ((coreOf t 0).waiting.isSome, memNum m.mem 0x10_0000 1, (after (.xfence (rrr 0 0 0 4)) m).map fun u => (coreOf u 0).waiting.isSome))
      = (true, 1, some false) := by
  decide +kernel

/-- A gang of cores 0 and 2 fuses its step, decouples and rejoins (R358 to R361): what the clauses ask for. -/
theorem witness_GroupsAndGangsComplete_lockstep :
    lockstep (gang true) 0 = [0, 2] ∧ lockstep (gang false) 0 = [0] ∧ issues (gang false) (.rejoin g0) = true := by
  decide +kernel

/-- REJOIN of both members releases the gang, which goes on together at its lead's place (R360). -/
theorem test_rejoin :
    (let a := (after (.rejoin g0) (gang false)).getD base
     let b := modCore { a with gangs := a.gangs.map fun g => { g with rejoined := g.rejoined ++ [(2, 0x1_0008)] } } 2 fun x => { x with rejoinWait := true }
     (after (.rejoinRelease 1) b).map fun t =>
       !(coreOf t 0).rejoinWait && !(coreOf t 2).rejoinWait && t.gangs.all (fun g => g.fused && g.joining)
         && (match after (.rejoin g0) t with
           | some u => decide ((coreOf u 0).pc = 0x1_0008 ∧ (coreOf u 2).pc = 0x1_0008) && u.gangs.all (fun g => g.fused && !g.joining)
           | none => false)) = some true := by
  decide +kernel

/-! ## Level-0 tile instructions -/

/-- A TNOP of level 0 (R100) with its context, at scratchpad offset 0x80; s26 holds its address. -/
def localTile : State :=
  let s := withS held [(26, 2 ^ 55 + 0x80)]
  spPut s 0 0x80 64 0

theorem witness_LocalTilesComplete :
    (let s := localTile
     let u := landed s
     let bad := spPut s 0 0x80 64 0x7F
     issues s (.tis (rrr 9 26 0 0)) && decide ((sA (actor s) (rrr 9 26 0 0)).toNat % 64 = 0)
       && (match tileAt u 0 (2 ^ 55 + 0x80) with | .ok (some _) => true | _ => false)
       && (match acceptCheck u 0 0 (tileOfBits 0) with | .ok os => (raiseReaders u 0 (newLocal u 0 1 (tileOfBits 0) os).inst.counts).isSome | _ => false)
       && (match acceptCheck (landed bad) 0 0 (tileOfBits 0x7F) with | .error _ => true | .ok _ => false)
       && issues bad (.tis (rrr 9 26 0 0)) && issues s (.tiwait (rrr 9 0 0 0)) && (actor s).l0q.isEmpty
       && (let t := (after (.tis (rrr 9 26 0 0)) s).getD base
           let v := withS t [(26, 1)]
           issues v (.tiwait (rrr 8 26 0 0)) && ((actor v).l0q.any fun l => !l.done))) = true := by
  decide +kernel

/-- TIS of an unknown opcode answers bit 63 with the cause of an unknown tile op in [23:16], and a TNOP its ticket (R219, R220). -/
theorem test_tis :
    [sAfter (.tis (rrr 9 26 0 0)) (spPut localTile 0 0x80 64 0x7F) 9, sAfter (.tis (rrr 9 26 0 0)) localTile 9,
      sAfter (.tiwait (rrr 9 0 0 0)) localTile 9]
      = [some (2 ^ 63 + 0x01 * 2 ^ 16), some 1, some 0] := by
  decide +kernel

/-! ## Vector operations -/

/-- A vector form of width 256 without a gate: fmt, fmt2, d, a, b, c, imm. -/
def vform (fmt fmt2 d a b c imm : Nat) : VF :=
  ⟨g0, 0, BitVec.ofNat 4 fmt, BitVec.ofNat 4 fmt2, 0, 0, BitVec.ofNat 4 d, BitVec.ofNat 4 a, BitVec.ofNat 4 b, BitVec.ofNat 4 c, 0, 0,
   BitVec.ofNat 14 imm⟩

/-- Vector registers of core 0 set from 32-bit elements, in both files. -/
def withV (s : State) (l : List (Nat × List Nat)) : State :=
  modCore s 0 fun x =>
    let put (v : Vector (BitVec 1024) 16) : Vector (BitVec 1024) 16 :=
      l.foldl (fun v q => v.setIfInBounds q.1 (BitVec.ofNat 1024 (packFields 32 q.2))) v
    { x with va := put x.va, vb := put x.vb }

/-- Elements of a VA register of core 0 after one operation and its landing: 256 bits of them. -/
def vAfter (i : Instr) (s : State) (n e : Nat) : Option (List Nat) :=
  (after i s).map fun t => (List.range (256 / e)).map fun j => fieldAt (rdV (coreOf (settled t) 0) false n).toNat e j

/-- Vectors: va1, va2, va3 floating; va5, va6 and va7 integer; va8 to va11 for the functions; ma1 = elements 0, 2 and 5. -/
def vecs : State :=
  let s := withV nums [(1, [0x3FC00000, 0xC0000000, 0x3E800000, 0x41000000, 0xBF000000, 0x40400000, 0x42C80000, 0xC0E00000]),
    (2, [0x40100000, 0x40800000, 0xBE000000, 0x3F000000, 0x41800000, 0xC0400000, 0x3E800000, 0x40000000]),
    (3, [0x3F800000, 0x3F800000, 0x40000000, 0xC0800000, 0, 0x41000000, 0xC1C80000, 0x41600000]),
    (5, [7, 0xFFFFFFFD, 0x7FFFFFFF, 0x80000000, 0x64, 0, 0xFFFFFFFF, 0xC]), (6, [5, 0xFFFFFFFD, 1, 0xFFFFFFFF, 7, 9, 2, 0x1F]), (7, [3, 8, 0xF, 0, 0x10, 7, 2, 9]),
    (8, [0x40800000, 0x41100000, 0x3E800000, 0x3F800000, 0x41800000, 0x42800000, 0x42C80000, 0x40100000]),
    (9, [0, 0x3F800000, 0xBF800000, 0x40400000, 0x40A00000, 0xC0400000, 0x41200000, 0x40000000]),
    (10, [0x3F800000, 0x40000000, 0x3F000000, 0x41000000, 0x42000000, 0x3E000000, 0x44800000, 0x40800000]),
    (11, [0, 0x3F000000, 0x3F800000, 0x3FC00000, 0x40200000, 0x40000000, 0xBF800000, 0x3F000000])]
  modCore s 0 fun x => { x with ma := x.ma.setIfInBounds 1 0x25 }

/-- Elements worked by hand from R226 to R247 (and exact binary values, so that every rounding is visible). -/
theorem test_vector_values_0 :
    (([
      (.vadd .va (vform 7 0 4 1 2 0 0), [0x40700000, 0x40000000, 0x3E000000, 0x41080000, 0x41780000, 0, 0x42C88000, 0xC0A00000]),
      (.vsub .va (vform 7 0 4 1 2 0 0), [0xBF400000, 0xC0C00000, 0x3EC00000, 0x40F00000, 0xC1840000, 0x40C00000, 0x42C78000, 0xC1100000]),
      (.vmul .va (vform 7 0 4 1 2 0 0), [0x40580000, 0xC1000000, 0xBD000000, 0x40800000, 0xC1000000, 0xC1100000, 0x41C80000, 0xC1600000]),
      (.vfma .va (vform 7 0 4 1 2 3 0), [0x408C0000, 0xC0E00000, 0x3FFC0000, 0, 0xC1000000, 0xBF800000, 0, 0]),
      (.vfms .va (vform 7 0 4 1 2 3 0), [0x40180000, 0xC1100000, 0xC0020000, 0x41000000, 0xC1000000, 0xC1880000, 0x42480000, 0xC1E00000]),
      (.vfnma .va (vform 7 0 4 1 2 3 0), [0xC0180000, 0x41100000, 0x40020000, 0xC1000000, 0x41000000, 0x41880000, 0xC2480000, 0x41E00000]),
      (.vmin .va (vform 7 0 4 1 2 0 0), [0x3FC00000, 0xC0000000, 0xBE000000, 0x3F000000, 0xBF000000, 0xC0400000, 0x3E800000, 0xC0E00000]),
      (.vmax .va (vform 7 0 4 1 2 0 0), [0x40100000, 0x40800000, 0x3E800000, 0x41000000, 0x41800000, 0x40400000, 0x42C80000, 0x40000000]),
      (.vabs .va (vform 7 0 4 1 0 0 0), [0x3FC00000, 0x40000000, 0x3E800000, 0x41000000, 0x3F000000, 0x40400000, 0x42C80000, 0x40E00000]),
      (.vneg .va (vform 7 0 4 1 0 0 0), [0xBFC00000, 0x40000000, 0xBE800000, 0xC1000000, 0x3F000000, 0xC0400000, 0xC2C80000, 0x40E00000]),
      (.vdiv .va (vform 7 0 4 1 2 0 0), [0x3F2AAAAB, 0xBF000000, 0xC0000000, 0x41800000, 0xBD000000, 0xBF800000, 0x43C80000, 0xC0600000])
    ] : List (Instr × List Nat)).all fun q => decide (vAfter q.1 vecs 4 32 = some q.2)) = true := by
  decide +kernel

/-- Elements worked by hand from R226 to R247 (and exact binary values, so that every rounding is visible). -/
theorem test_vector_values_1 :
    (([
      (.vadd .va (vform 3 0 4 5 6 0 0), [0xC, 0xFFFFFFFA, 0x80000000, 0x7FFFFFFF, 0x6B, 9, 1, 0x2B]),
      (.vmul .va (vform 3 0 4 5 6 0 0), [0x23, 9, 0x7FFFFFFF, 0x80000000, 0x2BC, 0, 0xFFFFFFFE, 0x174]),
      (.vmulh .va (vform 3 0 4 5 6 0 0), [0, 0, 0, 0, 0, 0, 0xFFFFFFFF, 0]),
      (.vsadd .va (vform 3 0 4 5 6 0 0), [0xC, 0xFFFFFFFA, 0x7FFFFFFF, 0x80000000, 0x6B, 9, 1, 0x2B]),
      (.vssub .va (vform 3 0 4 5 6 0 0), [2, 0, 0x7FFFFFFE, 0x80000001, 0x5D, 0xFFFFFFF7, 0xFFFFFFFD, 0xFFFFFFED]),
      (.vmin .va (vform 3 0 4 5 6 0 0), [5, 0xFFFFFFFD, 1, 0x80000000, 7, 0, 0xFFFFFFFF, 0xC]),
      (.vand .va (vform 3 0 4 5 6 0 0), [5, 0xFFFFFFFD, 1, 0x80000000, 4, 0, 2, 0xC]),
      (.vor .va (vform 3 0 4 5 6 0 0), [7, 0xFFFFFFFD, 0x7FFFFFFF, 0xFFFFFFFF, 0x67, 9, 0xFFFFFFFF, 0x1F]),
      (.vxor .va (vform 3 0 4 5 6 0 0), [2, 0, 0x7FFFFFFE, 0x7FFFFFFF, 0x63, 9, 0xFFFFFFFD, 0x13]),
      (.vnot .va (vform 3 0 4 5 0 0 0), [0xFFFFFFF8, 2, 0x80000000, 0x7FFFFFFF, 0xFFFFFF9B, 0xFFFFFFFF, 0, 0xFFFFFFF3]),
      (.vshl .va (vform 3 0 4 5 6 0 0), [0xE0, 0xA0000000, 0xFFFFFFFE, 0, 0x3200, 0, 0xFFFFFFFC, 0])
    ] : List (Instr × List Nat)).all fun q => decide (vAfter q.1 vecs 4 32 = some q.2)) = true := by
  decide +kernel

/-- Elements worked by hand from R226 to R247 (and exact binary values, so that every rounding is visible). -/
theorem test_vector_values_2 :
    (([
      (.vshr .va (vform 3 0 4 5 6 0 0), [0, 7, 0x3FFFFFFF, 1, 0, 0, 0x3FFFFFFF, 0]),
      (.vsra .va (vform 3 0 4 5 6 0 0), [0, 0xFFFFFFFF, 0x3FFFFFFF, 0xFFFFFFFF, 0, 0, 0xFFFFFFFF, 0]),
      (.vshl .va (vform 3 0 4 5 0 0 68), [0x70, 0xFFFFFFD0, 0xFFFFFFF0, 0, 0x640, 0, 0xFFFFFFF0, 0xC0]),
      (.vpopc .va (vform 3 0 4 5 0 0 0), [3, 0x1F, 0x1F, 1, 3, 0, 0x20, 2]),
      (.vclz .va (vform 3 0 4 5 0 0 0), [0x1D, 0, 1, 0, 0x19, 0x20, 0, 0x1C]),
      (.vsel .va { (vform 7 0 4 1 2 0 0) with mask := 1 }, [0x3FC00000, 0x40800000, 0x3E800000, 0x3F000000, 0x41800000, 0x40400000, 0x3E800000, 0x40000000]),
      (.vmov .va (vform 7 0 4 1 0 0 0), [0x3FC00000, 0xC0000000, 0x3E800000, 0x41000000, 0xBF000000, 0x40400000, 0x42C80000, 0xC0E00000]),
      (.vbcst .va (vform 7 0 4 1 0 0 6), [0x42C80000, 0x42C80000, 0x42C80000, 0x42C80000, 0x42C80000, 0x42C80000, 0x42C80000, 0x42C80000]),
      (.vbcst .va (vform 3 0 4 0 0 0 0x2FFE), [0xFFFFFFFE, 0xFFFFFFFE, 0xFFFFFFFE, 0xFFFFFFFE, 0xFFFFFFFE, 0xFFFFFFFE, 0xFFFFFFFE, 0xFFFFFFFE]),
      (.viota .va (vform 3 0 4 0 0 0 0x3FFF), [0xFFFFFFFF, 0, 1, 2, 3, 4, 5, 6]),
      (.vperm .va (vform 7 0 4 1 7 2 0), [0x41000000, 0x40100000, 0x40000000, 0x3FC00000, 0, 0xC0E00000, 0x3E800000, 0x40800000])
    ] : List (Instr × List Nat)).all fun q => decide (vAfter q.1 vecs 4 32 = some q.2)) = true := by
  decide +kernel

/-- Elements worked by hand from R226 to R247 (and exact binary values, so that every rounding is visible). -/
theorem test_vector_values_3 :
    (([
      (.vcmps .va { (vform 7 0 4 1 0 0 0) with mask := 1 }, [0x3FC00000, 0x3E800000, 0x40400000, 0, 0, 0, 0, 0]),
      (.vexpd .va { (vform 7 0 4 1 2 0 0) with mask := 1 }, [0x3FC00000, 0x40800000, 0xC0000000, 0x3F000000, 0x41800000, 0x3E800000, 0x3E800000, 0x40000000]),
      (.vshfl .va (vform 7 0 4 1 0 0 24), [0x41000000, 0xBF000000, 0x40400000, 0x42C80000, 0xC0E00000, 0x3FC00000, 0xC0000000, 0x3E800000]),
      (.vshfl .va (vform 7 0 4 1 0 0 25), [0x41000000, 0xBF000000, 0x40400000, 0x42C80000, 0xC0E00000, 0, 0, 0]),
      (.vshfl .va (vform 7 0 4 1 2 0 26), [0xC0400000, 0x3E800000, 0x40000000, 0x3FC00000, 0xC0000000, 0x3E800000, 0x41000000, 0xBF000000]),
      (.vshfl .va (vform 7 0 4 1 0 0 7), [0xC0E00000, 0x42C80000, 0x40400000, 0xBF000000, 0x41000000, 0x3E800000, 0xC0000000, 0x3FC00000]),
      (.vshfl .va (vform 7 0 4 1 2 0 3), [0x3FC00000, 0x40100000, 0xC0000000, 0x40800000, 0x3E800000, 0xBE000000, 0x41000000, 0x3F000000]),
      (.vred .va (vform 3 0 4 5 0 0 0), [0x72, 0, 0, 0, 0, 0, 0, 0]),
      (.vscan .va (vform 3 0 4 5 0 0 0), [7, 4, 0x80000003, 3, 0x67, 0x67, 0x66, 0x72]),
      (.vscan .va (vform 3 0 4 5 0 0 8), [0, 7, 4, 0x80000003, 3, 0x67, 0x67, 0x66]),
      (.vdot .va (vform 0 3 4 5 6 7 2), [0x26, 0x14, 0xE, 0x80, 0x2CC, 7, 0, 0x17D])
    ] : List (Instr × List Nat)).all fun q => decide (vAfter q.1 vecs 4 32 = some q.2)) = true := by
  decide +kernel

/-- Elements worked by hand from R226 to R247 (and exact binary values, so that every rounding is visible). -/
theorem test_vector_values_4 :
    (([
      (.vcvt .va (vform 7 3 4 1 0 0 0), [2, 0xFFFFFFFE, 0, 8, 0, 3, 0x64, 0xFFFFFFF9]),
      (.vcvt .va (vform 3 7 4 7 0 0 0), [0x40400000, 0x41000000, 0x41700000, 0, 0x41800000, 0x40E00000, 0x40000000, 0x41100000]),
      (.vsqrt .va (vform 7 0 4 8 0 0 0), [0x40000000, 0x40400000, 0x3F000000, 0x3F800000, 0x40800000, 0x41000000, 0x41200000, 0x3FC00000]),
      (.vrcp .va (vform 7 0 4 8 0 0 0), [0x3E800000, 0x3DE38E39, 0x40800000, 0x3F800000, 0x3D800000, 0x3C800000, 0x3C23D70A, 0x3EE38E39]),
      (.vexp2 .va (vform 7 0 4 9 0 0 0), [0x3F800000, 0x40000000, 0x3F000000, 0x41000000, 0x42000000, 0x3E000000, 0x44800000, 0x40800000]),
      (.vlog2 .va (vform 7 0 4 10 0 0 0), [0, 0x3F800000, 0xBF800000, 0x40400000, 0x40A00000, 0xC0400000, 0x41200000, 0x40000000]),
      (.vrsq .va (vform 7 0 4 10 0 0 0), [0x3F800000, 0x3F3504F3, 0x3FB504F3, 0x3EB504F3, 0x3E3504F3, 0x403504F3, 0x3D000000, 0x3F000000]),
      (.vsinpi .va (vform 7 0 4 11 0 0 0), [0, 0x3F800000, 0, 0xBF800000, 0x3F800000, 0, 0x80000000, 0x3F800000]),
      (.vcospi .va (vform 7 0 4 11 0 0 0), [0x3F800000, 0, 0xBF800000, 0, 0, 0x3F800000, 0xBF800000, 0]),
      (.vtanh .va (vform 7 0 4 0 0 0 0), [0, 0, 0, 0, 0, 0, 0, 0]),
      (.vsigm .va (vform 7 0 4 0 0 0 0), [0x3F000000, 0x3F000000, 0x3F000000, 0x3F000000, 0x3F000000, 0x3F000000, 0x3F000000, 0x3F000000])
    ] : List (Instr × List Nat)).all fun q => decide (vAfter q.1 vecs 4 32 = some q.2)) = true := by
  decide +kernel

/-! ## Vector masks, scaled formats and vector memory -/

/-- A vector form that names an iterator: fmt, fmt2, d, a, b, low bits of imm, iterator. -/
def vmem (fmt fmt2 d a b imm it : Nat) : VF := vform fmt fmt2 d a b 0 (imm + 1024 * it)

/-- Iterators 1 and 2 stand in the scratchpad at 0x40 and in the OWN pages; ma2 = elements 0 to 3; va12 holds the scale byte 1.0,
va13 bytes and va14 a codebook (0, 1, 2, −1, then zeros); va15 holds nibbles. -/
def vheld : State :=
  modCore (withV held [(1, [0x3FC00000, 0xC0000000, 0x3E800000, 0x41000000, 0xBF000000, 0x40400000, 0x42C80000, 0xC0E00000]),
    (2, [0x40100000, 0x40800000, 0xBE000000, 0x3F000000, 0x41800000, 0xC0400000, 0x3E800000, 0x40000000]),
    (5, [7, 0xFFFFFFFD, 0x7FFFFFFF, 0x80000000, 0x64, 0, 0xFFFFFFFF, 0xC]), (7, [3, 8, 0xF, 0, 1, 7, 2, 9]), (12, [0x807F]),
    (13, [0x0300FE02]), (14, [0x3F800000, 0xBF804000]), (15, [0x3210])]) 0 fun x =>
    { x with ma := (x.ma.setIfInBounds 1 0x25).setIfInBounds 2 0xF
             its := (x.its.setIfInBounds 1 { Iter.zero with base := BitVec.ofNat 56 (2 ^ 55 + 0x40) }).setIfInBounds 2
               { Iter.zero with base := 0x10_0000 } }

/-- A mask register of core 0's VA file after one operation and its landing. -/
def mAfter (i : Instr) (s : State) (n : Nat) : Option Nat := (after i s).map fun t => (rdM (coreOf (settled t) 0) false n).toNat

/-- The operation issues, and its elements can be read. -/
def hasElems (s : State) (i : Instr) (x : VSlot) (f : VF) : Bool :=
  issues s i && match vElems (landed s) s.cur x f with
    | .ok (some _) => true
    | .ok none => false
    | .error _ => false

/-- VCMP under every condition, the mask operations with and without inversion (R233, R235). -/
theorem test_masks :
    [mAfter (.vcmp .va (vform 7 0 3 1 2 0 2)) vheld 3, mAfter (.vcmp .va { (vform 7 0 3 1 1 0 5) with mask := 1 }) vheld 3,
      mAfter (.vcmp .va (vform 3 0 3 5 7 0 4)) vheld 3, mAfter (.vcmp .va (vform 7 0 3 1 2 0 1)) vheld 3,
      mAfter (.vmand .va (vform 0 0 3 1 2 0 0)) vheld 3, mAfter (.vmand .va (vform 0 0 3 1 2 0 2)) vheld 3,
      mAfter (.vmor .va (vform 0 0 3 1 2 0 0)) vheld 3, mAfter (.vmxor .va (vform 0 0 3 1 2 0 1)) vheld 3,
      mAfter (.vmnot .va (vform 0 0 3 1 0 0 0)) vheld 3]
      = [some 0x93, some 0x25, some 0x95, some 0xFF, some 5, some 0x20, some 0x2F, some (2 ^ 64 - 1 - 0x2A), some (2 ^ 64 - 0x26)] := by
  decide +kernel

/-- VMCNT counts, copies and sets (R235). -/
theorem test_vmcnt :
    (vAfter (.vmcnt .va (vform 4 0 4 1 0 0 0)) vheld 4 64, vAfter (.vmcnt .va (vform 4 0 4 1 0 0 1)) vheld 4 64,
      mAfter (.vmcnt .va (vform 4 0 3 5 0 0 2)) vheld 3)
      = (some [3, 0, 0, 0], some [0x25, 0, 0, 0], some 0xFFFF_FFFD_0000_0007) := by
  decide +kernel

/-- VQNT to INT8 at scale 1 counts the underflows 0.25 and −0.5; VDQN doubles at scale byte 128 (R238, R239). -/
theorem test_vqnt_vdqn :
    ((vAfter (.vqnt .va (vform 7 0 4 1 12 0 0)) vheld 4 8).map (·.take 9),
      (after (.vqnt .va (vform 7 0 4 1 12 0 32)) vheld).map fun t => ((settled t).cores.map fun _ => (coreOf (settled t) 0).ufcnt.toList.map (·.toNat))[0]?,
      vAfter (.vdqn .va (vform 0 7 4 13 12 0 1)) vheld 4 32)
      = (some [2, 0xFE, 0, 8, 0, 3, 0x64, 0xF9, 0],
        some (some [0xFFFF_0000_0000_0000, 0xFFFF_0002_0000_0002, 0xFFFF_0000_0000_0000, 0xFFFF_0000_0000_0000]),
        some [0x40800000, 0xC0800000, 0, 0x40C00000, 0, 0, 0, 0]) := by
  decide +kernel

/-- The codebook forms: entries of the nibbles 0, 1, 2, 3 and the nearest indices (R240, R45); VAMAX of the one block (R241). -/
theorem test_codebook_vamax :
    (vAfter (.vcbx .va (vform 12 7 4 15 14 0 0)) vheld 4 32, (vAfter (.vcbq .va (vform 7 12 4 1 14 0 0)) vheld 4 4).map (·.take 9),
      vAfter (.vamax .va (vform 7 0 4 1 0 0 0)) vheld 4 32)
      = (some [0, 0x3F800000, 0x40000000, 0xBF800000, 0, 0, 0, 0], some [1, 3, 0, 2, 0, 2, 2, 3, 0],
        some [0x42C80000, 0, 0, 0, 0, 0, 0, 0]) := by
  decide +kernel

/-- VXV moves to the other file and lands in 2 (R242). -/
theorem test_vxv :
    ((after (.vxv .va (vform 3 0 4 5 0 0 0)) vheld).map fun t =>
      ((rdV (coreOf (settled t) 0) true 4).toNat % 2 ^ 64, (rdV (coreOf (settled t) 0) false 4).toNat)) = some (0xFFFF_FFFD_0000_0007, 0) := by
  decide +kernel

/-- VST and VSCT write the scratchpad, VLD and VGTH read it back (R248, R249). -/
theorem test_vector_scratchpad :
    (let t := (after (.vst .va (vmem 3 0 0 5 0 0 1)) vheld).getD base
     let u := (after (.vsct .va { (vmem 3 3 0 5 7 0 1) with mask := 2 }) t).getD base
     (spNum t 0 0x44 4, vAfter (.vld .va (vmem 3 0 4 0 0 0 1)) t 4 32, vAfter (.vgth .va { (vmem 3 3 4 0 7 0 1) with mask := 2 }) t 4 32,
       [spNum u 0 0x40 4, spNum u 0 0x4C 4, spNum u 0 0x60 4, spNum u 0 0x7C 4]))
      = (0xFFFFFFFD, some [7, 0xFFFFFFFD, 0x7FFFFFFF, 0x80000000, 0x64, 0, 0xFFFFFFFF, 0xC],
        some [0x80000000, 0, 0, 7, 0, 0, 0, 0], [0x80000000, 7, 0xFFFFFFFD, 0x7FFFFFFF]) := by
  decide +kernel

/-- A vector load from memory waits, its loads perform, and it completes with their data (R253, R176). -/
theorem test_vector_memory_load :
    (let s := setMem vheld [(0x10_0000, 7), (0x10_0008, 9)]
     let i : Instr := .vld .va { (vmem 3 0 4 0 0 0 2) with mask := 1 }
     let t := (after i s).getD base
     let p := (List.range 3).foldl (fun u _ => (after (.loadPerform 0 0) u).getD base) t
     ((coreOf t 0).loads.length, (coreOf t 0).waiting.isSome, (coreOf p 0).loads.length,
       vAfter i { p with agenda := [] } 4 32)) = (3, true, 0, some [7, 0, 9, 0, 0, 0, 0, 0]) := by
  decide +kernel

/-- VAMO.add on the scratchpad adds each element and returns the old ones (R251). -/
theorem test_vamo :
    (let t := (after (.vst .va (vmem 3 0 0 5 0 0 1)) vheld).getD base
     let i : Instr := .vamo .va (vmem 3 0 4 5 0 17 1)
     ((after i t).map fun u => [spNum u 0 0x40 4, spNum u 0 0x44 4, spNum u 0 0x4C 4], (vAfter i t 4 32).map (·.take 3)))
      = (some [14, 0xFFFFFFFA, 0], some [7, 0xFFFFFFFD, 0x7FFFFFFF]) := by
  decide +kernel

/-- VACC of elements 0 and 2 into descriptor 2 (held at 0x11_0000, 8 bytes each), and VAPP of them to descriptor 3 (R250, R252). -/
theorem test_vacc_vapp :
    (let s := modCore (withV ((after (.gjoin (rrr 0 0 0 5)) vheld).getD base) [(3, [handle 2]), (4, [handle 3])]) 0 fun x =>
       { x with ma := x.ma.setIfInBounds 1 5, its := x.its.setIfInBounds 3 { Iter.zero with base := 0x11_0000 } }
     let run (t : State) : State := (List.range 2).foldl (fun u _ => (after (.storeApply 0 0) u).getD base) t
     let a := run ((after (.vacc .va { (vmem 3 0 0 5 3 0 3) with mask := 1 }) s).getD base)
     let a := (List.range 2).foldl (fun u _ => (after (.accCombine 0) u).getD base) a
     let p := run ((after (.vapp .va { (vform 3 0 0 5 4 0 0) with mask := 1 }) s).getD base)
     (memNum a.mem 0x11_0000 8, memNum a.mem 0x11_0010 8, memNum p.mem 0x12_0000 8, (recOf p 0 3 1).appended))
      = (7, 0x7FFFFFFF, 0x7FFFFFFF_0000_0007, 2) := by
  decide +kernel

/-- The lowest faulting element decides (R255): elements past the scratchpad's end, TDETAIL = slot and element. -/
theorem test_vector_trap :
    trapAfter (.vst .va (vmem 3 0 0 5 0 0 1)) (modCore vheld 0 fun x =>
      { x with its := x.its.setIfInBounds 1 { Iter.zero with base := BitVec.ofNat 56 (2 ^ 55 + 2 ^ 23 - 8) } })
      = some (0x0A, 0x1_0000, 2 ^ 55 + 2 ^ 23, 0x102) := by
  decide +kernel

theorem witness_VectorArithmeticAndOrderComplete :
    (let f := vform 7 0 4 1 2 0 0
     let g := vform 3 0 4 5 7 0 0
     ([(.vadd .va f, f), (.vsub .va f, f), (.vmul .va f, f), (.vfma .va f, f), (.vfms .va f, f), (.vfnma .va f, f), (.vdiv .va f, f),
       (.vmin .va f, f), (.vmax .va f, f), (.vabs .va f, f), (.vneg .va f, f), (.vmulh .va g, g), (.vsadd .va g, g), (.vssub .va g, g),
       (.vadd .va g, g)] : List (Instr × VF)).all fun q => hasElems vheld q.1 .va q.2) = true := by
  decide +kernel

theorem witness_VectorLogicAndMasksComplete :
    (let f := vform 3 0 4 5 7 0 0
     let n (k : Nat) : VF := vform 4 0 4 5 0 0 k
     let k := vform 3 0 4 5 0 0 95
     ([(.vand .va f, f), (.vor .va f, f), (.vxor .va f, f), (.vnot .va f, f), (.vshl .va f, f), (.vshr .va f, f), (.vsra .va f, f),
       (.vshl .va k, k), (.vpopc .va f, f), (.vclz .va f, f), (.vcmp .va f, f), (.vsel .va f, f), (.vmand .va f, f), (.vmor .va f, f), (.vmxor .va f, f),
       (.vmnot .va f, f), (.vmcnt .va (n 0), n 0), (.vmcnt .va (n 1), n 1), (.vmcnt .va (n 2), n 2)] : List (Instr × VF)).all fun q =>
         hasElems vheld q.1 .va q.2) = true := by
  decide +kernel

theorem witness_ConversionsAndMovesComplete :
    (let f := vform 7 3 4 1 12 14 0
     let g (k : Nat) : VF := vform 7 3 4 1 2 0 k
     ((([(.vcvt .va f, f), (.vqnt .va f, f), (.vdqn .va f, f), (.vcbx .va f, f), (.vcbq .va f, f), (.vamax .va f, f), (.vmov .va f, f),
       (.vbcst .va (g 6), g 6), (.vbcst .va (g 0x2FFE), g 0x2FFE), (.viota .va f, f), (.vperm .va f, f), (.vcmps .va f, f),
       (.vexpd .va f, f), (.vxv .va f, f)] : List (Instr × VF)) ++ (List.range 8).map fun k => (Instr.vshfl .va (g k), g k)).all fun q =>
         hasElems vheld q.1 .va q.2)) = true := by
  decide +kernel

theorem witness_ReductionsAndFunctionsComplete :
    (let f := vform 7 0 4 1 2 5 0
     ([.vred .va f, .vscan .va f, .vdot .va f, .vexp2 .va f, .vlog2 .va f, .vrcp .va f, .vrsq .va f, .vsqrt .va f, .vsinpi .va f,
       .vcospi .va f, .vtanh .va f, .vsigm .va f].all fun i => hasElems vheld i .va f)) = true := by
  decide +kernel

theorem witness_VectorLoadsAndStoresComplete :
    (let u := landed vheld
     let x := actor vheld
     let sp := vmem 3 3 4 5 7 0 1
     let me := { vmem 3 3 4 5 7 0 2 with mask := 1 }
     let done := modCore vheld 0 fun y => { y with vwaits := [⟨1, 0, [], [(0, 7)]⟩] }
     let stuck := modCore vheld 0 fun y => { y with vwaits := [⟨1, 0, [(0, 7)], []⟩], sq := [⟨5, .mem 0, .store [(7, 0xFF, 1)], some 9, false, 0⟩] }
     let back (s : State) : Option Bool := ((actor s).vwaits.find? fun w => decide (w.slot = 1)).map fun w =>
       (arrivedData (modCore (landed s) 0 fun y => { y with vwaits := y.vwaits.filter fun w => decide (w.slot ≠ 1) }) 0 4 w).isSome
     let off := { vmem 3 3 4 5 7 0 0 with mask := 1 }
     let at_ (f : VF) (n : Nat) (a : Access) (is : List Nat) : Bool := okay (placesOf u 0 1 n a (contigVa x f) is)
     let ix (f : VF) (n : Nat) (a : Access) (is : List Nat) : Bool :=
       okay (placesOf u 0 1 n a (indexVa x f (vB u 0 false f)) is)
     let is (f : VF) : List Nat := actives (vMask x false f) 8
     ([sp, me, off].all fun f => hasElems vheld (.vld .va f) .va f && hasElems vheld (.vgth .va f) .va f
         && hasElems vheld (.vst .va f) .va f && hasElems vheld (.vsct .va f) .va f && hasElems done (.vld .va f) .va f
         && hasElems stuck (.vgth .va f) .va f)
       && decide (back done = some true ∧ back stuck = some false)
       && ([sp, me].all fun f => at_ f 4 .load (is f) && ix f 4 .load (is f) && at_ f 4 .store (is f) && ix f 4 .store (is f))
       && !at_ off 4 .load (is off) && !ix off 4 .store (is off)
       && (is sp).all (fun i => isSp (contigVa x sp i)) && !isSp (contigVa x me 0)) = true := by
  decide +kernel

theorem witness_VectorAddsAtomicsAndAppendsComplete :
    (let s := modCore (withV ((after (.gjoin (rrr 0 0 0 5)) vheld).getD base) [(3, [handle 2]), (4, [handle 3])]) 0 fun x =>
       { x with ma := x.ma.setIfInBounds 1 5, its := x.its.setIfInBounds 3 { Iter.zero with base := 0x11_0000 } }
     let u := landed s
     let x := actor s
     let fa := { vmem 3 0 0 5 3 0 3 with mask := 1 }
     let fp := { vform 3 0 0 5 4 0 0 with mask := 1 }
     let fm := vmem 3 0 4 5 0 17 1
     hasElems s (.vacc .va fa) .va fa && hasElems s (.vapp .va fp) .va fp && hasElems s (.vamo .va fm) .va fm
       && (match slotHandle u 0 1 (BitVec.ofNat 64 (vB u 0 false fa)) with
         | .ok q => decide (isIntCode 3 = isIntCode (dFmt q.1))
             && okay (accPlaces u 0 1 (BitVec.ofNat 64 (vB u 0 false fa)) q.1 (fun i => itAddr (itOf x 3) + i * holdSize q.1) [0, 2])
         | .error _ => false)
       && okay (placesOf u 0 1 4 .atomic (contigVa x fm) [0, 1, 2, 3, 4, 5, 6, 7])
       && (match slotHandle u 0 1 (BitVec.ofNat 64 (vB u 0 false fp)), appendCheck u 0 1 (BitVec.ofNat 64 (vB u 0 false fp)) 2 with
         | .ok q, .ok r => decide (dFmt q.1 = 3) && okay (appendPages u 0 1 r.1 r.2.issued [0, 1])
         | _, _ => false)) = true := by
  decide +kernel

theorem witness_VectorHeadTraps :
    (let f := { vform 3 0 4 5 7 0 0 with hsub := 1, head := 2 }
     let i : Instr := .vadd .va f
     let bound (ew : Nat) : State := modCore vheld 0 fun x => setHead x 2 { headOf x 2 with bound := true, ew := ew }
     let ended := putRec (modCore vheld 0 fun x => setHead x 2 { headOf x 2 with bound := true, ew := vW f / 8, src := .str, srcv := BitVec.ofNat 64 (handle 3) })
       { recOf vheld 0 3 1 with closed := true, consumer := some 0 }
     let y (s : State) : Head := headOf (coreOf (landed s) 0) 2
     let q := headSupply (landed ended) 0 (y ended)
     ([vheld, bound 1, ended].all fun s => issues s i) && (match vUses i with | some u => decide (u.f = f) | none => false)
       && !(y vheld).bound && (y (bound 1)).bound && decide (8 * (y (bound 1)).ew ≠ vW f)
       && (y ended).bound && decide ((y ended).pptr = (y ended).cptr ∧ (y ended).src = .str ∧ q.offered ≤ q.fetched) && q.closed) = true := by
  decide +kernel

/-- A head that is not bound, and one of another width, trap with their number (R229, R319). -/
theorem test_vector_head_trap :
    ([vheld, modCore vheld 0 fun x => setHead x 2 { headOf x 2 with bound := true, ew := 1 }].map fun s =>
      (trapAfter (.vadd .va { vform 3 0 4 5 7 0 0 with hsub := 1, head := 2 }) s).map (fun q => (q.1, q.2.2.2))) = [some (0x0D, 2), some (0x0D, 2)] := by
  decide +kernel

theorem witness_VectorOperationsFrame :
    (after (.vadd .va (vform 7 0 4 1 2 0 0)) vheld).isSome = true := by
  decide +kernel

/-! ## M, K and C slots -/

/-- An iterator with one level. -/
def walker (b stride count : Nat) : Iter :=
  { Iter.zero with base := BitVec.ofNat 56 b, l0 := ⟨BitVec.ofNat 16 count, BitVec.ofNat 32 stride, 0⟩ }

/-- Channels 0 (INT32, tiles of 16 elements, from core 0 to core 2) and 1 (back), R384. -/
def channelCells : List Host.Cell := [
    (0x3803, 0x08), (0x3804, 0x04), (0x3806, 0x9B), (0x3807, 0x81), (0x380A, 0x01), (0x380B, 0x02), (0x3811, 0x39),
    (0x3843, 0x08), (0x3844, 0x04), (0x3846, 0x9B), (0x3847, 0x81), (0x384A, 0x01), (0x384B, 0x02), (0x3850, 0x08),
    (0x3851, 0x39), (0x3904, 0x02), (0x3908, 0x02)]

/-- Core 0 with the iterators and scratchpad lines of the worked accumulation, iterators 3 and 4 for images and records, k1 and
descriptor register pairs: ea0 copies 64 bytes from 0x40 to 0x80 of the scratchpad, ea2 binds 8 entries of 32 bytes at 0x400, ea4
sends 64 bytes, and ea6 is a multicast to cluster 0. -/
def mheld : State :=
  let s := [(0x0, 0x3F80_3F80_3F80_3F80_3F80_3F80_3F80_4B80), (0x10, 0x4100_40E0_40C0_40A0_4080_4040_4000_3F80),
    (0x1000, 0x3F80_3F80_3F80_3F80_3F80_3F80_3F80_3F80), (0x1010, 0x3F80_3F80_3F80_3F80_3F80_3F80_3F80_0000), (0x1020, 0x3F80)].foldl
      (fun s q => spPut s 0 q.1 16 q.2) (setMem held (channelCells ++ tables))
  let sp (n : Nat) : Nat := 2 ^ 55 + n
  modCore s 0 fun x =>
    { x with
      its := [(1, walker (sp 0) 16 64), (2, walker (sp 0x1000) 16 128), (3, walker (sp 0x2000) 0 0), (4, walker 0x10_0000 4 2),
        (5, walker (sp 0x2020) 0 0), (6, walker (sp 0x3000) 0 0), (7, walker 0x20_0000 0 0)].foldl (fun v q => v.setIfInBounds q.1 q.2) x.its
      k := (x.k.setIfInBounds 1 0x1122_3344_5566_7788_99AA)
      ea := [(0, 64 * 2 ^ 96), (1, sp 0x80 * 2 ^ 64 + sp 0x40), (2, 256 * 2 ^ 96), (3, sp 0x400 * 2 ^ 64), (4, 64 * 2 ^ 96),
        (5, sp 0x100 * 2 ^ 64 + sp 0x40), (6, 2 ^ 224 + 64 * 2 ^ 96), (7, sp 0x80 * 2 ^ 64 + sp 0x40)].foldl
          (fun v (q : Nat × Nat) => v.setIfInBounds q.1 (BitVec.ofNat 256 q.2)) x.ea }

/-- Operations one after another, none where one stops. -/
def runs (l : List Instr) (s : State) : Option State := l.foldl (fun o i => o.bind (after i)) (some s)

/-- An M form: formats, bank, walks, kc, sel, ext. -/
def mform (fa fb ia ib kc sel ext : Nat) : MF :=
  ⟨g0, BitVec.ofNat 4 fa, BitVec.ofNat 4 fb, 0, BitVec.ofNat 4 ia, BitVec.ofNat 4 ib, BitVec.ofNat 6 kc, BitVec.ofNat 3 sel, BitVec.ofNat 27 ext⟩

/-- A K form. -/
def kform (dst src imm : Nat) : KF := ⟨g0, BitVec.ofNat 4 dst, BitVec.ofNat 4 src, BitVec.ofNat 15 imm⟩

/-- A C form: descriptor register, iterator, channel, opnds. -/
def cform (desc iter chan opnds : Nat) : CF := ⟨g0, BitVec.ofNat 4 desc, BitVec.ofNat 4 iter, BitVec.ofNat 8 chan, BitVec.ofNat 38 opnds⟩

/-- The worked accumulation of R269: ACLR of 2 rows and 3 columns, the BF16 product, and the drain of both rows into va4 and va8. -/
theorem test_worked_accumulation :
    (let t := (runs [.aclr (mform 0 0 0 0 0 0 0x103), .mma (mform 9 9 1 2 1 4 0), .mdrn (mform 7 0 0 4 2 0 0x8000), .arrayOpStart 0,
       .arrayOpComplete 0, .arrayOpStart 0, .arrayOpComplete 0, .arrayOpStart 0, .arrayOpComplete 0] mheld).getD base
     ((coreOf t 0).arrayQ.length, (rdV (coreOf (settled t) 0) false 4).toNat, (rdV (coreOf (settled t) 0) false 8).toNat,
       itAddr (itOf (coreOf t 0) 1)))
      = (0, 0x4B800000_40E00000_4B800004, 0x3F800000_420C0000_42100000, 2 ^ 55) := by
  decide +kernel

/-- MMAS with K-block 0 skipped leaves +0 in the accumulator (R269, R270): KBM = k2, whose bit 0 is set. -/
theorem test_mmas :
    (let s := modCore mheld 0 fun x => { x with k := x.k.setIfInBounds 2 1 }
     let t := (runs [.aclr (mform 0 0 0 0 0 0 0x81), .mmas (mform 9 9 1 2 1 0 (2 * 2 ^ 9)), .arrayOpStart 0, .arrayOpComplete 0,
       .arrayOpStart 0, .arrayOpComplete 0] s).getD base
     let u := (runs [.aclr (mform 0 0 0 0 0 0 0x81), .mmas (mform 9 9 1 2 1 0 (3 * 2 ^ 9)), .arrayOpStart 0, .arrayOpComplete 0,
       .arrayOpStart 0, .arrayOpComplete 0] s).getD base
     (wordAt (bankOf t 0 0) 0 0, wordAt (bankOf u 0 0) 0 0)) = (0, 0x4B80_0004) := by
  decide +kernel

/-- MGTH fills the latch with row 0 of the walk, and MMAG multiplies it (R271). -/
theorem test_mgth_mmag :
    (let s := modCore mheld 0 fun x => { x with its := (x.its.setIfInBounds 1 (walker (2 ^ 55 + 0x10) 0 0)).setIfInBounds 6 (walker (2 ^ 55 + 0x3000) 0 0) }
     let t := (runs [.aclr (mform 0 0 0 0 0 0 0x81), .mgth (mform 9 0 1 6 1 0 0), .mmag (mform 9 9 0 2 1 0 0), .arrayOpStart 0, .arrayOpComplete 0,
       .arrayOpStart 0, .arrayOpComplete 0, .arrayOpStart 0, .arrayOpComplete 0] s).getD base
     wordAt (bankOf t 0 0) 0 0) = 0x42100000 := by
  decide +kernel

/-- ASW exchanges the bank names (R272), and MWAIT waits while its bank has a queued operation (R277). -/
theorem test_asw_mwait :
    (let t := (runs [.asw (mform 0 0 0 0 0 0 0)] mheld).getD base
     let q := (runs [.aclr (mform 0 0 0 0 0 0 0x103)] mheld).getD base
     (mBank mheld 0 (mform 0 0 0 0 0 0 0), mBank (settled t) 0 (mform 0 0 0 0 0 0 0),
       (after (.mwait (mform 0 0 0 0 0 0 0)) q).map fun u => (coreOf u 0).waiting.isSome,
       (after (.mwait (mform 0 0 0 0 0 0 0)) mheld).map fun u => (coreOf u 0).waiting.isSome)) = (0, 1, some true, some false) := by
  decide +kernel

/-- ASPL and AFIL queue the image of their walk's address; a misaligned one traps with the slot's address (R273). -/
theorem test_aspl_afil :
    (let q (i : Instr) : Option (List (List Nat × Nat)) := (after i mheld).map fun t => (coreOf t 0).arrayQ.map fun o => (o.walkA, o.out)
     let s := modCore mheld 0 fun x => { x with its := x.its.setIfInBounds 3 (walker (2 ^ 55 + 0x2008) 0 0) }
     (q (.aspl (mform 0 0 3 0 0 0 0)), q (.afil (mform 0 0 3 0 0 0 0)), (trapAfter (.aspl (mform 0 0 3 0 0 0 0)) s).map fun q => (q.1, q.2.2.1)))
      = (some [([2 ^ 55 + 0x2000], 0)], some [([2 ^ 55 + 0x2000], 0)], some (0x09, 2 ^ 55 + 0x2008)) := by
  decide +kernel

/-- PRJA with set 1 (the box) drains into va4 and writes its record (R294, R295): a fork of the array queue. -/
theorem test_prja :
    ((after (.prja (mform 7 0 3 4 1 1 0x8000)) mheld).map fun t => ((coreOf t 0).arrayQ.map fun o => (o.vaDst, o.walkA)))
      = some [([4, 5, 6, 7], [2 ^ 55 + 0x2000])] := by
  decide +kernel

theorem witness_ArrayOperationsQueue :
    (let u := landed mheld
     let x := actor mheld
     let f := mform 9 9 1 2 1 4 0
     let q := (runs [.aclr (mform 0 0 0 0 0 0 0x103)] mheld).getD base
     let m := modCore mheld 0 fun x => { x with latch := { x.latch with fmt := 9, kc := 1 } }
     let g := mform 9 0 1 6 1 0 0
     let e := arrayEntry u 0 (.mma f) (mBank u 0 f)
     let wq := (runs [.aspl (mform 0 0 6 0 0 0 0)] mheld).getD base
     let il := spOff (itAddr (itOf x 6))
     issues mheld (.mma f) && issues mheld (.mmas f) && issues m (.mmag (mform 9 9 0 2 1 0 0)) && issues mheld (.mgth g)
       && (feederCheck u (itWalk 64 (itOf x 1)) 64 e.mr 1 16 false).isNone && (feederCheck u (itWalk 128 (itOf x 2)) 128 e.mc 1 16 false).isNone
       && decide ((actor m).latch.fmt = 9 ∧ (actor m).latch.kc = 1) && (mLine u (itAddr (itOf x 6)) 256 4).isNone
       && (gatherCheck ((List.range 64).map fun _ => itAddr (itOf x 1)) 16 2).isNone && (mLine u (itAddr (itOf x 1)) 2 2).isNone
       && !writePending u 0 il 256 && issues wq (.mgth g) && writePending (landed wq) 0 il 256
       && issues mheld (.mwait (mform 0 0 0 0 0 1 0)) && issues q (.mwait (mform 0 0 0 0 0 1 0)) && issues q (.mwait (mform 0 0 0 0 0 0 0))
       && decide ((actor q).arrayQ ≠ []) && decide (x.arrayQ = [])) = true := by
  decide +kernel

theorem witness_BanksAndDrainsQueue :
    (let s := (after (.gjoin (rrr 0 0 0 5)) (modCore mheld 0 fun x =>
       { x with k := x.k.setIfInBounds 3 (BitVec.ofNat 256 (handle 2 * 2 ^ 192)),
                its := x.its.setIfInBounds 8 (walker 0x11_0000 8 1) })).getD base
     let u := landed s
     let x := actor s
     let small := modBank s 0 0 fun b => { b with mr := 2, mc := 1, imr := 2, imc := 1 }
     let v := landed small
     let mem := mform 3 0 0 4 2 0 0
     let acc := mform 3 0 0 8 1 0 (3 * 2 ^ 23 + 2 * 2 ^ 15)
     issues s (.aclr (mform 0 0 0 0 0 0 0x103)) && issues s (.asw (mform 0 0 0 0 0 0 0)) && issues s (.aspl (mform 0 0 3 0 0 0 0))
       && okay (imageCheck u 0 (itAddr (itOf x 3)) .store) && issues s (.afil (mform 0 0 3 0 0 0 0)) && okay (imageCheck u 0 (itAddr (itOf x 3)) .load)
       && issues s (.aspl (mform 0 0 7 0 0 0 0)) && !okay (imageCheck u 0 (itAddr (itOf x 7)) .store)
       && issues s (.afil (mform 0 0 7 0 0 0 0)) && !okay (imageCheck u 0 (itAddr (itOf x 7)) .load)
       && issues s (.mdrn (mform 7 0 0 4 2 0 0x8000)) && issues small (.mdrn mem)
       && okay (drainKeys v 0 4 1 false (itWalk 2 (itOf (actor small) 4)) (activeRows mem 2) [0, 1])
       && issues small (.mdrn acc) && okay (slotHandle v 0 3 (drainHandle (actor small) acc)) && isIntCode (dFmt (descOf v 0 2))
       && okay (addKeys v 0 (drainHandle (actor small) acc) (descOf v 0 2) 1 (itWalk 1 (itOf (actor small) 8)) (activeRows acc 2) (List.range (count64 acc.kc)))
       && issues small (.prja (mform 7 0 3 4 1 1 0x8000)) && (rowsCheck v (itWalk 1 (itOf (actor small) 3)) 32 32 [0]).isNone
       && issues small (.prja (mform 7 0 3 5 1 1 0)) && okay (drainKeys v 0 4 1 true (itWalk 1 (itOf (actor small) 5)) [0] [0])) = true := by
  decide +kernel

/-- KLDS reads what KSTS wrote, KMOV copies to kb and KSEED sets SEEDKEY (R280). -/
theorem test_k_moves :
    (let t := (after (.ksts (kform 0 1 3)) mheld).getD base
     let l := settled ((after (.klds (kform 5 0 3)) t).getD base)
     let c := settled ((after (.kldc (kform 2 0 3)) t).getD base)
     let m := settled ((after (.kmov (kform 3 1 1)) mheld).getD base)
     let n := settled ((after (.kmov (kform 6 3 2)) m).getD base)
     let e := settled ((after (.kseed (kform 0 1 0)) mheld).getD base)
     [(spNum t 0 0x2000 32), (rdK (coreOf l 0) 5).toNat, (rdKb (coreOf c 0) 2).toNat, (rdKb (coreOf m 0) 3).toNat, (rdK (coreOf n 0) 6).toNat,
       (coreOf e 0).seedkey.toNat])
      = [0x1122_3344_5566_7788_99AA, 0x1122_3344_5566_7788_99AA, 0x1122_3344_5566_7788_99AA, 0x1122_3344_5566_7788_99AA,
        0x1122_3344_5566_7788_99AA, 0x3344_5566_7788_99AA] := by
  decide +kernel

/-- KAUTO of E4M3 from amax 448, 896, 0 and NaN: the scales 1, 2, 1 and the invalid one (R281, R50). -/
theorem test_kauto :
    (let s := spPut mheld 0 0x2000 16 0x7FC00000_00000000_44600000_43E00000
     ((after (.kauto (kform 5 0 (0x30A0 + 3))) s).map fun t => (rdK (coreOf (settled t) 0) 5).toNat)) = some (0x7F7F_7F7F_FF7F_807F * 2 ^ 64) := by
  decide +kernel

/-- KUFC clears one field of a counter (R280). -/
theorem test_kufc :
    (let s := modCore mheld 0 fun x => { x with ufcnt := x.ufcnt.setIfInBounds 2 0xFFFF_0003_0000_0005 }
     ((after (.kufc (kform 0 0 6)) s).map fun t => ((coreOf (settled t) 0).ufcnt[2]?.getD 0).toNat,
       (after (.kufc (kform 0 0 10)) s).map fun t => ((coreOf (settled t) 0).ufcnt[2]?.getD 0).toNat))
      = (some 0xFFFF_0003_0000_0000, some 0xFFFF_0000_0000_0005) := by
  decide +kernel

/-- ITSTEP steps once, ITRST and ITLVL set every index to 0, ITLVL the count (R170, R280); ITREV goes to the last place (R171). -/
theorem test_iterators_k :
    (let t := (after (.itstep (kform 4 0 0)) mheld).getD base
     let f (i : Instr) (s : State) : Option (Nat × Nat) := (after i s).map fun u =>
       (itAddr (itOf (coreOf (settled u) 0) 4), (itOf (coreOf (settled u) 0) 4).l0.count.toNat)
     [f (.itstep (kform 4 0 0)) mheld, f (.itrst (kform 4 0 0)) t, f (.itlvl (kform 4 0 (5 * 4))) t, f (.itrev (kform 4 0 0)) mheld])
      = [some (0x10_0004, 2), some (0x10_0000, 2), some (0x10_0000, 5), some (0x10_0004, 2)] := by
  decide +kernel

theorem witness_ScaleSlotCompletes :
    (let x := actor mheld
     let ok (i : Instr) (f : KF) : Bool := issues mheld i && isSp (itAddr (itOf x (bitsOf f.imm 3 0)))
       && spBounds (itAddr (itOf x (bitsOf f.imm 3 0))) 32 && decide (itAddr (itOf x (bitsOf f.imm 3 0)) % 32 = 0)
     let f := kform 2 1 3
     ok (.klds f) f && ok (.kldc f) f && ok (.ksts f) f && ok (.kauto (kform 5 0 (0x30A0 + 3))) (kform 5 0 (0x30A0 + 3))
       && ([0, 1, 2].all fun n => issues mheld (.kmov (kform 2 1 n))) && issues mheld (.kufc (kform 0 0 6)) && issues mheld (.itlvl (kform 4 0 20))
       && issues mheld (.itrst (kform 4 0 0)) && issues mheld (.itrev (kform 4 0 0)) && issues mheld (.itstep (kform 4 0 0))
       && issues mheld (.kseed (kform 0 1 0))) = true := by
  decide +kernel

/-- A copy of one line in the scratchpad: its read, its write and its completion (R316, R314). -/
theorem test_copy :
    (let t := (after (.copy .ca (cform 0 0 0 0)) (spPut mheld 0 0x40 8 0xABCD)).getD base
     let id := ((clusterOf t 0).engine.map (·.id)).headD 0
     let u := (runs [.threadLineAccess 0 id 0, .threadLineAccess 0 id 1, .engineOpComplete 0 id] t).getD base
     ((clusterOf t 0).engine.length, spNum t 0 0x80 8, spNum u 0 0x80 8, (clusterOf u 0).engine.length)) = (1, 0, 0xABCD, 0) := by
  decide +kernel

/-- The CRC-64 worked in R328: the bytes 0x31 to 0x39 give 0x995D_C9BB_DF19_39FA. -/
theorem test_chks :
    (let image : List Host.Cell := tables.filter (fun q => decide (q.1 < 0x4180))
       ++ [(0x4182, 0x13), (0x4187, 0x81), (0x4188, 1), (0x418C, 1), (0x419C, 9), (0x41AB, 1)] ++ tables.filter (fun q => decide (0x4180 ≤ q.1))
       ++ (List.range 9).map fun i => (0x13_0000 + i, BitVec.ofNat 8 (0x31 + i))
     let s := modCore (setMem mheld image) 0 fun x =>
       { x with ea := (x.ea.setIfInBounds 0 (BitVec.ofNat 256 (9 * 2 ^ 96))).setIfInBounds 1 (BitVec.ofNat 256 (handle 6)) }
     let t := (after (.chks .ca (cform 0 3 0 (2 ^ 37))) s).getD base
     let id := ((clusterOf t 0).engine.map (·.id)).headD 0
     let u := (runs [.threadLineAccess 0 id 0, .threadLineAccess 0 id 1, .threadLineAccess 0 id 2, .threadLineAccess 0 id 3,
       .threadLineAccess 0 id 4, .threadLineAccess 0 id 5, .threadLineAccess 0 id 6, .threadLineAccess 0 id 7, .threadLineAccess 0 id 8,
       .engineOpComplete 0 id] t).getD base
     spNum u 0 0x2000 8) = 0x995D_C9BB_DF19_39FA := by
  decide +kernel

/-- A head of kind software is bound, filled by two, waited for, read and unbound (R319 to R321). -/
def headed : State := (after (.sbind .ca (cform 2 0 0 (1 * 2 ^ 33))) mheld).getD base

theorem test_heads :
    (let p := (after (.sadv .ca (cform 0 0 0 (2 ^ 33 + 2 ^ 31 + 2))) headed).getD base
     let c := (after (.sadv .ca (cform 0 0 0 (2 ^ 33 + 1))) p).getD base
     let waits (i : Instr) (s : State) : Option Bool := (after i s).map fun t => (coreOf t 0).waiting.isSome
     (headFill (headOf (coreOf headed 0) 1), headFill (headOf (coreOf p 0) 1), headFill (headOf (coreOf c 0) 1),
       [waits (.swtf .ca (cform 0 0 0 (2 ^ 33 + 2))) p, waits (.swtf .ca (cform 0 0 0 (2 ^ 33 + 2))) c, waits (.swte .ca (cform 0 0 0 (2 ^ 33 + 7))) p,
         waits (.swte .ca (cform 0 0 0 (2 ^ 33 + 6))) p], (after (.sbind .ca (cform 0 0 0 (2 ^ 33 + 2 ^ 27))) p).map fun t => (headOf (coreOf t 0) 1).bound))
      = (0, 2, 1, [some false, some true, some true, some false], some false) := by
  decide +kernel

/-- A count above the entries is a stream-protocol trap with the head (R321). -/
theorem test_head_trap : (trapAfter (.swtf .ca (cform 0 0 0 (2 ^ 33 + 9))) headed).map (fun q => (q.1, q.2.2.2)) = some (0x0D, 1) := by
  decide +kernel

/-- CARM adds to a barrier and sets it, CWAIT waits for it (R326); CDESC stores and loads a register (R330); CSTAT of the head
gives its base and BOUND (R329). -/
theorem test_barriers_status :
    (let a := settled ((after (.carm .ca (cform 0 0 0 3)) (modCore mheld 0 fun x => { x with ea := x.ea.setIfInBounds 1 (BitVec.ofNat 256 (5 * 2 ^ 64)) })).getD base)
     let d := (after (.cdesc .ca (cform 0 3 0 (2 ^ 37 + 1))) mheld).getD base
     let l := settled ((after (.cdesc .ca (cform 6 3 0 (2 ^ 37))) d).getD base)
     let h := (after (.cstat .ca (cform 0 3 0 (2 ^ 37 + 2 ^ 33))) headed).getD base
     (((clusterOf a 0).barriers[3]?.map fun b => b.count.toInt), (after (.cwait .ca (cform 0 0 0 3)) a).map fun t => (coreOf t 0).waiting.isSome,
       (after (.cwait .ca (cform 0 0 0 2)) a).map fun t => (coreOf t 0).waiting.isSome,
       decide ((rdE (coreOf l 0) false 6) = rdE (coreOf mheld 0) false 0), spNum h 0 0x2000 8, spNum h 0 0x200C 4))
      = (some 5, some true, some false, true, 2 ^ 55 + 0x400, 0x0007_0020) := by
  decide +kernel

theorem witness_CopiesFork :
    (let u := landed mheld
     let x := actor mheld
     let slots := modCore mheld 0 fun x => { x with ea := ((x.ea.setIfInBounds 0 (BitVec.ofNat 256 (4096 * 2 ^ 96))).setIfInBounds 1
       (BitVec.ofNat 256 (0x10_0000 * 2 ^ 64 + 0x10_0000))) }
     let tagged := modCore slots 0 fun x => { x with ea := x.ea.setIfInBounds 1 (BitVec.ofNat 256 (handle 1 * 2 ^ 64 + 0x10_0000)) }
     let copyHead := modCore headed 0 fun x => setHead x 1 { headOf x 1 with src := .copy }
     let f := cform 0 0 0 0
     let w := cform 0 3 0 (2 ^ 37)
     let wt := cform 0 3 0 (2 ^ 37 + 1)
     let toh := cform 0 0 0 (2 ^ 32 + 2 ^ 33)
     let pair (s : State) (f : CF) : Bool := okay (pairOf (landed s) 0 .ca f (siteOf s (.copy .ca f)))
     pair mheld f && issues mheld (.copy .ca f) && issues mheld (.copy .ca w) && okay (sideOf u 0 5 (2 ^ 55 + 0x40) 64 .load)
       && okay (sideOf u 0 5 (2 ^ 55 + 0x80) 64 .store) && decide (enginePlaces u 0 < 16)
       && (cSpot (itAddr (itOf x 3)) 64 1 5).isNone && okay (sideOf u 0 5 (itAddr (itOf x 3)) 64 .store)
       && pair copyHead toh && issues copyHead (.copy .ca toh) && toHead toh && (headOf (actor copyHead) (cHead toh)).bound
       && decide ((headOf (actor copyHead) (cHead toh)).src = .copy) && decide (64 % (headOf (actor copyHead) 1).ew = 0)
       && decide (64 / (headOf (actor copyHead) 1).ew ≤ (headOf (actor copyHead) 1).nent)
       && pair slots w && issues slots (.cprf .ca w) && issues slots (.cwb .ca w) && issues slots (.cwb .ca wt)
       && okay (sideOf (landed slots) 0 5 0x10_0000 4096 .load) && okay (sideOf (landed slots) 0 5 0x10_0000 4096 .store)
       && (cSpot (itAddr (itOf x 3)) 4096 4096 5).isNone
       && pair tagged wt && issues tagged (.cprf .ca wt) && (openHandle (landed tagged) 0 (BitVec.ofNat 64 (handle 1))).isSome) = true := by
  decide +kernel

/-- CPRF.ts and CWB.tc name the slot of their walk and its tag (R317). -/
theorem test_slot_copies :
    (let slots := modCore mheld 0 fun x => { x with ea := ((x.ea.setIfInBounds 0 (BitVec.ofNat 256 (4096 * 2 ^ 96))).setIfInBounds 1
       (BitVec.ofNat 256 (0x10_0000 * 2 ^ 64 + 0x10_0000))) }
     [((after (.cwb .ca (cform 0 3 0 (2 ^ 37 + 1))) slots).map fun t => (clusterOf t 0).engine.map fun o => (o.len, o.tag.isSome, o.src.length, o.dst.length)),
       ((after (.cprf .ca (cform 0 3 0 (2 ^ 37))) slots).map fun t => (clusterOf t 0).engine.map fun o => (o.len, o.tag.isSome, o.src.length, o.dst.length))])
      = [some [(4096, true, 64, 64)], some [(4096, false, 64, 64)]] := by
  decide +kernel

theorem witness_HeadsAndStatusComplete :
    (let u := landed headed
     let q := headOf (actor headed) 1
     let filled := (after (.sadv .ca (cform 0 0 0 (2 ^ 33 + 2 ^ 31 + 2))) headed).getD base
     let pair (s : State) (f : CF) : Bool := okay (pairOf (landed s) 0 .ca f (siteOf s (.sbind .ca f)))
     let b := cform 2 0 0 (2 ^ 33)
     let n (k : Nat) : CF := cform 0 0 0 (2 ^ 33 + k)
     let str := modCore mheld 0 fun x => { x with ea := x.ea.setIfInBounds 1 (BitVec.ofNat 256 (handle 3)) }
     let app := modCore ((after (.sapp (rrr 5 12 0 0)) str).getD base) 0 fun x => { x with sq := [] }
     let closedHead := modCore (putRec headed { recOf headed 0 3 1 with closed := true, consumer := some 0 }) 0 fun x =>
       setHead x 1 { headOf x 1 with src := .str, srcv := BitVec.ofNat 64 (handle 3) }
     let partly := modCore closedHead 0 fun x => setHead x 1 { headOf x 1 with pptr := 2 }
     let c := cform 0 3 0 (2 ^ 37)
     pair mheld b && issues mheld (.sbind .ca b) && !headFilling (landed mheld) 0 1 && issues headed (.sbind .ca (n (2 ^ 27)))
       && (bufferCheck (2 ^ 55 + 0x400) 256 32 (siteOf mheld (.sbind .ca b)) 5).isNone
       && (match pairOf (landed mheld) 0 .ca b (siteOf mheld (.sbind .ca b)) with
         | .ok d => okay (sourceCheck (landed mheld) 0 .ca b 0 d (siteOf mheld (.sbind .ca b)))
         | .error _ => false)
       && q.bound && decide (q.src = .software ∧ q.nent = 8 ∧ headFill q = 0 ∧ headFree q = 8) && !headEnd u 0 1
       && issues headed (.sadv .ca (n (2 ^ 31 + 8))) && issues filled (.sadv .ca (n (2 ^ 31 + 8))) && issues filled (.sadv .ca (n 2))
       && issues headed (.sadv .ca (n 1)) && issues closedHead (.sadv .ca (n 1)) && headEnd (landed closedHead) 0 1
       && issues partly (.sadv .ca (n 4)) && headEnd (landed partly) 0 1 && decide (headFill (headOf (actor partly) 1) = 2)
       && issues headed (.swtf .ca (n 0)) && issues headed (.swtf .ca (n 8)) && issues closedHead (.swtf .ca (n 1))
       && issues headed (.swte .ca (n 8)) && issues filled (.swte .ca (n 8))
       && issues app (.sclose .ca (cform 0 0 0 0)) && pair app (cform 0 0 0 0) && okay (slotHandle (landed app) 0 5 (BitVec.ofNat 64 (handle 3)))
       && decide ((recOf (landed app) 0 3 1).producer = some 0 ∧ (recOf (landed app) 0 3 1).closing = false)
       && decide (dMixed (descOf (landed app) 0 3) = false ∧ dRole (descOf (landed app) 0 3) = 1) && decide (enginePlaces (landed app) 0 < 16)
       && issues mheld (.carm .ca (cform 0 0 0 3)) && pair mheld (cform 0 0 0 3) && issues mheld (.cwait .ca (cform 0 0 0 7))
       && issues mheld (.cwait .ca (cform 0 3 0 (2 ^ 37 + 2 ^ 30))) && issues mheld (.cwait .ca (cform 0 0 0 (2 ^ 31)))
       && ([0, 1, 2, 3].all fun k => issues mheld (.cstat .ca (cform 0 3 0 (2 ^ 37 + k * 2 ^ 29))))
       && issues mheld (.cdesc .ca c) && issues mheld (.cdesc .ca (cform 0 3 0 (2 ^ 37 + 1)))
       && isSp (itAddr (itOf (actor mheld) 3)) && spBounds (itAddr (itOf (actor mheld) 3)) 32 && decide (itAddr (itOf (actor mheld) 3) % 32 = 0)) = true := by
  decide +kernel

/-- SCLOSE completes and the tensor is closed (R323). -/
theorem test_sclose :
    (let str := modCore mheld 0 fun x => { x with ea := x.ea.setIfInBounds 1 (BitVec.ofNat 256 (handle 3)) }
     let app := (runs [.sapp (rrr 5 12 0 0), .storeApply 0 0] str).getD base
     let t := (after (.sclose .ca (cform 0 0 0 0)) app).getD base
     let id := ((clusterOf t 0).engine.map (·.id)).headD 0
     ((recOf t 0 3 1).closing, (after (.engineOpComplete 0 id) t).map fun u => (recOf u 0 3 1).closed)) = (true, some true) := by
  decide +kernel

theorem witness_TransfersFork :
    (let u := landed mheld
     let f := cform 4 0 0 0
     let r := cform 4 0 1 0
     let toh := cform 4 0 1 (2 ^ 32 + 2 ^ 33)
     let chHead := modCore headed 0 fun x => setHead x 1 { headOf x 1 with src := .channel, srcv := 1 }
     let pair (s : State) (f : CF) : Bool := okay (pairOf (landed s) 0 .ca f (siteOf s (.mcast .ca f)))
     let m := cform 6 0 0 0
     let ck := modCore mheld 0 fun x => { x with ea := (x.ea.setIfInBounds 0 (BitVec.ofNat 256 (4 * 2 ^ 96))).setIfInBounds 1 (BitVec.ofNat 256 (handle 1)) }
     decide (enginePlaces u 0 < 16) && pair mheld f && pair mheld r && pair mheld m
       && issues mheld (.mcast .ca m) && (cSpot (2 ^ 55 + 0x80) 64 1 5).isNone && okay (sideOf u 0 5 (2 ^ 55 + 0x40) 64 .load)
       && issues mheld (.csend .ca f) && okay (chanCheck u 0 f 64 false) && issues mheld (.crecv .ca r) && okay (chanCheck u 0 r 64 true)
       && (match chanCheck u 0 r 64 true with | .ok q => okay (recvDst u 0 5 (2 ^ 55 + 0x100) 64 (chFmt q.1)) | .error _ => false)
       && isSp (itAddr (itOf (actor ck) 3)) && spBounds (itAddr (itOf (actor ck) 3)) 8 && decide (itAddr (itOf (actor ck) 3) % 8 = 0)
       && issues chHead (.crecv .ca toh) && pair chHead toh && okay (chanCheck (landed chHead) 0 toh 64 true)
       && decide ((headOf (actor chHead) 1).src = .channel ∧ (headOf (actor chHead) 1).srcv.toNat = 1 ∧ 64 % (headOf (actor chHead) 1).ew = 0)
       && (headOf (actor chHead) 1).bound
       && issues ck (.chks .ca (cform 0 3 0 (2 ^ 37))) && okay (slotHandle (landed ck) 0 5 (BitVec.ofNat 64 (handle 1)))
       && decide (dRole (descOf (landed ck) 0 1) = 0 ∧ dFmt (descOf (landed ck) 0 1) ≠ 13 ∧ 0 + 4 ≤ dCount (descOf (landed ck) 0 1))
       && okay (elemSpans (landed ck) 0 5 (descOf (landed ck) 0 1) 0 4)) = true := by
  decide +kernel

/-- A tile that core 0 sends to core 2 on channel 0 arrives there (R387, R389), and a multicast into the own cluster writes its line. -/
theorem test_transfers :
    (let t := (after (.csend .ca (cform 4 0 0 0)) mheld).getD base
     let m := (after (.mcast .ca (cform 6 0 0 0)) (spPut mheld 0 0x40 8 0xABCD)).getD base
     let id := ((clusterOf m 0).engine.map (·.id)).headD 0
     let w := (runs [.threadLineAccess 0 id 0, .threadLineAccess 0 id 1, .engineOpComplete 0 id] m).getD base
     ((clusterOf t 0).engine.map fun o => (o.chan, o.round, o.endpoint, o.tileBytes), (after (.crecv .ca (cform 4 0 1 0)) mheld).map fun t =>
       (clusterOf t 0).engine.map fun o => (o.chan, o.endpoint, o.dst.length), spNum w 0 0x80 8)) = ([(0, 0, 0, 64)], some [(1, 1, 1)], 0xABCD) := by
  decide +kernel

/-- A receive on a channel whose sender this core is: TCAUSE 0x12 with the channel (R327). -/
theorem test_channel_trap : (trapAfter (.crecv .ca (cform 4 0 0 0)) mheld).map (fun q => (q.1, q.2.2.2)) = some (0x12, 0) := by
  decide +kernel

/-! ## Ordering, array and engine events -/

/-- The next state of an outcome, or another state. -/
def nextOr (s : State) (r : Host.Outcome State Fault Refusal) : State :=
  match r with
  | .next t => t
  | .fault _ => s
  | .refused _ => s

/-- A 64-byte tile of channel 0, sent whole. -/
def sentTile : State :=
  let t := (after (.csend .ca (cform 4 0 0 0)) (spPut mheld 0 0x40 8 0xABCD)).getD base
  let id := ((clusterOf t 0).engine.map (·.id)).headD 0
  nextOr t (execThreadLineAccess 0 id 0 t)

/-- The receiver of channel 0 runs on core 2, whose descriptor pair ea4 names 64 bytes at 0x200. -/
def receiving : State :=
  let s := modCore sentTile 2 fun _ => { coreOf mheld 0 with ea := (coreOf mheld 0).ea.setIfInBounds 5 (BitVec.ofNat 256 ((2 ^ 55 + 0x200) * 2 ^ 64)) }
  { (after (.crecv .ca (cform 4 0 0 0)) { s with cur := 2 }).getD base with cur := 0 }

theorem witness_OrderingStepsComplete :
    (let st := (after (.stm (rrr 5 16 0 3)) held).getD base
     let ld := (after (.ldm (rrr 9 16 0 6)) held).getD base
     let acc := (runs [.gjoin (rrr 0 0 0 5), .sacc (rrr 1 11 2 3), .storeApply 0 0] held).getD base
     let ev := withS held [(23, 2), (25, 0x0002_0003)]
     let add := (runs [.evadd (rrr 0 23 2 0)] ev).getD base
     let chained := (runs [.evarm (rrr 25 23 2 1), .evadd (rrr 0 23 2 0), .eventIncrement 0] ev).getD base
     let away : State := { held with away := [.increment 0 2 1] }
     let async := { held with async := [⟨4, [(0x10_0000, 1)], 0, some 0, 0, 0⟩] }
     let pipe := putRec (modCore headed 0 fun x => setHead x 1 { headOf x 1 with src := .str, srcv := BitVec.ofNat 64 (handle 3) })
       { recOf headed 0 3 1 with appended := 8, consumer := some 0 }
     let y := headOf (coreOf pipe 0) 1
     let d := descOf pipe 0 3
     (mayApply (coreOf st 0) 0).isSome && (mayPerform (coreOf ld 0) 0).isSome && acc.bags[0]?.isSome && async.async[0]?.isSome
       && (match add.incs[0]? with | some i => mayRise add i | none => false) && decide (chained.chains ≠ [])
       && decide (away.incs[0]? = none ∧ (ctxOf away 0).state = 1)
       && y.bound && decide (y.src = .str ∧ headFree y = 8) && decide (y.ew * 8 / codeBits (dFmt d) = 8) && decide ((recOf pipe 0 3 1).fetched = 0)
       && (let u := headSupply (touchArrays pipe) 0 y
           u.stream && decide (headPer y u.desc = 8 ∧ u.offered = 8 ∧ u.fetched = 0) && (fetchElems (touchArrays pipe) 0 u.desc 0 8).isSome)
       && decide ((after (.pipeDeliver 0 1) pipe).map (fun t => headFill (headOf (coreOf t 0) 1)) = some 1)) = true := by
  decide +kernel

theorem witness_ArrayStepsComplete :
    (let q := (runs [.aclr (mform 0 0 0 0 0 0 0x103)] mheld).getD base
     let st := (runs [.arrayOpStart 0] q).getD base
     let o := (coreOf st 0).arrayQ.headD ⟨0, .nop, 0, [], [], [], [], [], 0, 0, [], 0, [], [], 0, false, [], [], false, 0, false⟩
     let outs := modCore st 0 fun x => { x with arrayQ := [{ o with outs := [(0, 0, 77)] }] }
     let drained := modCore st 0 fun x => { x with arrayQ := [{ o with outs := [(0, 0, 77)], drained := true }] }
     let mode := modCluster held 0 fun y => { y with modePending := some 2 }
     let l := (after (.tis (rrr 9 26 0 0)) localTile).getD base
     let ls := (after (.l0TileStart 0) l).getD base
     (mayStart (coreOf q 0).arrayQ).isSome && ownsCycles q 0 && (coreOf st 0).arrayQ.all (fun o => o.started && !o.drained && o.out == 0 && o.outs.isEmpty)
       && ownsCycles st 0 && decide ((coreOf outs 0).arrayQ.length = 1) && !arrayOwes drained 0 { o with outs := [(0, 0, 77)], drained := true }
       && arrayIdle mode 0 && decide ((after (.mwinModeTakeEffect 0) mode).map (fun t => (clusterOf t 0).mode) = some 2)
       && ((coreOf l 0).l0q.any fun l => !l.started && !l.done) && !bankBusy l 0 (physBank (coreOf l 0) 0 0) && ownsCycles l 0
       && (match (coreOf ls 0).l0q with
         | [x] => x.started && !x.done && waitHolds ls x.inst && (match localResult ls 0 x.inst with
           | .ok r => (match allOf (place ls 0 x.inst none) r.outs with | .ok _ => true | .error _ => false)
           | .error _ => false)
         | _ => false)) = true := by
  decide +kernel

/-- A level-0 TNOP starts, retires and is done (R219). -/
theorem test_level_0 :
    ((runs [.tis (rrr 9 26 0 0), .l0TileStart 0, .l0TileRetire 0] localTile).map fun t => ((coreOf t 0).l0q.map fun l => (l.started, l.done, l.status.toNat)))
      = some [(true, true, 0)] := by
  decide +kernel

theorem witness_EngineStepsComplete :
    (let t := (after (.copy .ca (cform 0 0 0 0)) mheld).getD base
     let id := ((clusterOf t 0).engine.map (·.id)).headD 0
     let u := (after (.threadLineAccess 0 id 0) t).getD base
     let v := (after (.threadLineAccess 0 id 1) u).getD base
     let arrived := (after (.channelTileArrive 0) receiving).getD base
     let ready := (after (.channelTileDeliver 0) arrived).getD base
     let far := { receiving with pkg := 5 }
     (match engFind t 0 id with
       | some o => decide (o.src.length = 1 ∧ o.dst.length = 1 ∧ o.readDone = []) | none => false)
       && (match engFind u 0 id with
         | some o => writesLines o && (match o.dst[0]? with | some p => mayWrite u o p | none => false) | none => false)
       && (match engFind v 0 id with | some o => engDone v o | none => false)
       && (match receiving.chanTiles[0]? with
         | some x => x.moving && !x.complete && decide (x.sig = chSig receiving (chEntry receiving x.ctx x.chan))
             && mayBox receiving (chEntry receiving x.ctx x.chan) x
             && decide (chLocal far (chEntry far x.ctx x.chan) x.to_ = none ∧ far.chanTiles[0]? = some x) | none => false)
       && (match arrived.chanTiles[0]? with
         | some x =>
           let e := chEntry arrived x.ctx x.chan
           x.complete && decide (chLocal arrived e x.to_ = some 2)
             && (match (clusterOf arrived 1).engine.find? (fun o => o.kind = .crecv && o.core = 2 && o.ctx = x.ctx && o.chan = x.chan && o.round = x.round) with
               | some o => decide (tilePlace e o x = some 0) && !o.sent.contains 0 && inTurn e o 0 && tileRoom arrived o 0
                   && !roundBehind arrived e x.ctx x.chan o.round
               | none => false)
         | none => false)
       && (match ready.readyTiles[0]? with
         | some r => (match engFind { ready with readyTiles := [] } 1 r.op with | some o => decide (o.head = none) | none => false)
         | none => false)) = true := by
  decide +kernel

/-- A tile sent by core 0 stands in the scratchpad of core 2 once it is delivered (R387, R389). -/
theorem test_channel :
    ((runs [.channelTileArrive 0, .channelTileDeliver 0, .scratchpadTileReady 0] receiving).map fun t =>
      (spNum t 1 0x200 8, (clusterOf t 1).engine.map fun o => (engDone t o, o.tiles))) = some (0xABCD, [(true, [0])]) := by
  decide +kernel

/-! ## Tile instructions -/

/-- A descriptor (R66): base, format, role, extents and strides. -/
def describe (addr fmt role : Nat) (exts strides : List Nat) : BitVec 512 :=
  BitVec.ofNat 512 (2 ^ 63 + role * 2 ^ 60 + fmt * 2 ^ 56 + addr + 2 ^ 64 + exts.length * 2 ^ 96 + packFields 24 exts * 2 ^ 224
    + packFields 32 strides * 2 ^ 344)

/-- An operand in IMM pages at an offset from 0x13_0000, and the OWN output at 0x10_0000. -/
def input (off fmt : Nat) (exts strides : List Nat) : Option Operand := some ⟨0x1_0001, describe (0x13_0000 + off) fmt 0 exts strides, [], false, []⟩
def output (fmt : Nat) (exts strides : List Nat) : Option Operand := some ⟨0x1_0004, describe 0x10_0000 fmt 3 exts strides, [], false, []⟩

/-- A tile instruction with its operands opened: opcode, `PARAM`, operands. -/
def opened (op param : Nat) (a b c d : Option Operand) : TileInst :=
  ⟨2, 0, 0, 0, ⟨BitVec.ofNat 64 op, BitVec.ofNat 64 param, 0, 0, 0, 0, 0, 0⟩, 0, 0, a, b, c, d, .queued, 0, false, 0, false, 0, false, 0, 0, 0, [], 0, 0, false, [], []⟩

/-- A piece of it on core 0. -/
def piece (rows cols : Nat) (st : PieceState) : Piece := ⟨3, 2, 3, 1, 0, 0, rows, 0, cols, 0, 0, 0, 0, st, 0, 0, 0, 0, none, [], [], 0, false⟩

/-- Inputs: INT8 (3, −2) and (5, 4), INT32 1 to 4 at 0x10, an index 0 at 0x20, nine bytes at 0x30, the parameters (1, 0, 1, 0) at 0x40,
the row (2, 0.5) at 0x50, and a record of the box with bit 1 at 0x60. -/
def inputs : List Host.Cell := [(0x130000, 3), (0x130001, 0xFE), (0x130002, 5), (0x130003, 4), (0x130010, 1), (0x130014, 2), (0x130018, 3),
  (0x13001C, 4)] ++ (List.range 9).map (fun i => (0x130030 + i, BitVec.ofNat 8 (0x31 + i)))
  ++ [(0x130042, 0x80), (0x130043, 0x3F), (0x13004A, 0x80), (0x13004B, 0x3F), (0x130053, 0x40), (0x130057, 0x3F), (0x130060, 2), (0x130073, 1)]

/-- Core 0 runs the firmware of one piece of a tile instruction. -/
def leafState (i : TileInst) (p : Piece) : State :=
  let s := setMem held (tables ++ inputs)
  let s := modCore s 0 fun x => { x with mode := .running, task := some { placeTask 0 with firmware := true, piece := 3 } }
  { s with tiles := [i], pieces := [p] }

/-- The first n bytes of the output after a leaf. -/
def leafBytes (op : Tile → Instr) (i : TileInst) (p : Piece) (n : Nat) : Option (Nat × Bool) :=
  (after (op i.tile) (leafState i p)).map fun t => (memNum t.mem 0x10_0000 n, decide ((coreOf t 0).mode = .exiting))

/-- The products 3 × 5 − 2 × 4 of TMM, of the gathered TMMG and of a 1 × 1 TCONV (R112 to R114). -/
theorem test_tile_products :
    (let a := input 0 0 [2, 1] [1, 2]
     let b := input 2 0 [2, 1] [1, 2]
     let c := output 3 [1, 1] [1, 1]
     let one (op : Tile → Instr) (i : TileInst) : Option (Nat × Bool) := leafBytes op i (piece 1 1 .running) 4
     [one .tmm (opened 1 0 a b c none), one .tmmg (opened 2 0 a b c (input 0x20 3 [1] [1])),
       one .tconv (opened 3 0x8888 (input 0 0 [2, 1, 1, 1] [1, 2, 2, 2]) (input 2 0 [2, 1, 1, 1] [1, 2, 2, 2]) (output 3 [1, 1, 1, 1] [1, 1, 1, 1]) none)])
      = [some (7, true), some (7, true), some (7, true)] := by
  decide +kernel

/-- TRED ADD of 1 to 4 (R116), TSCAN ADD of them (R117), TCOPY and TFILL (R118, R119). -/
theorem test_tile_elementwise :
    (let a := input 0x10 3 [4] [1]
     let c := output 3 [4] [1]
     [leafBytes .tred (opened 5 0x600 a none (output 3 [1] [1]) none) (piece 1 1 .running) 4,
       leafBytes .tscan (opened 6 0x600 a none c none) (piece 1 4 .running) 16, leafBytes .tcopy (opened 7 0 a none c none) (piece 1 4 .running) 16,
       leafBytes .tfill (opened 12 0x55 none none c none) (piece 1 4 .running) 8])
      = [some (10, true), some (0x0000000A_00000006_00000003_00000001, true), some (0x00000004_00000003_00000002_00000001, true),
        some (0x00000055_00000055, true)] := by
  decide +kernel

/-- TPRJ onto the box from 0 to 1 (R121, R286) and its adjoint TPRJA. -/
theorem test_tile_projections :
    (let row := input 0x50 7 [2, 1] [1, 2]
     let c := output 7 [2, 1] [1, 2]
     [leafBytes .tprj (opened 9 1 row (input 0x40 7 [4] [1]) c none) (piece 1 2 .running) 8,
       leafBytes .tprja (opened 10 1 (input 0x60 1 [32, 1] [1, 32]) row c none) (piece 1 2 .running) 8])
      = [some (0x3F000000_3F800000, true), some (0x3F000000_00000000, true)] := by
  decide +kernel

/-- TCHK leaves the CRC of its span as a partial (R120, R328). -/
theorem test_tchk :
    (let k := opened 15 0 (input 0x30 1 [9] [1]) none (output 4 [1] [1]) none
     (after (.tchk k.tile) (leafState k (piece 9 1 .running))).map fun t => t.pieces.flatMap fun p => p.partials.map fun q => q.2.2)
      = some [0x995D_C9BB_DF19_39FA] := by
  decide +kernel

/-- An index outside A ends the piece with cause 0x0B (R113). -/
theorem test_tmmg_index :
    (let i := opened 2 0 (input 0 0 [2, 1] [1, 2]) (input 2 0 [2, 1] [1, 2]) (output 3 [1, 1] [1, 1]) (some ⟨0, describe 0x13_0010 3 0 [1] [1], [], false, []⟩)
     (after (.tmmg i.tile) (leafState i (piece 1 1 .running))).map fun t => (t.pieces.map (·.state), t.faults.map (·.cause)))
      = some ([.failed], [0x0B]) := by
  decide +kernel

/-- A queued instruction of the package. -/
def package (i : TileInst) (ps : List Piece) : State := { setMem mheld (channelCells ++ tables) with tiles := [i], pieces := ps }

theorem witness_TileInstructionsComplete :
    (let i := opened 7 0 (input 0x10 3 [4] [1]) none (output 3 [4] [1]) none
     let bad := opened 2 0 (input 0 0 [2, 1] [1, 2]) (input 2 0 [2, 1] [1, 2]) (output 3 [1, 1] [1, 1]) (input 0x10 3 [1] [1])
     let p := piece 1 4 .running
     let s := leafState i p
     let str := opened 7 0 (some ⟨0x1_0003, describe 0x12_0000 3 1 [1] [1], [1], false, []⟩) none (output 3 [1] [1]) none
     let ss := putRec (leafState str p) { recOf (leafState str p) 0 3 1 with appended := 1 }
     let ctl (op param : Nat) (a : Option Operand) : State := package (opened op param a none none none) []
     let is (op param : Nat) (a : Option Operand) : Bool := (controlOf (ctl op param a) (opened op param a none none none).tile).isSome
     let drain := { ctl 14 1 none with tiles := [{ opened 1 0 none none none none with id := 1, state := .running }, opened 14 1 none none none none] }
     (firmwareOn s 0).isSome && decide (tileOp i.tile = 7) && !isWhole i.tile (opdsI i)
       && (let v := raceLeaf s 0 i
           match leafOf v 0 i p with | .ok r => okay (commitLeaf v 0 i p r) | .error _ => false)
       && (firmwareOn (leafState bad p) 0).isSome && !okay (leafOf (raceLeaf (leafState bad p) 0 bad) 0 bad p)
       && (firmwareOn ss 0).isSome && isWhole str.tile (opdsI str) && (match streamIn ss 0 (str.a.getD ⟨0, 0, [], false, []⟩) with | .ok b => b | .error _ => false)
       && (match joinAll (copyElem ss 0 str.tile (str.a.getD ⟨0, 0, [], false, []⟩) (str.c.getD ⟨0, 0, [], false, []⟩)) [0] with
         | .ok r => okay (commitLeaf ss 0 str p r) | .error _ => false)
       && (let fill := opened 7 0 (input 0x10 3 [1] [1]) none (some ⟨0x1_0003, descOf s 0 3, [1], false, []⟩) none
           let v := leafState fill p
           let o := fill.c.getD ⟨0, 0, [], false, []⟩
           (firmwareOn v 0).isSome && isWhole fill.tile (opdsI fill) && decide (dRole o.desc = 1)
             && (match streamIn v 0 (fill.a.getD o) with | .ok b => b | .error _ => false)
             && (match joinAll (copyElem v 0 fill.tile (fill.a.getD o) o) (List.range (dCount o.desc)) with | .ok _ => true | .error _ => false)
             && (match appendCheck v 0 0 o.handle (dCount o.desc) with
               | .ok (d, u) => okay (appendPages v 0 0 d u.issued (List.range (dCount o.desc))) | .error _ => false))
       && is 0 0 none && is 14 0 none && is 14 1 none && is 13 0x3_0000_0002 none && is 16 0 none && is 16 5 none
       && (controlOf drain (opened 14 1 none none none none).tile).isSome && drain.tiles.any (earlier (opened 14 1 none none none none))
       && decide ((ctl 16 0 none).geyser.toNat = 0) 
       && (let cast := opened 8 0 (some ⟨0x1_0004, describe 0x10_0000 3 3 [4] [1], [3], false, []⟩) none none none
           (carriedNow (package cast [{ piece 1 1 .queued with level := 5 }]) cast.tile 5).isSome)
       && (let col := opened 11 0 (input 0x10 3 [4] [1]) none (output 3 [4] [1]) none
           let run := package col [{ piece 1 1 .running with level := 4 }]
           let v := package col [{ piece 1 4 .queued with level := 4 }]
           (colMerged run col).isSome && (colMerged v col).isNone && (carriedNow v col.tile 4).isSome && col.a.isSome && col.c.isSome)
       && (let m := opened 4 0 none none none none
           (startable { modCore (package m [piece 1 1 .queued]) 0 (fun _ => Core.init) with cur := 0 } 0).isSome)) = true := by
  decide +kernel

/-- TEVT raises its counter by `INC`; TNOP retires; TSTEP waits for the geyser count (R124). -/
theorem test_tile_control :
    (let run (i : TileInst) (op : Tile → Instr) : Option State := after (op i.tile) (package i [])
     ((run (opened 13 0x3_0000_0002 none none none none) .tevt).map fun t => evValue t 0 2, (run (opened 0 0 none none none none) .tnop).map (·.tiles.length),
       (run (opened 16 5 none none none none) .tstep).map (·.tiles.length), (run (opened 16 0 none none none none) .tstep).map (·.tiles.length),
       (run (opened 14 0 none none none none) .twait).map (·.tiles.length)))
      = (some 3, some 0, some 1, some 0, some 0) := by
  decide +kernel

/-- TCAST sends its request with the words' terms (R123); TMAP starts its kernel's task on a free core (R115). -/
theorem test_tcast_tmap :
    (let i := opened 8 2 (some ⟨0x1_0004, describe 0x10_0000 3 3 [4] [1], [3], false, []⟩) none none none
     let m := opened 4 0x1_0001 none none none none
     ((after (.tcast i.tile) (package i [{ piece 1 1 .queued with level := 5 }])).map fun t => (t.recastReqs.map fun r => r.param.toNat, t.tiles.map (·.state)),
       (after (.tmap m.tile) { modCore (package m [piece 1 1 .queued]) 0 (fun _ => Core.init) with cur := 0 }).map fun t =>
         (t.pieces.map (·.state), (coreOf t 0).task.map (·.piece)))) = (some ([2], [.recasting]), some ([.running], some 3)) := by
  decide +kernel

/-! ## Scheduling, contexts, host and debug -/

/-- A booted module with nothing running. -/
def idle : State := { modCore (setMem mheld (channelCells ++ tables)) 0 (fun _ => Core.init) with bootok := true }

/-- The nonzero bytes of a number at an address. -/
def cellsOf (addr n v : Nat) : List Host.Cell :=
  (List.range n).filterMap fun i => if fieldAt v 8 i = 0 then none else some (addr + i, BitVec.ofNat 8 (fieldAt v 8 i))

/-- A tile instruction of the package with its pieces. -/
def scheduled (i : TileInst) (ps : List Piece) : State := { idle with tiles := [i], pieces := ps }

/-- A copy of four elements, and a piece of it at a level and unit. -/
def copyInst : TileInst := opened 7 0 (input 0x10 3 [4] [1]) none (output 3 [4] [1]) none
def pieceAt (id parent level unit : Nat) (st : PieceState) : Piece :=
  ⟨id, 2, parent, level, 0, 0, 1, 0, 4, 0, 0, unit, 0, st, 0, 0, 0, 0, none, [], [], 0, false⟩

/-- A gang of two cores waits for its window in quadrant 0. -/
def gangWaits : State :=
  let i := { opened 4 0 none none none none with tile := ⟨BitVec.ofNat 64 (4 + 2 ^ 23), 0, 0, 0, 0, 0, 0, 0⟩ }
  [0, 1].foldl (fun s c => modCore s c fun x => { x with reserved := some 3 }) (scheduled i [{ piece 1 1 .queued with level := 3 }])

theorem witness_SchedulingStepsComplete :
    (let f := placeTile State.reset 0
     let s5 := scheduled copyInst [pieceAt 3 3 5 0 .queued]
     let s1 := scheduled copyInst [pieceAt 3 3 1 0 .queued]
     let st := scheduled copyInst [pieceAt 3 3 1 1 .queued, pieceAt 4 3 1 1 .queued]
     let ex := after (.tcopy copyInst.tile) (leafState copyInst (piece 1 4 .running))
     let mg := scheduled copyInst [pieceAt 3 3 5 0 .queued, pieceAt 4 3 1 0 .retired]
     let rt := scheduled copyInst [pieceAt 3 3 5 0 .retired]
     let staged := { pieceAt 4 3 4 0 .retired with staging := [(0, ⟨0, 2, 1, 0, 0, 3, 0, 3, 1, none, none, false⟩)] }
     let cast : State := { scheduled copyInst [pieceAt 3 3 5 0 .running, staged] with
       recasts := [⟨⟨.core 2, 0, BitVec.ofNat 64 (handle 2), 0, 0, 0, 0, 0, 0⟩, 0, 2, 1, true, [], [], [], [], descOf idle 0 2, [2]⟩] }
     let ft := { idle with faults := [⟨1, 0, 1, 0, 0, 0, 0, 0, 0, 0, 0⟩] }
     (nextQp f).isSome && (match served (eligiblePieces s5 5 0 0) with | some p => (serve s5 p).isSome | none => false)
       && (s1.pieces.find? fun p => p.id = 3 && (p.level = 1 && p.unit = 0 && inQueue s1 p)).isSome && decide (copyInst.ageus ≠ 0xFFFF)
       && decide (thefts st [0] = [(0, 1)]) && (oldest (stealable st 1 0)).isSome
       && (oldest (gangWaits.pieces.filter fun p => p.level = 3 && p.unit = 0 && p.state = .queued
         && (match tileOf gangWaits p.tile with | some i => isGang i && admissible gangWaits i p | none => false))).isSome
       && (startable s1 0).isSome
       && (match ex with | some t => (coreOf t 0).task.isSome && (gangCores t 0).all (exitDone t) | none => false)
       && (match pieceOf mg 4 with | some p => decide (p.state = .retired ∧ p.level < 5) && (tileOf mg p.tile).isSome && !castFirst mg p | none => false)
       && castFirst cast staged && (pieceOf cast 4).isSome && (tileOf cast staged.tile).isSome
       && (match rt.pieces.find? (fun p => p.tile = 2 && p.level = 5) with | some p => decide (p.state = .retired) | none => false)
       && (tileOf rt 2).isSome && !(rt.recasts.any fun r => r.tiles.contains 2) && ft.faults[0]?.isSome) = true := by
  decide +kernel

/-- The entry level hands the whole of a small copy down (R152); a thief takes the older of two entries (R156); a retired tile
leaves the package (R130). -/
theorem test_scheduling :
    (let s5 := scheduled copyInst [pieceAt 3 3 5 0 .queued]
     let st := scheduled copyInst [pieceAt 3 3 1 1 .queued, { pieceAt 4 3 1 1 .queued with seq := 1 }]
     let rt := scheduled copyInst [pieceAt 3 3 5 0 .retired]
     ((after (.handOutPiece 5 0 0) s5).map fun t => (t.pieces.map (·.level), t.tiles.map (·.state)), (after (.steal [0]) st).map fun t => t.pieces.map (·.unit),
       (after (.tileRetire 2) rt).map (·.tiles.length))) = (some ([5, 4], [.running]), some [0, 1], some 0) := by
  decide +kernel

/-- A task retires and its core is free; a merge joins the flags (R128, R204); a gang starts fused (R157). -/
theorem test_retire_merge :
    (let ex := (after (.tcopy copyInst.tile) (leafState copyInst (piece 1 4 .running))).getD base
     let mg := scheduled copyInst [pieceAt 3 3 5 0 .queued, { pieceAt 4 3 1 0 .retired with flags := 5 }]
     ((after (.taskRetire 0) ex).map fun t => (decide ((coreOf t 0).mode = .free), t.pieces.map (·.state)), (after (.pieceRetireMerge 4) mg).map fun t =>
       t.pieces.map fun p => (p.id, p.flags.toNat), (after (.gangAdmit 0) gangWaits).map fun t => t.gangs.map fun g => (g.members, g.fused)))
      = (some (true, [.retired]), some [(3, 5)], some [([0, 1], true)]) := by
  decide +kernel

/-- A context record and its queue pair in memory, as a create reads them (R140 to R142): one pair with rings of 16 entries. -/
def creatable : State :=
  let s := setMem idle (tables ++ cellsOf 0x9_0000 64 (0x3_8000 + 0x3_C000 * 2 ^ 64 + 4 * 2 ^ 128 + 4 * 2 ^ 136 + 2 ^ 148) ++ cellsOf 0x9_8000 128 recordImage)
  modCtx s 1 fun y => { y with cxrec := 0x9_8000 }

theorem witness_ContextEventsComplete :
    (let s := modQp idle 0 0 fun q => { q with sqlog := 4, en := true }
     let x := BitVec.ofNat 64 (0x13_0000 + 1)
     let busy := { idle with xinvBusy := true, xinvScope := some x }
     hasBell s 0 0 && decide ((16 - (qpOf s 0 0).sqhead).toNat ≤ 2 ^ (qpOf s 0 0).sqlog) && decide (((qpOf s 0 0).sqtail - (qpOf s 0 0).sqhead).toNat ≤ 16)
       && creatable.bootok && decide ((ctxOf creatable 1).state = 0)
       && (let r := paNum creatable (ctxOf creatable 1).cxrec.toNat 128
           decide (createCode creatable r (qpDescs creatable r) = 0))
       && decide ((ctxOf creatable 0).state = 1) && !partRefused idle 15 0xFFFF_FFFF && !idle.xinvBusy && decide (xinvCode x = 0)
       && busy.xinvBusy && decide (busy.xinvScope = some x) && decide ((ctxOf idle 1).state = 0)
       && inTiers (bitsOf (0x1_0000#64) 51 16 * 2 ^ 16) (2128 * 2 ^ 20)) = true := by
  decide +kernel

/-- A doorbell out of range keeps the tail and sets `OVR` (R145); a create makes its context live, a destroy ends it (R139, R141). -/
theorem test_contexts :
    (let s := modQp idle 0 0 fun q => { q with sqlog := 4, en := true }
     let q (v : Nat) : Option (Nat × Bool) := (after (.sqtailWrite 0 0 (BitVec.ofNat 32 v)) s).map fun t => ((qpOf t 0 0).sqtail.toNat, (qpOf t 0 0).ovr)
     (q 16, q 17, (after (.contextCreate 1) creatable).map fun t => ((ctxOf t 1).state, (qpOf t 1 0).sqbase),
       (after (.contextDestroy 0) idle).map fun t => (ctxOf t 0).state)) = (some (16, false), some (0, true), some (1, 0x3_8000), some 0) := by
  decide +kernel

/-- A partition takes quadrants that no other holds (R149); an invalidation empties the caches it names (R95). -/
theorem test_partition_xinv :
    (let s := { idle with xinvBusy := true, xinvScope := some (BitVec.ofNat 64 (0x13_0000)) }
     ((after (.partitionWrite 3 0xF0) idle).map fun t => (partMask t 3, partRefused t 4 0x10), (after .xinvDone s).map fun t =>
       (t.xinvBusy, (clusterOf idle 0).tlb.length, (clusterOf t 0).tlb.length))) = (some (0xF0, true), some (false, 5, 4)) := by
  decide +kernel

theorem witness_HostAccessCompletes :
    (let w := { idle with hostBuf := [.mem 0 0x2000 [1, 2], .reg 0 0x90200 7] }
     w.bootok && decide (w.hostBuf[0]? = some (.mem 0 0x2000 [1, 2])) && inTiers 0x2000 2 && decide (w.hostBuf[1]? = some (.reg 0 0x90200 7))
       && mayApplyHost w 1 && decide (mgmtBase ≤ mgmtBase + 2 ^ 32 - 8 ∧ mgmtBase + 2 ^ 32 - 8 + 8 ≤ mgmtBase + 2 ^ 32)
       && decide (0x2000 < mgmtBase) && inTiers 0x2000 4) = true := by
  decide +kernel

/-- A host's write of memory and its read (R343). -/
theorem test_host :
    (let w := { idle with hostBuf := [.mem 0 0x2000 [1, 2]] }
     let t := (after (.hostApply 0) w).getD base
     (memNum t.mem 0x2000 2, t.hostBuf.length, (after (.hostRead 0x2000 3) t).map (·.hostReply))) = (0x0201, 0, some [1, 2, 0]) := by
  decide +kernel

/-- A host access of a reserved physical range stops by name (R20). -/
theorem test_host_reserved :
    (match exec (.hostRead 0x018000000000 8) idle with | .fault .reservedAddress => true | _ => false) = true := by
  decide +kernel

theorem witness_DebugEventsComplete :
    (let rb (v : Nat) : State := { idle with rbsel := BitVec.ofNat 64 v }
     let dbg := modCtx idle 0 fun y => { y with dbgmode := 2 }
     let pend := { idle with rbBusy := true, rbPend := some (64, 0) }
     (authorise idle 0 (8 + 1)).isSome && decide ((ctxOf dbg 0).dbgmode = 2) && rbMay (rb 0) 0 && decide (rbUnit (rb 0) = 0) && diePresent (rb 0) 0
       && (authoriseAll (rb 0) 0 [0]).2 && rbMay (rb 1) 1 && (authoriseAll (rb 1) 1 [0]).2
       && rbMay (rb (2 + 5 * 2 ^ 21)) 2 && decide (rbUnit (rb (2 + 5 * 2 ^ 21)) / 2 ^ 13 = 5 ∧ rbUnit (rb (2 + 5 * 2 ^ 21)) % 2 ^ 13 = 0)
       && rbMay (rb (2 + 2 ^ 21)) 2 && decide (schedDie 1 0 = some 0) && rbMay (rb (3 + 2 * 2 ^ 8)) 3
       && eventOk (rb (3 + 2 * 2 ^ 8)) 0 2 && decide ((ctxOf idle 0).state = 1) && rbMay (rb 6) 6 && rbMay (rb 7) 7
       && decide (pend.rbPend = some (64, 0))) = true := by
  decide +kernel

/-- A halt stops a running task, a resume runs it again, and without `MODE` 2 DEBUG_HALT stops none (R436). -/
theorem test_debug_halt :
    (let h := haltTask held 0
     (decide ((coreOf h 0).mode = .halted), (after (.debugResume 0) h).map fun t => decide ((coreOf t 0).mode = .running),
       (after (.debugHalt 0) held).map fun t => decide ((coreOf t 0).mode = .running))) = (true, some true, some true) := by
  decide +kernel

/-! ## Module, network, stops and services -/

/-- A flit of a kind with its right CRC. -/
def goodFlit (k : Nat) : Flit :=
  let f : Flit := ⟨0, BitVec.ofNat 8 k, 1, 0, true, 5, 2, 0, 7⟩
  { f with crc := BitVec.ofNat 32 (crc32c (toBytes 12 (flitHeader f) ++ toBytes 64 f.payload.toNat)) }

/-- CRC-32C of the bytes 0x31 to 0x39 is 0xE306_9283, the check value of that CRC (R379). -/
theorem test_crc32c : crc32c ((List.range 9).map fun i => BitVec.ofNat 8 (0x31 + i)) = 0xE3069283 := by decide +kernel

theorem witness_ModuleEventsComplete :
    (let low := { idle with reduced := true }
     let pend := { idle with clockPending := some true }
     let sw := { idle with switching := [1] }
     let t := (after (.copy .ca (cform 0 0 0 0)) mheld).getD base
     let z : FrozenTask := ⟨0, { placeTask 0 with piece := 3 }, [], [], none, false, false, 0, [], [], 0, 0⟩
     let rec_ := { modCtx (scheduled copyInst [pieceAt 3 3 1 0 .running]) 0 (fun y => { y with cxsave := 0x10_0000 }) with frozen := [z] }
     !idle.reduced && low.reduced && low.dies.toList.all (!·.hot) && (rec_.frozen.find? (savedAt rec_ 0 (0x10_0000 + 64))).isSome
       && decide ((coreOf rec_ 0).mode ≠ .frozen) && pend.clockPending.isSome && idle.dies[1]?.isSome && sw.switching.contains 1
       && (match idle.dies[1]? with | some e => decide (e.dstate = 0 ∧ e.pstate ≤ 1) && dieQuiet idle e.log | none => false)
       && (coreOf held 0).task.isSome && (engFind t 0 (((clusterOf t 0).engine.map (·.id)).headD 0)).isSome) = true := by
  decide +kernel

/-- An idle die goes idle, the power limit is clamped to its range, and the clock is reduced at its limit (R18, R25, R438). -/
theorem test_module :
    ((after (.dieIdleEntry 1) idle).map fun t => (t.dies[1]?.map (·.pstate)), ([0, 2000, 5000].map fun w => (after (.setPowerLimit w) idle).map (·.powerLimit)),
      (after .powerLimitExceeded idle).map (·.reduced)) = (some (some 2), [some 1800, some 2000, some 2900], some true) := by
  decide +kernel

/-- A data error fails the piece that met it with cause 0x0E (R420). -/
theorem test_data_error :
    ((after (.dataError (.core 0) 0x10_0000) (leafState copyInst (piece 1 4 .running))).map fun t => (t.pieces.map (·.state), t.faults.map (·.cause)))
      = some ([.failed], [0x0E]) := by
  decide +kernel

theorem witness_NetworkEventsComplete :
    (let v := { idle with vcs := [⟨3, 1, [goodFlit 1]⟩] }
     let early := { idle with early := [⟨2, 0, 0, 0, 1, [], false⟩] }
     let fixed := { idle with netctl := idle.netctl ||| 1, geyserPending := some 9 }
     !(vcFlits v 3 1).isEmpty && (portOf idle 0).isSome && (portOf idle 35).isSome && ([0, 1, 2, 3, 4].all fun k => flitGood (goodFlit k))
       && (match portOf idle 0 with | some q => !resent q { goodFlit 1 with payload := 8 } && !resent q { goodFlit 0 with crc := 0 } | none => false)
       && !flitGood { goodFlit 2 with crc := 0 } && !flitGood { goodFlit 1 with payload := 8 } && !flitGood { goodFlit 0 with crc := 0 } && early.early[0]?.isSome
       && idle.geyserPending.isNone && fixed.geyserPending.isSome && fixedLatency fixed) = true := by
  decide +kernel

/-- A bad flit raises the retry count (R380), and a virtual channel without progress recovers (R378). -/
theorem test_network :
    (after (.headerFlit 0 { goodFlit 0 with crc := 0 }) idle).map (fun t => t.retryCnt.toNat) = some 1
      ∧ (after (.noProgressTimeout 3 1) { idle with vcs := [⟨3, 1, [goodFlit 1]⟩] }).map (fun t => (t.reccnt.toNat, t.escape.length, t.recovering))
        = some (1, 1, [3]) := by
  decide +kernel

/-- The geyser ticks, or takes the group's count (R362). -/
theorem test_geyser :
    ([idle, { idle with geyserPending := some 9 }].map fun s => (after .geyserTick s).map fun t => t.geyser.toNat) = [some 1, some 9] := by
  decide +kernel

/-- A core waits on an event in slot 0. -/
def waiting : State := (after (.evwait (rrr 0 23 2 0)) evented).getD base

/-- A saved area, and a core frozen with its record due. -/
def saved : State := modCtx held 0 fun y => { y with cxsave := 0x10_0000_0000 }

theorem witness_StopsAndResumesComplete :
    (let sync := (after (.sync (rrr 0 0 0 5)) member).getD base
     let bad := modCore waiting 0 fun x => { x with pc := 3 }
     let soft := modCore held 0 fun x => { x with soft := true, deadline := true }
     let hard := modCore held 0 fun x => { x with hard := true }
     let fetch := modCore hard 0 fun x => { x with pc := 3 }
     let frozen := modCore saved 0 fun x => { x with mode := .frozen }
     let back := modCore held 0 fun x => { x with mode := .returning false }
     let exits := (after (.exit g0) held).getD base
     let z : FrozenTask := ⟨0, { placeTask 0 with piece := 3 }, [], [], none, false, false, 0, [], [], 0, 0⟩
     let res := { scheduled copyInst [pieceAt 3 3 1 0 .running] with frozen := [z] }
     let bank := (after (.mwait (mform 0 0 0 0 0 0 0)) ((runs [.aclr (mform 0 0 0 0 0 0 0x103)] mheld).getD base)).getD base
     decide ((coreOf waiting 0).mode = .running) && (coreOf waiting 0).waiting.isSome
       && decide (waitSlot waiting 0 = some 0) && !asserted (coreOf waiting 0) && (nextTrap waiting 0).isNone && (nextTrap bad 0).isSome
       && asserted (coreOf sync 0) && decide (waitSlot sync 0 = some 0)
       && decide ((ctxOf saved 0).cxsave ≠ 0) && (coreOf soft 0).soft && (coreOf soft 0).deadline
       && (coreOf hard 0).hard && (lockstep hard 0).all (openBoundary hard) && (nextTrap hard 0).isNone
       && (coreOf fetch 0).hard && (lockstep fetch 0).all (openBoundary fetch) && !asserted (coreOf fetch 0) && (nextTrap fetch 0).isSome
       && (coreOf frozen 0).task.isSome && mayRecord frozen 0
       && (servedLocal res 0).isSome && decide ((coreOf res 0).mode = .free ∧ (coreOf res 0).task = none)
       && (res.frozen.find? fun z => z.core = 0 && z.task.piece = 3).isSome && (banksWanted bank 0).contains 0
       && decide ((coreOf back 0).mode = .returning false) && decide ((coreOf exits 0).mode = .exiting) && decide (waitSlot exits 0 = some 0)) = true := by
  decide +kernel

/-- The watchdog ends a wait with cause 0x13, a hard request freezes a task and its record is saved (R402, R411, R415). -/
theorem test_stops :
    ((after (.watchdogExpiry 0) waiting).map fun t => ((coreOf t 0).tcause.toNat, (coreOf t 0).tdetail.toNat),
      (after (.hardPreemptFreeze 0) (modCore held 0 fun x => { x with hard := true })).map fun t =>
        (decide ((coreOf t 0).mode = .frozen), (coreOf t 0).tcause.toNat),
      (after (.preemptDeadlineExpiry 0) (modCore held 0 fun x => { x with soft := true, deadline := true })).map fun t => (coreOf t 0).hard)
      = (some (0x13, 0), some (true, 0x10), some true) := by
  decide +kernel

/-- A frozen task resumes on its core (R417). -/
theorem test_resume :
    (let z : FrozenTask := ⟨0, { placeTask 0 with piece := 3 }, [], [], none, false, false, 0, [], [], 0, 0⟩
     let res := { scheduled copyInst [pieceAt 3 3 1 0 .running] with frozen := [z] }
     (after (.frozenTaskResume 0) res).map fun t => (t.frozen.length, (coreOf t 0).task.map (·.piece))) = some (0, some 3) := by
  decide +kernel

/-- Cores 0 and 2 are the writers of descriptor 2, and core 0's recast of it to IMM has arrived. -/
def castPending : State :=
  let s := putGroup member { groupOf member 0 5 0 with members := [0, 2] }
  let t := (after (.rcast (rrr 0 11 24 0)) s).getD base
  nextOr t (execRecastArrival 0 t)

/-- Its request, from core 2 and from a fault agent. -/
def castAgain : RecastReq := ⟨.core 2, 0, BitVec.ofNat 64 (handle 2), 0, 0, 0, 0, 0, 0⟩

theorem witness_ServiceEventsComplete :
    (let t := (after (.rcast (rrr 0 13 24 0)) held).getD base
     let a := (after (.recastArrival 0) t).getD base
     let r : RecastReq := t.recastReqs.headD castAgain
     let ask (s : State) (r : RecastReq) : State := { s with recastReqs := [r] }
     let wp := (after (.stm (rrr 5 17 0 3)) held).getD base
     let tf := (after (.ldm (rrr 5 21 0 3)) held).getD base
     let res := modCore wp 0 fun x => { x with resolved := true }
     let g := (after (.sync (rrr 0 0 0 5)) member).getD base
     let b := modCore ((after (.rejoin g0) (gang false)).getD base) 2 fun x => { x with rejoinWait := true }
     let b : State := { b with gangs := b.gangs.map fun g => { g with rejoined := g.rejoined ++ [(2, 0x1_0008)] } }
     decide (recastVerdict t r = .start) && (openHandle t r.ctx r.handle).isSome && (ask castPending castAgain).recastReqs[0]?.isSome
       && decide (recastVerdict (ask castPending castAgain) castAgain = .join)
       && decide (recastVerdict (ask a { r with by_ := .agent 0 }) { r with by_ := .agent 0 } = .wait)
       && decide (recastVerdict (ask held { r with param := 3 }) { r with param := 3 } = .refuse 0x07 0) && a.recasts[0]?.isSome
       && (pageOf held 0 0x10_0000).isSome && !held.xinvBusy
       && ([wp, tf].all fun s => decide ((coreOf s 0).mode = .service) && !(coreOf s 0).resolved)
       && decide ((coreOf wp 0).svc.map (·.cause) = some 6) && decide ((coreOf tf 0).svc.map (·.cause) = some 5)
       && decide ((coreOf res 0).mode = .service) && (coreOf res 0).resolved
       && (groupOf g 0 5 0).open_ && ((groupOf g 0 5 0).required.all fun m => (groupOf g 0 5 0).asserted.contains m)
       && (match b.gangs.find? (fun y => y.id = 1) with
         | some y => !y.fused && (rejoinPlace y).isSome && ([0, 2].all fun m => (coreOf b m).rejoinWait && decide ((coreOf b m).mode = .running)
             && y.rejoined.any fun q => q.1 = m)
         | none => false)) = true := by
  decide +kernel

/-- A page that is cached after its walk (R91), and a fault that is served and retried (R98). -/
theorem test_services :
    (let tf := (after (.ldm (rrr 5 21 0 3)) held).getD base
     let r := modCore tf 0 fun x => { x with resolved := true }
     let cold := modCluster held 0 fun k => { k with tlb := [] }
     ((after (.pageWalkComplete 0 0 0x10_0000) cold).map fun t => ((clusterOf t 0).tlb.map fun e => e.xlat.base),
       (after (.faultServiceResolve 0) tf).map fun t => (coreOf t 0).tcause.toNat, (after (.faultResolvedRetry 0) r).map fun t =>
       decide ((coreOf t 0).mode = .running))) = (some [0x10_0000], some 0x05, some true) := by
  decide +kernel

/-- The second member of a group recast joins it (R83). -/
theorem test_recast_join :
    ((after (.recastArrival 0) { castPending with recastReqs := [castAgain] }).map fun t => t.recasts.map fun p => (p.required, p.arrived))
      = some [([0, 2], [2, 0])] := by
  decide +kernel

/-! ## The machine as a whole -/

/-- A bundle of one ADD stands at the address of core 0 and is issued next. -/
def placed : State := State.reset.withFetchWord 32 0x0203_0880

/-- The bundle's header with a `CLASS` and another S word in place of the ADD. -/
def codeWords (cls : BitVec 2) (w : Nat) : State :=
  setMem placed (memPut placed.mem (memKey placed.pkg.toNat placePa)
    (toBytes 4 (encodeHeader ⟨1, cls, true, false, false, 0, 0, 1⟩).toNat ++ toBytes 4 w))

/-- In step, a member takes the branch that its lead takes, in that same bundle cycle, and not by its own predicate (R358, R359). -/
theorem test_gang_path :
    (let own (c : Nat) (p : Bool) (s : State) : State := modCore s c fun x =>
       { x with p := x.p.setIfInBounds 1 p, pc := BitVec.ofNat 64 placePa }
     let g := modCluster (own 2 false (own 0 true (gang true))) 1 fun y => { y with tlb := (clusterOf (gang true) 0).tlb, spCtx := some 0 }
     let w := match encode (.br ⟨⟨1, false⟩, 4⟩) with | .w32 u => u.toNat | _ => 0
     (match execIssueBundle [0] (setMem g (memPut g.mem (memKey g.pkg.toNat placePa)
         (toBytes 4 (encodeHeader ⟨1, 0, true, false, false, 0, 0, 1⟩).toNat ++ toBytes 4 w))) with
       | .next t => [0, 2].map fun c => ((coreOf t c).pc.toNat, (coreOf t c).follow.length)
       | .fault _ => []
       | .refused _ => [])) = [(placePa + 16, 0), (placePa + 16, 0)] := by
  decide +kernel

/-- For the words that decode refuses: one of each slot that is unassigned, one of each that decodes, and two bundles that a core
fetches, one of `CLASS` 2 and one whose S word has no instruction. -/
theorem witness_HeadersReadBackAndBadWordsRefused :
    (let h (cls : BitVec 2) : Header := ⟨1, cls, true, false, false, 0, 0, 1⟩
     let bad := codeWords 0 (0x23 * 2 ^ 25)
     let cls2 := codeWords 2 0x0203_0880
     let x := coreOf placed 0
     let fits {α β : Type} (r : Except α β) : Bool := match r with | .ok _ => true | .error _ => false
     let reads (s : State) (cls : BitVec 2) : Bool :=
       (match codeNum s 0 x.pc.toNat (codeRegion x) x.pc.toNat 4 with | .ok v => decide (v = (encodeHeader (h cls)).toNat) | .error _ => false)
         && okay (codeNum s 0 x.pc.toNat (codeRegion x) (x.pc.toNat + 4) 4)
     fits (decodeS 0x0203_0880) && fits (decodeV .va 0) && fits (decodeM 0) && fits (decodeK 0) && fits (decodeC .ca 0)
       && !fits (decodeS (0x23 * 2 ^ 25)) && !fits (decodeV .vb (0x0F * 2 ^ 56)) && !fits (decodeM (0x0C * 2 ^ 58))
       && !fits (decodeK (6 * 2 ^ 27)) && !fits (decodeC .cb (0x11 * 2 ^ 58))
       && decide (x.pc.toNat % 4 = 0 ∧ (coreOf bad 0).pc = x.pc ∧ codeRegion (coreOf bad 0) = codeRegion x)
       && reads cls2 2 && reads bad 0 && decide ((h 2).len.toNat = presWords (h 2).pres ∧ 2 ≤ (h 2).cls.toNat ∧ (h 0).pres = BitVec.ofNat 7 (2 ^ 0))
       && (match codeNum bad 0 x.pc.toNat (codeRegion x) (x.pc.toNat + 4) 4 with
         | .ok w => (match decodeSlot 0 (BitVec.ofNat 32 w) 0 with | .error _ => true | .ok _ => false)
         | .error _ => false)) = true := by
  decide +kernel

/-- A word of an unassigned opcode and a set reserved field take 0x02 at the fetch (R6, R189). -/
theorem test_bad_word :
    ([codeWords 0 (0x23 * 2 ^ 25), codeWords 0 1].map fun s =>
      match fetchBundle s 0 with | .error t => (t.cause, t.detail) | .ok _ => (0, 9)) = [(0x02, 0), (0x02, 0)] := by
  decide +kernel

theorem witness_FetchReadsEncodedBundle :
    (let h : Header := ⟨1, 0, true, false, false, 0, 0, 1⟩
     let i : Instr := .add (rrr 1 2 3 0)
     let f := fetchBundle placed 0
     let x := coreOf placed 0
     decide (slotOf i = some 0) && decide (x.pc.toNat % 4 = 0)
       && (match codeNum placed 0 x.pc.toNat (codeRegion x) x.pc.toNat 4 with | .ok v => decide (v = (encodeHeader h).toNat) | .error _ => false)
       && okay (codeNum placed 0 x.pc.toNat (codeRegion x) (x.pc.toNat + 4) 4) && okay f
       && decide (walkClash [i] = false ∧ laneBits i ≤ 1024)) = true := by
  decide +kernel

theorem witness_StepRunsWhatIsDecoded :
    (let u := { placed with agenda := [] }
     decide (placed.agenda = [.issueBundle [placed.cur]]) && decide (placed.cur < 512) && decide (lockstep u 0 = [0])
       && (match fetchBundle u 0 with
         | .ok b => b.hdr.q && decide (b.hdr.len.toNat = 1 ∧ b.hdr.rep = 0 ∧ b.hdr.pop = 0 ∧ b.hdr.rot = false ∧ b.hdr.sp = false ∧ b.hdr.cls = 0)
             && decide (b.ops.length = 1)
         | .error _ => false) && decide ((coreOf u 0).gskew = 0 ∧ (coreOf u 0).follow = []) && decide (held.agenda = [])) = true := by
  decide +kernel

/-- The step after placing a word at reset runs it: an ADD of S, and a TNOP, which is accepted, retires and leaves its record. -/
theorem test_placed :
    (match step placed with | .next t => (coreOf t 0).pc.toNat | _ => 0) = 0x1_0008
      ∧ (match step (State.reset.withFetchWord 512 0x500) with | .next t => t.cqes.length | _ => 0) = 1 := by
  decide +kernel

theorem witness_EncodeDecodeAgree :
    (Instr.add (rrr 1 2 3 0)).wellFormed = true ∧ wordBits (.add (rrr 1 2 3 0)) ≠ 0 ∧ (Instr.vadd .va (vform 7 0 4 1 2 0 0)).wellFormed = true := by
  decide +kernel

theorem witness_MemoryStaysCanonical :
    (let s := { (after (.stm (rrr 5 16 0 3)) held).getD base with agenda := [.storeApply 0 0] }
     memOk s && match step s with | .next t => memOk t && !t.mem.isEmpty | _ => false) = true := by
  decide +kernel

theorem witness_OnlyABootChangesItsResult :
    (let s := { held with agenda := [.storeApply 0 0] }
     decide (s.agenda.head? ≠ some .moduleResetBoot) && match step s with | .next _ => true | _ => false) = true := by
  decide +kernel

theorem witness_HeldBackChangesNothing :
    (let gated : SRR := { rrr 1 2 3 0 with g := ⟨1, false⟩ }
     let pend := modCore held 0 fun x => { x with inflight := (coreOf (pendS held 0 2).2 0).inflight }
     let stopped := modCore held 0 fun x => { x with mode := .halted }
     mayIssue held (.add gated) && !gateOpen (actor held) ⟨1, false⟩
       && decide (lockstep pend pend.cur = [pend.cur]) && issuing pend pend.cur && interlock (landed pend) pend.cur (.add (rrr 1 2 3 0))
       && decide (lockstep stopped 0 = [0]) && !issuing stopped 0) = true := by
  decide +kernel

/-- Core 0 has a handler: descriptor 6 is IMM UINT8, and `TVEC` holds its handle (R407). -/
def handled : State :=
  let image : List Host.Cell := tables.filter (fun q => decide (q.1 < 0x4180))
    ++ [(0x4182, 0x13), (0x4187, 0x81), (0x4188, 1), (0x418C, 1), (0x419C, 9), (0x41AB, 1)] ++ tables.filter (fun q => decide (0x4180 ≤ q.1))
  modCore (setMem held image) 0 fun x => { x with tvec := BitVec.ofNat 64 (handle 6) }

theorem witness_TrapEntersItsHandler :
    (let t := trapOf 0x0D 3
     let x := coreOf handled 0
     let u := takeTrap handled 0 t
     (x.inflight.all isRegResult) && x.shadow.isNone && decide (t.cause ≠ 0x05 ∧ t.cause ≠ 0x06 ∧ t.fetch = false)
       && decide ((ctxOf handled 0).dbgmode = 0) && decide (x.tvec ≠ 0) && (kernelRegion u (ctxOfCore handled 0) x.tvec).isSome
       && (gangOf handled 0).isNone && decide ((coreOf u 0).pc = 0x13_0000)) = true := by
  decide +kernel

theorem witness_ZeroRegistersDiscard :
    (let a : Flight := ⟨1, some 5, 0, .reg .s 0, 0, 7, 0, 64, 0⟩
     a.dst ∈ [Dest.reg .s 0, .reg .p 0]) := by
  decide +kernel

end Sys2Proof.Tests
end

section
/-!
PROOFS. The module's events and reset: O43, O47 and O48.
-/
namespace Sys2Proof.Proofs
open Machine Laws

/-! ## The module's events (O43) -/

/-- A task that a core holds is aborted with a class-2 record (R420). -/
theorem abortTask_of_task {c pa : Nat} {s : State} (h : (coreOf s c).task.isSome = true) :
    abortTask s c pa = failTask s c 2 0x0E pa := by
  rw [abortTask, if_neg (by simpa [Option.ne_none_iff_isSome] using h)]

/-- An engine operation that the cluster holds leaves it, shows its failure if it has a completion word, and aborts its task. -/
theorem stopOp_of_engFind {k op pa : Nat} {o : EngOp} {s : State} (h : engFind s k op = some o) :
    stopOp s k op pa =
      (let v := modCluster s k fun y => { y with engine := y.engine.filter fun q => decide (q.id ≠ op) }
       abortOp (if o.cmpl / 2 % 2 = 1 then spPut v k o.cwoff 8 (completionWord { o with fail := some 0x0E }) else v) o pa) := by
  rw [stopOp, h]

/-- A saved record that a data error meets fails its frozen task. -/
theorem dataError_record_saved {c pa : Nat} {z : FrozenTask} {s : State} (hm : (coreOf s c).mode ≠ .frozen)
    (hz : s.frozen.find? (savedAt s c pa) = some z) : exec (.dataError (.record c) pa) s = .next (abortFrozen s z pa) := by
  show execDataError (.record c) pa s = _
  simp only [execDataError, if_neg hm, hz]

/-- No die stands at its trip point, so the power limit alone ends the reduced-clock state (R26). -/
theorem powerLimitRecovered_cool {s : State} (hr : s.reduced = true) (hc : ∀ e ∈ s.dies.toList, e.hot = false) :
    exec .powerLimitRecovered s = .next (askClock s false) := by
  have cool : s.dies.toList.any (·.hot) = false := List.any_eq_false.mpr fun e he => Bool.eq_false_iff.mp (hc e he)
  show execPowerLimitRecovered s = _
  simp only [execPowerLimitRecovered, cool, hr, Bool.not_true, Bool.false_and, Bool.false_eq_true, if_false]

/-- The die that a substitution switches in becomes active (R18, R438). -/
theorem dieSwitchInComplete_switching {d : Nat} {e : DieEntry} {s : State} (he : s.dies[d]? = some e)
    (hs : s.switching.contains d = true) :
    exec (.dieSwitchInComplete d) s = .next { s with
      switching := s.switching.filter fun q => decide (q ≠ d)
      dies := s.dies.setIfInBounds d { e with pstate := workState s } } := by
  show execDieSwitchInComplete d s = _
  simp only [execDieSwitchInComplete, he, hs, if_true]

/-- A die trips: the package is to run at the reduced clock, whatever its limit (R26). -/
theorem thermalTrip_of_die {d : Nat} {e : DieEntry} {s : State} (he : s.dies[d]? = some e) :
    exec (.thermalTrip d) s =
      (let v := { s with dies := s.dies.setIfInBounds d { e with hot := true } }
       .next (if s.reduced then { v with clockPending := none }
         else if detJob v then { v with clockPending := some true } else setClock v true)) := by
  show execThermalTrip d s = _
  simp only [execThermalTrip, he, askClock]

/-- A quiet die at work goes idle (R438). -/
theorem dieIdleEntry_quiet {d : Nat} {e : DieEntry} {s : State} (he : s.dies[d]? = some e) (hd : e.dstate = 0)
    (hp : e.pstate ≤ 1) (hq : dieQuiet s e.log = true) :
    exec (.dieIdleEntry d) s = .next { s with dies := s.dies.setIfInBounds d { e with pstate := 2 } } := by
  show execDieIdleEntry d s = _
  simp [execDieIdleEntry, he, hd, hp, hq]

/-- Settles O43, one event at a time: each is the model's function for it, in the branch that its hypotheses select. -/
theorem moduleEventsComplete : Obligations.ModuleEventsComplete := by
  intro d c k op pa w ds s
  refine ⟨rfl, rfl, rfl, ?_, ?_, ?_, ?_, rfl, ?_, ?_, ?_⟩
  · intro hr
    show execPowerLimitExceeded s = _
    simp [execPowerLimitExceeded, askClock, hr]
  · exact powerLimitRecovered_cool
  · intro b hb
    show execDetClockChangeBoundary s = _
    simp only [execDetClockChangeBoundary, hb]
  · exact fun e he => ⟨dieSwitchInComplete_switching he, thermalTrip_of_die he, dieIdleEntry_quiet he⟩
  · exact fun h => congrArg _ (abortTask_of_task h)
  · exact fun o h => congrArg _ (stopOp_of_engFind h)
  · exact fun z hm hz => dataError_record_saved hm hz

/-! ## Reset (O47, O48) -/

/-- Nothing is held at reset, so every context, queue pair, core and partition reads its initial state. -/
theorem ctxOf_reset (n : Nat) : ctxOf State.reset n = Ctx.init := rfl

theorem qpOf_reset (c q : Nat) : qpOf State.reset c q = Qp.init := rfl

theorem coreOf_reset (c : Nat) : coreOf State.reset c = Core.init := rfl

theorem partMask_reset (p : Nat) : partMask State.reset p = 0 := rfl

/-- Settles O47: the state's own fields are its reset values, and every context, queue pair, core and partition is in its
initial state. -/
theorem resetLeavesWhatTheSpecGives : Obligations.ResetLeavesWhatTheSpecGives := by
  refine ⟨rfl, rfl, rfl, rfl, rfl, rfl, rfl, rfl, rfl, rfl, fun n => ?_, fun c q => ?_, partMask_reset, fun c => ?_⟩
  · rw [ctxOf_reset]
    exact ⟨rfl, rfl, rfl, rfl, rfl⟩
  · rw [qpOf_reset]
    exact ⟨rfl, rfl, rfl, rfl⟩
  · rw [coreOf_reset]
    exact ⟨rfl, rfl, rfl, rfl⟩

/-- Settles O48: memory is empty at reset, and no cluster is held. -/
theorem memoryCanonicalAtReset : Obligations.MemoryCanonicalAtReset := by
  show memOk State.reset = true
  simp only [memOk, reset_memory_wf, Bool.true_and]
  rfl

end Sys2Proof.Proofs
end

section
/-!
PROOFS. What every step keeps: canonical memory (O49) and what the boot left (O50).
-/
namespace Sys2Proof.Proofs
open Machine Laws

/-! ## What every step keeps

Both invariants go through one predicate, `Kept`, which holds of a state and itself and of every state that a function of the model
makes of a kept one. One lemma per function says so, in the order of the model, by the lemmas of the functions that it calls;
`Kept.upd` stands for an update of fields that the invariants do not speak of. -/

/-- What the boot left stands in `s` as in `a`, and memory and the scratchpads are canonical in `s` if they are in `a`. -/
structure Kept (a s : State) : Prop where
  boot : SameBoot s a
  mem : memOk a = true → memOk s = true

/-- The result of an operation keeps it: the state of one that issues, and whatever a wait leaves behind. -/
def ResKept (a : State) : OpRes → Prop
  | .ok t _ => Kept a t
  | .trap _ => True
  | .stall f => ∀ s, Kept a s → Kept a (f s)

/-- The next state keeps it, if there is one. -/
def NextKept (a : State) : Host.Outcome State Fault Refusal → Prop
  | .next t => Kept a t
  | _ => True

variable {a s t : State}

/-! ## Canonical memories -/

theorem memOk_iff (s : State) : memOk s = true ↔ Memory.wf s.mem = true ∧ ∀ q ∈ s.clusters, Memory.wf q.2.sp = true := by
  simp [memOk]

theorem sset_all {α : Type} (p : α → Prop) (m : Sparse α) (k : Nat) (v : α) (hm : ∀ q ∈ m, p q.2) (hv : p v) :
    ∀ q ∈ sset m k v, p q.2 := by
  induction m with
  | nil => simpa [sset] using hv
  | cons q r ih =>
    obtain ⟨hq, hr⟩ := List.forall_mem_cons.mp hm
    unfold sset
    split
    · exact List.forall_mem_cons.mpr ⟨hv, hm⟩
    split
    · exact List.forall_mem_cons.mpr ⟨hv, hr⟩
    · exact List.forall_mem_cons.mpr ⟨hq, ih hr⟩

theorem sget_all {α : Type} (p : α → Prop) (d : α) (m : Sparse α) (k : Nat) (hm : ∀ q ∈ m, p q.2) (hd : p d) :
    p (sget d m k) := by
  induction m with
  | nil => exact hd
  | cons q r ih =>
    obtain ⟨hq, hr⟩ := List.forall_mem_cons.mp hm
    unfold sget
    split
    · exact hq
    split
    · exact hd
    · exact ih hr

theorem foldl_wf {β : Type} {l : List β} {f : List Host.Cell → β → List Host.Cell} {m : List Host.Cell}
    (w : Memory.wf m = true) (hf : ∀ m x, Memory.wf m = true → Memory.wf (f m x) = true) : Memory.wf (l.foldl f m) = true :=
  List.foldlRecOn l f (motive := fun m => Memory.wf m = true) w fun m hm x _ => hf m x hm

/-! ## The updates of the state -/

protected theorem Kept.refl (s : State) : Kept s s := ⟨⟨rfl, rfl, rfl, rfl, rfl⟩, id⟩

/-- An update of any fields but memory, the clusters and what the boot leaves. -/
protected theorem Kept.upd {cores ctxs qps tensors recastReqs recasts incs chains groups gangs bags async hostBuf hostReply tiles
    pieces pointers rr faults cqes frozen asserts savedClusters stoppedOps parts partBusy dies substituted switching powerLimit
    reduced clockPending xinvBusy xinvEcode xinvScope netctl reccnt late retryCnt fabsel routes rbsel rbBytes rbEcode rbBusy
    rbPend pkg geyser geyserPending ports vcs arriving escape recovering linkSlots flows early delivered chanTiles readyTiles
    transfers chanRounds away rmUnits poolUsed raced agenda free fresh cur} (h : Kept a s) :
    Kept a { s with
      cores, ctxs, qps, tensors, recastReqs, recasts, incs, chains, groups, gangs, bags, async, hostBuf, hostReply, tiles,
      pieces, pointers, rr, faults, cqes, frozen, asserts, savedClusters, stoppedOps, parts, partBusy, dies, substituted,
      switching, powerLimit, reduced, clockPending, xinvBusy, xinvEcode, xinvScope, netctl, reccnt, late, retryCnt, fabsel,
      routes, rbsel, rbBytes, rbEcode, rbBusy, rbPend, pkg, geyser, geyserPending, ports, vcs, arriving, escape, recovering,
      linkSlots, flows, early, delivered, chanTiles, readyTiles, transfers, chanRounds, away, rmUnits, poolUsed, raced,
      agenda, free, fresh, cur } := ⟨h.boot, h.mem⟩

protected theorem Kept.mem_wf (h : Kept a s) (ha : memOk a = true) : Memory.wf s.mem = true := ((memOk_iff s).mp (h.mem ha)).1

protected theorem Kept.sp_wf (h : Kept a s) (ha : memOk a = true) (k : Nat) : Memory.wf (clusterOf s k).sp = true :=
  sget_all (fun y : Cluster => Memory.wf y.sp = true) _ _ _ ((memOk_iff s).mp (h.mem ha)).2 rfl

/-- Memory replaced by a canonical one. -/
protected theorem Kept.setMem {m} (h : Kept a s) (w : memOk a = true → Memory.wf m = true) : Kept a (setMem s m) :=
  ⟨h.boot, fun ha => (memOk_iff _).mpr ⟨w ha, ((memOk_iff s).mp (h.mem ha)).2⟩⟩

/-- Memory replaced by a canonical one, with free values drawn for it. -/
protected theorem Kept.setMemFree {m n} (h : Kept a s) (w : memOk a = true → Memory.wf m = true) :
    Kept a { s with mem := m, free := n } := (h.setMem w).upd

/-- The clusters replaced by ones with canonical scratchpads. -/
protected theorem Kept.setClusters {cs : Sparse Cluster} (h : Kept a s)
    (w : (∀ q ∈ s.clusters, Memory.wf q.2.sp = true) → ∀ q ∈ cs, Memory.wf q.2.sp = true) : Kept a { s with clusters := cs } :=
  ⟨h.boot, fun ha => (memOk_iff _).mpr ⟨h.mem_wf ha, w ((memOk_iff s).mp (h.mem ha)).2⟩⟩

protected theorem Kept.setCluster {k x} (h : Kept a s) (w : memOk a = true → Memory.wf x.sp = true) :
    Kept a (setCluster s k x) :=
  ⟨h.boot, fun ha => (memOk_iff _).mpr ⟨h.mem_wf ha,
    sset_all (fun y : Cluster => Memory.wf y.sp = true) _ _ _ ((memOk_iff s).mp (h.mem ha)).2 (w ha)⟩⟩

/-- A cluster changed by a function that keeps scratchpads canonical; one that leaves the scratchpad does. -/
protected theorem Kept.modCluster {k f} (h : Kept a s)
    (w : ∀ y : Cluster, Memory.wf y.sp = true → Memory.wf (f y).sp = true := by exact fun _ w => w) :
    Kept a (modCluster s k f) := h.setCluster fun ha => w _ (h.sp_wf ha k)

/-- Every cluster changed by such a function. -/
protected theorem Kept.mapClusters {g : Nat × Cluster → Nat × Cluster} (h : Kept a s)
    (w : ∀ q : Nat × Cluster, Memory.wf q.2.sp = true → Memory.wf (g q).2.sp = true := by exact fun _ w => w) :
    Kept a { s with clusters := s.clusters.map g } :=
  h.setClusters fun hs => List.forall_mem_map.mpr fun q hq => w q (hs q hq)

/-! ## Choices and folds -/

protected theorem Kept.ite {p : Prop} [Decidable p] (hs : Kept a s) (ht : Kept a t) : Kept a (if p then s else t) := by
  split <;> assumption

protected theorem Kept.foldl {β : Type} {f : State → β → State} {l : List β} (h : Kept a s)
    (hf : ∀ t x, Kept a t → Kept a (f t x)) : Kept a (l.foldl f s) :=
  List.foldlRecOn l f h fun t ht x _ => hf t x ht

protected theorem Kept.foldl_fst {β γ : Type} {f : State × γ → β → State × γ} {l : List β} {q : State × γ} (h : Kept a q.1)
    (hf : ∀ q x, Kept a q.1 → Kept a (f q x).1) : Kept a (l.foldl f q).1 :=
  List.foldlRecOn l f (motive := fun q => Kept a q.1) h fun q hq x _ => hf q x hq

protected theorem Kept.foldl_snd {β γ : Type} {f : γ × State → β → γ × State} {l : List β} {q : γ × State} (h : Kept a q.2)
    (hf : ∀ q x, Kept a q.2 → Kept a (f q x).2) : Kept a (l.foldl f q).2 :=
  List.foldlRecOn l f (motive := fun q => Kept a q.2) h fun q hq x _ => hf q x hq

/-! ## State operations -/

protected theorem Kept.paPut {pa n v} (h : Kept a s) : Kept a (paPut s pa n v) := by
  unfold paPut; exact h.setMem fun ha => memPut_wf _ _ _ (h.mem_wf ha)

protected theorem Kept.setCore {c x} (h : Kept a s) : Kept a (setCore s c x) := by
  unfold setCore; exact h.upd

protected theorem Kept.modCore {c f} (h : Kept a s) : Kept a (modCore s c f) := by
  unfold modCore; exact h.setCore

protected theorem Kept.modCtx {c f} (h : Kept a s) : Kept a (modCtx s c f) := by
  unfold modCtx; exact h.upd

protected theorem Kept.modQp {c q f} (h : Kept a s) : Kept a (modQp s c q f) := by
  unfold modQp; exact h.upd

protected theorem Kept.freshId (h : Kept a s) : Kept a (freshId s).2 := by
  unfold freshId; exact h.upd

protected theorem Kept.pushFlight {c slot lat dst mask val flags gran} (h : Kept a s) :
    Kept a (pushFlight s c slot lat dst mask val flags gran) := by
  dsimp only [pushFlight]; exact h.freshId.modCore

protected theorem Kept.pushPending {c slot dst mask gran left} (h : Kept a s) :
    Kept a (pushPending s c slot dst mask gran left).2 := by
  dsimp only [pushPending]; exact h.freshId.modCore

protected theorem Kept.setS {c slot lat r v} (h : Kept a s) : Kept a (setS s c slot lat r v) := by
  unfold setS; exact h.ite h.pushFlight

protected theorem Kept.pendS {c r} (h : Kept a s) : Kept a (pendS s c r).2 := by
  unfold pendS
  extract_lets
  split
  · exact h.freshId
  · exact h.pushPending

protected theorem Kept.setP {c slot lat n v} (h : Kept a s) : Kept a (setP s c slot lat n v) := by
  unfold setP; exact h.ite h.pushFlight

protected theorem Kept.setV {c slot lat vb r mask val flags gran} (h : Kept a s) :
    Kept a (setV s c slot lat vb r mask val flags gran) := by
  unfold setV; exact h.pushFlight

protected theorem Kept.setM {c slot lat vb n val flags} (h : Kept a s) : Kept a (setM s c slot lat vb n val flags) := by
  unfold setM; exact h.ite h.pushFlight

/-- The landings that a cluster shares leave its scratchpad. -/
theorem landShared_sp (fs : List Flight) (k : Cluster) : (landShared fs k).sp = k.sp := by
  refine List.foldlRecOn fs _ (motive := fun y : Cluster => y.sp = k.sp) rfl fun y hy b _ => ?_
  rw [← hy]
  dsimp only
  repeat' split
  all_goals rfl

protected theorem Kept.landNow {c} (h : Kept a s) : Kept a (landNow s c) := by
  unfold landNow; exact Kept.modCluster h.setCore fun y w => by rwa [landShared_sp]

protected theorem Kept.bubbles {n c} (h : Kept a s) : Kept a (bubbles n s c) := by
  induction n generalizing s with
  | zero => exact h
  | succ n ih => exact ih h.landNow.modCore

protected theorem Kept.spMasked {k ws} (h : Kept a s) : Kept a (spMasked s k ws) := by
  unfold spMasked; exact h.modCluster fun _ w => memMasked_wf _ _ w

protected theorem Kept.spPut {k off n v} (h : Kept a s) : Kept a (spPut s k off n v) := by
  unfold spPut; exact h.modCluster fun _ w => memPut_wf _ _ _ w

protected theorem Kept.putDesc {ctx index d} (h : Kept a s) : Kept a (putDesc s ctx index d) := by
  unfold putDesc; exact h.paPut

protected theorem Kept.putRec {t'} (h : Kept a s) : Kept a (putRec s t') := by
  unfold putRec; exact h.upd

protected theorem Kept.applyInc {ctx i inc} (h : Kept a s) : Kept a (applyInc s ctx i inc) := by
  dsimp only [applyInc]; exact h.paPut.upd

protected theorem Kept.raiseEvent {ctx i inc} (h : Kept a s) : Kept a (raiseEvent s ctx i inc) := by
  unfold raiseEvent; exact h.applyInc.ite h

protected theorem Kept.putGroup {g} (h : Kept a s) : Kept a (putGroup s g) := by
  unfold putGroup; exact h.upd

protected theorem Kept.leaveCtx {c ctx} (h : Kept a s) : Kept a (leaveCtx s c ctx) := by
  unfold leaveCtx; exact h.upd

protected theorem Kept.leaveAll {c} (h : Kept a s) : Kept a (leaveAll s c) := by
  unfold leaveAll; exact h.leaveCtx

protected theorem Kept.sendFault {f} (h : Kept a s) : Kept a (sendFault s f) := by
  unfold sendFault
  split
  · exact h.upd
  · exact h

protected theorem Kept.orphanOps {c ctx} (h : Kept a s) : Kept a (orphanOps s c ctx) := by
  unfold orphanOps; exact h.modCluster

protected theorem Kept.leaveEngine {c} (h : Kept a s) : Kept a (leaveEngine s c) := by
  unfold leaveEngine; exact h.modCluster

protected theorem Kept.dropTask {c} (h : Kept a s) : Kept a (dropTask s c) := by
  unfold dropTask; exact h.leaveAll.orphanOps.upd.leaveEngine.modCore

protected theorem Kept.failTask {c cls cause detail} (h : Kept a s) : Kept a (failTask s c cls cause detail) := by
  unfold failTask; exact ((h.sendFault.upd.foldl fun _ _ ht => ht.dropTask).foldl fun _ _ ht => ht.modCore).upd

protected theorem Kept.abortTask {c pa} (h : Kept a s) : Kept a (abortTask s c pa) := by
  unfold abortTask; exact h.ite h.failTask

protected theorem Kept.capture {c} (h : Kept a s) : Kept a (capture s c) := by
  unfold capture; exact Kept.modCluster h.setCore fun y w => by rwa [landShared_sp]

protected theorem Kept.holdResult {c slot dst mask val gran} (h : Kept a s) :
    Kept a (holdResult s c slot dst mask val gran) := by
  dsimp only [holdResult]; exact h.freshId.modCore

protected theorem Kept.trace {c kind addr} (h : Kept a s) : Kept a (trace s c kind addr) := by
  unfold trace; exact h.ite (h.upd.modCtx.ite h.upd.paPut.modCtx)

protected theorem Kept.freezeMember {m} (h : Kept a s) : Kept a (freezeMember s m) := by
  unfold freezeMember; exact h.leaveEngine.modCore.trace.ite h

protected theorem Kept.freezeGang {c} (h : Kept a s) : Kept a (freezeGang s c) := by
  unfold freezeGang
  split
  · exact h.ite (h.foldl fun _ _ ht => ht.freezeMember)
  · exact h

protected theorem Kept.haltMember {m} (h : Kept a s) : Kept a (haltMember s m) := by
  unfold haltMember
  extract_lets
  split
  · exact h.leaveEngine.setCore.trace
  · exact h.leaveEngine.setCore.trace
  · exact h.leaveEngine.setCore.trace
  · exact h.leaveEngine.setCore.trace
  · exact h.setCore
  · exact h

protected theorem Kept.deliverTrap {c t'} (h : Kept a s) : Kept a (deliverTrap s c t') := by
  unfold deliverTrap
  extract_lets
  split
  · exact h.failTask
  split
  · exact h.setCore.capture.trace.modCore.foldl fun _ _ ht => ht.haltMember
  split
  · exact h.setCore.capture.trace.modCore.freezeGang
  · exact h.setCore.capture.trace.failTask

protected theorem Kept.takeTrap {c t'} (h : Kept a s) : Kept a (takeTrap s c t') := by
  unfold takeTrap; exact h.upd.leaveEngine.modCore.modCore.ite h.upd.leaveEngine.modCore.deliverTrap

protected theorem Kept.leaveHandler {c skip} (h : Kept a s) : Kept a (leaveHandler s c skip) := by
  unfold leaveHandler
  extract_lets
  split
  · exact h
  · exact h.setCore.trace.foldl fun _ _ ht => ht.setCore.trace.ite ht

/-! ## Operands -/

protected theorem Kept.modHeadAt {ctx c hd f} (h : Kept a s) : Kept a (modHeadAt s ctx c hd f) := by
  unfold modHeadAt
  split
  · exact h.paPut.paPut.upd
  · exact h.modCore

protected theorem Kept.setThreadHead {c hd y} (h : Kept a s) : Kept a (setThreadHead s c hd y) := by
  unfold setThreadHead; exact h.modCore.ite h.modHeadAt

protected theorem Kept.threadView {c hd} (h : Kept a s) : Kept a (threadView s c hd) := by
  unfold threadView
  split
  · exact h.modCore
  · exact h

protected theorem Kept.vWrite {c x lat d e w rs} (h : Kept a s) : Kept a (vWrite s c x lat d e w rs) := by
  unfold vWrite; exact h.setV

/-! ## A slot operation issues -/

protected theorem Kept.giveRet {c byHandler ret v flags} (h : Kept a s) : Kept a (giveRet s c byHandler ret v flags) := by
  unfold giveRet; exact h.modCore

protected theorem Kept.applySp {e} (h : Kept a s) : Kept a (applySp s e) := by
  dsimp only [applySp]
  split
  · exact h.spMasked
  · exact h.spPut.giveRet
  · exact h.spPut.giveRet

protected theorem Kept.applySps {es} (h : Kept a s) : Kept a (applySps s es) := by
  unfold applySps; exact h.foldl fun _ _ ht => ht.applySp

protected theorem Kept.modBank {k b f} (h : Kept a s) : Kept a (modBank s k b f) := by
  unfold modBank; exact h.modCluster

protected theorem Kept.awaitEngine {c} (h : Kept a s) : Kept a (awaitEngine s c) := by
  unfold awaitEngine; exact h.modCluster

/-- An operation in its slot keeps it, on whatever state. -/
def ActKept (act : Act) : Prop := ∀ {a s : State} {c : Nat} {at_ : Site}, Kept a s → ResKept a (act s c at_)

/-- A repetition keeps it. -/
def RepKept (a : State) : RepRes → Prop
  | .ok t _ => Kept a t
  | .trap _ _ => True
  | .stall _ _ _ f => ∀ s, Kept a s → Kept a (f s)

protected theorem Kept.runOne {i act c at_} (h : Kept a s) (ha : ActKept act) : ResKept a (runOne i act s c at_) := by
  have hr : ResKept a (act s c at_) := ha h
  unfold runOne
  extract_lets
  split
  · revert hr
    cases act s c at_ <;> exact id
  · exact h

protected theorem Kept.runFull {i act c at_} (h : Kept a s) (ha : ActKept act) : ResKept a (runFull i act s c at_) := by
  unfold runFull
  split
  · exact fun _ ht => ht.awaitEngine.ite ht
  · exact h.runOne ha

protected theorem Kept.popHead {c hd n} (h : Kept a s) : Kept a (popHead s c hd n) := by
  unfold popHead; exact h.setCore.putRec.ite h.setCore

protected theorem Kept.advHeads {c e} (h : Kept a s) : Kept a (advHeads s c e) := by
  unfold advHeads; exact h.foldl fun _ _ ht => ht.setCore.ite ht.popHead

protected theorem Kept.finishRep {c e pops} (h : Kept a s) : Kept a (finishRep s c e pops) := by
  unfold finishRep; exact (h.modCore.foldl fun _ _ ht => ht.popHead).advHeads.modCore.leaveEngine

protected theorem Kept.freezeCore {c cause mode} (h : Kept a s) : Kept a (freezeCore s c cause mode) := by
  unfold freezeCore; exact h.capture.leaveEngine.modCore.trace

protected theorem Kept.haltCore {c} (h : Kept a s) : Kept a (haltCore s c) := by
  unfold haltCore; exact (h.leaveEngine.modCore.ite h.freezeCore).modCore.trace

protected theorem Kept.tryReturn {c} (h : Kept a s) : Kept a (tryReturn s c) := by
  unfold tryReturn
  extract_lets
  split
  · exact h.ite (h.bubbles.leaveHandler.haltCore.ite h.bubbles.leaveHandler)
  · exact h

protected theorem Kept.noteWait {c} (h : Kept a s) : Kept a (noteWait s c) := by
  unfold noteWait
  split
  · exact h.upd
  · exact h

protected theorem Kept.exitTask {c} (h : Kept a s) : Kept a (exitTask s c) := by
  unfold exitTask
  extract_lets
  split
  · exact h.failTask
  split
  · exact h.modCore.trace.upd
  · exact h.modCore.trace

protected theorem Kept.moveGang {c e} (h : Kept a s) : Kept a (moveGang s c e) := by
  unfold moveGang
  split
  · exact h.upd
  · exact h

protected theorem Kept.finishBundle {c at_ e ops rot sp} (h : Kept a s) : Kept a (finishBundle s c at_ e ops rot sp) := by
  unfold finishBundle
  extract_lets _ s1 _ s2
  have hs1 : Kept a s1 := by
    unfold s1
    split
    · exact h.modCore.bubbles.trace
    · exact h.modCore
  have hs2 : Kept a s2 := hs1.moveGang.modCore.ite hs1.moveGang
  split
  · exact hs2.exitTask
  split
  · exact hs2.modCore.tryReturn
  · exact hs2.freezeCore.ite hs2

protected theorem Kept.stalled {c slot i} (h : Kept a s) : Kept a (stalled s c slot i) := by
  unfold stalled; exact h.modCore.awaitEngine.ite h.modCore

protected theorem Kept.landLanes {ls} (h : Kept a s) : Kept a (landLanes s ls) := by
  unfold landLanes; exact h.foldl fun _ _ ht => ht.landNow

/-- The operations of a slot order keep it, with the waits of those before. -/
protected theorem Kept.runOps {c at_ ops e w} (h : Kept a s) (ho : ∀ q ∈ ops, ActKept q.2.2)
    (hw : ∀ q ∈ w, ∀ s, Kept a s → Kept a (q.2.2 s)) : RepKept a (runOps s c at_ ops e w) := by
  induction ops generalizing s e w with
  | nil =>
    unfold runOps
    split
    · exact h
    · exact hw _ rfl
    · contradiction
  | cons q r ih =>
    obtain ⟨k, i, act⟩ := q
    obtain ⟨ha, hr⟩ := List.forall_mem_cons.mp ho
    have hf : ResKept a (runFull i act s c at_) := h.runFull ha
    unfold runOps
    revert hf
    cases runFull i act s c at_ with
    | trap t => exact fun _ => trivial
    | ok t e' => exact fun ht => ih ht hr hw
    | stall f =>
      refine fun hf => ih h hr ?_
      cases w with
      | none => rintro q ⟨⟩; exact hf
      | some q => exact hw

/-- The operations of a lane keep it. -/
def LaneKept (l : Lane) : Prop := ∀ q ∈ l.ops, ActKept q.2.2

protected theorem Kept.runLane {l} (h : Kept a s) (hl : LaneKept l) : RepKept a (runLane s l) := by
  have hr : RepKept a (runOps s l.core l.site l.ops .none none) := h.runOps hl (by simp)
  unfold runLane
  split
  · trivial
  · trivial
  · exact hr

protected theorem Kept.runLanes {ls} (h : Kept a s) (hl : ∀ l ∈ ls, LaneKept l) : RepKept a (runLanes s ls) := by
  induction ls generalizing s with
  | nil => exact h
  | cons l ls ih =>
    obtain ⟨h1, h2⟩ := List.forall_mem_cons.mp hl
    have hr : RepKept a (runLane s l) := h.runLane h1
    unfold runLanes
    split
    next t es e =>
      have ht : Kept a t := by rwa [e] at hr
      have hs := ih ht h2
      split
      next e' => rwa [e'] at hs
      · exact hs
    · trivial
    next f e =>
      have hf : ∀ s, Kept a s → Kept a (f s) := by rwa [e] at hr
      have hs := ih h h2
      split
      · trivial
      next g e' =>
        rw [e'] at hs
        exact fun t ht => hs _ (hf t ht)
      · exact hf

protected theorem Kept.groupOps {ls} (h : Kept a s) (hl : ∀ l ∈ ls, LaneKept l) : RepKept a (groupOps s ls) := by
  unfold groupOps
  split
  · exact fun _ ht => ht
  · exact h.runLanes hl

protected theorem Kept.groupRep {ls} (h : Kept a s) (hl : ∀ l ∈ ls, LaneKept l) : RepKept a (groupRep s ls) :=
  h.landLanes.groupOps hl

protected theorem Kept.notIssued {r} (h : Kept a s) (hr : RepKept a r) : Kept a (notIssued s r) := by
  cases r with
  | ok => exact hr
  | trap => exact h.takeTrap
  | stall c k i f => exact (hr s h).stalled

protected theorem Kept.joinLines {c lines} (h : Kept a s) : Kept a (joinLines s c lines) := by
  unfold joinLines; exact h.foldl fun _ _ ht => ht.putGroup

protected theorem Kept.joinEach {ls es} (h : Kept a s) : Kept a (joinEach s ls es) := by
  unfold joinEach; exact h.foldl fun _ _ ht => ht.joinLines

protected theorem Kept.closeWait {s0 c e} (h : Kept a s) : Kept a (closeWait s0 s c e) := by
  unfold closeWait; exact h.ite h.upd

protected theorem Kept.closeEach {s0 ls es} (h : Kept a s) : Kept a (closeEach s0 s ls es) := by
  unfold closeEach; exact h.joinEach.foldl fun _ _ ht => ht.closeWait

protected theorem Kept.finishLanes {ls es} (h : Kept a s) : Kept a (finishLanes s ls es) := by
  unfold finishLanes; exact (h.foldl fun _ _ ht => ht.finishRep).applySps.closeEach

protected theorem Kept.begun {slot i cs} (h : Kept a s) : Kept a (begun slot i cs s) := by
  unfold begun; exact h.foldl fun _ _ ht => ht.modCore

protected theorem Kept.soloStep {slot i act} (h : Kept a s) (ha : ActKept act) : Kept a (soloStep slot i act s) := by
  unfold soloStep
  extract_lets cs ls
  have hl : ∀ l ∈ ls, LaneKept l := by
    intro l hl
    obtain ⟨c, -, rfl⟩ := List.mem_map.mp hl
    exact List.forall_mem_singleton.mpr ha
  have hr : RepKept a (groupRep s ls) := h.groupRep hl
  split
  · exact h
  split
  next t es e =>
    have ht : Kept a t := by rwa [e] at hr
    exact ht.begun.finishLanes.foldl fun _ _ hu => hu.finishBundle
  · exact h.begun.notIssued hr

protected theorem Kept.issueSolo {slot i act} (h : Kept a s) (ha : ActKept act) : NextKept a (issueSolo slot i act s) :=
  h.soloStep ha

/-! ## Entering the ordering machine -/

protected theorem Kept.addRaced {ctx ks} (h : Kept a s) : Kept a (addRaced s ctx ks) := by
  unfold addRaced; exact h.upd

protected theorem Kept.raceWith {ctx bits reads us} (h : Kept a s) : Kept a (raceWith s ctx bits reads us) := by
  unfold raceWith; exact h.foldl fun _ _ ht => ht.addRaced.addRaced

protected theorem Kept.raceTiles {ctx keys writes a'} (h : Kept a s) : Kept a (raceTiles s ctx keys writes a') := by
  unfold raceTiles; exact h.foldl fun _ _ ht => ht.addRaced.addRaced

protected theorem Kept.noteTouch {a' keys writes} (h : Kept a s) : Kept a (noteTouch s a' keys writes) := by
  unfold noteTouch; exact h.ite h.upd

protected theorem Kept.raceKernel {c keys writes} (h : Kept a s) : Kept a (raceKernel s c keys writes) := by
  unfold raceKernel; exact h.raceTiles.noteTouch

protected theorem Kept.raceCasts {c keys} (h : Kept a s) : Kept a (raceCasts s c keys) := by
  unfold raceCasts; exact h.foldl fun _ _ ht => ht.ite ht.addRaced

protected theorem Kept.raceStore {c bits} (h : Kept a s) : Kept a (raceStore s c bits) := by
  unfold raceStore; exact h.raceWith.raceKernel.raceCasts

protected theorem Kept.raceRead {c bits} (h : Kept a s) : Kept a (raceRead s c bits) := by
  unfold raceRead; exact h.raceWith.raceKernel

protected theorem Kept.raceHost {bits} (h : Kept a s) : Kept a (raceHost s bits) := by
  unfold raceHost; exact ((h.foldl fun _ _ ht => ht.addRaced).foldl fun _ _ ht => ht.addRaced).raceCasts

protected theorem Kept.noteEffect {was c id whole} (h : Kept a s) : Kept a (noteEffect was s c id whole) := by
  unfold noteEffect
  split
  · exact h
  · exact h.upd

protected theorem Kept.failAccesses (h : Kept a s) : Kept a (failAccesses s) := by
  unfold failAccesses
  refine h.foldl fun _ _ ht => ?_
  split
  · exact ht
  · exact ht.modCore.abortTask

protected theorem Kept.softBytes {keys} (h : Kept a s) : Kept a (softBytes s keys) := by
  unfold softBytes; exact h.foldl fun _ _ ht => ht.addRaced.ite ht

protected theorem Kept.enterSq {c line kind} (h : Kept a s) : Kept a (enterSq s c line kind) := by
  dsimp only [enterSq]; exact h.freshId.modCore

protected theorem Kept.enterWait {c op line kind} (h : Kept a s) : Kept a (enterWait s c op line kind).2 := by
  dsimp only [enterWait]; exact h.freshId.modCore

protected theorem Kept.enterLoadBits {c addr n mask dst} (h : Kept a s) : Kept a (enterLoadBits s c addr n mask dst) := by
  dsimp only [enterLoadBits]; exact h.freshId.modCore

protected theorem Kept.enterLoad {c addr n dst} (h : Kept a s) : Kept a (enterLoad s c addr n dst) := by
  unfold enterLoad; exact h.enterLoadBits

protected theorem Kept.enterStore {c bits} (h : Kept a s) : Kept a (enterStore s c bits) := by
  unfold enterStore
  extract_lets
  split
  · exact h.raceStore
  · exact h.raceStore.enterSq

protected theorem Kept.enterAcc {c hd d addr vfmt value} (h : Kept a s) : Kept a (enterAcc s c hd d addr vfmt value) := by
  unfold enterAcc; exact h.enterSq

protected theorem Kept.enterAppends {c d t' ks vs} (h : Kept a s) : Kept a (enterAppends s c d t' ks vs) := by
  unfold enterAppends; exact h.putRec.foldl fun _ _ ht => ht.enterSq

/-! ## The ordering machine runs -/

protected theorem Kept.dropSq {c id} (h : Kept a s) : Kept a (dropSq s c id) := by
  unfold dropSq; exact h.modCore

protected theorem Kept.pastFree (h : Kept a s) : Kept a (pastFree s) := by
  unfold pastFree; exact h.upd

protected theorem Kept.applyAmo {c byHandler op addr n x cmp ret} (h : Kept a s) :
    Kept a (applyAmo s c byHandler op addr n x cmp ret) := by
  unfold applyAmo; exact (h.pastFree.setMem fun ha => memPut_wf _ _ _ (h.mem_wf ha)).softBytes.giveRet

protected theorem Kept.applyVamo {c byHandler op addr fm rm rnd x ret} (h : Kept a s) :
    Kept a (applyVamo s c byHandler op addr fm rm rnd x ret) := by
  unfold applyVamo; exact (h.pastFree.setMem fun ha => memPut_wf _ _ _ (h.mem_wf ha)).softBytes.giveRet

protected theorem Kept.applyAppend {ctx index gen bits} (h : Kept a s) : Kept a (applyAppend s ctx index gen bits) := by
  unfold applyAppend; exact (h.setMem fun ha => memMasked_wf _ _ (h.mem_wf ha)).softBytes.putRec

protected theorem Kept.applyEntry {c e} (h : Kept a s) : Kept a (applyEntry s c e) := by
  unfold applyEntry
  split
  · exact (h.setMem fun ha => memMasked_wf _ _ (h.mem_wf ha)).softBytes
  · exact h.applyAmo
  · exact h.applyVamo
  · exact h.upd
  · exact h.applyAppend

protected theorem Kept.execStoreApply {c k} (h : Kept a s) : NextKept a (execStoreApply c k s) := by
  unfold execStoreApply
  split
  · exact h.dropSq.applyEntry.noteEffect.tryReturn
  · exact h

protected theorem Kept.giveSaved {c id v} (h : Kept a s) : Kept a (giveSaved s c id v) := by
  unfold giveSaved
  split
  · exact h
  · exact h.paPut.upd

protected theorem Kept.giveLoadSaved {c l v} (h : Kept a s) : Kept a (giveLoadSaved s c l v) := by
  unfold giveLoadSaved
  split
  · extract_lets
    split
    · exact h.giveSaved.giveSaved
    · exact h.giveSaved
  · exact h

protected theorem Kept.performLoad {c l} (h : Kept a s) : Kept a (performLoad s c l) := by
  unfold performLoad; exact h.pastFree.modCore.giveLoadSaved

protected theorem Kept.execLoadPerform {c k} (h : Kept a s) : NextKept a (execLoadPerform c k s) := by
  unfold execLoadPerform
  split
  · exact h.performLoad.tryReturn
  · exact h

protected theorem Kept.landAdd {d} (h : Kept a s) : Kept a (landAdd s d).1 := by
  unfold landAdd
  split
  · exact h.setMem fun ha => memPut_wf _ _ _ (h.mem_wf ha)
  split
  · exact h.upd
  · exact h

protected theorem Kept.ackAdd {c a' flags} (h : Kept a s) : Kept a (ackAdd s c a' flags) := by
  unfold ackAdd; exact h.modCluster.ite (h.upd.ite h.modCore)

protected theorem Kept.execAccCombine {k} (h : Kept a s) : NextKept a (execAccCombine k s) := by
  unfold execAccCombine
  split
  · exact h.upd.landAdd.ackAdd.noteEffect.tryReturn
  · exact h

protected theorem Kept.execAsyncMerge {k} (h : Kept a s) : NextKept a (execAsyncMerge k s) := by
  unfold execAsyncMerge
  split
  · exact (h.upd.setMem fun ha => memMasked_wf _ _ (h.mem_wf ha)).softBytes
  · exact h

protected theorem Kept.landInc {i} (h : Kept a s) : Kept a (landInc s i) := by
  unfold landInc
  extract_lets _ s1
  have hs1 : Kept a s1 := h.ite (h.applyInc.ite h.upd)
  split
  · exact hs1.modCore.giveSaved.tryReturn
  · exact hs1

protected theorem Kept.awayInc (h : Kept a s) : Kept a (awayInc s) := by
  unfold awayInc
  split
  · exact h.upd.raiseEvent.ite h.upd
  · exact h

protected theorem Kept.execEventIncrement {k} (h : Kept a s) : NextKept a (execEventIncrement k s) := by
  unfold execEventIncrement
  split
  · split
    · exact h.upd.landInc
    · exact h
  · exact h.awayInc

protected theorem Kept.execEventChainApply (h : Kept a s) : NextKept a (execEventChainApply s) := by
  unfold execEventChainApply
  split
  · exact h.upd.applyInc
  · exact h

/-! ## Vector operations -/

/-- An operation on its elements keeps it when what it does with them does. -/
protected theorem Kept.onElems {x f k c at_} (h : Kept a s) (hk : ∀ {s y e}, Kept a s → ResKept a (k s c y e)) :
    ResKept a (onElems x f k s c at_) := by
  unfold onElems
  split
  · trivial
  · exact fun _ ht => ht
  · exact hk h

protected theorem Kept.vMap {x f lat op c at_} (h : Kept a s) : ResKept a (vMap x f lat op s c at_) := by
  unfold vMap; exact h.onElems fun ht => ht.vWrite

protected theorem Kept.vMapBits {x f lat op c at_} (h : Kept a s) : ResKept a (vMapBits x f lat op s c at_) := by
  unfold vMapBits; exact h.vMap

protected theorem Kept.vArithRow {x f fl int c at_} (h : Kept a s) : ResKept a (vArithRow x f fl int s c at_) := by
  unfold vArithRow; exact h.vMap

protected theorem Kept.actVcmp {x f c at_} (h : Kept a s) : ResKept a (actVcmp x f s c at_) := by
  unfold actVcmp; exact h.onElems fun ht => ht.setM

protected theorem Kept.actVsel {x f c at_} (h : Kept a s) : ResKept a (actVsel x f s c at_) := by
  unfold actVsel; exact h.onElems fun ht => ht.vWrite

protected theorem Kept.vMask2 {x f op c at_} (h : Kept a s) : ResKept a (vMask2 x f op s c at_) := by
  unfold vMask2; exact h.onElems fun ht => ht.setM

protected theorem Kept.actVmcnt {x f c at_} (h : Kept a s) : ResKept a (actVmcnt x f s c at_) := by
  unfold actVmcnt
  refine h.onElems fun ht => ?_
  extract_lets
  split
  · exact ht.setV
  · exact ht.setV
  · exact ht.setM

/-! ## Vector memory operations -/

protected theorem Kept.sendLoads {c slot n mask ps} (h : Kept a s) : Kept a (sendLoads c slot n mask ps s) := by
  unfold sendLoads; exact (h.foldl fun _ _ ht => (ht.raceRead.ite ht).enterLoadBits).modCore

protected theorem Kept.applyLines {c ls t} (h : Kept a s) (e : applyLines s c ls = some t) : Kept a t := by
  refine List.foldlRecOn (motive := fun o : Option State => ∀ t, o = some t → Kept a t) _ _ ?_ ?_ t e
  · rintro t ⟨⟩; exact h
  · rintro (_ | u) hu x - t ht
    · cases ht
    · dsimp only at ht
      split at ht
      · cases ht
      · cases ht; exact (hu u rfl).dropSq.applyEntry

protected theorem Kept.performLoads {c ks t} (h : Kept a s) (e : performLoads s c ks = some t) : Kept a t := by
  refine List.foldlRecOn (motive := fun o : Option State => ∀ t, o = some t → Kept a t) _ _ ?_ ?_ t e
  · rintro t ⟨⟩; exact h
  · rintro (_ | u) hu x - t ht
    · cases ht
    · dsimp only at ht
      split at ht
      · cases ht; exact (hu u rfl).performLoad
      · cases ht

protected theorem Kept.arrivedData {c n w r} (h : Kept a s) (e : arrivedData s c n w = some r) : Kept a r.1 := by
  unfold arrivedData at e
  extract_lets at e
  split at e
  · cases e; exact h
  split at e
  · cases e
    rename_i t ht
    obtain ⟨u, hu, ht⟩ := Option.bind_eq_some_iff.mp ht
    exact ((h.applyLines hu).performLoads ht).pastFree
  · cases e

protected theorem Kept.loadResult {c x f lat va data is} (h : Kept a s) : Kept a (loadResult s c x f lat va data is) := by
  unfold loadResult; exact h.vWrite

protected theorem Kept.vLoad {x f lat va c at_} (h : Kept a s) : ResKept a (vLoad x f lat va s c at_) := by
  unfold vLoad
  refine h.onElems fun ht => ?_
  extract_lets
  split
  · split
    · exact fun _ hu => hu
    split
    next r hr => exact (ht.modCore.arrivedData hr).loadResult
    · exact fun _ hu => hu
  split
  · trivial
  split
  · exact ht.loadResult
  · exact fun _ hu => hu.sendLoads

protected theorem Kept.storeElem {q : State × _} {c f r} (h : Kept a q.1) : Kept a (storeElem c f q r).1 := by
  unfold storeElem
  split
  · exact h
  · exact h.enterStore

protected theorem Kept.vStore {x f va c at_} (h : Kept a s) : ResKept a (vStore x f va s c at_) := by
  unfold vStore
  refine h.onElems fun ht => ?_
  split
  · trivial
  · exact ht.foldl_fst fun _ _ ht => ht.storeElem

protected theorem Kept.actVacc {x f c at_} (h : Kept a s) : ResKept a (actVacc x f s c at_) := by
  unfold actVacc
  refine h.onElems fun ht => ?_
  extract_lets
  split
  · trivial
  split
  · trivial
  extract_lets
  split
  · trivial
  · exact ht.foldl fun _ _ ht => ht.enterAcc

protected theorem Kept.amoElem {q : State × _} {c f key va ret a' p} (h : Kept a q.1) :
    Kept a (amoElem c f key va ret a' q p).1 := by
  unfold amoElem
  extract_lets
  split
  · exact h
  · exact h.raceRead.enterSq

protected theorem Kept.vamoRet {c x f is} (h : Kept a s) : Kept a (vamoRet s c x f is).2 := by
  dsimp only [vamoRet]
  split
  · exact h.pushPending
  · exact h

protected theorem Kept.actVamo {x f c at_} (h : Kept a s) : ResKept a (actVamo x f s c at_) := by
  unfold actVamo
  refine h.onElems fun ht => ?_
  extract_lets
  split
  · trivial
  · exact ht.vamoRet.foldl_fst fun _ _ ht => ht.amoElem

protected theorem Kept.actVapp {x f c at_} (h : Kept a s) : ResKept a (actVapp x f s c at_) := by
  unfold actVapp
  refine h.onElems fun ht => ?_
  extract_lets
  split
  · trivial
  split
  · trivial
  split
  · trivial
  split
  · trivial
  · exact ht.ite ht.enterAppends

/-! ## Matrix operations -/

protected theorem Kept.enqueue {c o} (h : Kept a s) : Kept a (enqueue s c o) := by
  unfold enqueue; exact (h.freshId.ite h).modCore

protected theorem Kept.issueAccum {i f gathered c at_} (h : Kept a s) : ResKept a (issueAccum i f gathered s c at_) := by
  unfold issueAccum
  extract_lets
  split
  · trivial
  split
  · trivial
  · exact h.enqueue

protected theorem Kept.actMgth {f c at_} (h : Kept a s) : ResKept a (actMgth f s c at_) := by
  unfold actMgth
  extract_lets
  split
  · trivial
  split
  · exact fun _ ht => ht
  split
  · trivial
  · exact h.modCore.enqueue

protected theorem Kept.enterBlank {c op bits} (h : Kept a s) : Kept a (enterBlank s c op bits).2 := by
  dsimp only [enterBlank]; exact h.raceStore.enterWait

protected theorem Kept.actAspl {f c at_} (h : Kept a s) : ResKept a (actAspl f s c at_) := by
  unfold actAspl
  dsimp only
  split
  · trivial
  · exact Kept.enqueue (Kept.foldl_snd h.freshId fun _ _ ht => ht.enterBlank)

protected theorem Kept.actAfil {f c at_} (h : Kept a s) : ResKept a (actAfil f s c at_) := by
  unfold actAfil
  extract_lets
  split
  · trivial
  · exact (h.freshId.foldl fun _ _ ht => ht.raceRead.enterLoad).enqueue

protected theorem Kept.drainEntries {c op line kind store ks} (h : Kept a s) :
    Kept a (drainEntries s c op line kind store ks).2 := by
  refine Kept.foldl_snd h fun q k hq => Kept.enterWait ?_
  split
  · exact hq.raceStore
  · exact hq

protected theorem Kept.drainAcc {c at_ f rows} (h : Kept a s) : ResKept a (drainAcc s c at_ f rows) := by
  unfold drainAcc
  extract_lets
  split
  · trivial
  split
  · trivial
  split
  · trivial
  · exact h.freshId.drainEntries.enqueue

protected theorem Kept.drainMem {c at_ f sp rows} (h : Kept a s) : ResKept a (drainMem s c at_ f sp rows) := by
  unfold drainMem
  extract_lets
  split
  · trivial
  · exact h.freshId.drainEntries.enqueue

protected theorem Kept.actMdrn {f c at_} (h : Kept a s) : ResKept a (actMdrn f s c at_) := by
  unfold actMdrn
  extract_lets
  split
  · trivial
  split
  · exact h.drainMem
  · exact h.drainAcc
  · exact h.enqueue

protected theorem Kept.actPrja {f c at_} (h : Kept a s) : ResKept a (actPrja f s c at_) := by
  unfold actPrja
  extract_lets
  split
  · trivial
  split
  · exact h.enqueue
  · exact h.drainMem

protected theorem Kept.actMwait {f c at_} (h : Kept a s) : ResKept a (actMwait f s c at_) := by
  unfold actMwait
  extract_lets
  split
  · exact fun _ ht => ht
  · exact h

/-! ## The array -/

protected theorem Kept.runAccum {c o f gathered sparse} (h : Kept a s) : Kept a (runAccum s c o f gathered sparse).1 := by
  dsimp only [runAccum]; exact h.upd.modBank.modCore

protected theorem Kept.runGather {c o f} (h : Kept a s) : Kept a (runGather s c o f) := by
  unfold runGather; exact h.modCore

protected theorem Kept.runClear {c o f} (h : Kept a s) : Kept a (runClear s c o f) := by
  unfold runClear; exact h.modBank

protected theorem Kept.runSpill {c o} (h : Kept a s) : Kept a (runSpill s c o) := by
  unfold runSpill; exact h.spPut.ite h.modCore

protected theorem Kept.runFill {c o} (h : Kept a s) : Kept a (runFill s c o) := by
  unfold runFill; exact h.modBank

protected theorem Kept.writeRow {c o f i q} (h : Kept a s) : Kept a (writeRow s c o f i q) := by
  unfold writeRow
  extract_lets
  split
  · exact h.foldl fun _ _ ht => ht.ite (ht.holdResult.ite (ht.pushFlight.ite ht.modCore))
  · refine h.foldl fun _ _ ht => ?_
    split
    · exact ht.modCore
    · exact ht.spPut

protected theorem Kept.drainRow {c o f d i} (h : Kept a d.s) : Kept a (drainRow c o f d i).s := by
  unfold drainRow
  exact h.writeRow.ite h.writeRow.spPut

protected theorem Kept.runDrain {c o f} (h : Kept a s) : Kept a (runDrain s c o f).1 := by
  have hd : ∀ l d, Kept a d.s → Kept a (List.foldl (drainRow c o f) d l).s := fun l d hd =>
    List.foldlRecOn l _ (motive := fun d : Draining => Kept a d.s) hd fun _ hd _ _ => hd.drainRow
  dsimp only [runDrain]; exact Kept.modCore (hd _ ⟨s, 0, [], 0⟩ h)

protected theorem Kept.prjaRow {q : State × _} {c o f i} (h : Kept a q.1) : Kept a (prjaRow c o f q i).1 := by
  unfold prjaRow; exact h.upd.writeRow

protected theorem Kept.runPrja {c o f} (h : Kept a s) : Kept a (runPrja s c o f).1 := by
  unfold runPrja; exact h.foldl_fst fun _ _ ht => ht.prjaRow

protected theorem Kept.runArray {c o} (h : Kept a s) : Kept a (runArray s c o).1 := by
  unfold runArray
  split
  · exact h.runAccum
  · exact h.runAccum
  · exact h.runAccum
  · exact h.runGather
  · exact h.runClear
  · exact h.runSpill
  · exact h.runFill
  · exact h.runDrain
  · exact h.runPrja
  · exact h

theorem spliceWrites_wf (o : ArrayOp) (m n : List Host.Cell) (js : List Nat) (w : Memory.wf n = true) :
    Memory.wf (spliceWrites o m n js) = true :=
  List.foldlRecOn js _ (motive := fun n => Memory.wf n = true) w fun _ hn _ _ => memPut_wf _ _ _ hn

protected theorem Kept.touchStage {c pickR pickW st} {q : State × ArrayOp × Bool} (h : Kept a q.1) :
    Kept a (touchStage c pickR pickW q st).1 := by
  unfold touchStage
  extract_lets
  split
  · exact h
  · exact h.ite (h.modCluster fun _ w => spliceWrites_wf _ _ _ _ w)

protected theorem Kept.touchQueue {c} (h : Kept a s) : Kept a (touchQueue s c) := by
  unfold touchQueue
  split
  · exact h
  · exact h.ite (h.foldl_fst fun _ _ ht => ht.touchStage).upd.noteEffect.modCore

protected theorem Kept.touchArrays (h : Kept a s) : Kept a (touchArrays s) := by
  unfold touchArrays; exact h.foldl fun _ _ ht => ht.ite ht.touchQueue

protected theorem Kept.finishArray {c o} (h : Kept a s) : Kept a (finishArray s c o).1 := by
  unfold finishArray
  split
  · exact h.runArray
  extract_lets k q r
  have hq : Kept a q.1 := Kept.foldl_fst h fun _ _ hq => hq.touchStage
  exact hq.runArray.setCluster fun ha => hq.sp_wf ha k

protected theorem Kept.execArrayOpStart {c} (h : Kept a s) : NextKept a (execArrayOpStart c s) := by
  unfold execArrayOpStart
  split
  · split
    · exact h.modCore
    · exact h
  · exact h

protected theorem Kept.leaveQueue {c o flags} (h : Kept a s) : Kept a (leaveQueue s c o flags) := by
  unfold leaveQueue; exact h.modCore.tryReturn

protected theorem Kept.execArrayOpComplete {c} (h : Kept a s) : NextKept a (execArrayOpComplete c s) := by
  unfold execArrayOpComplete
  extract_lets
  split
  · exact h.touchQueue
  split
  · split
    · exact h.touchQueue
    · exact h.touchQueue.leaveQueue
  split
  · exact h.touchQueue
  extract_lets
  split
  · exact h.touchQueue.finishArray.noteEffect.leaveQueue
  · exact h.touchQueue.finishArray.noteEffect.modCore

protected theorem Kept.execMwinModeTakeEffect {k} (h : Kept a s) : NextKept a (execMwinModeTakeEffect k s) := by
  unfold execMwinModeTakeEffect
  split
  · split
    · exact h.modCluster
    · exact h
  · exact h

/-! ## Control operations -/

protected theorem Kept.actLoop {f c at_} (h : Kept a s) : ResKept a (actLoop f s c at_) := by
  unfold actLoop
  extract_lets
  split
  · exact h
  · exact h

protected theorem Kept.actEret {f c at_} (h : Kept a s) : ResKept a (actEret f s c at_) := by
  unfold actEret
  split
  · exact h
  · trivial

/-! ## Channels -/

protected theorem Kept.nextTransfer {ctx ch ep recv} (h : Kept a s) : Kept a (nextTransfer s ctx ch ep recv).2 := by
  dsimp only [nextTransfer]; exact h.upd

/-! ## Handles -/

protected theorem Kept.actHld {f c at_} (h : Kept a s) : ResKept a (actHld f s c at_) := by
  unfold actHld
  extract_lets
  split
  · trivial
  · exact h.setS

protected theorem Kept.actHview {f c at_} (h : Kept a s) : ResKept a (actHview f s c at_) := by
  unfold actHview
  extract_lets
  split
  · trivial
  · exact h.setS

protected theorem Kept.actHgen {f c at_} (h : Kept a s) : ResKept a (actHgen f s c at_) := by
  unfold actHgen
  extract_lets
  split
  · trivial
  · exact h.setS

protected theorem Kept.setReaders {ctx index gen n} (h : Kept a s) : Kept a (setReaders s ctx index gen n) := by
  unfold setReaders
  split
  · exact h.paPut.raiseEvent.ite h.paPut
  · exact h.putRec

protected theorem Kept.raiseReaders {ctx l t} (h : Kept a s) (e : raiseReaders s ctx l = some t) : Kept a t := by
  induction l generalizing s with
  | nil => cases e; exact h
  | cons q r ih =>
    unfold raiseReaders at e
    split at e
    · cases e
    · exact ih h.setReaders e

protected theorem Kept.lowerReaders {ctx l} (h : Kept a s) : Kept a (lowerReaders s ctx l) := by
  unfold lowerReaders; exact h.foldl fun _ _ ht => ht.setReaders

protected theorem Kept.addHold {ctx index gen counted} (h : Kept a s) : Kept a (addHold s ctx index gen counted) := by
  unfold addHold; exact h.putRec

protected theorem Kept.dropHold {ctx index gen} (h : Kept a s) : Kept a (dropHold s ctx index gen) := by
  unfold dropHold; exact h.putRec

protected theorem Kept.actHold {f c at_} (h : Kept a s) : ResKept a (actHold f s c at_) := by
  unfold actHold
  extract_lets
  split
  · trivial
  split
  · trivial
  extract_lets
  split
  · trivial
  next ht => exact (h.raiseReaders ht).addHold

protected theorem Kept.actRels {f c at_} (h : Kept a s) : ResKept a (actRels f s c at_) := by
  unfold actRels
  extract_lets
  split
  · trivial
  split
  · trivial
  · exact h.dropHold.lowerReaders

protected theorem Kept.actRcast {f c at_} (h : Kept a s) : ResKept a (actRcast f s c at_) := by
  unfold actRcast
  extract_lets
  split
  · exact h.modCore
  · trivial
  split
  · exact fun _ ht => ht
  split
  · trivial
  split
  · trivial
  split
  · trivial
  split
  · trivial
  · exact fun _ ht => ht.modCore.upd

protected theorem Kept.actTaglk {f c at_} (h : Kept a s) : ResKept a (actTaglk f s c at_) := by
  unfold actTaglk
  extract_lets
  split
  · trivial
  · exact h.setS

protected theorem Kept.actTagset {f c at_} (h : Kept a s) : ResKept a (actTagset f s c at_) := by
  unfold actTagset
  extract_lets
  split
  · trivial
  split
  · exact trivial
  · exact h.pushFlight

protected theorem Kept.actTagclr {f c at_} (h : Kept a s) : ResKept a (actTagclr f s c at_) := by
  unfold actTagclr
  extract_lets
  split
  · exact trivial
  · exact h.pushFlight

protected theorem Kept.actTagclrK {f c at_} (h : Kept a s) : ResKept a (actTagclrK f s c at_) := by
  unfold actTagclrK
  extract_lets
  split
  · trivial
  · exact h.pushFlight

/-! ## Scalar memory operations -/

protected theorem Kept.actLdl {f c at_} (h : Kept a s) : ResKept a (actLdl f s c at_) := by
  unfold actLdl
  extract_lets
  split
  · trivial
  split
  · trivial
  · exact h.setS

protected theorem Kept.actStl {f c at_} (h : Kept a s) : ResKept a (actStl f s c at_) := by
  unfold actStl
  extract_lets
  split
  · trivial
  split
  · trivial
  · exact h

protected theorem Kept.actLdm {f c at_} (h : Kept a s) : ResKept a (actLdm f s c at_) := by
  unfold actLdm
  extract_lets
  split
  · trivial
  split
  · split
    · trivial
    · exact h.setS.setP.ite h.setS
  split
  · split
    · exact h.setP
    · trivial
  extract_lets _ s1
  have hs1 : Kept a s1 := h.raceRead.ite h
  split
  · exact hs1.pendS.pushPending.enterLoad
  · exact hs1.pendS.enterLoad

protected theorem Kept.actStm {f c at_} (h : Kept a s) : ResKept a (actStm f s c at_) := by
  unfold actStm
  extract_lets
  split
  · trivial
  split
  · split
    · trivial
    · exact h
  split
  · trivial
  · exact h.enterStore

protected theorem Kept.amoRet {f c} (h : Kept a s) : Kept a (amoRet f s c).2 := by
  dsimp only [amoRet]
  split
  · exact h.pendS
  · exact h

protected theorem Kept.actAmo {f c at_} (h : Kept a s) : ResKept a (actAmo f s c at_) := by
  unfold actAmo
  extract_lets
  split
  · trivial
  split
  · split
    · trivial
    · exact h.amoRet
  split
  · trivial
  · exact h.raceRead.amoRet.enterSq

protected theorem Kept.actSacc {f c at_} (h : Kept a s) : ResKept a (actSacc f s c at_) := by
  unfold actSacc
  extract_lets
  split
  · trivial
  split
  · trivial
  split
  · trivial
  split
  · trivial
  · exact h.enterAcc

protected theorem Kept.actSapp {f c at_} (h : Kept a s) : ResKept a (actSapp f s c at_) := by
  unfold actSapp
  extract_lets
  split
  · trivial
  split
  · trivial
  · exact h.enterAppends

/-! ## The data engine: operations -/

protected theorem Kept.addOp {o} (h : Kept a s) : Kept a (addOp s o) := by
  unfold addOp; exact h.raceWith.raceKernel.raceWith.raceKernel.raceCasts.freshId.modCluster

protected theorem Kept.fork {c} (h : Kept a s) : ResKept a (fork s c) := by
  unfold fork
  split
  · exact fun _ ht => ht.awaitEngine
  · exact h.addOp

protected theorem Kept.advance {c y f n src dst} (h : Kept a s) : Kept a (advance s c y f n src dst) := by
  unfold advance; exact h.pushFlight.ite h

protected theorem Kept.allocHead {c hd op n} (h : Kept a s) : Kept a (allocHead s c hd op n) := by
  unfold allocHead; exact h.modCore

protected theorem Kept.actCopy {y f c at_} (h : Kept a s) : ResKept a (actCopy y f s c at_) := by
  unfold actCopy
  extract_lets
  split
  · trivial
  split
  · trivial
  split
  · split
    · trivial
    extract_lets
    split
    · exact fun _ ht => ht
    · exact h.addOp.allocHead.advance
  extract_lets
  split
  · trivial
  split
  · trivial
  · exact h.advance.fork

protected theorem Kept.actCprf {y f c at_} (h : Kept a s) : ResKept a (actCprf y f s c at_) := by
  unfold actCprf
  extract_lets
  split
  · trivial
  split
  · trivial
  split
  · trivial
  split
  · trivial
  split
  · trivial
  extract_lets
  split
  · trivial
  · exact h.advance.fork

protected theorem Kept.actCwb {y f c at_} (h : Kept a s) : ResKept a (actCwb y f s c at_) := by
  unfold actCwb
  extract_lets
  split
  · trivial
  split
  · trivial
  split
  · trivial
  split
  · trivial
  split
  · trivial
  · exact h.advance.fork

protected theorem Kept.unbindHead {c hd} (h : Kept a s) : Kept a (unbindHead s c hd) := by
  unfold unbindHead; exact (h.putRec.ite h).modCore

protected theorem Kept.actSbind {y f c at_} (h : Kept a s) : ResKept a (actSbind y f s c at_) := by
  unfold actSbind
  extract_lets
  split
  · split
    · exact fun _ ht => ht
    · exact h.unbindHead
  split
  · trivial
  split
  · trivial
  split
  · trivial
  split
  · exact fun _ ht => ht
  extract_lets s1
  have hs1 : Kept a s1 := by
    unfold s1
    split
    · exact h.unbindHead.putRec
    · exact h.unbindHead
  exact hs1.modCore

protected theorem Kept.actSadv {x f c at_} (h : Kept a s) : ResKept a (actSadv x f s c at_) := by
  unfold actSadv
  extract_lets
  split
  · trivial
  split
  · split
    · exact fun _ ht => ht
    · exact h
  split
  · split
    · trivial
    · exact fun _ ht => ht
  · exact h

protected theorem Kept.actSwtf {x f c at_} (h : Kept a s) : ResKept a (actSwtf x f s c at_) := by
  unfold actSwtf
  extract_lets
  split
  · exact h
  split
  · trivial
  split
  · exact h
  split
  · trivial
  · exact fun _ ht => ht

protected theorem Kept.actSwte {x f c at_} (h : Kept a s) : ResKept a (actSwte x f s c at_) := by
  unfold actSwte
  extract_lets
  split
  · exact h
  split
  · trivial
  split
  · exact h
  · exact fun _ ht => ht

protected theorem Kept.actSclose {y f c at_} (h : Kept a s) : ResKept a (actSclose y f s c at_) := by
  unfold actSclose
  split
  · trivial
  extract_lets
  split
  · trivial
  split
  · trivial
  · exact h.putRec.fork

protected theorem Kept.actMcast {y f c at_} (h : Kept a s) : ResKept a (actMcast y f s c at_) := by
  unfold actMcast
  extract_lets
  split
  · trivial
  extract_lets
  split
  · trivial
  split
  · trivial
  split
  · trivial
  · exact h.fork

protected theorem Kept.actCarm {y f c at_} (h : Kept a s) : ResKept a (actCarm y f s c at_) := by
  unfold actCarm
  split
  · trivial
  · exact h.pushFlight

protected theorem Kept.actCwait {y f c at_} (h : Kept a s) : ResKept a (actCwait y f s c at_) := by
  unfold actCwait
  extract_lets
  split
  · split
    · exact h
    · exact fun _ ht => ht
  · split
    · trivial
    split
    · exact h
    · exact fun _ ht => ht
  split
  · exact fun _ ht => ht
  · exact h

protected theorem Kept.addRemote {c ch e round nt} (h : Kept a s) : Kept a (addRemote s c ch e round nt) := by
  unfold addRemote; exact h.upd

protected theorem Kept.actCsend {y f c at_} (h : Kept a s) : ResKept a (actCsend y f s c at_) := by
  unfold actCsend
  extract_lets
  split
  · trivial
  split
  · trivial
  extract_lets
  split
  · trivial
  split
  · trivial
  split
  · exact fun _ ht => ht
  · exact h.nextTransfer.addOp.addRemote.advance

protected theorem Kept.actCrecv {y f c at_} (h : Kept a s) : ResKept a (actCrecv y f s c at_) := by
  unfold actCrecv
  dsimp only
  split
  · trivial
  split
  · trivial
  split
  · trivial
  split
  · exact fun _ ht => ht
  · exact (h.nextTransfer.addOp.allocHead.ite h.nextTransfer.addOp).addRemote.advance

protected theorem Kept.actChks {y f c at_} (h : Kept a s) : ResKept a (actChks y f s c at_) := by
  unfold actChks
  extract_lets
  split
  · trivial
  extract_lets
  split
  · trivial
  split
  · trivial
  split
  · trivial
  split
  · trivial
  split
  · trivial
  · exact h.fork

protected theorem Kept.actCstat {y f c at_} (h : Kept a s) : ResKept a (actCstat y f s c at_) := by
  unfold actCstat
  extract_lets
  split
  · trivial
  · exact h

protected theorem Kept.actCdesc {y f c at_} (h : Kept a s) : ResKept a (actCdesc y f s c at_) := by
  unfold actCdesc
  extract_lets
  split
  · trivial
  split
  · exact h
  · exact h.pushFlight

/-! ## The data engine runs -/

protected theorem Kept.engSet {k o} (h : Kept a s) : Kept a (engSet s k o) := by
  unfold engSet; exact h.modCluster

protected theorem Kept.lowerBarrier {k b n} (h : Kept a s) : Kept a (lowerBarrier s k b n) := by
  unfold lowerBarrier; exact h.modCluster

protected theorem Kept.engSp {o k off n v} (h : Kept a s) : Kept a (engSp s o k off n v) := by
  unfold engSp; exact h.spPut.lowerBarrier.ite h.spPut

protected theorem Kept.fillEntries {o hd es} (h : Kept a s) : Kept a (fillEntries s o hd es) := by
  unfold fillEntries; exact h.ite h.modHeadAt

protected theorem Kept.sendTiles {k o} (h : Kept a s) : Kept a (sendTiles s k o) := by
  unfold sendTiles; exact h.upd.engSet.ite h.engSet

protected theorem Kept.readLine {k o j p} (h : Kept a s) : Kept a (readLine s k o j p) := by
  unfold readLine; exact h.pastFree.sendTiles

protected theorem Kept.writeLine {k o j p} (h : Kept a s) : Kept a (writeLine s k o j p) := by
  unfold writeLine
  extract_lets
  split
  · exact (h.setMem fun ha => memPut_wf _ _ _ (h.mem_wf ha)).softBytes.engSet
  split
  · exact h.engSet
  extract_lets
  split
  · exact h.engSp.engSet.fillEntries
  · exact h.engSp.engSet

protected theorem Kept.execThreadLineAccess {k op line} (h : Kept a s) : NextKept a (execThreadLineAccess k op line s) := by
  unfold execThreadLineAccess
  extract_lets
  split
  · exact h.touchArrays
  split
  · split
    · split
      · exact h.touchArrays
      · exact h.touchArrays.readLine
    · exact h.touchArrays
  extract_lets
  split
  · split
    · exact h.touchArrays
    · exact h.touchArrays.writeLine.noteEffect
  · exact h.touchArrays

protected theorem Kept.engFinish {k o} (h : Kept a s) : Kept a (engFinish s k o).1 := by
  unfold engFinish
  split
  · exact h.engSp
  · exact h.putRec
  split
  · dsimp only; exact h.modCluster
  · dsimp only; exact h.modCluster
  · exact h

protected theorem Kept.returnOpFlags {o} (h : Kept a s) : Kept a (returnOpFlags s o) := by
  unfold returnOpFlags; exact h.ite (h.paPut.ite h.modCore)

protected theorem Kept.execEngineOpComplete {k op} (h : Kept a s) : NextKept a (execEngineOpComplete k op s) := by
  unfold execEngineOpComplete
  extract_lets
  split
  · exact h.touchArrays
  split
  · exact h.touchArrays
  extract_lets _ _ s1 s2
  have hs1 : Kept a s1 := h.touchArrays.engFinish.modCluster.spPut.ite h.touchArrays.engFinish.modCluster
  have hs2 : Kept a s2 := hs1.raiseEvent.ite hs1
  exact hs2.returnOpFlags.noteEffect.tryReturn

protected theorem Kept.execPipeDeliver {c hd} (h : Kept a s) : NextKept a (execPipeDeliver c hd s) := by
  unfold execPipeDeliver
  extract_lets
  split
  · exact h.touchArrays
  split
  · exact h.touchArrays
  · exact (h.touchArrays.pastFree.raceWith.spPut.putRec.ite h.touchArrays.pastFree.raceWith.spPut).setThreadHead

protected theorem Kept.failSender {x cause} (h : Kept a s) : Kept a (failSender s x cause) := by
  unfold failSender; exact h.mapClusters

protected theorem Kept.arriveAway {e x rest} (h : Kept a s) : Kept a (arriveAway s e x rest) := by
  unfold arriveAway; exact h.upd.upd.failSender.ite h.upd.upd

protected theorem Kept.execChannelTileArrive {k} (h : Kept a s) : NextKept a (execChannelTileArrive k s) := by
  unfold execChannelTileArrive
  split
  · exact h
  extract_lets
  split
  · exact h
  split
  · exact h.arriveAway
  split
  · exact h.upd.failSender
  split
  · exact h
  · exact h.upd

protected theorem Kept.raiseOor {ctx ch n} (h : Kept a s) : Kept a (raiseOor s ctx ch n) := by
  unfold raiseOor; exact h.ite h.paPut

protected theorem Kept.deliverLine {o v base p} (h : Kept a s) : Kept a (deliverLine o v base s p) := by
  unfold deliverLine
  extract_lets
  split
  · exact h.engSp
  · exact h.freshId.upd

protected theorem Kept.deliverTile {k e o x j} (h : Kept a s) : Kept a (deliverTile s k e o x j) := by
  unfold deliverTile
  extract_lets _ _ _ _ _ _ s1
  have hs1 : Kept a s1 := h.pastFree.upd.raiseOor.foldl fun _ _ ht => ht.deliverLine
  exact hs1.engSet.ite hs1.engSet.upd

protected theorem Kept.execChannelTileDeliver {k} (h : Kept a s) : NextKept a (execChannelTileDeliver k s) := by
  unfold execChannelTileDeliver
  extract_lets
  split
  · exact h.touchArrays
  extract_lets
  split
  · exact h.touchArrays
  extract_lets
  split
  · exact h.touchArrays
  split
  · exact h.touchArrays
  split
  · exact h.touchArrays
  · exact h.touchArrays.upd.deliverTile

protected theorem Kept.execScratchpadTileReady {k} (h : Kept a s) : NextKept a (execScratchpadTileReady k s) := by
  unfold execScratchpadTileReady
  split
  · exact h
  extract_lets
  split
  · exact h.upd
  extract_lets
  split
  · exact h.upd.engSet.fillEntries
  · exact h.upd.engSet

/-! ## Vector moves -/

protected theorem Kept.vAll {x f lat op c at_} (h : Kept a s) : ResKept a (vAll x f lat op s c at_) := by
  unfold vAll; exact h.onElems fun ht => ht.vWrite

protected theorem Kept.actVxv {x f c at_} (h : Kept a s) : ResKept a (actVxv x f s c at_) := by
  unfold actVxv; exact h.onElems fun ht => ht.setV

protected theorem Kept.actVred {x f c at_} (h : Kept a s) : ResKept a (actVred x f s c at_) := by
  unfold actVred; exact h.onElems fun ht => ht.vWrite

protected theorem Kept.actVscan {x f c at_} (h : Kept a s) : ResKept a (actVscan x f s c at_) := by
  unfold actVscan; exact h.onElems fun ht => ht.vWrite

protected theorem Kept.actVdot {x f c at_} (h : Kept a s) : ResKept a (actVdot x f s c at_) := by
  unfold actVdot; exact h.onElems fun ht => ht.vWrite

/-! ## Leaves -/

protected theorem Kept.raceOuts {c us} (h : Kept a s) : Kept a (raceOuts s c us) := by
  unfold raceOuts; exact h.raceWith.raceCasts

protected theorem Kept.raceLeaf {c i} (h : Kept a s) : Kept a (raceLeaf s c i) := by
  unfold raceLeaf; exact (h.foldl fun _ _ ht => ht.raceTiles.ite ht).ite (h.foldl fun _ _ ht => ht.raceTiles.ite ht).raceWith

protected theorem Kept.landPlaced {piece u} {q : State × Nat} (h : Kept a q.1) : Kept a (landPlaced piece q u).1 := by
  unfold landPlaced
  split
  · exact (h.setMem fun ha => memMasked_wf _ _ (h.mem_wf ha)).softBytes
  · exact h.landAdd
  · exact h.upd

/-- The writes of a leaf, raced and landed in turn. -/
protected theorem Kept.landOuts {p c us n} (h : Kept a s) : Kept a (List.foldl (landPlaced p) (raceOuts s c us, n) us).1 :=
  Kept.foldl_fst (q := (raceOuts s c us, n)) h.raceOuts fun _ _ ht => ht.landPlaced

protected theorem Kept.commitLeaf {c i p r q} (h : Kept a s) (e : commitLeaf s c i p r = .ok q) : Kept a q.1 := by
  unfold commitLeaf at e
  split at e
  · cases e
  · cases e; exact h.landOuts

protected theorem Kept.pastLeaf (h : Kept a s) : Kept a (pastLeaf s) := by
  unfold pastLeaf; exact h.upd

/-! ## Placing the results of a leaf -/

protected theorem Kept.putPiece {p} (h : Kept a s) : Kept a (putPiece s p) := by
  unfold putPiece; exact h.upd

protected theorem Kept.putTile {i} (h : Kept a s) : Kept a (putTile s i) := by
  unfold putTile; exact h.upd

protected theorem Kept.wakeDie {ldie} (h : Kept a s) : Kept a (wakeDie s ldie) := by
  unfold wakeDie
  split
  · split
    · exact h.upd.ite h
    · exact h
  · exact h

protected theorem Kept.handTo {i p x u} (h : Kept a s) : Kept a (handTo s i p x u) := by
  dsimp only [handTo]
  split
  · exact ((h.freshId.wakeDie.ite h.freshId).ite (h.freshId.wakeDie.ite h.freshId).upd).putPiece
  · exact ((h.freshId.wakeDie.ite h.freshId).ite (h.freshId.wakeDie.ite h.freshId).upd).freshId.putPiece.upd

protected theorem Kept.writeFault {f} (h : Kept a s) : Kept a (writeFault s f).1 := by
  dsimp only [writeFault]; exact h.paPut.modCtx

protected theorem Kept.refreshFull {ctx qp} (h : Kept a s) : Kept a (refreshFull s ctx qp) := by
  unfold refreshFull; exact h.modQp

protected theorem Kept.pushCqe {ctx qp bits} (h : Kept a s) : Kept a (pushCqe s ctx qp bits) := by
  unfold pushCqe; exact h.upd.refreshFull

protected theorem Kept.unreserve {ids} (h : Kept a s) : Kept a (unreserve s ids) := by
  unfold unreserve; exact h.upd

protected theorem Kept.dropFrozen {p} (h : Kept a s) : Kept a (dropFrozen s p) := by
  unfold dropFrozen; exact (h.foldl fun _ _ ht => ht.leaveCtx.orphanOps.modCluster.upd).upd.upd

protected theorem Kept.stopPieces {ti} (h : Kept a s) : Kept a (stopPieces s ti) := by
  unfold stopPieces; exact (h.foldl fun _ _ ht => ht.dropTask).unreserve.dropFrozen.upd

protected theorem Kept.failTile {i f} (h : Kept a s) : Kept a (failTile s i f) := by
  unfold failTile; exact h.writeFault.stopPieces.lowerReaders.upd.pushCqe

protected theorem Kept.retireTile {i} (h : Kept a s) : Kept a (retireTile s i) := by
  unfold retireTile; exact (h.ite h.raiseEvent).lowerReaders.upd.pushCqe

protected theorem Kept.mergeHome {q} (h : Kept a s) : Kept a (mergeHome s q).1 := by
  unfold mergeHome; exact h.setMem fun ha => memPut_wf _ _ _ (h.mem_wf ha)

protected theorem Kept.asAgent {i} (h : Kept a s) : Kept a (asAgent s i) := by
  unfold asAgent; exact h.setCore

protected theorem Kept.failOutput {i cause addr} (h : Kept a s) : Kept a (failOutput s i cause addr) := by
  unfold failOutput; exact h.failTile

protected theorem Kept.writePartials {i p sel} (h : Kept a s) : Kept a (writePartials s i p sel) := by
  unfold writePartials
  extract_lets
  split
  · exact h
  split
  · exact h.failOutput
  split
  · exact h.failOutput
  · exact h.landOuts.pastLeaf.putPiece

protected theorem Kept.closeParent {i id} (h : Kept a s) : Kept a (closeParent s i id) := by
  unfold closeParent
  split
  · split
    · extract_lets s1
      have hs1 : Kept a s1 := h.writePartials.ite h
      split
      · exact hs1.putPiece
      · exact hs1
    · exact h
  · exact h

protected theorem Kept.mergeEntry {i u p} (h : Kept a s) : Kept a (mergeEntry s i u p) := by
  unfold mergeEntry
  split
  · exact h.failOutput
  extract_lets r1
  have hr1 : Kept a r1.1 := h.foldl_fst fun _ _ ht => ht.mergeHome
  exact hr1.putPiece.writePartials.ite hr1.putPiece

protected theorem Kept.mergePiece {i p} (h : Kept a s) : Kept a (mergePiece s i p) := by
  unfold mergePiece
  split
  · exact h
  · exact (h.upd.mergeEntry.ite h.upd.putPiece).closeParent

/-! ## Recasts -/

protected theorem Kept.vaPut {ctx va n v} (h : Kept a s) : Kept a (vaPut s ctx va n v) := by
  unfold vaPut
  split
  · exact h.setMem fun ha => memPut_wf _ _ _ (h.mem_wf ha)
  · exact h

protected theorem Kept.vaCopy {ctx src dst n} (h : Kept a s) : Kept a (vaCopy s ctx src dst n) := by
  unfold vaCopy; exact h.foldl fun _ _ ht => ht.vaPut

protected theorem Kept.dropLeaf {leaf} (h : Kept a s) : Kept a (dropLeaf s leaf) := by
  unfold dropLeaf; exact h.mapClusters

protected theorem Kept.setLeafRole {leaf role ownk owner} (h : Kept a s) : Kept a (setLeafRole s leaf role ownk owner) := by
  unfold setLeafRole; exact h.paPut.dropLeaf

protected theorem Kept.dropHolders {ctx rset keep} (h : Kept a s) : Kept a (dropHolders s ctx rset keep) := by
  unfold dropHolders; exact h.foldl fun _ _ ht => ht.paPut.ite ht

protected theorem Kept.collapsePage {ctx x keep} (h : Kept a s) : Kept a (collapsePage s ctx x keep) := by
  unfold collapsePage; exact h.ite h.dropHolders.paPut.dropLeaf

protected theorem Kept.splitPage {x} (h : Kept a s) : Kept a (splitPage s x) := by
  unfold splitPage; exact h.ite (h.foldl fun _ _ ht => ht.paPut).paPut.upd.dropLeaf

protected theorem Kept.splitDown {ctx va} (h : Kept a s) : Kept a (splitDown s ctx va) := by
  unfold splitDown
  extract_lets once
  have hs : ∀ {s}, Kept a s → Kept a (once s) := by
    intro s h
    unfold once
    split
    · exact h.splitPage
    · exact h
  exact hs (hs h)

protected theorem Kept.answered {r} (h : Kept a s) : Kept a (answered s r) := by
  unfold answered
  split
  · exact h.modCore
  · exact h

protected theorem Kept.raceStanding {p} (h : Kept a s) : Kept a (raceStanding s p) := by
  unfold raceStanding; exact h.foldl fun _ _ ht => ht.addRaced.addRaced

protected theorem Kept.startCast {r d roles} (h : Kept a s) : Kept a (startCast s r d roles) := by
  unfold startCast; exact h.upd.answered.raceStanding

protected theorem Kept.refuseCast {r cause addr} (h : Kept a s) : Kept a (refuseCast s r cause addr) := by
  unfold refuseCast
  split
  · exact h.modCore
  · split
    · exact h.failTile
    · exact h
  split
  · exact h.deliverTrap.ite h
  · exact h

protected theorem Kept.execRecastArrival {k} (h : Kept a s) : NextKept a (execRecastArrival k s) := by
  unfold execRecastArrival
  split
  · exact h
  extract_lets
  split
  · exact h
  · exact h.upd.upd.answered
  · split
    · exact h.upd.startCast
    · exact h
  split
  · exact h.upd.refuseCast
  · exact h.splitDown
  · exact h.upd.refuseCast

protected theorem Kept.convertAll {ctx d da roles t'} (h : Kept a s) : Kept a (convertAll s ctx d da roles t').1 := by
  dsimp only [convertAll]; exact h.foldl fun _ _ ht => ht.vaPut

protected theorem Kept.retain {ctx index d rel} (h : Kept a s) : Kept a (retain s ctx index d rel) := by
  unfold retain
  extract_lets
  split
  · exact h.raiseEvent
  split
  · exact h
  · exact h.paPut

protected theorem Kept.collapsePages {ctx pages} (h : Kept a s) : Kept a (collapsePages s ctx pages) := by
  unfold collapsePages
  refine h.foldl fun _ _ ht => ?_
  split
  · exact ht.collapsePage
  · exact ht

protected theorem Kept.roleLeaves {ctx t' pages} (h : Kept a s) : Kept a (roleLeaves s ctx t' pages) := by
  unfold roleLeaves; exact h.foldl fun _ _ ht => ht.setLeafRole

protected theorem Kept.putRoleMap {ctx d roles} (h : Kept a s) : Kept a (putRoleMap s ctx d roles) := by
  unfold putRoleMap; exact (h.foldl fun _ _ ht => ht.paPut).ite h

protected theorem Kept.creditTile {n ti} (h : Kept a s) : Kept a (creditTile s n ti) := by
  unfold creditTile; exact h.upd

protected theorem Kept.castDone {p n} (h : Kept a s) : Kept a (castDone s p n) := by
  unfold castDone
  extract_lets _ s1 s2
  have hs1 : Kept a s1 := h.upd.raiseEvent.foldl fun _ _ ht => ht.creditTile
  have hs2 : Kept a s2 := by
    unfold s2
    refine hs1.foldl fun _ _ ht => ?_
    split
    · exact ht.retireTile
    · exact ht
  split
  · exact hs2.modCore
  · exact hs2

protected theorem Kept.softDesc {p now da} (h : Kept a s) : Kept a (softDesc s p now da) := by
  unfold softDesc; exact h.ite h.addRaced

protected theorem Kept.completeCast {p} (h : Kept a s) : Kept a (completeCast s p) := by
  unfold completeCast
  extract_lets _ _ _ _ _ _ _ _ s1 s2 _ _ _ _ s3
  have hs1 : Kept a s1 := h.upd.collapsePages.ite h.upd
  have hs2 : Kept a s2 := hs1.vaCopy.ite hs1
  have hs3 : Kept a s3 :=
    hs2.convertAll.roleLeaves.putRoleMap.putDesc.softDesc.retain.ite hs2.convertAll.roleLeaves.putRoleMap.putDesc.softDesc
  exact h.ite hs3.castDone

protected theorem Kept.execRecastComplete {k} (h : Kept a s) : NextKept a (execRecastComplete k s) := by
  unfold execRecastComplete
  split
  · exact h.completeCast
  · exact h

/-! ## The fault service -/

protected theorem Kept.execXinvWrite {v} (h : Kept a s) : NextKept a (execXinvWrite v s) := by
  unfold execXinvWrite
  split
  · exact h.upd
  split
  · exact h.upd
  · exact h.upd

protected theorem Kept.execXinvDone (h : Kept a s) : NextKept a (execXinvDone s) := by
  unfold execXinvDone
  split
  · exact h.mapClusters.upd
  · exact h

protected theorem Kept.execPageWalkComplete {cluster ctx va} (h : Kept a s) :
    NextKept a (execPageWalkComplete cluster ctx va s) := by
  unfold execPageWalkComplete
  split
  · exact h
  split
  · split
    · exact h
    · exact h.modCluster
  split
  · exact h
  · exact h.modCluster

protected theorem Kept.roleSpace {ctx index t} (h : Kept a s) (e : roleSpace s ctx index = some t) : Kept a t := by
  unfold roleSpace at e
  extract_lets at e
  split at e
  · cases e; exact h
  · obtain ⟨u, -, rfl⟩ := Option.map_eq_some_iff.mp e
    exact h.upd.putDesc

protected theorem Kept.writeCollapse {c ctx va x t} (h : Kept a s) (e : writeCollapse s c ctx va x = some t) : Kept a t := by
  unfold writeCollapse at e
  split at e
  · extract_lets at e
    split at e
    · cases e
    split at e
    · cases e
    · obtain ⟨u, hu, rfl⟩ := Option.map_eq_some_iff.mp e
      exact (h.roleSpace hu).collapsePage.splitDown.upd
  · cases e

protected theorem Kept.resolvedNow {c} (h : Kept a s) : Kept a (resolvedNow s c) := by
  unfold resolvedNow; exact h.modCore

protected theorem Kept.serveTranslation {c ctx t'} (h : Kept a s) : Kept a (serveTranslation s c ctx t') := by
  unfold serveTranslation
  split
  · exact (h.ite h.splitPage).resolvedNow
  · exact h.deliverTrap

protected theorem Kept.serveWrite {c ctx t} (h : Kept a s) : Kept a (serveWrite s c ctx t) := by
  unfold serveWrite
  split
  · exact h.deliverTrap
  · refine h.ite (h.resolvedNow.ite (h.deliverTrap.ite ?_))
    split
    next hu => exact h.writeCollapse hu
    · exact h.deliverTrap

protected theorem Kept.moveBytes {src dst size} (h : Kept a s) : Kept a (moveBytes s src dst size) := by
  unfold moveBytes
  exact h.upd.setMem fun ha => foldl_wf (foldl_wf (h.mem_wf ha) fun _ _ w => memPut_wf _ _ _ w) fun _ _ w => memPut_wf _ _ _ w

protected theorem Kept.pageOut {x} (h : Kept a s) : Kept a (pageOut s x) := by
  unfold pageOut; exact h.ite h.upd.moveBytes.paPut.dropLeaf

protected theorem Kept.serveByPaging {c} (h : Kept a s) : Kept a (serveByPaging s c) := by
  unfold serveByPaging
  extract_lets
  split
  · split
    · exact h.ite h.pageOut
    · exact h
  · exact h

protected theorem Kept.remoteCollapse {ctx va pkg} (h : Kept a s) : Kept a (remoteCollapse s ctx va pkg) := by
  unfold remoteCollapse
  split
  · exact h
  split
  · exact h
  extract_lets
  split
  · exact h.collapsePage.splitDown.setLeafRole
  · exact h.collapsePage.splitDown

protected theorem Kept.serveAway (h : Kept a s) : Kept a (serveAway s) := by
  unfold serveAway
  split
  · exact h.upd.remoteCollapse
  · exact h

protected theorem Kept.execFaultServiceResolve {core} (h : Kept a s) : NextKept a (execFaultServiceResolve core s) := by
  unfold execFaultServiceResolve
  split
  · exact h.serveByPaging
  split
  · exact h.serveAway
  extract_lets
  split
  · split
    · exact h
    split
    · exact h.serveWrite
    · exact h.serveTranslation
  · exact h

protected theorem Kept.execFaultResolvedRetry {core} (h : Kept a s) : NextKept a (execFaultResolvedRetry core s) := by
  unfold execFaultResolvedRetry
  extract_lets
  split
  · exact h.setCore
  · exact h

/-! ## Scalar operations -/

protected theorem Kept.sRes {d lat v c at_} (h : Kept a s) : ResKept a (sRes d lat v s c at_) := by
  unfold sRes; exact h.setS

protected theorem Kept.pRes {d v c at_} (h : Kept a s) : ResKept a (pRes d v s c at_) := by
  unfold pRes; exact h.setP

/-! ## K slot operations -/

protected theorem Kept.setK {c lat file n v} (h : Kept a s) : Kept a (setK s c lat file n v) := by
  unfold setK; exact h.pushFlight

protected theorem Kept.kLoad {file f c at_} (h : Kept a s) : ResKept a (kLoad file f s c at_) := by
  unfold kLoad
  extract_lets
  split
  · trivial
  · exact h.setK

protected theorem Kept.actKsts {f c at_} (h : Kept a s) : ResKept a (actKsts f s c at_) := by
  unfold actKsts
  extract_lets
  split
  · trivial
  · exact h

protected theorem Kept.actKmov {f c at_} (h : Kept a s) : ResKept a (actKmov f s c at_) := by
  unfold actKmov
  extract_lets
  split
  · exact h.setK
  · exact h.setK
  · exact h.setK

protected theorem Kept.actKauto {f c at_} (h : Kept a s) : ResKept a (actKauto f s c at_) := by
  unfold actKauto
  extract_lets
  split
  · trivial
  · exact h.pushFlight

/-! ## Groups, gangs and events -/

protected theorem Kept.actGjoin {f c at_} (h : Kept a s) : ResKept a (actGjoin f s c at_) := by
  unfold actGjoin
  extract_lets
  split
  · trivial
  · exact h

protected theorem Kept.actGleave {f c at_} (h : Kept a s) : ResKept a (actGleave f s c at_) := by
  unfold actGleave
  extract_lets
  split
  · trivial
  split
  · exact fun _ ht => ht
  · exact h.putGroup.upd

protected theorem Kept.actSync {f c at_} (h : Kept a s) : ResKept a (actSync f s c at_) := by
  unfold actSync
  extract_lets
  split
  · trivial
  · exact h.putGroup.noteWait.modCore

protected theorem Kept.actFuse {f c at_} (h : Kept a s) : ResKept a (actFuse f s c at_) := by
  unfold actFuse
  split
  · exact trivial
  split
  · exact trivial
  split
  · exact h
  split
  · trivial
  · exact h

protected theorem Kept.actDecpl {f c at_} (h : Kept a s) : ResKept a (actDecpl f s c at_) := by
  unfold actDecpl
  split
  · exact trivial
  split
  · exact trivial
  · exact h

protected theorem Kept.assertGang {c g next} (h : Kept a s) : Kept a (assertGang s c g next) := by
  unfold assertGang; exact h.upd.modCore

protected theorem Kept.actRejoin {x c at_} (h : Kept a s) : ResKept a (actRejoin x s c at_) := by
  unfold actRejoin
  split
  · exact trivial
  split
  · exact h
  split
  · exact trivial
  · exact fun _ ht => ht.assertGang

protected theorem Kept.actWstep {f c at_} (h : Kept a s) : ResKept a (actWstep f s c at_) := by
  unfold actWstep
  extract_lets
  split
  · exact fun _ ht => ht.modCore
  · exact h.setP.ite h

protected theorem Kept.evRet {f c} (h : Kept a s) : Kept a (evRet f s c).2 := by
  dsimp only [evRet]
  split
  · exact h.pendS
  · exact h

protected theorem Kept.actEvadd {f c at_} (h : Kept a s) : ResKept a (actEvadd f s c at_) := by
  unfold actEvadd
  dsimp only
  split
  · trivial
  split
  · trivial
  split
  · trivial
  split
  · exact fun _ ht => ht.upd
  · exact h.evRet.upd

protected theorem Kept.actEvarm {f c at_} (h : Kept a s) : ResKept a (actEvarm f s c at_) := by
  unfold actEvarm
  extract_lets
  split
  · trivial
  split
  · trivial
  · exact h.paPut.upd

protected theorem Kept.actEvarmDis {f c at_} (h : Kept a s) : ResKept a (actEvarmDis f s c at_) := by
  unfold actEvarmDis
  extract_lets
  split
  · trivial
  · exact h.paPut

protected theorem Kept.actEvwait {f c at_} (h : Kept a s) : ResKept a (actEvwait f s c at_) := by
  unfold actEvwait
  extract_lets
  split
  · trivial
  split
  · exact fun _ ht => ht
  · exact h

protected theorem Kept.actEvrd {f c at_} (h : Kept a s) : ResKept a (actEvrd f s c at_) := by
  unfold actEvrd
  split
  · trivial
  · exact h.pendS.upd

protected theorem Kept.actFence {f c at_} (h : Kept a s) : ResKept a (actFence f s c at_) := by
  unfold actFence
  extract_lets
  split
  · exact fun _ ht => ht
  split
  · exact fun _ ht => ht
  · exact h

protected theorem Kept.actXfence {f c at_} (h : Kept a s) : ResKept a (actXfence f s c at_) := by
  unfold actXfence
  extract_lets
  split
  · exact fun _ ht => ht.modCore
  · exact h.modCore

/-! ## Cluster images -/

protected theorem Kept.writeClusterImage {k pa} (h : Kept a s) : Kept a (writeClusterImage s k pa) := by
  unfold writeClusterImage
  extract_lets y at_ m m1 m2 m3 m4
  have w1 (ha : memOk a = true) : Memory.wf m1 = true :=
    memClear_wf _ _ _ (memSplice_wf _ _ _ _ (h.mem_wf ha) (h.sp_wf ha k))
  have w2 (ha : memOk a = true) : Memory.wf m2 = true := foldl_wf (w1 ha) fun _ _ w => memPut_wf _ _ _ w
  have w4 (ha : memOk a = true) : Memory.wf m4 = true :=
    foldl_wf (memPut_wf _ _ _ (w2 ha)) fun _ _ w => memPut_wf _ _ _ w
  exact h.setMemFree w4

protected theorem Kept.saveCluster {k ctx} (h : Kept a s) : Kept a (saveCluster s k ctx) := by
  unfold saveCluster; exact h.writeClusterImage.modCluster.upd

protected theorem Kept.restoreCluster {k ctx} (h : Kept a s) : Kept a (restoreCluster s k ctx) := by
  unfold restoreCluster
  exact (h.setCluster fun ha => memSlice_wf _ _ _ (h.mem_wf ha)).upd

protected theorem Kept.takeSp {c ctx} (h : Kept a s) : Kept a (takeSp s c ctx) := by
  unfold takeSp
  extract_lets n k s1
  have hs1 : Kept a s1 := by
    unfold s1
    split
    · exact h.saveCluster.ite h
    · exact h
  exact h.ite (hs1.restoreCluster.ite (hs1.modCluster fun _ _ => rfl))

/-! ## The schedulers -/

protected theorem Kept.rejectEntry {key id cls cause detail t'} (h : Kept a s) :
    Kept a (rejectEntry s key id cls cause detail t') := by
  unfold rejectEntry; exact h.writeFault.upd.pushCqe

protected theorem Kept.serve {p t} (h : Kept a s) (e : serve s p = some t) : Kept a t := by
  unfold serve at e
  split at e
  · cases e
  split at e
  · cases e
  split at e
  · split at e
    · cases e
    · obtain ⟨w, -, rfl⟩ := Option.map_eq_some_iff.mp e
      exact h.foldl fun _ _ ht => ht.modCore
  split at e
  · cases e
  · obtain ⟨u, -, rfl⟩ := Option.map_eq_some_iff.mp e
    exact h.handTo.putTile.ite h.handTo

protected theorem Kept.serveBest {n ps t} (h : Kept a s) (e : serveBest s n ps = some t) : Kept a t := by
  induction n generalizing ps with
  | zero => cases e
  | succ n ih =>
    unfold serveBest at e
    split at e
    · cases e
    split at e
    next hu => cases e; exact h.serve hu
    split at e
    · cases e
    · exact ih e

protected theorem Kept.execHandOutPiece {lvl unit pool} (h : Kept a s) : NextKept a (execHandOutPiece lvl unit pool s) := by
  unfold execHandOutPiece
  extract_lets ps
  show Kept a (Option.getD _ s)
  split
  · cases hb : serveBest s ps.length ps with
    | none => exact h
    | some t => exact h.serveBest hb
  · exact h

protected theorem Kept.execAgingTick {lvl unit entry} (h : Kept a s) : NextKept a (execAgingTick lvl unit entry s) := by
  unfold execAgingTick
  split
  · exact h.ite h.putPiece
  · exact h

protected theorem Kept.stealOne {q} (h : Kept a s) : Kept a (stealOne s q) := by
  dsimp only [stealOne]
  split
  · exact h.freshId.putPiece
  · exact h

protected theorem Kept.execSteal {thieves} (h : Kept a s) : NextKept a (execSteal thieves s) := by
  unfold execSteal; exact h.foldl fun _ _ ht => ht.stealOne

protected theorem Kept.freshBanks {c} (h : Kept a s) : Kept a (freshBanks s c) := by
  unfold freshBanks; exact h.modCluster

protected theorem Kept.startOn {c i p gang} (h : Kept a s) : Kept a (startOn s c i p gang) := by
  unfold startOn; exact h.takeSp.freshBanks.setCore.trace

protected theorem Kept.startPiece {c i p} (h : Kept a s) : Kept a (startPiece s c i p) := by
  unfold startPiece; exact h.startOn.putPiece

protected theorem Kept.execTaskStart {core} (h : Kept a s) : NextKept a (execTaskStart core s) := by
  unfold execTaskStart
  split
  · exact h.startPiece
  · exact h

protected theorem Kept.execTmap {t'} (h : Kept a s) : NextKept a (execTmap t' s) := by
  unfold execTmap
  split
  · exact h.startPiece.ite h
  · exact h

protected theorem Kept.startGang {i p} (h : Kept a s) : Kept a (startGang s i p) := by
  dsimp only [startGang]; exact (h.freshId.upd.foldl fun _ _ ht => ht.startOn).putPiece

protected theorem Kept.execGangAdmit {quad} (h : Kept a s) : NextKept a (execGangAdmit quad s) := by
  unfold execGangAdmit
  extract_lets
  split
  · split
    · exact h.startGang
    · exact h
  · exact h

protected theorem Kept.endTask {piece c} (h : Kept a s) : Kept a (endTask s piece c) := by
  unfold endTask; exact h.bubbles.upd.dropTask.modCore

protected theorem Kept.execTaskRetire {core} (h : Kept a s) : NextKept a (execTaskRetire core s) := by
  unfold execTaskRetire
  split
  · exact h
  extract_lets _ s1
  have hs1 : Kept a s1 := h.foldl fun _ _ ht => ht.endTask
  split
  · exact hs1.upd
  · exact h

protected theorem Kept.execPieceRetireMerge {piece} (h : Kept a s) : NextKept a (execPieceRetireMerge piece s) := by
  unfold execPieceRetireMerge
  split
  · split
    · exact h.mergePiece.ite h
    · exact h
  · exact h

protected theorem Kept.execTileRetire {ti} (h : Kept a s) : NextKept a (execTileRetire ti s) := by
  unfold execTileRetire
  split
  · split
    · split
      · exact h.retireTile
      · exact h
    · exact h
  · exact h

protected theorem Kept.writeCqe {ctx qp} (h : Kept a s) : Kept a (writeCqe s ctx qp) := by
  unfold writeCqe
  extract_lets
  split
  · exact h
  · exact h.paPut.modQp.upd.refreshFull.ite h.refreshFull

protected theorem Kept.execCompletionRecordWrite {ctx qp} (h : Kept a s) : NextKept a (execCompletionRecordWrite ctx qp s) := by
  unfold execCompletionRecordWrite; exact h.writeCqe

protected theorem Kept.rerunPiece {p retries requeue pin} (h : Kept a s) : Kept a (rerunPiece s p retries requeue pin) := by
  dsimp only [rerunPiece]; exact (h.foldl fun _ _ ht => ht.dropTask).unreserve.dropFrozen.freshId.upd

protected theorem Kept.onFault {f} (h : Kept a s) : Kept a (onFault s f) := by
  unfold onFault
  split
  · exact h
  extract_lets
  split
  · exact h.rerunPiece.putTile
  · exact h.failTile.ite h.upd

protected theorem Kept.execFaultRecordReceive {k} (h : Kept a s) : NextKept a (execFaultRecordReceive k s) := by
  unfold execFaultRecordReceive
  split
  · exact h.upd.onFault
  · exact h

/-! ## Tile instructions -/

protected theorem Kept.leafDone {c p flags iovf} (h : Kept a s) : Kept a (leafDone s c p flags iovf) := by
  unfold leafDone; exact h.pastLeaf.upd.modCore.trace

protected theorem Kept.leafTrap {c i t'} (h : Kept a s) : Kept a (leafTrap s c i t') := by
  unfold leafTrap; exact h.failTask.ite h.takeTrap

protected theorem Kept.leafRun {c i p} (h : Kept a s) : Kept a (leafRun s c i p) := by
  unfold leafRun
  extract_lets s1
  have hs1 : Kept a s1 := h.raceLeaf
  split
  · exact hs1.leafTrap
  split
  · exact hs1.leafTrap
  next hq => exact (hs1.commitLeaf hq).leafDone

protected theorem Kept.leafStream {c i x o p} (h : Kept a s) : Kept a (leafStream s c i x o p) := by
  unfold leafStream
  dsimp only
  split
  · exact h.leafTrap
  · exact h
  split
  · exact h.leafTrap
  split
  · split
    · exact h.leafTrap
    split
    · exact h.leafTrap
    · exact (h.putRec.ite h).enterAppends.leafDone
  split
  · exact h.leafTrap
  next hq => exact ((h.commitLeaf hq).putRec.ite (h.commitLeaf hq)).leafDone

protected theorem Kept.leafStep {t'} (h : Kept a s) : NextKept a (leafStep t' s) := by
  unfold leafStep
  split
  · split
    · exact h
    split
    · exact h.leafStream.ite h.leafRun
    · exact h.leafRun
  · exact h

protected theorem Kept.controlStep {x f} (h : Kept a s) (hf : ∀ i, Kept a (f i)) : NextKept a (controlStep x s f) := by
  unfold controlStep
  split
  · exact hf _
  · exact h

protected theorem Kept.execTnop {x} (h : Kept a s) : NextKept a (execTnop x s) :=
  h.controlStep fun _ => h.retireTile

protected theorem Kept.remoteTevt {i pkg idx} (h : Kept a s) : Kept a (remoteTevt s i pkg idx) := by
  unfold remoteTevt
  dsimp only
  split
  · exact h.upd.failTile
  · exact h.upd.retireTile.ite h.upd.failTile

protected theorem Kept.tevtOn {i} (h : Kept a s) : Kept a (tevtOn s i) := by
  unfold tevtOn; exact h.applyInc.retireTile.ite h.remoteTevt

protected theorem Kept.twaitOn {i} (h : Kept a s) : Kept a (twaitOn s i) := by
  unfold twaitOn; exact h.ite h.retireTile

protected theorem Kept.tstepOn {i} (h : Kept a s) : Kept a (tstepOn s i) := by
  unfold tstepOn; exact h.retireTile.ite h

protected theorem Kept.execTevt {x} (h : Kept a s) : NextKept a (execTevt x s) := h.controlStep fun _ => h.tevtOn

protected theorem Kept.execTwait {x} (h : Kept a s) : NextKept a (execTwait x s) := h.controlStep fun _ => h.twaitOn

protected theorem Kept.execTstep {x} (h : Kept a s) : NextKept a (execTstep x s) := h.controlStep fun _ => h.tstepOn

protected theorem Kept.execTcast {t'} (h : Kept a s) : NextKept a (execTcast t' s) := by
  unfold execTcast
  split
  · exact h.upd.putTile.upd
  · exact h

protected theorem Kept.colReceive {ctx p us} (h : Kept a s) : Kept a (colReceive s ctx p us) := by
  unfold colReceive
  extract_lets _ s1
  have hs1 : Kept a s1 := h.foldl fun _ _ ht => ht.freshId.upd
  refine hs1.foldl fun _ _ ht => ?_
  split
  · exact ht.upd
  · exact ht

protected theorem Kept.runCol {i a' o p} (h : Kept a s) : Kept a (runCol s i a' o p) := by
  unfold runCol
  extract_lets
  split
  · exact h.upd
  split
  · exact h.upd.raceLeaf
  · exact h.upd.raceLeaf.failOutput
  split
  · exact h.upd.raceLeaf.failOutput
  extract_lets
  split
  · exact h.upd.raceLeaf.failOutput
  · exact h.upd.raceLeaf.raceOuts.colReceive.raiseOor.pastLeaf.putPiece

protected theorem Kept.execTcol {t'} (h : Kept a s) : NextKept a (execTcol t' s) := by
  unfold execTcol
  split
  · exact h.putPiece
  split
  · split
    · exact h.runCol
    · exact h
  · exact h

protected theorem Kept.actTis {f c at_} (h : Kept a s) : ResKept a (actTis f s c at_) := by
  unfold actTis
  extract_lets
  split
  · trivial
  split
  · exact fun _ ht => ht
  split
  · trivial
  · exact fun _ ht => ht
  extract_lets
  split
  · exact h.setS
  extract_lets
  split
  · exact h.setS
  next ht => exact (h.raiseReaders ht).modCore.setS

protected theorem Kept.actTiwait {f c at_} (h : Kept a s) : ResKept a (actTiwait f s c at_) := by
  unfold actTiwait
  extract_lets
  split
  · exact fun _ ht => ht
  · exact h.setS

protected theorem Kept.putLocal {c l} (h : Kept a s) : Kept a (putLocal s c l) := by
  unfold putLocal; exact h.modCore

protected theorem Kept.execL0TileStart {core} (h : Kept a s) : NextKept a (execL0TileStart core s) := by
  unfold execL0TileStart
  extract_lets
  split
  · exact h.putLocal.modBank.ite h
  · exact h

protected theorem Kept.keepAcc {k b f64 r} (h : Kept a s) : Kept a (keepAcc s k b f64 r) := by
  unfold keepAcc; exact h.modBank

protected theorem Kept.execL0TileRetire {core} (h : Kept a s) : NextKept a (execL0TileRetire core s) := by
  unfold execL0TileRetire
  split
  · extract_lets i k finish failed u
    have hf (s n r) (h : Kept a s) : Kept a (finish s n r) := h.pastLeaf.keepAcc.putLocal.lowerReaders
    have hu : Kept a u := h.raceLeaf
    have hx (e) : Kept a (failed e) := hf _ _ _ hu
    split
    · exact hx _
    split
    · exact hx _
    extract_lets q v
    have hq : Kept a q.1 := hu.landOuts
    have hv : Kept a v := hf _ _ _ hq
    exact hv.ite hv.raiseEvent
  · exact h

protected theorem Kept.settleControl {i} (h : Kept a s) : Kept a (settleControl s i) := by
  unfold settleControl
  split
  · split
    · exact h.retireTile
    · exact h.tevtOn
    · exact h.twaitOn
    · exact h.tstepOn
    · exact h
  · exact h

protected theorem Kept.acceptEntry {key} (h : Kept a s) : Kept a (acceptEntry s key) := by
  unfold acceptEntry
  extract_lets ctx x
  have hf : Kept a (freshId s).2 := h.freshId
  revert hf
  generalize freshId s = q
  obtain ⟨id, u⟩ := q
  intro hf
  dsimp only
  refine Kept.modQp (Kept.upd ?_)
  split
  · exact hf.rejectEntry
  split
  · exact hf.rejectEntry
  split
  · exact hf.rejectEntry
  split
  · exact hf.rejectEntry
  next e => exact (hf.raiseReaders e).freshId.upd.settleControl

protected theorem Kept.execFetchEntry (h : Kept a s) : NextKept a (execFetchEntry s) := by
  unfold execFetchEntry
  split
  · exact h.acceptEntry
  · exact h

/-! ## Vector conversions -/

protected theorem Kept.vPairs {x f lat p op c at_} (h : Kept a s) : ResKept a (vPairs x f lat p op s c at_) := by
  unfold vPairs; exact h.onElems fun ht => ht.vWrite

protected theorem Kept.actVqnt {x f c at_} (h : Kept a s) : ResKept a (actVqnt x f s c at_) := by
  unfold actVqnt; exact h.onElems fun ht => ht.vWrite.pushFlight

protected theorem Kept.actVdqn {x f c at_} (h : Kept a s) : ResKept a (actVdqn x f s c at_) := by
  unfold actVdqn; exact h.onElems fun ht => ht.vWrite

protected theorem Kept.actVamax {x f c at_} (h : Kept a s) : ResKept a (actVamax x f s c at_) := by
  unfold actVamax; exact h.onElems fun ht => ht.vWrite

protected theorem Kept.vSpecial {n x f c at_} (h : Kept a s) : ResKept a (vSpecial n x f s c at_) := by
  unfold vSpecial; exact h.onElems fun ht => ht.vWrite

/-! ## Bundles issue -/

/-- Every operation in its slot keeps it. -/
theorem actKept_actOf (i : Instr) : ActKept (actOf i) := by
  intro a s c at_ h
  cases i with dsimp only [actOf]
  | nop | br _ | ret _ | yield _ | itset _ | vnop _ | mnop | knop | itlvl _ | itrst _ | itrev _ | itstep _ | cnop _ => exact h
  | add _ | sub _ | mul _ | mulh _ | mulhn _ | div _ | divn _ | mod _ | modn _ | and _ | or _ | xor _ | shl _ | shr _
  | sra _ | min _ | max _ | minn _ | maxn _ | clz _ | popc _ | sext _ | zext _ | addi _ | andi _ | ori _ | xori _
  | shli _ | shri _ | srai _ | li _ | lih16 _ | lih32 _ | lih48 _ | sel _ | pmovToS _ | xvs _ | itget _ => exact h.sRes
  | cmp _ | cmpi _ | pand _ | por _ | pxor _ | pmov _ => exact h.pRes
  | pmovFromS _ => exact h.foldl fun _ _ ht => ht.setP
  | jmp _ => exact h.setS.ite h
  | call _ | csrr _ => exact h.setS
  | loop _ => exact h.actLoop
  | rbset _ | xsv _ | csrw _ | asw _ | kufc _ | kseed _ => exact h.pushFlight
  | exit _ => exact h.noteWait
  | ldl _ => exact h.actLdl
  | stl _ => exact h.actStl
  | ldm _ => exact h.actLdm
  | stm _ => exact h.actStm
  | amo _ => exact h.actAmo
  | sacc _ => exact h.actSacc
  | sapp _ => exact h.actSapp
  | hld _ => exact h.actHld
  | hview _ => exact h.actHview
  | rcast _ => exact h.actRcast
  | hold _ => exact h.actHold
  | rels _ => exact h.actRels
  | hgen _ => exact h.actHgen
  | taglk _ => exact h.actTaglk
  | tagset _ => exact h.actTagset
  | tagclr _ => exact h.actTagclr
  | tagclrK _ => exact h.actTagclrK
  | gjoin _ => exact h.actGjoin
  | gleave _ => exact h.actGleave
  | sync _ => exact h.actSync
  | fuse _ => exact h.actFuse
  | decpl _ => exact h.actDecpl
  | rejoin _ => exact h.actRejoin
  | wstep _ => exact h.actWstep
  | evadd _ => exact h.actEvadd
  | evarm _ => exact h.actEvarm
  | evarmDis _ => exact h.actEvarmDis
  | evwait _ => exact h.actEvwait
  | evrd _ => exact h.actEvrd
  | fence _ => exact h.actFence
  | xfence _ => exact h.actXfence
  | tis _ => exact h.actTis
  | tiwait _ => exact h.actTiwait
  | trap _ | brk _ => trivial
  | eret _ => exact h.actEret
  | vadd _ _ | vsub _ _ | vmul _ _ | vfma _ _ | vfms _ _ | vfnma _ _ => exact h.vArithRow
  | vmin _ _ | vmax _ _ | vabs _ _ | vneg _ _ | vdiv _ _ | vmulh _ _ | vsadd _ _ | vssub _ _ => exact h.vMap
  | vand _ _ | vor _ _ | vxor _ _ | vnot _ _ | vshl _ _ | vshr _ _ | vsra _ _ | vpopc _ _ | vclz _ _ | vmov _ _
  | vbcst _ _ | vperm _ _ | vshfl _ _ | viota _ _ => exact h.vMapBits
  | vcmp _ _ => exact h.actVcmp
  | vsel _ _ => exact h.actVsel
  | vmand _ _ | vmor _ _ | vmxor _ _ | vmnot _ _ => exact h.vMask2
  | vmcnt _ _ => exact h.actVmcnt
  | vcvt _ _ | vcbx _ _ | vcbq _ _ => exact h.vPairs
  | vqnt _ _ => exact h.actVqnt
  | vdqn _ _ => exact h.actVdqn
  | vamax _ _ => exact h.actVamax
  | vcmps _ _ | vexpd _ _ => exact h.vAll
  | vxv _ _ => exact h.actVxv
  | vred _ _ => exact h.actVred
  | vscan _ _ => exact h.actVscan
  | vdot _ _ => exact h.actVdot
  | vexp2 _ _ | vlog2 _ _ | vrcp _ _ | vrsq _ _ | vsqrt _ _ | vsinpi _ _ | vcospi _ _ | vtanh _ _ | vsigm _ _ => exact h.vSpecial
  | vld _ _ | vgth _ _ => exact h.vLoad
  | vst _ _ | vsct _ _ => exact h.vStore
  | vacc _ _ => exact h.actVacc
  | vamo _ _ => exact h.actVamo
  | vapp _ _ => exact h.actVapp
  | mma _ | mmag _ | mmas _ => exact h.issueAccum
  | mgth _ => exact h.actMgth
  | aclr _ => exact h.modBank.enqueue
  | aspl _ => exact h.actAspl
  | afil _ => exact h.actAfil
  | mdrn _ => exact h.actMdrn
  | prja _ => exact h.actPrja
  | mwait _ => exact h.actMwait
  | klds _ | kldc _ => exact h.kLoad
  | ksts _ => exact h.actKsts
  | kmov _ => exact h.actKmov
  | kauto _ => exact h.actKauto
  | copy _ _ => exact h.actCopy
  | cprf _ _ => exact h.actCprf
  | cwb _ _ => exact h.actCwb
  | sbind _ _ => exact h.actSbind
  | sadv _ _ => exact h.actSadv
  | swtf _ _ => exact h.actSwtf
  | swte _ _ => exact h.actSwte
  | mcast _ _ => exact h.actMcast
  | csend _ _ => exact h.actCsend
  | crecv _ _ => exact h.actCrecv
  | chks _ _ => exact h.actChks
  | cwait _ _ => exact h.actCwait
  | carm _ _ => exact h.actCarm
  | cstat _ _ => exact h.actCstat
  | sclose _ _ => exact h.actSclose
  | cdesc _ _ => exact h.actCdesc
  | _ => exact h

protected theorem Kept.holdWords {ts} (h : Kept a s) : Kept a (holdWords s ts) := by
  unfold holdWords; exact h.foldl fun _ _ ht => ht.modCore

protected theorem Kept.lapse {cs} (h : Kept a s) : Kept a (lapse s cs) := by
  unfold lapse; exact h.foldl fun _ _ ht => ht.ite ht.modCore

theorem laneKept_turnLane (s : State) (u : Turn) : LaneKept (turnLane s u) := by
  intro q hq
  simp only [turnLane, turnOps, List.mem_map] at hq
  obtain ⟨p, -, rfl⟩ := hq
  exact actKept_actOf p.2

protected theorem Kept.issueGroup {landed cs} (h : Kept a s) : Kept a (issueGroup landed s cs).1 := by
  unfold issueGroup
  split
  · exact h.lapse.ite h
  · exact h.takeTrap
  extract_lets ls
  have hl : ∀ l ∈ ls, LaneKept l := List.forall_mem_map.mpr fun u _ => laneKept_turnLane s u
  have hr : RepKept a (if landed then groupOps s ls else groupRep s ls) := by
    split
    · exact h.groupOps hl
    · exact h.groupRep hl
  split
  next t es e =>
    have ht : Kept a t := by rwa [e] at hr
    exact ht.lapse.holdWords.foldl fun _ _ hu => hu.finishRep
  · exact h.holdWords.notIssued hr

protected theorem Kept.pathOf {t e sp} (h : Kept a s) : Kept a (pathOf s t e sp).1 := by
  unfold pathOf
  dsimp only
  split
  · split <;> (dsimp only; exact h.modCore)
  split
  · exact h
  · dsimp only; exact h.foldl fun _ _ ht => ht.modCore

protected theorem Kept.finishTurn {t' l e} (h : Kept a s) : Kept a (finishTurn s t' l e) := by
  dsimp only [finishTurn]; exact (h.pathOf.finishBundle.modCore.ite h.pathOf.finishBundle).ite h.modCore

protected theorem Kept.finishIssued {g} (h : Kept a s) : Kept a (finishIssued s g) := by
  unfold finishIssued; exact h.foldl fun _ _ ht => ht.finishTurn

protected theorem Kept.issueCycle {cs} (h : Kept a s) : Kept a (issueCycle s cs) := by
  unfold issueCycle
  extract_lets _ _ s1 r1
  have hs1 : Kept a s1 := h.foldl fun _ _ ht => ht.landLanes
  have hr1 : Kept a r1.1 := hs1.foldl_fst fun _ _ ht => ht.issueGroup
  exact ((hr1.applySps.foldl fun _ _ ht => ht.closeEach).foldl fun _ _ ht => ht.finishIssued).touchArrays.failAccesses

protected theorem Kept.execIssueBundle {cores} (h : Kept a s) : NextKept a (execIssueBundle cores s) := by
  unfold execIssueBundle; exact h.issueCycle

protected theorem Kept.execStallRelease {core} (h : Kept a s) : NextKept a (execStallRelease core s) := by
  unfold execStallRelease
  split
  · exact h.tryReturn
  split
  · exact h.issueCycle
  · exact h

/-! ## Pre-emption -/

protected theorem Kept.preemptWrite {ctx v} (h : Kept a s) : Kept a (preemptWrite s ctx v) := by
  unfold preemptWrite; exact h.modCtx.ite (h.modCtx.modCtx.ite (h.modCtx.foldl fun _ _ ht => ht.modCore))

protected theorem Kept.execPreemptSoftRequest {ctx v} (h : Kept a s) : NextKept a (execPreemptSoftRequest ctx v s) := by
  unfold execPreemptSoftRequest; exact h.preemptWrite.ite h

protected theorem Kept.execPreemptHardRequest {ctx v} (h : Kept a s) : NextKept a (execPreemptHardRequest ctx v s) := by
  unfold execPreemptHardRequest; exact h.preemptWrite.ite h

protected theorem Kept.execPreemptDeadlineExpiry {core} (h : Kept a s) : NextKept a (execPreemptDeadlineExpiry core s) := by
  unfold execPreemptDeadlineExpiry; exact h.modCore

protected theorem Kept.execCxsaveWrite {ctx v} (h : Kept a s) : NextKept a (execCxsaveWrite ctx v s) := by
  unfold execCxsaveWrite; exact h.modCtx

protected theorem Kept.execHardPreemptFreeze {core} (h : Kept a s) : NextKept a (execHardPreemptFreeze core s) := by
  dsimp only [execHardPreemptFreeze]
  split
  · exact h
  split
  · exact h.takeTrap
  · exact h.foldl fun _ _ ht => ht.freezeCore

theorem cellsOf_wf (n v : Nat) : Memory.wf (cellsOf n v) = true := by
  refine (wf_iff _).mpr ⟨List.Pairwise.filter _ ?_, fun q hq => by simpa using (List.mem_filter.mp hq).2⟩
  exact List.pairwise_map.mpr List.pairwise_lt_range

protected theorem Kept.storeRange {pa n v} (h : Kept a s) : Kept a (storeRange s pa n v) :=
  h.setMem fun ha => memSplice_wf _ _ _ _ (h.mem_wf ha) (cellsOf_wf n v)

protected theorem Kept.writeRecord {c ctx bank pa} (h : Kept a s) : Kept a (writeRecord s c ctx bank pa) := by
  unfold writeRecord; exact h.storeRange.storeRange.foldl fun _ _ ht => ht.storeRange

protected theorem Kept.storeBank {pa b} (h : Kept a s) : Kept a (storeBank s pa b) := by
  unfold storeBank; exact h.storeRange

protected theorem Kept.spillResident {c b} (h : Kept a s) : Kept a (spillResident s c b) := by
  unfold spillResident
  extract_lets
  split
  · exact h
  · exact h.storeBank.paPut.modBank

protected theorem Kept.execBankSpill {core bank} (h : Kept a s) : NextKept a (execBankSpill core bank s) := by
  unfold execBankSpill; exact h.spillResident.ite h

protected theorem Kept.saveRecord {c t'} (h : Kept a s) : Kept a (saveRecord s c t') := by
  dsimp only [saveRecord]; exact h.spillResident.spillResident.writeRecord.storeBank.modBank.modBank.freshId.upd.modCore

protected theorem Kept.execFreezeRecordSave {core} (h : Kept a s) : NextKept a (execFreezeRecordSave core s) := by
  unfold execFreezeRecordSave
  split
  · exact h.saveRecord.ite h
  · exact h

protected theorem Kept.refillBanks {z} (h : Kept a s) : Kept a (refillBanks s z) := by
  unfold refillBanks; exact (h.modBank.ite h.spillResident.modBank).spillResident.modBank

protected theorem Kept.relineOne {c ctx was now l} (h : Kept a s) : Kept a (relineOne c ctx was now s l) := by
  unfold relineOne; exact h.putGroup.ite h

protected theorem Kept.reline {z} (h : Kept a s) : Kept a (reline s z) := by
  unfold reline; exact h.foldl fun _ _ ht => ht.relineOne

protected theorem Kept.resumeTask {z} (h : Kept a s) : Kept a (resumeTask s z) := by
  unfold resumeTask; exact h.takeSp.refillBanks.reline.upd.setCore.modCore.trace

protected theorem Kept.execFrozenTaskResume {core} (h : Kept a s) : NextKept a (execFrozenTaskResume core s) := by
  unfold execFrozenTaskResume
  extract_lets
  split
  · exact h
  split
  · split
    · exact h.foldl fun _ _ ht => ht.resumeTask
    · exact h
  · exact h

protected theorem Kept.byteBack {q} (h : Kept a s) : Kept a (byteBack s q) := by
  unfold byteBack; exact h.spMasked.ite h

protected theorem Kept.entryBack {e} (h : Kept a s) : Kept a (entryBack s e) := by
  unfold entryBack
  split
  · exact h.putRec
  · exact h

protected theorem Kept.groupBack {g} (h : Kept a s) : Kept a (groupBack s g) := by
  unfold groupBack
  exact Kept.ite (h.foldl fun _ _ ht => ht.setMem fun ha => memPut_wf _ _ _ (ht.mem_wf ha)) h

protected theorem Kept.banksBack {a'} (h : Kept a s) : Kept a (banksBack s a') := by
  unfold banksBack; exact (h.foldl fun _ _ ht => ht.modBank).foldl fun _ _ ht => ht.modBank

protected theorem Kept.undo {a'} (h : Kept a s) : Kept a (undo s a') := by
  unfold undo
  extract_lets _ _ s1 _ s2
  have hs1 : Kept a s1 := h.foldl fun _ _ ht => ht.entryBack
  have hs2 : Kept a s2 := ((hs1.modCluster.foldl fun _ _ ht => ht.byteBack).foldl fun _ _ ht => ht.groupBack).banksBack
  exact hs2.upd.upd.setCore

protected theorem Kept.withdraw {c} (h : Kept a s) : Kept a (withdraw s c) := by
  unfold withdraw
  extract_lets _ _ s1 s2 s3
  have hs1 : Kept a s1 := by
    unfold s1
    split
    · exact h.putGroup
    · exact h
  have hs2 : Kept a s2 := by
    unfold s2
    split
    · exact hs1.upd
    · exact hs1
  have hs3 : Kept a s3 := by
    unfold s3
    split
    · exact hs2.undo
    · exact hs2
  exact hs3.modCore

protected theorem Kept.execWatchdogExpiry {core} (h : Kept a s) : NextKept a (execWatchdogExpiry core s) := by
  unfold execWatchdogExpiry
  split
  · exact h
  split
  · exact (h.foldl fun _ _ ht => ht.withdraw).takeTrap
  split
  · exact h.takeTrap
  split
  · exact h.takeTrap
  · exact h.takeTrap

/-! ## Releases -/

protected theorem Kept.endSync {ctx line c} (h : Kept a s) : Kept a (endSync ctx line s c) := by
  unfold endSync; exact h.upd.upd.modCore.ite h.upd

protected theorem Kept.execSyncRelease {ctx line die} (h : Kept a s) : NextKept a (execSyncRelease ctx line die s) := by
  unfold execSyncRelease; exact (h.putGroup.foldl fun _ _ ht => ht.endSync).ite h

protected theorem Kept.execRejoinRelease {gang} (h : Kept a s) : NextKept a (execRejoinRelease gang s) := by
  unfold execRejoinRelease
  split
  · exact h
  extract_lets
  split
  · exact h
  · exact h.upd.foldl fun _ _ ht => ht.modCore

protected theorem Kept.execGeyserTick (h : Kept a s) : NextKept a (execGeyserTick s) := by
  unfold execGeyserTick; exact h.upd

protected theorem Kept.execGeyserAlignMessage {count} (h : Kept a s) : NextKept a (execGeyserAlignMessage count s) := by
  unfold execGeyserAlignMessage; exact h.upd.ite h

/-! ## Contexts -/

protected theorem Kept.setCode {ctx n} (h : Kept a s) : Kept a (setCode s ctx n) := by
  unfold setCode; exact h.modCtx

protected theorem Kept.makeLive {ctx r ds} (h : Kept a s) : Kept a (makeLive s ctx r ds) := by
  unfold makeLive; exact (h.upd.foldl fun _ _ ht => ht.modQp).modCtx

protected theorem Kept.execContextCreate {ctx} (h : Kept a s) : NextKept a (execContextCreate ctx s) := by
  unfold execContextCreate
  split
  · exact h.setCode
  · exact h.setCode.ite h.makeLive

protected theorem Kept.execContextUpdate {ctx} (h : Kept a s) : NextKept a (execContextUpdate ctx s) := by
  unfold execContextUpdate
  extract_lets _ _ _ _ s1
  have hs1 : Kept a s1 := h.foldl fun _ _ ht => ht.modQp
  split
  · exact h.setCode
  · exact hs1.modCtx

protected theorem Kept.stopContext {ctx} (h : Kept a s) : Kept a (stopContext s ctx) := by
  unfold stopContext; exact ((h.foldl fun _ _ ht => ht.stopPieces).foldl fun _ _ ht => ht.dropTask).dropFrozen

protected theorem Kept.releaseContext {ctx} (h : Kept a s) : Kept a (releaseContext s ctx) := by
  unfold releaseContext; exact (h.foldl fun _ _ ht => ht.lowerReaders).lowerReaders

protected theorem Kept.forgetContext {ctx} (h : Kept a s) : Kept a (forgetContext s ctx) := by
  unfold forgetContext
  refine Kept.upd (h.mapClusters fun q w => ?_)
  dsimp only
  split <;> exact w

protected theorem Kept.execContextDestroy {ctx} (h : Kept a s) : NextKept a (execContextDestroy ctx s) := by
  unfold execContextDestroy
  split
  · exact h.setCode
  · exact h.modCtx.stopContext.releaseContext.forgetContext.modCtx

protected theorem Kept.execSqtailWrite {ctx qp v} (h : Kept a s) : NextKept a (execSqtailWrite ctx qp v s) := by
  unfold execSqtailWrite
  split
  · exact h
  · exact h.modQp

protected theorem Kept.execCqheadWrite {ctx qp v} (h : Kept a s) : NextKept a (execCqheadWrite ctx qp v s) := by
  unfold execCqheadWrite
  split
  · exact h
  · exact h.modQp.refreshFull

protected theorem Kept.execOvrClear {ctx qp v} (h : Kept a s) : NextKept a (execOvrClear ctx qp v s) := by
  unfold execOvrClear
  split
  · exact h
  · exact h.modQp

protected theorem Kept.execPartitionWrite {p v} (h : Kept a s) : NextKept a (execPartitionWrite p v s) := by
  unfold execPartitionWrite
  extract_lets
  split
  · exact h
  split
  · exact h.upd
  · exact h.upd

/-! ## Debug and readback -/

protected theorem Kept.authorise {ctx want} (h : Kept a s) (e : authorise s ctx want = some t) : Kept a t := by
  unfold authorise at e
  split at e
  · cases e; exact h
  split at e
  · cases e; exact h.upd.modCtx
  · cases e

protected theorem Kept.authoriseAll {want cs} (h : Kept a s) : Kept a (authoriseAll s want cs).1 := by
  induction cs generalizing s with
  | nil => exact h
  | cons c cs ih =>
    unfold authoriseAll
    split
    next e => exact ih (h.authorise e)
    · exact h

protected theorem Kept.haltTask {c} (h : Kept a s) : Kept a (haltTask s c) := by
  unfold haltTask
  split
  · exact h.haltCore
  · exact h.haltCore
  · exact h.modCore.haltCore
  · exact h.modCore.trace
  · exact h.modCore
  · exact h

protected theorem Kept.resumeHalted {c} (h : Kept a s) : Kept a (resumeHalted s c) := by
  unfold resumeHalted; exact (h.setCore.trace.freezeCore.ite h.setCore.trace).ite h.modCore

protected theorem Kept.execDebugHalt {ctx} (h : Kept a s) : NextKept a (execDebugHalt ctx s) := by
  unfold execDebugHalt; exact (h.foldl fun _ _ ht => ht.haltTask).ite h

protected theorem Kept.execDebugResume {ctx} (h : Kept a s) : NextKept a (execDebugResume ctx s) := by
  unfold execDebugResume; exact h.foldl fun _ _ ht => ht.resumeHalted

protected theorem Kept.writeMode {ctx v} (h : Kept a s) : Kept a (writeMode ctx v s).1 := by
  unfold writeMode
  extract_lets m lg
  split
  · dsimp only; exact h.setCode
  split
  · dsimp only; exact h.setCode
  next u e =>
    have hu : Kept a u := by
      split at e
      · cases e; exact h
      · exact h.authorise e
    dsimp only
    exact ((hu.foldl fun _ _ ht => ht.resumeHalted).ite hu).modCtx

protected theorem Kept.execDebugModeWrite {ctx v} (h : Kept a s) : NextKept a (execDebugModeWrite ctx v s) := by
  unfold execDebugModeWrite; exact h.writeMode

protected theorem Kept.execOwndigWrite {ctx word v} (h : Kept a s) : NextKept a (execOwndigWrite ctx word v s) := by
  unfold execOwndigWrite; exact h.modCtx

protected theorem Kept.rbRuns {bytes code} (h : Kept a s) : Kept a (rbRuns s bytes code) := by
  unfold rbRuns; exact h.upd

protected theorem Kept.rbUnits {ok ldie ctxs run} (h : Kept a s) (hr : ∀ {s}, Kept a s → Kept a (run s)) :
    Kept a (rbUnits s ok ldie ctxs run) := by
  unfold rbUnits
  exact h.rbRuns.ite (h.rbRuns.ite ((hr h.authoriseAll).ite h.authoriseAll.rbRuns))

protected theorem Kept.recordNow {c pa} (h : Kept a s) : Kept a (recordNow s c pa) := by
  unfold recordNow
  extract_lets x ctx t u
  have ht : Kept a t := h.ite h.capture
  have hu : Kept a u := ht.modCore.ite ht
  exact h.setMem fun ha => hu.writeRecord.mem_wf ha

protected theorem Kept.readCore {c pa} (h : Kept a s) : Kept a (readCore s c pa) := by
  unfold readCore
  exact Kept.rbRuns (Kept.ite (h.setMem fun ha =>
    memSplice_wf _ _ _ _ (h.mem_wf ha) (memSlice_wf _ _ _ (h.mem_wf ha))) h.recordNow)

protected theorem Kept.execReadbackCore {dst} (h : Kept a s) : NextKept a (execReadbackCore dst s) := by
  unfold execReadbackCore; exact (h.rbUnits Kept.readCore).ite h

protected theorem Kept.execReadbackCluster {dst} (h : Kept a s) : NextKept a (execReadbackCluster dst s) := by
  unfold execReadbackCluster; exact (h.rbUnits fun ht => ht.writeClusterImage.rbRuns).ite h

protected theorem Kept.readScheduler {lvl u pa} (h : Kept a s) : Kept a (readScheduler s lvl u pa) := by
  unfold readScheduler; exact (h.storeRange.foldl fun _ _ ht => ht.storeRange).upd.rbRuns

protected theorem Kept.execReadbackScheduler {dst} (h : Kept a s) : NextKept a (execReadbackScheduler dst s) := by
  unfold execReadbackScheduler
  extract_lets
  split
  · exact h
  split
  · exact h.authoriseAll.readScheduler.ite h.authoriseAll.rbRuns
  · exact h.rbUnits Kept.readScheduler

protected theorem Kept.execReadbackEvent {dst} (h : Kept a s) : NextKept a (execReadbackEvent dst s) := by
  unfold execReadbackEvent
  dsimp only
  split
  · exact h
  split
  · exact h.rbRuns
  split
  · exact h.rbRuns
  split
  · exact h.rbRuns
  next e => exact (h.authorise e).storeRange.rbRuns

protected theorem Kept.storeBytes {pa bs} (h : Kept a s) : Kept a (storeBytes s pa bs) := by
  unfold storeBytes; exact h.setMem fun ha => memPut_wf _ _ _ (h.mem_wf ha)

protected theorem Kept.execReadbackCertChain {dst} (h : Kept a s) : NextKept a (execReadbackCertChain dst s) := by
  unfold execReadbackCertChain; exact h.storeBytes.rbRuns.ite h

protected theorem Kept.execReadbackAttestation {dst} (h : Kept a s) : NextKept a (execReadbackAttestation dst s) := by
  unfold execReadbackAttestation; exact h.storeBytes.rbRuns.ite h

protected theorem Kept.execReadbackDone (h : Kept a s) : NextKept a (execReadbackDone s) := by
  unfold execReadbackDone
  split
  · exact h.upd
  · exact h

/-! ## Management registers -/

protected theorem Kept.writeCtxPlain {ctx r v} (h : Kept a s) : Kept a (writeCtxPlain s ctx r v) := by
  unfold writeCtxPlain
  split
  · exact h.modCtx
  · exact h.ite h.preemptWrite
  · exact h

protected theorem Kept.writeDbgPlain {ctx r v} (h : Kept a s) : Kept a (writeDbgPlain s ctx r v) := by
  unfold writeDbgPlain
  split
  · exact h.modCtx
  · exact h.modCtx
  · exact h

protected theorem Kept.execMgmtRegisterWrite {off v} (h : Kept a s) : NextKept a (execMgmtRegisterWrite off v s) := by
  unfold execMgmtRegisterWrite; exact h.writeCtxPlain.ite (h.writeDbgPlain.ite (h.upd.ite (h.upd.ite (h.upd.ite h))))

protected theorem Kept.writeRbdst {v} (h : Kept a s) : NextKept a (writeRbdst v s) := by
  unfold writeRbdst
  split
  · exact h.execReadbackCore
  · exact h.execReadbackCluster
  · exact h.execReadbackScheduler
  · exact h.execReadbackEvent
  · exact h.execReadbackCertChain
  · exact h.execReadbackAttestation
  · exact h.rbRuns.ite h

protected theorem Kept.stateOr {r} (h : Kept a s) (hr : NextKept a r) : Kept a (stateOr s r) := by
  cases r with
  | next t => exact hr
  | fault => exact h
  | refused => exact h

protected theorem Kept.writeDbgctl {ctx v} (h : Kept a s) : NextKept a (writeDbgctl ctx v s) := by
  unfold writeDbgctl
  extract_lets q u
  have hq : Kept a q.1 := h.writeMode
  have hu : Kept a u := (hq.stateOr hq.execDebugHalt).ite hq
  split
  · exact hq
  split
  · exact hu.execDebugResume
  · exact hu

protected theorem Kept.writeCtxReg {ctx r v} (h : Kept a s) : NextKept a (writeCtxReg ctx r v s) := by
  unfold writeCtxReg
  split
  · split
    · exact h.execContextCreate
    · exact h.execContextDestroy
    · exact h.execContextUpdate
    · exact h
  · exact h.execCxsaveWrite
  · exact h.preemptWrite
  · exact h.writeCtxPlain

protected theorem Kept.writeBell {ctx qp r v} (h : Kept a s) : NextKept a (writeBell ctx qp r v s) := by
  unfold writeBell
  split
  · exact h.execSqtailWrite
  · exact h.execCqheadWrite
  · exact h.execOvrClear
  · exact h

protected theorem Kept.writeDbgReg {ctx r v} (h : Kept a s) : NextKept a (writeDbgReg ctx r v s) := by
  unfold writeDbgReg
  split
  · exact h.writeDbgctl
  split
  · exact h.execOwndigWrite
  · exact h.writeDbgPlain

protected theorem Kept.writeMgmt {off v} (h : Kept a s) : NextKept a (writeMgmt off v s) := by
  unfold writeMgmt
  split
  · exact h.writeRbdst
  split
  · exact h.execMgmtRegisterWrite
  split
  · exact h
  split
  · exact h.writeCtxReg
  split
  · exact h.writeBell
  split
  · exact h.execPartitionWrite
  split
  · exact h.execXinvWrite
  split
  · exact h.writeDbgReg
  · exact h.execMgmtRegisterWrite

protected theorem Kept.hostStore {pa bs} (h : Kept a s) : Kept a (hostStore s pa bs) := by
  unfold hostStore; exact h.raceHost.softBytes.storeBytes

protected theorem Kept.execHostApply {k} (h : Kept a s) : NextKept a (execHostApply k s) := by
  unfold execHostApply
  split
  · exact h
  split
  · split
    · exact h.upd.hostStore
    · trivial
  · exact h.upd.writeMgmt
  · exact h

protected theorem Kept.execHostRead {pa n} (h : Kept a s) : NextKept a (execHostRead pa n s) := by
  unfold execHostRead
  split
  · extract_lets
    split
    · exact h.upd
    · exact h
  split
  · split
    · exact h.upd
    · exact h
  · trivial

/-! ## The module -/

protected theorem Kept.setClock {reduced} (h : Kept a s) : Kept a (setClock s reduced) := by
  unfold setClock; exact h.upd

protected theorem Kept.askClock {reduced} (h : Kept a s) : Kept a (askClock s reduced) := by
  unfold askClock; exact h.upd.ite h.setClock

protected theorem Kept.execPowerLimitExceeded (h : Kept a s) : NextKept a (execPowerLimitExceeded s) := by
  unfold execPowerLimitExceeded; exact h.ite h.askClock

protected theorem Kept.execPowerLimitRecovered (h : Kept a s) : NextKept a (execPowerLimitRecovered s) := by
  unfold execPowerLimitRecovered; exact h.ite (h.upd.ite h.askClock)

protected theorem Kept.execDetClockChangeBoundary (h : Kept a s) : NextKept a (execDetClockChangeBoundary s) := by
  show Kept a (match s.clockPending with | some b => _ | none => _)
  split
  · exact h.setClock
  · exact h.upd.setClock.ite h

protected theorem Kept.execThermalTrip {pdie} (h : Kept a s) : NextKept a (execThermalTrip pdie s) := by
  unfold execThermalTrip
  split
  · exact h.upd.upd.ite h.upd.askClock
  · exact h

protected theorem Kept.execSetPowerLimit {watts} (h : Kept a s) : NextKept a (execSetPowerLimit watts s) := by
  unfold execSetPowerLimit; exact h.upd

protected theorem Kept.execDieIdleEntry {pdie} (h : Kept a s) : NextKept a (execDieIdleEntry pdie s) := by
  unfold execDieIdleEntry
  split
  · exact h.upd.ite h
  · exact h

protected theorem Kept.abortFrozen {z pa} (h : Kept a s) : Kept a (abortFrozen s z pa) := by
  unfold abortFrozen; exact (h.sendFault.upd.foldl fun _ _ ht => ht.dropTask).dropFrozen.upd

protected theorem Kept.abortOp {o pa} (h : Kept a s) : Kept a (abortOp s o pa) := by
  unfold abortOp
  split
  · exact h
  split
  · exact h.abortFrozen
  · exact h.abortTask

protected theorem Kept.stopOp {k op pa} (h : Kept a s) : Kept a (stopOp s k op pa) := by
  unfold stopOp
  split
  · exact (h.modCluster.spPut.ite h.modCluster).abortOp
  · exact h

protected theorem Kept.execDataError {at_ pa} (h : Kept a s) : NextKept a (execDataError at_ pa s) := by
  unfold execDataError
  split
  · exact h.abortTask
  · exact h.stopOp
  · split
    · exact h
    · exact h.modCore.ite h.modCore.abortTask
  split
  · exact h.abortTask
  split
  · exact h.abortFrozen
  · exact h

protected theorem Kept.choose (h : Kept a s) : Kept a (choose s).2 := by
  unfold choose; exact h.upd

protected theorem Kept.resolveSq {c l dead} (h : Kept a s) : Kept a (resolveSq s c l dead) := by
  induction l generalizing s dead with
  | nil => exact h
  | cons e r ih =>
    unfold resolveSq
    exact (ih h.choose.applyEntry).ite (ih h.choose)

protected theorem Kept.resolveLines {k op l} (h : Kept a s) : Kept a (resolveLines s k op l) := by
  induction l generalizing s with
  | nil => exact h
  | cons n r ih =>
    unfold resolveLines
    exact ih ((h.choose.stateOr h.choose.execThreadLineAccess).ite h.choose)

protected theorem Kept.resolveOp {k o} (h : Kept a s) : Kept a (resolveOp s k o) := by
  have hc : Kept a (choose (resolveLines s k o.id (List.range (o.src.length + o.dst.length)))).2 := h.resolveLines.choose
  exact (hc.stateOr hc.execEngineOpComplete).ite hc

protected theorem Kept.resolveAsync {mine l} (h : Kept a s) : Kept a (resolveAsync s mine l) := by
  induction l generalizing s with
  | nil => exact h
  | cons e r ih =>
    unfold resolveAsync
    exact (ih ((h.choose.stateOr h.choose.execAsyncMerge).ite h.choose.upd)).ite (ih h)

protected theorem Kept.resolveDie {l} (h : Kept a s) : Kept a (resolveDie s l) := by
  unfold resolveDie
  extract_lets s1
  have hs1 : Kept a s1 := h.foldl fun _ _ ht => ht.modCore.resolveSq
  exact hs1.resolveAsync.foldl fun _ _ ht => ht.foldl fun _ _ hu => hu.resolveOp

protected theorem Kept.dropIncs {l} (h : Kept a s) : Kept a (dropIncs s l) := by
  unfold dropIncs; exact h.upd

protected theorem Kept.clearDie {l} (h : Kept a s) : Kept a (clearDie s l) := by
  have hd : Kept a (dropFrozen ((dieCores l).foldl dropTask s) fun z => z.core / 64 = l) :=
    Kept.dropFrozen (h.foldl fun _ _ ht => ht.dropTask)
  exact (hd.setClusters fun hs q hq => hs q (List.mem_filter.mp hq).1).upd

protected theorem Kept.replayTile {l p subst i} (h : Kept a s) : Kept a (replayTile l p subst s i) := by
  unfold replayTile; exact h.ite ((h.foldl fun _ _ ht => ht.rerunPiece).putTile.ite h.upd.failTile)

protected theorem Kept.replayAll {l p subst} (h : Kept a s) : Kept a (replayAll s l p subst) := by
  unfold replayAll
  refine h.foldl fun _ _ ht => ?_
  split
  · exact ht.replayTile
  · exact ht

protected theorem Kept.failDie {p} (h : Kept a s) : Kept a (failDie s p) := by
  unfold failDie
  split
  · exact h
  split
  · exact h.upd
  split
  · exact h
  extract_lets
  split
  · exact h.resolveDie.dropIncs.clearDie.upd.upd.replayAll
  · exact h.resolveDie.dropIncs.clearDie.upd.replayAll

protected theorem Kept.failDies {pdies} (h : Kept a s) : Kept a (failDies s pdies) := by
  unfold failDies; exact h.foldl fun _ _ ht => ht.failDie

protected theorem Kept.execDieFatalFault {pdies} (h : Kept a s) : NextKept a (execDieFatalFault pdies s) := by
  unfold execDieFatalFault; exact h.failDies

protected theorem Kept.execThermalDieFatal {pdie} (h : Kept a s) : NextKept a (execThermalDieFatal pdie s) := by
  unfold execThermalDieFatal; exact h.failDies

protected theorem Kept.execDieSwitchInComplete {pdie} (h : Kept a s) : NextKept a (execDieSwitchInComplete pdie s) := by
  unfold execDieSwitchInComplete
  split
  · exact h.upd.ite h
  · exact h

/-! ## The network -/

protected theorem Kept.execNoProgressTimeout {router vc} (h : Kept a s) : NextKept a (execNoProgressTimeout router vc s) := by
  unfold execNoProgressTimeout
  split
  · exact h
  · exact h.upd

protected theorem Kept.execRecoveryWindowEnd {router} (h : Kept a s) : NextKept a (execRecoveryWindowEnd router s) := by
  unfold execRecoveryWindowEnd; exact h.upd

protected theorem Kept.setPort {n p} (h : Kept a s) : Kept a (setPort s n p) := by
  unfold setPort; exact h.upd

protected theorem Kept.badFlit {n f} (h : Kept a s) : Kept a (badFlit s n f) := by
  unfold badFlit
  split
  · exact h
  · exact h.setPort.upd

protected theorem Kept.packetFlit {n q f take} (h : Kept a s) (ht : ∀ {s q}, Kept a s → Kept a (take s q)) :
    Kept a (packetFlit s n q f take) := by
  unfold packetFlit; exact h.ite (h.badFlit.ite (ht h.setPort))

protected theorem Kept.deliverWaiting {n} (h : Kept a s) : Kept a (deliverWaiting n s) := by
  induction n generalizing s with
  | zero => exact h
  | succ n ih =>
    unfold deliverWaiting
    split
    · exact h
    · exact ih h.upd

protected theorem Kept.packetDone {p} (h : Kept a s) : Kept a (packetDone s p) := by
  unfold packetDone; exact h.ite h.upd.deliverWaiting

protected theorem Kept.queuePacket {router p} (h : Kept a s) : Kept a (queuePacket s router p) := by
  unfold queuePacket; exact h.upd

protected theorem Kept.enterVc {n p} (h : Kept a s) : Kept a (enterVc s n p) := by
  unfold enterVc
  extract_lets s1
  have hs1 : Kept a s1 := by
    unfold s1
    split
    · exact h.setPort
    · exact h
  exact hs1.ite hs1.queuePacket

protected theorem Kept.routePacket {p} (h : Kept a s) : Kept a (routePacket s p) := by
  unfold routePacket
  split
  · exact h.ite h.packetDone
  split
  · exact h.queuePacket
  · exact h

protected theorem Kept.sendFlit {m f} (h : Kept a s) : Kept a (sendFlit s m f) := by
  unfold sendFlit
  split
  · exact h.setPort
  · exact h

protected theorem Kept.flitOut {router f} (h : Kept a s) : Kept a (flitOut s router f) := by
  unfold flitOut; exact h.sendFlit.ite (h.upd.routePacket.ite h.upd)

protected theorem Kept.nextSlot {router} (h : Kept a s) : Kept a (nextSlot s router) := by
  unfold nextSlot; exact h.upd

protected theorem Kept.netGo {k} (h : Kept a s) : Kept a (netGo s k) := by
  unfold netGo
  split
  · split
    · exact h
    split
    · exact h.upd
    · exact h.nextSlot.upd.flitOut
  extract_lets
  split
  · exact h.ite h.upd.flitOut
  · exact h

protected theorem Kept.sendPacket {k} (h : Kept a s) : Kept a (sendPacket s k) := by
  unfold sendPacket
  split
  · exact h
  · exact h.upd.queuePacket

protected theorem Kept.openPacket {n q f} (h : Kept a s) : Kept a (openPacket s n q f) := by
  unfold openPacket; exact h.enterVc.ite h.setPort

protected theorem Kept.execHeaderFlit {port f} (h : Kept a s) : NextKept a (execHeaderFlit port f s) := by
  unfold execHeaderFlit
  split
  · exact h.ite (h.packetFlit Kept.openPacket)
  · exact h

protected theorem Kept.addPayload {n q f} (h : Kept a s) : Kept a (addPayload s n q f) := by
  unfold addPayload
  split
  · exact h
  · exact h.setPort.enterVc.ite h.setPort

protected theorem Kept.execPayloadFlit {port f} (h : Kept a s) : NextKept a (execPayloadFlit port f s) := by
  unfold execPayloadFlit
  split
  · exact h.ite (h.packetFlit Kept.addPayload)
  · exact h

protected theorem Kept.execAcknowledge {port f} (h : Kept a s) : NextKept a (execAcknowledge port f s) := by
  unfold execAcknowledge
  split
  · exact h.ite (h.badFlit.ite h.setPort)
  · exact h

protected theorem Kept.execRetryRequest {port f} (h : Kept a s) : NextKept a (execRetryRequest port f s) := by
  unfold execRetryRequest
  split
  · exact h.ite (h.badFlit.ite h.setPort)
  · exact h

protected theorem Kept.execIdle {port f} (h : Kept a s) : NextKept a (execIdle port f s) := by
  unfold execIdle
  split
  · exact h.badFlit.ite h
  · exact h

protected theorem Kept.execFlitCrcFail {port f} (h : Kept a s) : NextKept a (execFlitCrcFail port f s) := by
  unfold execFlitCrcFail
  split
  · exact h.ite h.badFlit
  · exact h

protected theorem Kept.withdrawPort {n} (h : Kept a s) : Kept a (withdrawPort s n) := by
  unfold withdrawPort; exact h.upd

protected theorem Kept.moveFlows {n q} (h : Kept a s) : Kept a (moveFlows s n q) := by
  unfold moveFlows
  extract_lets _ _ s1
  have hs1 : Kept a s1 := by
    unfold s1
    refine h.upd.foldl fun _ _ ht => ?_
    split
    · split
      · exact ht.setPort
      · exact ht
    · exact ht
  refine hs1.foldl fun _ _ ht => ?_
  split
  · split
    · exact ht.setPort
    · exact ht
  · exact ht

protected theorem Kept.failEngines (h : Kept a s) : Kept a (failEngines s) := by
  unfold failEngines; exact h.mapClusters

protected theorem Kept.execPortFailure {port} (h : Kept a s) : NextKept a (execPortFailure port s) := by
  unfold execPortFailure
  split
  · exact h
  · exact h.setPort.withdrawPort.moveFlows.failEngines.failAccesses

protected theorem Kept.execFabricGroupConfigure {pkg routes count} (h : Kept a s) :
    NextKept a (execFabricGroupConfigure pkg routes count s) :=
  Kept.upd (h.setMem fun ha => renumber_wf _ _ _ (h.mem_wf ha))

protected theorem Kept.execFixedLatencyPacketRelease {k} (h : Kept a s) : NextKept a (execFixedLatencyPacketRelease k s) := by
  unfold execFixedLatencyPacketRelease
  split
  · exact h.upd.deliverWaiting
  · exact h

/-! ## Every instruction -/

/-- Every instruction but a reset of the module keeps it: an operation in its slot by what the slots share, an instruction of the
tile queue or an event by its own lemma. -/
protected theorem Kept.exec {i} (h : Kept a s) (hi : i ≠ .moduleResetBoot) : NextKept a (exec i s) := by
  cases hk : slotOf i with
  | some k => rw [exec_slot i k s hk]; exact h.issueSolo (actKept_actOf i)
  | none =>
    cases i with
    | tmm _ | tmmg _ | tconv _ | tred _ | tscan _ | tcopy _ | tprj _ | tprja _ | tfill _ | tchk _ => exact h.leafStep
    | tnop _ => exact h.execTnop
    | tmap _ => exact h.execTmap
    | tcast _ => exact h.execTcast
    | tcol _ => exact h.execTcol
    | tevt _ => exact h.execTevt
    | twait _ => exact h.execTwait
    | tstep _ => exact h.execTstep
    | issueBundle _ => exact h.execIssueBundle
    | moduleResetBoot => exact absurd rfl hi
    | dieFatalFault _ => exact h.execDieFatalFault
    | dieSwitchInComplete _ => exact h.execDieSwitchInComplete
    | powerLimitExceeded => exact h.execPowerLimitExceeded
    | powerLimitRecovered => exact h.execPowerLimitRecovered
    | detClockChangeBoundary => exact h.execDetClockChangeBoundary
    | thermalTrip _ => exact h.execThermalTrip
    | thermalDieFatal _ => exact h.execThermalDieFatal
    | setPowerLimit _ => exact h.execSetPowerLimit
    | dieIdleEntry _ => exact h.execDieIdleEntry
    | dataError _ _ => exact h.execDataError
    | sqtailWrite _ _ _ => exact h.execSqtailWrite
    | cqheadWrite _ _ _ => exact h.execCqheadWrite
    | ovrClear _ _ _ => exact h.execOvrClear
    | contextCreate _ => exact h.execContextCreate
    | contextUpdate _ => exact h.execContextUpdate
    | contextDestroy _ => exact h.execContextDestroy
    | partitionWrite _ _ => exact h.execPartitionWrite
    | xinvWrite _ => exact h.execXinvWrite
    | xinvDone => exact h.execXinvDone
    | preemptSoftRequest _ _ => exact h.execPreemptSoftRequest
    | preemptHardRequest _ _ => exact h.execPreemptHardRequest
    | cxsaveWrite _ _ => exact h.execCxsaveWrite
    | readbackCore _ => exact h.execReadbackCore
    | readbackCluster _ => exact h.execReadbackCluster
    | readbackScheduler _ => exact h.execReadbackScheduler
    | readbackEvent _ => exact h.execReadbackEvent
    | readbackCertChain _ => exact h.execReadbackCertChain
    | readbackAttestation _ => exact h.execReadbackAttestation
    | readbackDone => exact h.execReadbackDone
    | debugModeWrite _ _ => exact h.execDebugModeWrite
    | debugHalt _ => exact h.execDebugHalt
    | debugResume _ => exact h.execDebugResume
    | owndigWrite _ _ _ => exact h.execOwndigWrite
    | mgmtRegisterWrite _ _ => exact h.execMgmtRegisterWrite
    | hostApply _ => exact h.execHostApply
    | hostRead _ _ => exact h.execHostRead
    | fetchEntry => exact h.execFetchEntry
    | handOutPiece _ _ _ => exact h.execHandOutPiece
    | agingTick _ _ _ => exact h.execAgingTick
    | steal _ => exact h.execSteal
    | gangAdmit _ => exact h.execGangAdmit
    | taskStart _ => exact h.execTaskStart
    | bankSpill _ _ => exact h.execBankSpill
    | taskRetire _ => exact h.execTaskRetire
    | pieceRetireMerge _ => exact h.execPieceRetireMerge
    | tileRetire _ => exact h.execTileRetire
    | completionRecordWrite _ _ => exact h.execCompletionRecordWrite
    | faultRecordReceive _ => exact h.execFaultRecordReceive
    | stallRelease _ => exact h.execStallRelease
    | watchdogExpiry _ => exact h.execWatchdogExpiry
    | preemptDeadlineExpiry _ => exact h.execPreemptDeadlineExpiry
    | hardPreemptFreeze _ => exact h.execHardPreemptFreeze
    | freezeRecordSave _ => exact h.execFreezeRecordSave
    | frozenTaskResume _ => exact h.execFrozenTaskResume
    | arrayOpStart _ => exact h.execArrayOpStart
    | arrayOpComplete _ => exact h.execArrayOpComplete
    | mwinModeTakeEffect _ => exact h.execMwinModeTakeEffect
    | l0TileStart _ => exact h.execL0TileStart
    | l0TileRetire _ => exact h.execL0TileRetire
    | storeApply _ _ => exact h.execStoreApply
    | loadPerform _ _ => exact h.execLoadPerform
    | accCombine _ => exact h.execAccCombine
    | pipeDeliver _ _ => exact h.execPipeDeliver
    | threadLineAccess _ _ _ => exact h.execThreadLineAccess
    | asyncMerge _ => exact h.execAsyncMerge
    | engineOpComplete _ _ => exact h.execEngineOpComplete
    | pageWalkComplete _ _ _ => exact h.execPageWalkComplete
    | faultServiceResolve _ => exact h.execFaultServiceResolve
    | faultResolvedRetry _ => exact h.execFaultResolvedRetry
    | recastArrival _ => exact h.execRecastArrival
    | recastComplete _ => exact h.execRecastComplete
    | eventIncrement _ => exact h.execEventIncrement
    | eventChainApply => exact h.execEventChainApply
    | syncRelease _ _ _ => exact h.execSyncRelease
    | rejoinRelease _ => exact h.execRejoinRelease
    | geyserTick => exact h.execGeyserTick
    | geyserAlignMessage _ => exact h.execGeyserAlignMessage
    | noProgressTimeout _ _ => exact h.execNoProgressTimeout
    | recoveryWindowEnd _ => exact h.execRecoveryWindowEnd
    | headerFlit _ _ => exact h.execHeaderFlit
    | payloadFlit _ _ => exact h.execPayloadFlit
    | acknowledge _ _ => exact h.execAcknowledge
    | retryRequest _ _ => exact h.execRetryRequest
    | idle _ _ => exact h.execIdle
    | flitCrcFail _ _ => exact h.execFlitCrcFail
    | portFailure _ => exact h.execPortFailure
    | channelTileArrive _ => exact h.execChannelTileArrive
    | channelTileDeliver _ => exact h.execChannelTileDeliver
    | scratchpadTileReady _ => exact h.execScratchpadTileReady
    | fabricGroupConfigure _ _ _ => exact h.execFabricGroupConfigure
    | fixedLatencyPacketRelease _ => exact h.execFixedLatencyPacketRelease
    | _ => cases hk

/-! ## A move -/

/-- Every move keeps it; a leaf of the tile queue is no reset of the module. -/
protected theorem Kept.runMove {m} (h : Kept a s) (hm : ∀ c i, m = .leaf c i → i ≠ .moduleResetBoot) :
    NextKept a (runMove m s) := by
  cases m with
  | issue _ => exact h.execIssueBundle
  | release _ => exact h.execStallRelease
  | freeze _ => exact h.execHardPreemptFreeze
  | saveRecord _ => exact h.execFreezeRecordSave
  | resume _ => exact h.execFrozenTaskResume
  | start _ => exact h.execTaskStart
  | spill _ _ => exact h.execBankSpill
  | retire _ => exact h.execTaskRetire
  | steal _ => exact h.execSteal
  | arrayStart _ => exact h.execArrayOpStart
  | arrayComplete _ => exact h.execArrayOpComplete
  | localStart _ => exact h.execL0TileStart
  | localRetire _ => exact h.execL0TileRetire
  | serve _ => exact h.execFaultServiceResolve
  | page _ => exact h.execFaultServiceResolve
  | collapse => exact h.execFaultServiceResolve
  | retry _ => exact h.execFaultResolvedRetry
  | store _ _ => exact h.execStoreApply
  | load _ _ => exact h.execLoadPerform
  | pipe _ _ => exact h.execPipeDeliver
  | leaf c i => exact h.exec (hm c i rfl)
  | windows _ => exact h.execMwinModeTakeEffect
  | walk _ _ _ => exact h.execPageWalkComplete
  | line _ _ _ => exact h.execThreadLineAccess
  | engineDone _ _ => exact h.execEngineOpComplete
  | fetch => exact h.execFetchEntry
  | handOut _ _ _ => exact h.execHandOutPiece
  | merge _ => exact h.execPieceRetireMerge
  | gang _ => exact h.execGangAdmit
  | tileDone _ => exact h.execTileRetire
  | record _ _ => exact h.execCompletionRecordWrite
  | fault _ => exact h.execFaultRecordReceive
  | recastIn _ => exact h.execRecastArrival
  | recastDone _ => exact h.execRecastComplete
  | increment _ => exact h.execEventIncrement
  | combine _ => exact h.execAccCombine
  | async _ => exact h.execAsyncMerge
  | tileIn _ => exact h.execChannelTileArrive
  | tileOut _ => exact h.execChannelTileDeliver
  | tileReady _ => exact h.execScratchpadTileReady
  | host _ => exact h.execHostApply
  | chain => exact h.execEventChainApply
  | xinv => exact h.execXinvDone
  | readback => exact h.execReadbackDone
  | round _ _ _ => exact h.execSyncRelease
  | rejoin _ => exact h.execRejoinRelease
  | network _ => exact h.netGo
  | traffic _ => exact h.sendPacket

/-! ## A step -/

theorem leaf_notMem_coreMoves (s : State) (d c : Nat) (i : Instr) : Move.leaf c i ∉ coreMoves s d := by
  simp [coreMoves]

theorem leaf_notMem_clusterMoves (s : State) (k c : Nat) (i : Instr) : Move.leaf c i ∉ clusterMoves s k := by
  simp [clusterMoves]

theorem leaf_notMem_agentMoves (s : State) (c : Nat) (i : Instr) : Move.leaf c i ∉ agentMoves s := by
  simp [agentMoves]

theorem decodeTile_of_mem_leafMoves {d c : Nat} {i : Instr} (h : Move.leaf c i ∈ leafMoves s d) :
    ∃ x, decodeTile x = some i := by
  unfold leafMoves at h
  split at h
  · split at h
    next u _ =>
      obtain ⟨j, hj, e⟩ := List.mem_map.mp (by simpa using h : Move.leaf c i ∈ (decodeTile u.tile).toList.map (Move.leaf d))
      obtain ⟨-, rfl⟩ := Move.leaf.inj e
      exact ⟨u.tile, Option.mem_toList.mp hj⟩
    · cases h
  · cases h

theorem decodeTile_of_mem_schedMoves {c : Nat} {i : Instr} (h : Move.leaf c i ∈ schedMoves s) :
    ∃ x, decodeTile x = some i := by
  simp only [schedMoves, List.mem_cons, List.mem_append, List.mem_flatMap, List.mem_map, Option.mem_toList,
    Option.map_eq_some_iff, Move.leaf.injEq, reduceCtorEq, false_or, or_false, and_false, exists_false, List.not_mem_nil] at h
  obtain ⟨u, -, j, hj, -, rfl⟩ := h
  exact ⟨u.tile, hj⟩

/-- The machine runs only what it decodes from the tile queue as a leaf of its own choice. -/
theorem decodeTile_of_mem_moves {c : Nat} {i : Instr} (h : Move.leaf c i ∈ moves s) : ∃ x, decodeTile x = some i := by
  simp only [moves, List.mem_append, List.mem_flatMap] at h
  rcases h with ((⟨q, -, h | h⟩ | ⟨q, -, h⟩) | h) | h
  · exact absurd h (leaf_notMem_coreMoves s q.1 c i)
  · exact decodeTile_of_mem_leafMoves h
  · exact absurd h (leaf_notMem_clusterMoves s q.1 c i)
  · exact decodeTile_of_mem_schedMoves h
  · exact absurd h (leaf_notMem_agentMoves s c i)

theorem decodeTile_ne_reset {x : Tile} {i : Instr} (e : decodeTile x = some i) : i ≠ .moduleResetBoot := by
  rintro rfl
  unfold decodeTile at e
  split at e <;> cases e

protected theorem Kept.nextMove {m} (h : Kept a s) (e : nextMove s = some (m, t)) : Kept a t ∧ m ∈ moves s := by
  obtain ⟨n, hn, he⟩ := Option.map_eq_some_iff.mp e
  obtain ⟨rfl, rfl⟩ := Prod.mk.inj he
  exact ⟨h.upd, List.mem_of_getElem? hn⟩

/-- A step keeps it unless a reset of the module stands first in the agenda. -/
theorem nextKept_step (hb : s.agenda.head? ≠ some .moduleResetBoot) : NextKept s (step s) := by
  unfold step
  split
  next i r e => exact (Kept.refl s).upd.exec fun hi => hb (by rw [e, hi]; rfl)
  split
  next q e =>
    obtain ⟨hq, hm⟩ := (Kept.refl s).nextMove e
    refine hq.runMove fun c i hi => ?_
    obtain ⟨x, hx⟩ := decodeTile_of_mem_moves (hi ▸ hm)
    exact decodeTile_ne_reset hx
  · exact Kept.refl s

/-! ## A boot (R17, R434) -/

/-- What images a boot loads, and where it stops, leave the fuses and memory as they stand. -/
theorem loadImages_keeps (s : State) (l : List Nat) :
    (loadImages s l).fuses = s.fuses ∧ memOk (loadImages s l) = memOk s := by
  induction l generalizing s with
  | nil => exact ⟨rfl, rfl⟩
  | cons n r ih =>
    unfold loadImages
    extract_lets e
    split
    · exact ⟨rfl, rfl⟩
    · exact ih { s with meas := s.meas.setIfInBounds n (extend (s.meas[n]?.getD 0) (Config.firmwareDigest n)) }

/-- Memory stands through a reset under package number 0; the clusters are as at reset. -/
theorem memOk_afterReset (h : memOk s = true) : memOk (afterReset s) = true := by
  obtain ⟨hm, -⟩ := (memOk_iff s).mp h
  exact (memOk_iff _).mpr ⟨renumber_wf _ _ _ hm, fun q hq => nomatch hq⟩

/-- The state in which a step runs what stands first in the agenda. -/
theorem step_of_head {i : Instr} (h : s.agenda.head? = some i) : step s = exec i { s with agenda := s.agenda.tail } := by
  cases e : s.agenda with
  | nil => rw [e] at h; cases h
  | cons j r =>
    rw [e] at h
    cases h
    unfold step
    rw [e]
    rfl

/-- A boot keeps the fuses and canonical memory. -/
theorem boot_keeps (hb : s.agenda.head? = some .moduleResetBoot) (e : step s = .next t) :
    t.fuses = s.fuses ∧ (memOk s = true → memOk t = true) := by
  rw [step_of_head hb] at e
  obtain rfl := Host.Outcome.next.inj e
  obtain ⟨hf, hm⟩ := loadImages_keeps (afterReset { s with agenda := s.agenda.tail }) [0, 1, 2, 3, 4]
  exact ⟨hf, fun h => hm.trans (memOk_afterReset (s := { s with agenda := s.agenda.tail }) h)⟩

theorem kept_of_step (hb : s.agenda.head? ≠ some .moduleResetBoot) (e : step s = .next t) : Kept s t := by
  have h := nextKept_step hb
  rwa [e] at h

/-- Settles O49: a boot carries memory over and clears the clusters; every other step keeps both canonical. -/
theorem memoryStaysCanonical : Obligations.MemoryStaysCanonical := by
  intro s t h e
  by_cases hb : s.agenda.head? = some .moduleResetBoot
  · exact (boot_keeps hb e).2 h
  · exact (kept_of_step hb e).mem h

/-- Settles O50: a boot keeps the fuses, and every other step keeps all that a boot leaves. -/
theorem onlyABootChangesItsResult : Obligations.OnlyABootChangesItsResult := by
  intro s t e
  by_cases hb : s.agenda.head? = some .moduleResetBoot
  · exact ⟨(boot_keeps hb e).1, fun hn => absurd hb hn⟩
  · exact ⟨(kept_of_step hb e).boot.1, fun _ => (kept_of_step hb e).boot⟩

end Sys2Proof.Proofs
end

section
/-!
PROOFS. The identities of the reductions: O55.
-/
namespace Sys2Proof.Proofs
open Machine

variable {f : Fmt}

/-! ## Bounds of the integer formats, as bits (R29) -/

theorem wrapTo_natCast {w n : Nat} (h : n < 2 ^ w) : wrapTo w (n : Int) = n := by
  rw [wrapTo, ← Int.natCast_emod, Int.toNat_natCast, Nat.mod_eq_of_lt h]

theorem fmtBits_pos (f : Fmt) : 0 < fmtBits f := by
  cases f <;> decide

theorem two_pow_pred_add_self {w : Nat} (hw : 0 < w) : 2 ^ (w - 1) + 2 ^ (w - 1) = 2 ^ w := by
  rw [← Nat.mul_two, Nat.two_pow_pred_mul_two hw]

/-- The upper half of a word of w bits: −2^(w−1) wraps to it. -/
theorem wrapTo_neg_half {w : Nat} (hw : 0 < w) : wrapTo w (-((2 ^ (w - 1) : Nat) : Int)) = 2 ^ (w - 1) := by
  have hsum := two_pow_pred_add_self hw
  have hpos := Nat.two_pow_pos (w - 1)
  have hadd : -((2 ^ (w - 1) : Nat) : Int) + (2 ^ w : Nat) = (2 ^ (w - 1) : Nat) := by
    rw [← hsum, Int.natCast_add, Int.neg_add_cancel_left]
  calc wrapTo w (-((2 ^ (w - 1) : Nat) : Int))
      = wrapTo w ((2 ^ (w - 1) : Nat) : Int) := by rw [wrapTo, ← Int.add_emod_right, hadd, wrapTo]
    _ = 2 ^ (w - 1) := wrapTo_natCast (by omega)

/-- The greatest number of n bits wraps to itself in w bits. -/
theorem wrapTo_two_pow_sub_one {w n : Nat} (h : n ≤ w) : wrapTo w (((2 ^ n : Nat) : Int) - 1) = 2 ^ n - 1 := by
  have hpos := Nat.two_pow_pos n
  have hle : 2 ^ n ≤ 2 ^ w := Nat.pow_le_pow_right (by decide) h
  have hcast : ((2 ^ n : Nat) : Int) - 1 = ((2 ^ n - 1 : Nat) : Int) := (Int.natCast_sub hpos).symm
  rw [hcast]
  exact wrapTo_natCast (by omega)

theorem wrapTo_intMax_signed (hs : isSigned f = true) : wrapTo (fmtBits f) (intMax f) = 2 ^ (fmtBits f - 1) - 1 := by
  rw [intMax, if_pos hs]
  exact wrapTo_two_pow_sub_one (Nat.sub_le _ _)

theorem wrapTo_intMin_signed (hs : isSigned f = true) : wrapTo (fmtBits f) (intMin f) = 2 ^ (fmtBits f - 1) := by
  rw [intMin, if_pos hs]
  exact wrapTo_neg_half (fmtBits_pos f)

theorem wrapTo_intMax_unsigned (hs : isSigned f = false) : wrapTo (fmtBits f) (intMax f) = 2 ^ fmtBits f - 1 := by
  rw [intMax, if_neg (Bool.not_eq_true _ ▸ hs)]
  exact wrapTo_two_pow_sub_one (Nat.le_refl _)

theorem wrapTo_intMin_unsigned (hs : isSigned f = false) : wrapTo (fmtBits f) (intMin f) = 0 := by
  rw [intMin, if_neg (Bool.not_eq_true _ ▸ hs)]
  exact wrapTo_natCast (n := 0) (Nat.two_pow_pos _)

/-! ## The number one in a floating format -/

/-- The largest finite value of a format is at least one (R30). -/
theorem floatVal_maxBits (f : Fmt) : ∃ (m : Nat) (e : Int), floatVal f (layoutOf f).maxBits = .fin false m e ∧ 0 < m ∧ 0 ≤ e := by
  cases f <;> exact ⟨_, _, rfl, by decide, by decide⟩

/-- A magnitude of at least one does not lie below one, written as 2^n × 2^(−n). -/
theorem not_magLt_one {m : Nat} {e : Int} (n : Nat) (hm : 0 < m) (he : 0 ≤ e) : magLt m e (2 ^ n) (-(n : Int)) = false := by
  have hmin : min e (-(n : Int)) = -(n : Int) := by omega
  have hexp : n ≤ (e - -(n : Int)).toNat := by omega
  have hone : scaleTo (2 ^ n) (-(n : Int)) (-(n : Int)) = 2 ^ n := by rw [scaleTo, Int.sub_self]; rfl
  have hle : 2 ^ n ≤ scaleTo m e (-(n : Int)) := by
    rw [scaleTo, Nat.shiftLeft_eq]
    exact Nat.le_trans (Nat.pow_le_pow_right (by decide) hexp) (Nat.le_mul_of_pos_left _ hm)
  simp only [magLt, hmin, hone]
  exact decide_eq_false (Nat.not_lt.mpr hle)

theorem bias_pos (f : Fmt) : 0 < (layoutOf f).bias := by
  cases f <;> decide

theorem topExp_one : topExp 1 0 = 0 := by
  decide

/-- One has the significand 2^n on the grid of spacing 2^(−n). -/
theorem roundGrid_one (rm : RM) (rnd : Nat) (neg : Bool) (n : Nat) :
    roundGrid rm rnd neg 1 0 (-(n : Int)) = (2 ^ n, false) := by
  have hsh : (0 - -(n : Int)).toNat = n := by omega
  rw [roundGrid, if_pos (by omega), hsh, Nat.one_shiftLeft]

/-- One is packed as a normal number, whose exponent field is the bias. -/
theorem packFloat_one {l : Layout} (hb : 0 < l.bias) : packFloat l false (2 ^ l.mbits) (-(l.mbits : Int)) = l.bias * 2 ^ l.mbits := by
  have hpos := Nat.two_pow_pos l.mbits
  have hlt : 2 ^ l.mbits < 2 ^ (l.mbits + 1) := Nat.pow_lt_pow_succ (by decide)
  have hex : (-(l.mbits : Int) - l.emin).toNat + 1 = l.bias := by rw [Layout.emin]; omega
  have hplus (x : Nat) : l.signed false x = x := by rw [Layout.signed, b2n, if_neg Bool.false_ne_true, Nat.zero_mul, Nat.add_zero]
  rw [packFloat, if_neg (Nat.ne_of_gt hpos), if_neg (Nat.lt_irrefl _), if_pos hlt, hex, Nat.sub_self, Nat.add_zero, hplus]

/-- One rounds to itself in every mode. -/
theorem roundFloat_one (f : Fmt) (rm : RM) (rnd : Nat) (quant : Bool) :
    (roundFloat f rm rnd quant (.fin false 1 0)).1 = (layoutOf f).bias * 2 ^ (layoutOf f).mbits := by
  obtain ⟨m, e, hmax, hm, he⟩ := floatVal_maxBits f
  have hb := bias_pos f
  have hqu : topExp 1 0 - (layoutOf f).mbits = -((layoutOf f).mbits : Int) := by
    rw [topExp_one, Int.zero_sub]
  have hq : max (-((layoutOf f).mbits : Int)) (layoutOf f).emin = -((layoutOf f).mbits : Int) := by
    rw [Layout.emin]; omega
  rw [roundFloat, if_neg Nat.one_ne_zero]
  simp only [hmax, hqu, hq, roundGrid_one, not_magLt_one _ hm he, Bool.false_eq_true, if_false]
  exact packFloat_one hb

/-! ## The table of R60 -/

theorem identityOf_signed (hi : isInt f = true) (hs : isSigned f = true) :
    identityOf f 0 = 0 ∧ identityOf f 1 = 1 ∧ identityOf f 2 = 2 ^ (fmtBits f - 1) - 1 ∧ identityOf f 3 = 2 ^ (fmtBits f - 1)
      ∧ identityOf f 4 = 2 ^ fmtBits f - 1 ∧ identityOf f 5 = 0 ∧ identityOf f 6 = 0 := by
  exact ⟨if_pos hi, if_pos hi, (if_pos hi).trans (wrapTo_intMax_signed hs), (if_pos hi).trans (wrapTo_intMin_signed hs),
    if_pos hi, if_pos hi, if_pos hi⟩

theorem identityOf_unsigned (hi : isInt f = true) (hs : isSigned f = false) :
    identityOf f 0 = 0 ∧ identityOf f 1 = 1 ∧ identityOf f 2 = 2 ^ fmtBits f - 1 ∧ identityOf f 3 = 0
      ∧ identityOf f 4 = 2 ^ fmtBits f - 1 ∧ identityOf f 5 = 0 ∧ identityOf f 6 = 0 := by
  exact ⟨if_pos hi, if_pos hi, (if_pos hi).trans (wrapTo_intMax_unsigned hs), (if_pos hi).trans (wrapTo_intMin_unsigned hs),
    if_pos hi, if_pos hi, if_pos hi⟩

/-- The floating identities: −0, the bits of one, the greatest value and its negative. -/
theorem identityOf_float (hi : isInt f = false) :
    let l := layoutOf f
    let top := if l.hasInf then l.infBits else l.maxBits
    identityOf f 0 = l.signed true 0 ∧ identityOf f 1 = l.bias * 2 ^ l.mbits ∧ identityOf f 2 = top
      ∧ identityOf f 3 = l.signed true top := by
  have hn : ¬ isInt f = true := Bool.not_eq_true _ ▸ hi
  exact ⟨if_neg hn, (if_neg hn).trans (roundFloat_one f .rne 0 false), if_neg hn, if_neg hn⟩

/-- Settles O55: the table holds of every signed, unsigned and floating format, and each row of the statement is one format's. -/
theorem reductionIdentities : Obligations.ReductionIdentities := by
  unfold Obligations.ReductionIdentities
  simp only [List.forall_mem_cons]
  exact ⟨⟨identityOf_float rfl, identityOf_float rfl, identityOf_float rfl, identityOf_float rfl, identityOf_float rfl,
      identityOf_float rfl, List.forall_mem_nil _⟩,
    identityOf_signed rfl rfl, identityOf_unsigned rfl rfl, identityOf_signed rfl rfl, identityOf_signed rfl rfl,
    identityOf_unsigned rfl rfl, identityOf_signed rfl rfl, List.forall_mem_nil _⟩

end Sys2Proof.Proofs
end

section
/-!
PROOFS. The events of contexts and the management registers (O40), and of the services and groups (O46).
-/
namespace Sys2Proof.Proofs
open Machine

variable {s : State}

/-! ## Updates that agree on what they update -/

theorem modCtx_congr {c : Nat} {f g : Ctx → Ctx} (h : f (ctxOf s c) = g (ctxOf s c)) : modCtx s c f = modCtx s c g := by
  rw [modCtx, h, modCtx]

theorem modQp_congr {c q : Nat} {f g : Qp → Qp} (h : f (qpOf s c q) = g (qpOf s c q)) : modQp s c q f = modQp s c q g := by
  rw [modQp, h, modQp]

/-! ## Doorbells (R143, R145, R146) -/

section Bell
variable {ctx qp : Nat} (hb : hasBell s ctx qp = true)
include hb

/-- A tail in range is taken: no more entries than the queue holds, and none that were handed over taken back (R145). -/
theorem sqtailWrite_inRange {v : BitVec 32} (hroom : (v - (qpOf s ctx qp).sqhead).toNat ≤ 2 ^ (qpOf s ctx qp).sqlog)
    (hback : ((qpOf s ctx qp).sqtail - (qpOf s ctx qp).sqhead).toNat ≤ (v - (qpOf s ctx qp).sqhead).toNat) :
    exec (.sqtailWrite ctx qp v) s = .next (modQp s ctx qp fun q => { q with sqtail := v }) := by
  show execSqtailWrite ctx qp v s = _
  rw [execSqtailWrite, hb]
  refine congrArg Host.Outcome.next (modQp_congr (if_neg ?_))
  simp only [Bool.or_eq_true, decide_eq_true_eq, not_or, Nat.not_lt]
  exact ⟨hroom, hback⟩

theorem cqheadWrite_of_hasBell (v : BitVec 32) : exec (.cqheadWrite ctx qp v) s
    = .next (refreshFull (modQp s ctx qp fun q => { q with cqhead := v }) ctx qp) := by
  show execCqheadWrite ctx qp v s = _
  rw [execCqheadWrite, hb]
  rfl

theorem ovrClear_one_of_hasBell : exec (.ovrClear ctx qp 1) s = .next (modQp s ctx qp fun q => { q with ovr := false }) := by
  show execOvrClear ctx qp 1 s = _
  rw [execOvrClear, hb]
  rfl

end Bell

/-! ## Commands and registers of a context (R139, R141, R410, R430) -/

/-- A free context takes a record that no check refuses. -/
theorem contextCreate_accepted {ctx : Nat} (hb : s.bootok = true) (hf : (ctxOf s ctx).state = 0) :
    let r := paNum s (ctxOf s ctx).cxrec.toNat 128
    let ds := qpDescs s r
    createCode s r ds = 0 → exec (.contextCreate ctx) s = .next (makeLive s ctx r ds) := by
  intro r ds hc
  show execContextCreate ctx s = _
  rw [execContextCreate, hb, hf]
  exact congrArg Host.Outcome.next (if_neg (not_not_intro hc))

/-- A live context takes the fields of its new record that an update may change, and its queue pairs' enables and priorities. -/
theorem contextUpdate_of_live {ctx : Nat} (hl : (ctxOf s ctx).state = 1) :
    let r := paNum s (ctxOf s ctx).cxrec.toNat 128
    let old := (ctxOf s ctx).rec_.toNat
    let new := updateFields.foldl (fun a q => setBits a q.1 q.2 ((r >>> q.2) % 2 ^ (q.1 + 1 - q.2))) old
    let ds := qpDescs s old
    let u := ((List.range ds.length).zip ds).foldl (fun s q =>
      modQp s ctx q.1 fun p => { p with en := q.2.testBit 148, pmax := (q.2 >>> 146) % 4 }) s
    exec (.contextUpdate ctx) s = .next (modCtx u ctx fun y => { y with ecode := 0, rec_ := BitVec.ofNat 1024 new }) :=
  if_neg (not_not_intro hl)

theorem contextDestroy_of_live {ctx : Nat} (hl : (ctxOf s ctx).state = 1) :
    exec (.contextDestroy ctx) s = .next (modCtx
      (forgetContext (releaseContext (stopContext (modCtx s ctx fun y => { y with state := 2 }) ctx) ctx) ctx) ctx
      fun y => { y with state := 0, ecode := 0 }) :=
  if_neg (not_not_intro hl)

/-- A free context takes a save area within one tier. -/
theorem cxsaveWrite_of_free {ctx : Nat} {x : BitVec 64} (hf : (ctxOf s ctx).state = 0)
    (ht : inTiers (bitsOf x 51 16 * 2 ^ 16) (2128 * 2 ^ 20) = true) : exec (.cxsaveWrite ctx x) s
      = .next (modCtx s ctx fun y => { y with cxsave := BitVec.ofNat 52 (bitsOf x 51 16 * 2 ^ 16) }) := by
  refine congrArg _ (modCtx_congr ?_)
  rw [if_neg (not_not_intro hf), ht]
  rfl

theorem owndigWrite_of_free {ctx word : Nat} {x : BitVec 64} (hf : (ctxOf s ctx).state = 0) :
    exec (.owndigWrite ctx word x) s = .next (modCtx s ctx fun y => { y with owndig := y.owndig.setIfInBounds word x }) :=
  congrArg Host.Outcome.next (modCtx_congr (if_pos hf))

/-! ## Partitions and invalidation (R149, R95) -/

theorem partitionWrite_accepted {p : Nat} {x : BitVec 64} (hp : p < 16) (hr : partRefused s p (bitsOf x 31 0) = false) :
    exec (.partitionWrite p x) s = .next { s with
      parts := sput 0 s.parts p (BitVec.ofNat 32 (bitsOf x 31 0)), partBusy := s.partBusy.filter fun r => decide (r ≠ p) } := by
  show execPartitionWrite p x s = _
  rw [execPartitionWrite, if_neg (Nat.not_le.mpr hp), hr]
  rfl

theorem xinvWrite_accepted {x : BitVec 64} (hb : s.xinvBusy = false) (hc : xinvCode x = 0) :
    exec (.xinvWrite x) s = .next { s with xinvEcode := 0, xinvBusy := true, xinvScope := some x } := by
  show execXinvWrite x s = _
  rw [execXinvWrite, hb, hc]
  rfl

theorem xinvDone_of_running {x : BitVec 64} (hb : s.xinvBusy = true) (hx : s.xinvScope = some x) :
    exec .xinvDone s = .next { s with
      xinvBusy := false, xinvScope := none
      clusters := s.clusters.map fun q =>
        (q.1, { q.2 with tlb := q.2.tlb.filter fun e => !xinvCovers x e.ctx e.xlat }) } := by
  show execXinvDone s = _
  simp only [execXinvDone, hb, hx]

/-- Settles O40, one register at a time: the hypotheses select the branch in which the write is accepted. -/
theorem contextEventsComplete : Obligations.ContextEventsComplete := by
  intro ctx qp p word off v x s
  refine ⟨?_, contextCreate_accepted, ?_, partitionWrite_accepted, xinvWrite_accepted, xinvDone_of_running,
    cxsaveWrite_of_free, owndigWrite_of_free, ?_, rfl, rfl⟩
  · exact fun hb => ⟨sqtailWrite_inRange hb, cqheadWrite_of_hasBell hb v, ovrClear_one_of_hasBell hb⟩
  · exact fun hl => ⟨contextUpdate_of_live hl, contextDestroy_of_live hl⟩
  · exact fun ho => congrArg _ (if_pos ho)

/-! ## Recasts (R82, R84) -/

section Recast
variable {k : Nat} {r : RecastReq} (hr : s.recastReqs[k]? = some r)
include hr

theorem recastArrival_start {d : BitVec 512} {n : Bool} (hv : recastVerdict s r = .start)
    (hd : openHandle s r.ctx r.handle = some (d, n)) : exec (.recastArrival k) s
      = .next (startCast { s with recastReqs := s.recastReqs.eraseIdx k } r d (rolesOf s r.ctx d)) := by
  show execRecastArrival k s = _
  simp only [execRecastArrival, hr, hv, hd]

theorem recastArrival_join (hv : recastVerdict s r = .join) : exec (.recastArrival k) s
    = .next (answered { s with
        recastReqs := s.recastReqs.eraseIdx k
        recasts := s.recasts.map fun p => if p.ctx = r.ctx && p.index = hIndex r.handle && p.gen = hGen r.handle
          then noteArrival s r.by_ r.evInc p else p } r) := by
  show execRecastArrival k s = _
  simp only [execRecastArrival, hr, hv]

theorem recastArrival_wait (hv : recastVerdict s r = .wait) : exec (.recastArrival k) s = .next s := by
  show execRecastArrival k s = _
  simp only [execRecastArrival, hr, hv]

/-- Only a refusal with cause 0x05 may ask for a page to be split first (R89). -/
theorem recastArrival_refuse {cause addr : Nat} (hv : recastVerdict s r = .refuse cause addr) (hc : cause ≠ 0x05) :
    exec (.recastArrival k) s = .next (refuseCast { s with recastReqs := s.recastReqs.eraseIdx k } r cause addr) := by
  show execRecastArrival k s = _
  simp only [execRecastArrival, hr, hv]
  split
  · exact absurd rfl hc
  · exact absurd rfl hc
  · rfl

end Recast

theorem recastComplete_of_pending {k : Nat} {p : Recast} (hp : s.recasts[k]? = some p) :
    exec (.recastComplete k) s = .next (completeCast s p) := by
  show execRecastComplete k s = _
  simp only [execRecastComplete, hp]

/-! ## Walks and the fault service (R91, R98, R422) -/

/-- With no invalidation running, nothing keeps a walk's translation out of the cache (R95). -/
theorem pageWalkComplete_found {c ctx : Nat} {va : BitVec 64} {x : Xlat} (hx : pageOf s ctx va.toNat = some x)
    (hb : s.xinvBusy = false) :
    exec (.pageWalkComplete c ctx va) s = .next (modCluster s c fun y => cacheIn y ctx x) := by
  show execPageWalkComplete c ctx va s = _
  simp only [execPageWalkComplete, hx, hb, Bool.false_and]
  split <;> rfl

/-- A core that the service has frozen gets the service of its fault: of its write, or of its translation. -/
theorem faultServiceResolve_ofCore {c : Nat} {t : Trap} (hc : c < 512) (hm : (coreOf s c).mode = .service)
    (ht : (coreOf s c).svc = some t) (hr : (coreOf s c).resolved = false) :
    exec (.faultServiceResolve c) s = if t.cause = 0x06 then .next (serveWrite s c (ctxOfCore s c) t)
      else .next (serveTranslation s c (ctxOfCore s c) t) := by
  have hpaging : ¬ 1024 ≤ c := by omega
  have haway : ¬ 512 ≤ c := by omega
  show execFaultServiceResolve c s = _
  simp only [execFaultServiceResolve, if_neg hpaging, if_neg haway, hm, ht, hr, Bool.false_eq_true, if_false]

/-- The numbers from 512 to 1023 stand for another package's service (log entry 62). -/
theorem faultServiceResolve_away (c : Nat) : exec (.faultServiceResolve (c % 512 + 512)) s = .next (serveAway s) := by
  have hpaging : ¬ 1024 ≤ c % 512 + 512 := by omega
  have haway : 512 ≤ c % 512 + 512 := by omega
  show execFaultServiceResolve (c % 512 + 512) s = _
  rw [execFaultServiceResolve, if_neg hpaging, if_pos haway]

/-- The numbers from 1024 on stand for paging (log entry 62). -/
theorem faultServiceResolve_paging (c : Nat) : exec (.faultServiceResolve (c + 1024)) s = .next (serveByPaging s c) := by
  have hpaging : 1024 ≤ c + 1024 := by omega
  show execFaultServiceResolve (c + 1024) s = _
  rw [execFaultServiceResolve, if_pos hpaging, Nat.add_sub_cancel]

theorem faultResolvedRetry_resolved {c : Nat} (hm : (coreOf s c).mode = .service) (hr : (coreOf s c).resolved = true) :
    exec (.faultResolvedRetry c) s = .next (setCore s c { coreOf s c with
      mode := if (coreOf s c).shadow.isSome then .handler else .running, svc := none, resolved := false }) := by
  show execFaultResolvedRetry c s = _
  simp only [execFaultResolvedRetry, hm, hr, decide_true, Bool.and_self, if_true]

/-! ## Releases of groups and gangs (R356, R360) -/

/-- A round is released when all that it still requires have asserted. -/
theorem syncRelease_allAsserted {ctx line die : Nat} (ho : (groupOf s ctx line die).open_ = true)
    (ha : ∀ m ∈ (groupOf s ctx line die).required, m ∈ (groupOf s ctx line die).asserted) :
    exec (.syncRelease ctx line die) s = .next ((groupOf s ctx line die).asserted.foldl (endSync ctx line)
      (putGroup s (nextRound (groupOf s ctx line die)))) := by
  refine congrArg _ (if_pos ?_)
  simpa only [ho, Bool.true_and, List.all_eq_true, List.contains_iff_mem] using ha

/-- A gang is fused again when every member that has not exited runs and waits in its REJOIN. -/
theorem rejoinRelease_allAsserted {g : Nat} {y : Gang} (hy : (s.gangs.find? fun y => y.id = g) = some y)
    (hf : y.fused = false)
    (hw : ∀ m ∈ gangLeft y, (coreOf s m).rejoinWait = true ∧ (coreOf s m).mode = .running ∧ ∃ q ∈ y.rejoined, q.1 = m) :
    exec (.rejoinRelease g) s = .next ((gangLeft y).foldl
      (fun s c => modCore s c fun x => { x with rejoinWait := false, gskew := 0, follow := [] })
      { s with gangs := s.gangs.map fun z => if z.id = g then { z with fused := true, joining := true } else z }) := by
  have ready : (gangLeft y).all (fun c => (coreOf s c).rejoinWait && decide ((coreOf s c).mode = .running)
      && y.rejoined.any fun q => q.1 = c) = true := by
    refine List.all_eq_true.mpr fun m hm => ?_
    obtain ⟨hwait, hrun, hin⟩ := hw m hm
    simpa [hwait, hrun] using hin
  show execRejoinRelease g s = _
  simp only [execRejoinRelease, hy, hf, ready, Bool.not_false, Bool.not_true, Bool.true_and, Bool.false_eq_true, if_false]

/-- Settles O46, one event at a time: each is the model's function for it, in the branch that its hypotheses select. -/
theorem serviceEventsComplete : Obligations.ServiceEventsComplete := by
  intro k c ctx line die g va s
  refine ⟨?_, fun _ => recastComplete_of_pending, fun _ => pageWalkComplete_found, ?_, faultServiceResolve_away c,
    faultServiceResolve_paging c, faultResolvedRetry_resolved, syncRelease_allAsserted, fun _ => rejoinRelease_allAsserted⟩
  · exact fun r hr => ⟨fun _ _ => recastArrival_start hr, recastArrival_join hr, recastArrival_wait hr,
      fun _ _ => recastArrival_refuse hr⟩
  · intro t hc hm ht hr
    rw [faultServiceResolve_ofCore hc hm ht hr]
    exact ⟨fun h => if_pos h, fun h => if_neg h⟩

end Sys2Proof.Proofs
end

section
/-!
PROOFS. The tile instructions (O35).
-/
namespace Sys2Proof.Proofs
open Machine

variable {s : State} {t : Tile} {i : TileInst} {p : Piece} {a o : Operand} {r : LeafRes} {c : Nat}

/-! ## The leaf of a piece (R112 to R121) -/

/-- A leaf that computes and commits is done with the flags of its commit. -/
theorem leafRun_done {q : State × Nat} (hr : leafOf (raceLeaf s c i) c i p = .ok r)
    (hq : commitLeaf (raceLeaf s c i) c i p r = .ok q) : leafRun s c i p = leafDone q.1 c p q.2 r.iovf := by
  simp only [leafRun, hr, hq]

theorem leafRun_trap {e : Trap} (he : leafOf (raceLeaf s c i) c i p = .error e) :
    leafRun s c i p = leafTrap (raceLeaf s c i) c i e := by
  simp only [leafRun, he]

/-! ## A TCOPY with a stream (R118, R73) -/

/-- A TCOPY has consumed all n elements of its input, if that is a stream. -/
def consumeInput (c : Nat) (i : TileInst) (a : Operand) (n : Nat) (v : State) : State :=
  let u := recOf v i.ctx (hIndex a.handle) (hGen a.handle)
  if dRole a.desc = 1 then putRec v { u with consumer := some c, fetched := n, consumed := n } else v

/-- The elements that a result stores, as bits. -/
def storedBits (r : LeafRes) : List Nat :=
  r.outs.filterMap fun w => match w with
    | .put _ _ b => some b
    | _ => none

section Stream
variable (hin : streamIn s c a = .ok true) (hr : joinAll (copyElem s c i.tile a o) (List.range (dCount o.desc)) = .ok r)
include hin hr

theorem leafStream_commit {q : State × Nat} (ho : dRole o.desc ≠ 1) (hq : commitLeaf s c i p r = .ok q) :
    leafStream s c i a o p = leafDone (consumeInput c i a (dCount o.desc) q.1) c p q.2 false := by
  simp only [leafStream, hin, hr, if_neg ho, hq]
  rfl

theorem leafStream_append {d : BitVec 512} {u : TensorRec} {ks : List Nat} (ho : dRole o.desc = 1)
    (hd : appendCheck s c 0 o.handle (dCount o.desc) = .ok (d, u))
    (hk : appendPages s c 0 d u.issued (List.range (dCount o.desc)) = .ok ks) :
    leafStream s c i a o p
      = leafDone (enterAppends (consumeInput c i a (dCount o.desc) s) c d u ks (storedBits r)) c p r.flags false := by
  simp only [leafStream, hin, hr, if_pos ho, hd, hk]
  rfl

end Stream

/-! ## The current core's firmware task -/

/-- The built-in opcodes share one step, that of the leaf of the current core. -/
theorem exec_builtin (t : Tile) (s : State) :
    ∀ op ∈ [Instr.tmm t, .tmmg t, .tconv t, .tred t, .tscan t, .tcopy t, .tprj t, .tprja t, .tfill t, .tchk t],
      exec op s = leafStep t s := by
  simp only [List.forall_mem_cons]
  exact ⟨rfl, rfl, rfl, rfl, rfl, rfl, rfl, rfl, rfl, rfl, List.forall_mem_nil _⟩

/-- Only a whole TCOPY with both operands takes the path of a stream; every other leaf works in place. -/
theorem leafStep_inPlace (hf : firmwareOn s s.cur = some (i, p))
    (h : tileOp i.tile ≠ 7 ∨ isWhole i.tile (opdsI i) = false ∨ i.a = none ∨ i.c = none) :
    leafStep i.tile s = .next (leafRun s s.cur i p) := by
  simp only [leafStep, hf, ne_eq, not_true_eq_false, if_false]
  split
  next a o ha ho =>
    have hnot : ¬(decide (tileOp i.tile = 7) && isWhole i.tile (opdsI i)) = true := by
      intro hstream
      obtain ⟨hop, hw⟩ := Bool.and_eq_true_iff.mp hstream
      rcases h with hother | hcut | hnoIn | hnoOut
      · exact hother (of_decide_eq_true hop)
      · exact Bool.false_ne_true (hcut.symm.trans hw)
      · exact Option.some_ne_none a (ha.symm.trans hnoIn)
      · exact Option.some_ne_none o (ho.symm.trans hnoOut)
    exact congrArg _ (if_neg hnot)
  next => rfl

theorem leafStep_stream (hf : firmwareOn s s.cur = some (i, p)) (ha : i.a = some a) (ho : i.c = some o)
    (hop : tileOp i.tile = 7) (hw : isWhole i.tile (opdsI i) = true) :
    leafStep i.tile s = .next (leafStream s s.cur i a o p) := by
  simp only [leafStep, hf, ne_eq, not_true_eq_false, if_false, ha, ho, hop, hw, decide_true, Bool.and_self, if_true]

/-! ## What the package carries out (R122 to R124, R115) -/

theorem controlStep_of_controlOf {f : TileInst → State} (hc : controlOf s t = some i) : controlStep t s f = .next (f i) := by
  simp only [controlStep, hc]

/-- A TWAIT retires unless it drains and an earlier instruction of its ring is there. -/
theorem twaitOn_retires (h : bitOf i.tile.param 0 = false ∨ s.tiles.any (earlier i) = false) : twaitOn s i = retireTile s i :=
  if_neg (by simpa only [Bool.not_eq_true, Bool.and_eq_false_iff] using h)

theorem twaitOn_waits (hd : bitOf i.tile.param 0 = true) (he : s.tiles.any (earlier i) = true) : twaitOn s i = s :=
  if_pos (Bool.and_eq_true_iff.mpr ⟨hd, he⟩)

/-- A TEVT that names this package, by its number or by 0xFFFF, increments its own counter. -/
theorem tevtOn_local (h : tp i.tile 31 16 = 0xFFFF ∨ tp i.tile 31 16 = s.pkg.toNat) :
    tevtOn s i = retireTile (applyInc s i.ctx (tp i.tile 15 0) (tp i.tile 63 32)) i :=
  if_pos (by simpa only [Bool.or_eq_true, decide_eq_true_eq] using h)

theorem tcast_inTurn (hc : carriedNow s t 5 = some (i, p)) :
    let v := putTile { s with pieces := s.pieces.filter fun q => decide (q.id ≠ p.id) } { i with state := .recasting }
    exec (.tcast t) s = .next { v with recastReqs := v.recastReqs ++ [castRequest i] } := by
  show execTcast t s = _
  simp only [execTcast, hc]

/-- The die piece of a TCOL with the words t whose receptions have all merged. -/
def mergedPiece (s : State) (t : Tile) : Option Piece :=
  s.tiles.findSome? fun j => if j.tile = t then colMerged s j else none

theorem tcol_merged (hm : mergedPiece s t = some p) : exec (.tcol t) s = .next (putPiece s { p with state := .retired }) := by
  show execTcol t s = _
  rw [mergedPiece] at hm
  simp only [execTcol, hm]

theorem tcol_inTurn (hm : mergedPiece s t = none) (hc : carriedNow s t 4 = some (i, p)) (ha : i.a = some a) (ho : i.c = some o) :
    exec (.tcol t) s = .next (runCol s i a o p) := by
  show execTcol t s = _
  rw [mergedPiece] at hm
  simp only [execTcol, hm, hc, ha, ho]

theorem tmap_starts (hs : startable s s.cur = some (i, p)) (ht : i.tile = t) :
    exec (.tmap t) s = .next (startPiece s s.cur i p) := by
  show execTmap t s = _
  simp only [execTmap, hs, if_pos ht]

/-- Settles O35: a built-in opcode takes the leaf's step on the path that its operands select, and every other opcode the model's
function for it, in the branch that its hypotheses select. -/
theorem tileInstructionsComplete : Obligations.TileInstructionsComplete := by
  refine ⟨?_, fun t i p s => ⟨fun hc => ⟨?_, fun h => ?_, fun hd he => ?_, fun h => ?_, fun h => ?_, fun h => ?_⟩,
    tcast_inTurn, ⟨tcol_merged, fun _ _ => tcol_inTurn⟩, tmap_starts⟩⟩
  · rintro _ i p s hf rfl
    refine ⟨fun hplace op hop => ?_, fun a o r ha ho hop hw hin hr => ?_⟩
    · rw [exec_builtin i.tile s op hop, leafStep_inPlace hf hplace]
      exact ⟨fun r q hr hq => congrArg _ (leafRun_done hr hq), fun e he => congrArg _ (leafRun_trap he)⟩
    · have hstep : exec (.tcopy i.tile) s = .next (leafStream s s.cur i a o p) := leafStep_stream hf ha ho hop hw
      rw [hstep]
      exact ⟨fun q hrole hq => congrArg _ (leafStream_commit hin hr hrole hq),
        fun d u ks hrole hd hk => congrArg _ (leafStream_append hin hr hrole hd hk)⟩
  · exact controlStep_of_controlOf hc
  · exact (controlStep_of_controlOf hc).trans (congrArg _ (twaitOn_retires h))
  · exact (controlStep_of_controlOf hc).trans (congrArg _ (twaitOn_waits hd he))
  · exact (controlStep_of_controlOf hc).trans (congrArg _ (tevtOn_local h))
  · exact (controlStep_of_controlOf hc).trans (congrArg _ (if_pos h))
  · exact (controlStep_of_controlOf hc).trans (congrArg _ (if_neg (Nat.not_le.mpr h)))

end Sys2Proof.Proofs
end

section
/-!
PROOFS. The schedulers' steps (O39).
-/
namespace Sys2Proof.Proofs
open Machine

variable {s v : State} {i : TileInst} {p : Piece} {c : Nat}

/-! ## Entries are fetched, handed out, aged and stolen (R144, R152, R153, R156) -/

theorem fetchEntry_next {k : Nat} (hk : nextQp s = some k) : exec .fetchEntry s = .next (acceptEntry s k) := by
  show execFetchEntry s = _
  simp only [execFetchEntry, hk]

/-- The entry that a queue serves is the first that its scheduler tries; no entry is passed over for it. -/
theorem serveBest_served {ps : List Piece} (hp : served ps = some p) (hv : serve s p = some v) :
    serveBest s ps.length ps = some v := by
  cases ps with
  | nil => exact absurd hp (Option.some_ne_none p).symm
  | cons q r => simp only [List.length_cons, serveBest, hp, hv]

/-- The schedulers that hand out are those of the levels 2 to 5. -/
theorem handOutPiece_served {lvl unit pool : Nat} (hlo : 2 ≤ lvl) (hhi : lvl ≤ 5)
    (hp : served (eligiblePieces s lvl unit pool) = some p) (hv : serve s p = some v) :
    exec (.handOutPiece lvl unit pool) s = .next v := by
  show execHandOutPiece lvl unit pool s = _
  simp only [execHandOutPiece, hlo, hhi, decide_true, Bool.and_self, if_true, serveBest_served hp hv, Option.getD_some]

/-- An entry ages at a unit of a level: it waits in a queue there, or it is a frozen task of that core (R417). -/
def agesAt (s : State) (lvl unit entry : Nat) (p : Piece) : Bool :=
  p.id = entry && ((p.level = lvl && p.unit = unit && inQueue s p)
    || (lvl = 1 && s.frozen.any fun z => z.core = unit && z.task.piece = entry))

/-- An entry ages unless its context has aging off. -/
theorem agingTick_ages {lvl unit entry : Nat} (hp : s.pieces.find? (agesAt s lvl unit entry) = some p)
    (hi : tileOf s p.tile = some i) (hon : i.ageus ≠ 0xFFFF) :
    exec (.agingTick lvl unit entry) s = .next (putPiece s { p with aged := p.aged + 1 }) := by
  show execAgingTick lvl unit entry s = _
  unfold agesAt at hp
  simp only [execAgingTick, hp, hi, hon, decide_false, Bool.false_eq_true, if_false]

/-- A thief takes the oldest entry that it may take from its victim, and the entry's aging restarts. -/
theorem stealOne_oldest {d : Nat} (hp : oldest (stealable s d c) = some p) :
    stealOne s (c, d) = putPiece { s with fresh := s.fresh + 1 } { p with unit := c, aged := 0, seq := s.fresh } := by
  simp only [stealOne, hp, freshId]

/-- One idle core that has a victim steals alone. -/
theorem steal_alone {d : Nat} (ht : thefts s [c] = [(c, d)]) (hp : oldest (stealable s d c) = some p) :
    exec (.steal [c]) s
      = .next (putPiece { s with fresh := s.fresh + 1 } { p with unit := c, aged := 0, seq := s.fresh }) := by
  calc exec (.steal [c]) s
    _ = .next ((thefts s [c]).foldl stealOne s) := rfl
    _ = .next (stealOne s (c, d)) := by rw [ht, List.foldl_cons, List.foldl_nil]
    _ = _ := congrArg _ (stealOne_oldest hp)

/-! ## Gangs and tasks start (R157, R115) -/

/-- A gang's entry in a quadrant whose window may be admitted now. -/
def mayAdmit (s : State) (quad : Nat) (p : Piece) : Bool :=
  p.level = 3 && p.unit = quad && p.state = .queued && (match tileOf s p.tile with
    | some i => isGang i && admissible s i p
    | none => false)

/-- A quadrant admits the oldest gang that may be admitted. -/
theorem gangAdmit_oldest {quad : Nat} (hp : oldest (s.pieces.filter (mayAdmit s quad)) = some p)
    (hi : tileOf s p.tile = some i) : exec (.gangAdmit quad) s = .next (startGang s i p) := by
  have hstep : exec (.gangAdmit quad) s = match oldest (s.pieces.filter (mayAdmit s quad)) with
    | some p => match tileOf s p.tile with
      | some i => .next (startGang s i p)
      | none => .next s
    | none => .next s := rfl
  simp only [hstep, hp, hi]

theorem taskStart_startable (hs : startable s c = some (i, p)) : exec (.taskStart c) s = .next (startPiece s c i p) := by
  show execTaskStart c s = _
  simp only [execTaskStart, hs]

/-! ## Tasks, pieces and instructions retire (R204, R128, R130) -/

/-- A task whose cores have all ended the waits of EXIT retires on all of them, with its gang and its piece. -/
theorem taskRetire_exitDone {t : Task} (ht : (coreOf s c).task = some t) (hd : (gangCores s c).all (exitDone s) = true) :
    let v := (gangCores s c).foldl (fun v d => endTask v t.piece d) s
    exec (.taskRetire c) s = .next { v with
      gangs := v.gangs.filter fun g => decide (some g.id ≠ t.gang)
      pieces := v.pieces.map fun p => if p.id = t.piece then { p with state := .retired } else p } := by
  show execTaskRetire c s = _
  simp only [execTaskRetire, ht, hd, if_true]

/-- A retired piece below the package merges upward, unless a recast has to convert first what it would merge into (R84). -/
theorem pieceRetireMerge_retired {n : Nat} (hp : pieceOf s n = some p) (hi : tileOf s p.tile = some i)
    (hr : p.state = .retired) (hl : p.level < 5) :
    exec (.pieceRetireMerge n) s = .next (if castFirst s p then s else mergePiece s i p) := by
  show execPieceRetireMerge n s = _
  simp only [execPieceRetireMerge, hp, hi, hr, hl, decide_true, Bool.and_self, Bool.true_and]
  cases castFirst s p <;> rfl

/-- An instruction retires with the flags of its package piece, once no recast of its tasks is pending. -/
theorem tileRetire_retired {n : Nat} (hi : tileOf s n = some i)
    (hp : (s.pieces.find? fun p => p.tile = n && p.level = 5) = some p) (hr : p.state = .retired)
    (hc : (s.recasts.any fun r => r.tiles.contains n) = false) :
    exec (.tileRetire n) s = .next (retireTile s { i with flags := i.flags ||| p.flags, iovf := i.iovf || p.iovf }) := by
  show execTileRetire n s = _
  simp only [execTileRetire, hi, hp, hr, hc, decide_true, Bool.not_false, Bool.and_self, if_true]

/-! ## Fault records go up (R136) -/

theorem faultRecordReceive_waiting {n : Nat} {f : FaultRec} (hf : s.faults[n]? = some f) :
    exec (.faultRecordReceive n) s = .next (onFault { s with faults := s.faults.eraseIdx n } f) := by
  show execFaultRecordReceive n s = _
  simp only [execFaultRecordReceive, hf]

/-- Settles O39, one step at a time: each is the model's function for it, in the branch that its hypotheses select. -/
theorem schedulingStepsComplete : Obligations.SchedulingStepsComplete := by
  intro lvl unit pool n c s
  refine ⟨fun _ => fetchEntry_next, fun hlo hhi _ _ => handOutPiece_served hlo hhi, fun _ hp _ => agingTick_ages hp,
    fun _ _ => steal_alone, fun _ _ => gangAdmit_oldest, fun _ _ => taskStart_startable, fun _ => taskRetire_exitDone, ?_,
    fun _ _ => tileRetire_retired, rfl, fun _ => faultRecordReceive_waiting⟩
  intro p i hp hi hr hl
  rw [pieceRetireMerge_retired hp hi hr hl]
  exact ⟨fun h => congrArg _ (if_neg (Bool.eq_false_iff.mp h)), fun h => congrArg _ (if_pos h)⟩

end Sys2Proof.Proofs
end

section
/-!
PROOFS. The vector operations on their elements: arithmetic and order (O22), logic and masks (O23), conversions and moves (O24),
reductions and functions (O25).
-/
namespace Sys2Proof.Proofs
open Machine Laws

variable {i : Instr} {x : VSlot} {f : VF}

/-! ## A slot operation that issues alone does what its meaning gives (R166, R167) -/

section Meaning
variable {s t : State} {slot : Nat} (hs : slotOf i = some slot) (hi : issues s i = true)
include hs hi

theorem exec_of_ok {eff : Effects} (ha : actOf i (landed s) s.cur (siteOf s i) = .ok t eff) :
    exec i s = .next (issued s i t eff) :=
  (exec_slot i slot s hs).trans (solo_ok s slot i _ t eff hi hs ha)

theorem exec_of_trap {q : Trap} (ha : actOf i (landed s) s.cur (siteOf s i) = .trap q) :
    exec i s = .next (trapped s i q) :=
  (exec_slot i slot s hs).trans (solo_trap s slot i _ q hi hs ha)

theorem exec_of_stall {g : State → State} (ha : actOf i (landed s) s.cur (siteOf s i) = .stall g) :
    exec i s = .next (waited s i g) :=
  (exec_slot i slot s hs).trans (solo_stall s slot i _ g hi hs ha)

end Meaning

/-! ## Operations on elements (R226 to R229) -/

/-- An operation on elements works on those that its sources and mask give, once its head check has passed. -/
theorem onElems_ok {u : State} {c : Nat} {e : Elems} (k : State → Nat → Core → Elems → OpRes) (at_ : Site)
    (he : vElems u c x f = .ok (some e)) : onElems x f k u c at_ = k u c (coreOf u c) e := by
  simp only [onElems, he]

section Elementwise
variable (act : Act) (hs : slotOf i = some (vSlotNo x)) (hm : actOf i = act)
include hs hm

theorem onElements_of_act {t : State → Nat → Elems → State}
    (ha : ∀ u c e at_, vElems u c x f = .ok (some e) → act u c at_ = .ok (t u c e) .none) : OnElements i x f t :=
  onElements_of i x f act t hs (fun s => hm ▸ exec_slot i _ s hs) ha

theorem onElements_of_onElems {k : State → Nat → Core → Elems → OpRes} {t : State → Nat → Elems → State}
    (ha : act = onElems x f k) (hk : ∀ u c e, k u c (coreOf u c) e = .ok (t u c e) .none) : OnElements i x f t :=
  onElements_of_act act hs hm fun u c e at_ he => by rw [ha, onElems_ok k at_ he, hk]

theorem perElement_of_vMap {lat : Nat} {op : Core → Elems → Nat → Nat × Nat} (ha : act = vMap x f lat op) :
    PerElement i x f lat op :=
  onElements_of_onElems act hs hm ha fun _ _ _ => rfl

theorem bitsPerElement_of_vMapBits {lat : Nat} {op : Elems → Nat → Nat} (ha : act = vMapBits x f lat op) :
    BitsPerElement i x f lat op :=
  perElement_of_vMap act hs hm ha

end Elementwise

theorem perElement_congr {lat : Nat} {op op' : Core → Elems → Nat → Nat × Nat} (h : PerElement i x f lat op)
    (hop : ∀ y e j, op y e j = op' y e j) : PerElement i x f lat op' := by
  have hfun : op = op' := funext fun y => funext fun e => funext fun j => hop y e j
  rwa [← hfun]

theorem bitsPerElement_congr {lat : Nat} {op op' : Elems → Nat → Nat} (h : BitsPerElement i x f lat op)
    (hop : ∀ e j, op e j = op' e j) : BitsPerElement i x f lat op' :=
  perElement_congr h fun _ e j => congrArg (·, 0) (hop e j)

/-! ## Arithmetic and order (O22) -/

/-- A saturating sum is the bound that it passes, with SAT, or else itself. -/
theorem satRes_eq (f : VF) (v : Int) : satRes f v =
    if v < intMin (vF f) then ((intMin (vF f) % (2 ^ vE f : Nat)).toNat, fSAT)
    else if intMax (vF f) < v then ((intMax (vF f) % (2 ^ vE f : Nat)).toNat, fSAT)
    else iRes f v := by
  unfold satRes satInt
  by_cases hlo : v < intMin (vF f)
  · simp only [if_pos hlo, if_neg (Int.ne_of_gt hlo), wrapTo]
  · by_cases hhi : intMax (vF f) < v
    · simp only [if_neg hlo, gt_iff_lt, if_pos hhi, if_neg (Int.ne_of_lt hhi), wrapTo]
    · simp only [if_neg hlo, gt_iff_lt, if_neg hhi, if_true, iRes]

/-- Settles O22, a row at a time: each is the model's own meaning of the operation on an element, and the saturating sums are
clamped. -/
theorem vectorArithmeticAndOrderComplete : Obligations.VectorArithmeticAndOrderComplete := by
  refine ⟨fun x f => ⟨?_, ?_, ?_, ?_, ?_, ?_, ?_⟩, fun x f => ⟨?_, ?_, ?_, ?_, ?_, ?_, ?_⟩⟩
  · exact perElement_of_vMap (actVadd x f) rfl rfl rfl
  · exact perElement_of_vMap (actVsub x f) rfl rfl rfl
  · exact perElement_of_vMap (actVmul x f) rfl rfl rfl
  · exact perElement_of_vMap (actVfma x f) rfl rfl rfl
  · exact perElement_of_vMap (actVfms x f) rfl rfl rfl
  · exact perElement_of_vMap (actVfnma x f) rfl rfl rfl
  · exact perElement_of_vMap (actVdiv x f) rfl rfl rfl
  · exact perElement_of_vMap (actVmin x f) rfl rfl rfl
  · exact perElement_of_vMap (actVmax x f) rfl rfl rfl
  · exact perElement_of_vMap (actVabs x f) rfl rfl rfl
  · exact perElement_of_vMap (actVneg x f) rfl rfl rfl
  · exact perElement_of_vMap (actVmulh x f) rfl rfl rfl
  · exact perElement_congr (perElement_of_vMap (actVsadd x f) rfl rfl rfl) fun _ _ _ => satRes_eq f _
  · exact perElement_congr (perElement_of_vMap (actVssub x f) rfl rfl rfl) fun _ _ _ => satRes_eq f _

/-! ## Logic, shifts, compares and masks (O23) -/

/-- A compare collects in its mask the active elements for which the condition holds, and the flags of all active ones (R233). -/
theorem vcmp_onElements (x : VSlot) (f : VF) :
    OnElements (.vcmp x f) x f fun u c e =>
      let a (j : Nat) : Val := elemVal (vF f) (e.a j)
      let b (j : Nat) : Val := elemVal (vF f) (e.b j)
      setM u c (vSlotNo x) 2 (isVb x) (bitsOf f.d 2 0)
        ((actives e.m e.n).foldl (fun v j => if vCond (bitsOf f.imm 2 0) (a j) (b j) then v ||| 2 ^ j else v) 0)
        ((actives e.m e.n).foldl (fun v j => v ||| ((a j).sigInv ||| (b j).sigInv)) 0) := by
  refine onElements_of_onElems (actVcmp x f) rfl rfl rfl fun u c e => ?_
  simp only [List.foldl_map]

/-- A combination of two masks, each inverted or not (R235). -/
theorem onElements_of_vMask2 (act : Act) (hs : slotOf i = some (vSlotNo x)) (hm : actOf i = act) {op : Nat → Nat → Nat}
    (ha : act = vMask2 x f op) :
    OnElements i x f fun u c _ => setM u c (vSlotNo x) 1 (isVb x) (bitsOf f.d 2 0)
      (op (mSrc (coreOf u c) x f.a (bitOf f.imm 0)) (mSrc (coreOf u c) x f.b (bitOf f.imm 1))) 0 :=
  onElements_of_onElems act hs hm ha fun _ _ _ => rfl

/-- Settles O23, a row at a time: each is the model's own meaning of the operation, a shift left is a product with a power of
two, and a shift right a quotient. -/
theorem vectorLogicAndMasksComplete : Obligations.VectorLogicAndMasksComplete := by
  refine ⟨fun x f => ⟨?_, ?_, ?_, ?_, ?_, ?_, ?_, ?_, ?_⟩,
    fun x f => ⟨?_, ?_, ?_, ?_, ?_, fun h => ?_, fun h => ?_, fun h => ?_, fun h => ?_⟩⟩
  · exact bitsPerElement_of_vMapBits (actVand x f) rfl rfl rfl
  · exact bitsPerElement_of_vMapBits (actVor x f) rfl rfl rfl
  · exact bitsPerElement_of_vMapBits (actVxor x f) rfl rfl rfl
  · exact bitsPerElement_of_vMapBits (actVnot x f) rfl rfl rfl
  · exact bitsPerElement_congr (bitsPerElement_of_vMapBits (actVshl x f) rfl rfl rfl) fun _ _ =>
      congrArg (lowBits (vE f)) (Nat.shiftLeft_eq _ _)
  · exact bitsPerElement_congr (bitsPerElement_of_vMapBits (actVshr x f) rfl rfl rfl) fun _ _ => Nat.shiftRight_eq_div_pow _ _
  · exact bitsPerElement_of_vMapBits (actVsra x f) rfl rfl rfl
  · exact bitsPerElement_of_vMapBits (actVpopc x f) rfl rfl rfl
  · exact bitsPerElement_of_vMapBits (actVclz x f) rfl rfl rfl
  · exact vcmp_onElements x f
  · exact onElements_of_onElems (actVsel x f) rfl rfl rfl fun _ _ _ => rfl
  · exact onElements_of_vMask2 (actVmand x f) rfl rfl rfl
  · exact onElements_of_vMask2 (actVmor x f) rfl rfl rfl
  · exact onElements_of_vMask2 (actVmxor x f) rfl rfl rfl
  · have hnot := onElements_of_vMask2 (i := .vmnot x f) (actVmnot x f) rfl rfl rfl
    rw [h] at hnot
    exact hnot
  · refine onElements_of_onElems (actVmcnt x f) rfl rfl rfl fun _ _ _ => ?_
    simp only [h]
    rfl
  · refine onElements_of_onElems (actVmcnt x f) rfl rfl rfl fun _ _ _ => ?_
    simp only [h]
    rfl
  · refine onElements_of_onElems (actVmcnt x f) rfl rfl rfl fun _ _ _ => ?_
    simp only [h]

/-! ## Conversions and moves (O24) -/

/-- A conversion writes its active pairs (R236). -/
theorem vPairs_ok {u : State} {c lat p : Nat} {e : Elems} {op : Core → Elems → Nat → Nat → Nat × Nat} (at_ : Site)
    (he : vElems u c x f = .ok (some e)) :
    vPairs x f lat p op u c at_ = .ok (vWrite u c x lat f.d.toNat (codeBits f.fmt2.toNat) (vW f)
      ((actives e.m (pairCount f)).map fun j => (pairDst f p j, op (coreOf u c) e j (e.a (pairSrc f p j))))) .none :=
  onElems_ok _ at_ he

/-- A result for every element below n, whatever the mask makes active (R242). -/
theorem onElements_of_vAll (act : Act) (hs : slotOf i = some (vSlotNo x)) (hm : actOf i = act) {lat : Nat}
    {op op' : Elems → Nat → Nat} (ha : act = vAll x f lat op) (hop : ∀ e j, op e j = op' e j) :
    OnElements i x f fun u c e => vWrite u c x lat f.d.toNat (vE f) (vW f) ((List.range e.n).map fun j => (j, op' e j, 0)) := by
  have hfun : op = op' := funext fun e => funext fun j => hop e j
  exact onElements_of_onElems act hs hm ha fun u c e => by rw [hfun]

/-- A rearrangement of one mode (R243). -/
theorem bitsPerElement_vshfl {op : Elems → Nat → Nat} (x : VSlot) {f : VF} {mode : Nat} (h : bitsOf f.imm 2 0 = mode)
    (hop : ∀ e j, shuffle mode (bitsOf f.imm 9 3) e.n e.a e.b j = op e j) : BitsPerElement (.vshfl x f) x f 3 op :=
  bitsPerElement_congr (bitsPerElement_of_vMapBits (actVshfl x f) rfl rfl rfl) fun e j => by rw [h, hop]

/-- Settles O24, a row at a time: each is the model's own meaning of the operation. -/
theorem conversionsAndMovesComplete : Obligations.ConversionsAndMovesComplete := by
  refine ⟨fun x f => ⟨?_, ?_, ?_, ?_, ?_, ?_⟩, fun x f => ⟨?_, fun h => ?_, fun h => ?_, ?_, ?_, ?_, ?_, ?_,
    fun h => ?_, fun h => ?_, fun h => ?_, fun h => ?_, fun h => ?_, fun h => ?_, fun h => ?_, fun h => ?_⟩⟩
  · exact onElements_of_act (actVcvt x f) rfl rfl fun _ _ _ at_ he => vPairs_ok at_ he
  · exact onElements_of_onElems (actVqnt x f) rfl rfl rfl fun _ _ _ => rfl
  · exact onElements_of_onElems (actVdqn x f) rfl rfl rfl fun _ _ _ => rfl
  · exact onElements_of_act (actVcbx x f) rfl rfl fun _ _ _ at_ he => vPairs_ok at_ he
  · exact onElements_of_act (actVcbq x f) rfl rfl fun _ _ _ at_ he => vPairs_ok at_ he
  · exact onElements_of_onElems (actVamax x f) rfl rfl rfl fun _ _ _ => rfl
  · exact bitsPerElement_of_vMapBits (actVmov x f) rfl rfl rfl
  · exact bitsPerElement_congr (bitsPerElement_of_vMapBits (actVbcst x f) rfl rfl rfl) fun _ _ => if_neg (Bool.eq_false_iff.mp h)
  · exact bitsPerElement_congr (bitsPerElement_of_vMapBits (actVbcst x f) rfl rfl rfl) fun _ _ => if_pos h
  · exact bitsPerElement_of_vMapBits (actViota x f) rfl rfl rfl
  · exact bitsPerElement_of_vMapBits (actVperm x f) rfl rfl rfl
  · refine onElements_of_vAll (actVcmps x f) rfl rfl rfl fun _ _ => ?_
    split
    next hk => rw [hk]; rfl
    next hnone => rw [hnone]; rfl
  · exact onElements_of_vAll (actVexpd x f) rfl rfl rfl fun _ _ => rfl
  · exact onElements_of_onElems (actVxv x f) rfl rfl rfl fun _ _ _ => rfl
  · exact bitsPerElement_vshfl x h fun _ _ => rfl
  · exact bitsPerElement_vshfl x h fun _ _ => rfl
  · exact bitsPerElement_vshfl x h fun _ _ => rfl
  · exact bitsPerElement_vshfl x h fun _ _ => rfl
  · exact bitsPerElement_vshfl x h fun _ _ => rfl
  · exact bitsPerElement_vshfl x h fun _ _ => rfl
  · exact bitsPerElement_vshfl x h fun _ _ => rfl
  · exact bitsPerElement_vshfl x h fun _ _ => rfl

/-! ## Reductions and functions (O25) -/

/-- Results that agree at every place are one result. -/
theorem ok_vWrite_congr {u : State} {c lat d e w : Nat} {js : List Nat} {g h : Nat → Nat × Nat × Nat}
    (hgh : ∀ j, g j = h j) :
    OpRes.ok (vWrite u c x lat d e w (js.map g)) .none = .ok (vWrite u c x lat d e w (js.map h)) .none := by
  rw [funext hgh]

/-- A special function of each active element, in its fast or its accurate grade (R247, R61). -/
theorem onElements_of_vSpecial (act : Act) (hs : slotOf i = some (vSlotNo x)) (hm : actOf i = act) {n : Nat}
    (ha : act = vSpecial n x f) :
    OnElements i x f fun u c e =>
      let fast := fastGrade (coreOf u c) f
      vWrite u c x (if fast then 6 else 16) f.d.toNat (vE f) (vW f) ((actives e.m e.n).map fun j =>
        (j, if fast then specialFast n (e.a j) else specialAccurate (vF f) n (e.a j))) :=
  onElements_of_onElems act hs hm ha fun _ _ _ => rfl

/-- Settles O25, a row at a time: each is the model's own meaning of the operation; in a scan and in a dot product the index of
an element stands before the choice of its value. -/
theorem reductionsAndFunctionsComplete : Obligations.ReductionsAndFunctionsComplete := by
  intro x f
  refine ⟨?_, ?_, ?_, ?_, ?_, ?_, ?_, ?_, ?_, ?_, ?_, ?_⟩
  · exact onElements_of_onElems (actVred x f) rfl rfl rfl fun _ _ _ => rfl
  · refine onElements_of_onElems (actVscan x f) rfl rfl rfl fun _ _ _ => ?_
    exact ok_vWrite_congr fun j => (apply_ite (Prod.mk j) _ _ _).symm
  · refine onElements_of_onElems (actVdot x f) rfl rfl rfl fun _ _ _ => ?_
    exact ok_vWrite_congr fun j => (apply_ite (Prod.mk j) _ _ _).symm
  · exact onElements_of_vSpecial (actVexp2 x f) rfl rfl rfl
  · exact onElements_of_vSpecial (actVlog2 x f) rfl rfl rfl
  · exact onElements_of_vSpecial (actVrcp x f) rfl rfl rfl
  · exact onElements_of_vSpecial (actVrsq x f) rfl rfl rfl
  · exact onElements_of_vSpecial (actVsqrt x f) rfl rfl rfl
  · exact onElements_of_vSpecial (actVsinpi x f) rfl rfl rfl
  · exact onElements_of_vSpecial (actVcospi x f) rfl rfl rfl
  · exact onElements_of_vSpecial (actVtanh x f) rfl rfl rfl
  · exact onElements_of_vSpecial (actVsigm x f) rfl rfl rfl

end Sys2Proof.Proofs
end

section
/-!
PROOFS. The vector operations on memory: loads, gathers, stores and scatters (O26), adds, atomics and appends (O27).
-/
namespace Sys2Proof.Proofs
open Machine Laws

variable {x : VSlot} {f : VF} {u : State} {c lat : Nat} {e : Elems} {va : Nat → Nat}

/-! ## Loads (R249, R253) -/

/-- The wait of a slot's load, while it has one. -/
def slotWait (y : Core) (slot : Nat) : Option VWait := y.vwaits.find? fun w => decide (w.slot = slot)

/-- The state in which a slot's load waits no longer. -/
def endWait (u : State) (c slot : Nat) : State :=
  modCore u c fun y => { y with vwaits := y.vwaits.filter fun w => decide (w.slot ≠ slot) }

section Load
variable (at_ : Site) (he : vElems u c x f = .ok (some e))
include he

/-- A load for which all data has arrived issues with it. -/
theorem vLoad_arrived {w : VWait} {r : State × List (Nat × Nat)} (hw : slotWait (coreOf u c) (vSlotNo x) = some w)
    (hout : w.out = 0) (hr : arrivedData (endWait u c (vSlotNo x)) c (elemBytes f) w = some r) :
    vLoad x f lat va u c at_ = .ok (loadResult r.1 c x f lat va r.2 (actives e.m e.n)) .none := by
  rw [slotWait] at hw
  rw [endWait] at hr
  simp only [vLoad, onElems_ok _ at_ he, hw, if_neg (not_not_intro hout), hr]

/-- It waits on while its bytes are still to be read again. -/
theorem vLoad_reads_again {w : VWait} (hw : slotWait (coreOf u c) (vSlotNo x) = some w) (hout : w.out = 0)
    (hr : arrivedData (endWait u c (vSlotNo x)) c (elemBytes f) w = none) : vLoad x f lat va u c at_ = .stall id := by
  rw [slotWait] at hw
  rw [endWait] at hr
  simp only [vLoad, onElems_ok _ at_ he, hw, if_neg (not_not_intro hout), hr]

section Asks
variable (hw : slotWait (coreOf u c) (vSlotNo x) = none)
include hw

theorem vLoad_scratchpad {ps : List (Nat × Place)}
    (hp : placesOf u c (vSlotNo x) (elemBytes f) .load va (actives e.m e.n) = .ok ps)
    (hsp : ∀ j ∈ actives e.m e.n, isSp (va j) = true) :
    vLoad x f lat va u c at_ = .ok (loadResult u c x f lat va [] (actives e.m e.n)) .none := by
  rw [slotWait] at hw
  simp only [vLoad, onElems_ok _ at_ he, hw, hp, if_pos (List.all_eq_true.mpr hsp)]

theorem vLoad_sends {ps : List (Nat × Place)}
    (hp : placesOf u c (vSlotNo x) (elemBytes f) .load va (actives e.m e.n) = .ok ps)
    (hmem : ∃ j ∈ actives e.m e.n, isSp (va j) = false) :
    vLoad x f lat va u c at_ = .stall (sendLoads c (vSlotNo x) (elemBytes f) (elemMaskOf f) ps) := by
  rw [slotWait] at hw
  obtain ⟨j, hj, hout⟩ := hmem
  have hsome : ¬((actives e.m e.n).all fun j => isSp (va j)) = true := fun hall =>
    Bool.false_ne_true (hout.symm.trans (List.all_eq_true.mp hall j hj))
  simp only [vLoad, onElems_ok _ at_ he, hw, hp, if_neg hsome]

theorem vLoad_trap {t : Trap} (hp : placesOf u c (vSlotNo x) (elemBytes f) .load va (actives e.m e.n) = .error t) :
    vLoad x f lat va u c at_ = .trap t := by
  rw [slotWait] at hw
  simp only [vLoad, onElems_ok _ at_ he, hw, hp]

end Asks

end Load

/-! ## Stores (R254) -/

section Store
variable (at_ : Site) (he : vElems u c x f = .ok (some e))
include he

theorem vStore_ok {ps : List (Nat × Place)}
    (hp : placesOf u c (vSlotNo x) (elemBytes f) .store va (actives e.m e.n) = .ok ps) :
    let r := (ps.map fun p => (p.1, p.2, e.a p.1)).foldl (storeElem c f) (u, Effects.none)
    vStore x f va u c at_ = .ok r.1 r.2 := by
  simp only [vStore, onElems_ok _ at_ he, hp]

theorem vStore_trap {t : Trap} (hp : placesOf u c (vSlotNo x) (elemBytes f) .store va (actives e.m e.n) = .error t) :
    vStore x f va u c at_ = .trap t := by
  simp only [vStore, onElems_ok _ at_ he, hp]

end Store

/-- Settles O26: a load and a gather are one meaning at two addresses and latencies, as are a store and a scatter; each takes
the branch that its wait and its places select. -/
theorem vectorLoadsAndStoresComplete : Obligations.VectorLoadsAndStoresComplete := by
  intro x f s e u c slot is n index he
  have hloads : ∀ q ∈ [(Instr.vld x f, contigVa (actor s) f, 6), (Instr.vgth x f, index, 10)],
      slotOf q.1 = some slot ∧ ∀ at_, actOf q.1 u c at_ = vLoad x f q.2.2 q.2.1 u c at_ := by
    simp only [List.forall_mem_cons]
    exact ⟨⟨rfl, fun _ => rfl⟩, ⟨rfl, fun _ => rfl⟩, List.forall_mem_nil _⟩
  have hstores : ∀ q ∈ [(Instr.vst x f, contigVa (actor s) f), (Instr.vsct x f, index)],
      slotOf q.1 = some slot ∧ ∀ at_, actOf q.1 u c at_ = vStore x f q.2 u c at_ := by
    simp only [List.forall_mem_cons]
    exact ⟨⟨rfl, fun _ => rfl⟩, ⟨rfl, fun _ => rfl⟩, List.forall_mem_nil _⟩
  refine ⟨fun q hq hi => ?_, fun q hq hi => ?_⟩
  · obtain ⟨hs, hact⟩ := hloads q hq
    exact ⟨fun ps hw hp => ⟨fun hsp => exec_of_ok hs hi ((hact _).trans (vLoad_scratchpad _ he hw hp hsp)),
        fun hmem => exec_of_stall hs hi ((hact _).trans (vLoad_sends _ he hw hp hmem))⟩,
      fun w hw hout => ⟨fun r hr => exec_of_ok hs hi ((hact _).trans (vLoad_arrived _ he hw hout hr)),
        fun hr => exec_of_stall hs hi ((hact _).trans (vLoad_reads_again _ he hw hout hr))⟩,
      fun t hw hp => exec_of_trap hs hi ((hact _).trans (vLoad_trap _ he hw hp))⟩
  · obtain ⟨hs, hact⟩ := hstores q hq
    exact ⟨fun ps hp => exec_of_ok hs hi ((hact _).trans (vStore_ok _ he hp)),
      fun t hp => exec_of_trap hs hi ((hact _).trans (vStore_trap _ he hp))⟩

/-! ## Adds, atomics and appends (R250 to R252) -/

section Access
variable (at_ : Site) (he : vElems u c x f = .ok (some e))
include he

/-- The adds of the active elements enter in increasing index (R250). -/
theorem actVacc_ok {d : BitVec 512} {r : Bool} {ks : List (Nat × Nat)}
    (hd : slotHandle u c (vSlotNo x) (handleB u c x f) = .ok (d, r)) (hf : sameFamily f.fmt.toNat (dFmt d) = true)
    (hk : accPlaces u c (vSlotNo x) (handleB u c x f) d (fun j => itAddr (itOf (coreOf u c) (vIt f)) + j * holdSize d)
      (actives e.m e.n) = .ok ks) :
    actVacc x f u c at_ = .ok (ks.foldl (fun v k => enterAcc v c (handleB u c x f) d k.2 f.fmt.toNat (e.a k.1)) u) .none := by
  simp only [actVacc, onElems_ok _ at_ he, hd, hf, hk, Bool.not_true, Bool.false_eq_true, if_false]

/-- The atomics of the active elements take effect in increasing index (R251). -/
theorem actVamo_ok {ps : List (Nat × Place)}
    (hp : placesOf u c (vSlotNo x) (elemBytes f) .atomic (contigVa (coreOf u c) f) (actives e.m e.n) = .ok ps) :
    let r := vamoRet u c x f (actives e.m e.n)
    let q := ps.foldl (amoElem c f ((coreOf u c).seedkey ^^^ handleB u c x f) (contigVa (coreOf u c) f) r.1 e.a)
      (r.2, Effects.none)
    actVamo x f u c at_ = .ok q.1 q.2 := by
  simp only [actVamo, onElems_ok _ at_ he, hp]

/-- The active elements are appended in increasing index, if there are any (R252). -/
theorem actVapp_ok {d0 d : BitVec 512} {r : Bool} {t : TensorRec} {ks : List Nat}
    (hd : slotHandle u c (vSlotNo x) (handleB u c x f) = .ok (d0, r)) (hf : dFmt d0 = f.fmt.toNat)
    (ha : appendCheck u c (vSlotNo x) (handleB u c x f) (actives e.m e.n).length = .ok (d, t))
    (hk : appendPages u c (vSlotNo x) d t.issued (actives e.m e.n) = .ok ks) :
    actVapp x f u c at_
      = .ok (if actives e.m e.n = [] then u else enterAppends u c d t ks ((actives e.m e.n).map e.a)) .none := by
  simp only [actVapp, onElems_ok _ at_ he, hd, hf, ha, hk, ne_eq, not_true_eq_false, if_false, List.isEmpty_iff]

end Access

/-- Settles O27: each operation passes its checks, and its elements enter in the order of their indices. -/
theorem vectorAddsAtomicsAndAppendsComplete : Obligations.VectorAddsAtomicsAndAppendsComplete := by
  intro x f s e u c slot is h he
  exact ⟨fun hi d r ks hd hf hk => exec_of_ok rfl hi (actVacc_ok _ he hd hf hk),
    fun hi ps hp => exec_of_ok rfl hi (actVamo_ok _ he hp),
    fun hi d0 r d t hd hf ha ks hk => exec_of_ok rfl hi (actVapp_ok _ he hd hf ha hk)⟩

end Sys2Proof.Proofs
end

section
/-!
PROOFS. What the elementwise vector operations leave unchanged (O59).
-/
namespace Sys2Proof.Proofs
open Machine Laws

/-! ## At most one result in flight (R175, R168) -/

/-- The state t with the cores, the clusters and the fresh numbers of u. -/
def withCoresOf (u t : State) : State := { t with cores := u.cores, clusters := u.clusters, fresh := u.fresh }

/-- `t` is `u` but for at most one more result in flight on core c, which is for `d`. -/
structure AddsResult (u : State) (c : Nat) (d : Dest) (t : State) : Prop where
  rest : withCoresOf u t = u
  clusters : t.clusters = u.clusters
  others : ∀ k, k ≠ c → coreOf t k = coreOf u k
  core : ∃ l, coreOf t c = { coreOf u c with inflight := (coreOf u c).inflight ++ l }
    ∧ l.length ≤ 1 ∧ ∀ g ∈ l, g.dst = d

section Adds
variable {u t t' : State} {c : Nat} {d : Dest}

theorem addsResult_refl : AddsResult u c d u :=
  ⟨rfl, rfl, fun _ _ => rfl, [], by rw [List.append_nil], Nat.zero_le 1, List.forall_mem_nil _⟩

theorem addsResult_ite {p : Prop} [Decidable p] (h : AddsResult u c d t) (h' : AddsResult u c d t') :
    AddsResult u c d (if p then t else t') := by
  split
  · exact h
  · exact h'

theorem addsResult_pushFlight (slot lat mask val flags gran : Nat) :
    AddsResult u c d (pushFlight u c slot lat d mask val flags gran) where
  rest := rfl
  clusters := rfl
  others _ hk := coreOf_modCore_other _ _ _ _ hk
  core := ⟨_, coreOf_modCore_same _ _ _, Nat.le_refl 1, List.forall_mem_singleton.mpr rfl⟩

theorem addsResult_vWrite (x : VSlot) (lat r e w : Nat) (rs : List (Nat × Nat × Nat)) :
    AddsResult u c (.reg (if isVb x then .vb else .va) (physV (coreOf u c).rbase r)) (vWrite u c x lat r e w rs) :=
  addsResult_pushFlight _ _ _ _ _ _

theorem addsResult_setM (slot lat n val flags : Nat) (vb : Bool) :
    AddsResult u c (.reg (if vb then .mb else .ma) n) (setM u c slot lat vb n val flags) :=
  addsResult_ite addsResult_refl (addsResult_pushFlight _ _ _ _ _ _)

end Adds

/-! ## Landings leave the program address (R175) -/

/-- A fold whose every step keeps the program address keeps it. -/
theorem foldl_pc {l : List Flight} {g : Core → Flight → Core} (hg : ∀ y a, (g y a).pc = y.pc) (y : Core) :
    (l.foldl g y).pc = y.pc :=
  List.foldlRecOn l g (motive := fun z : Core => z.pc = y.pc) rfl fun z hz a _ => (hg z a).trans hz

@[simp] theorem writeReg_pc (y : Core) (r : RegFile) (n mask val : Nat) : (writeReg y r n mask val).pc = y.pc := by
  cases r <;> rfl

@[simp] theorem countCollision_pc (y : Core) (r : RegFile) (n slot : Nat) : (countCollision y r n slot).pc = y.pc := by
  rw [countCollision]

@[simp] theorem landCsr_pc (y : Core) (n v : Nat) : (landCsr y n v).pc = y.pc := by
  dsimp only [landCsr]
  split <;> rfl

@[simp] theorem landRegs_pc (all l : List Flight) (y : Core) : (landRegs all l y).pc = y.pc := by
  induction l generalizing y with
  | nil => rfl
  | cons a r ih =>
    dsimp only [landRegs]
    split
    · split
      · rw [ih]
      split
      · rw [ih]
        split
        · rw [writeReg_pc]
        · rw [countCollision_pc, writeReg_pc]
      · rw [ih]
    · rw [ih]

@[simp] theorem landClears_pc (l : List Flight) (y : Core) : (landClears l y).pc = y.pc := by
  refine foldl_pc (fun z a => ?_) y
  split
  · split
    · split <;> rfl
    · rfl
  · rfl

@[simp] theorem landState_pc (l : List Flight) (y : Core) : (landState l y).pc = y.pc := by
  rw [landState, foldl_pc, foldl_pc, foldl_pc, foldl_pc]
  all_goals
    intro z a
    split
  all_goals simp only [landCsr_pc]

theorem landed_pc (s : State) : (actor s).pc = (coreOf s s.cur).pc := by
  simp only [actor, landed, landNow, coreOf_modCluster, coreOf_setCore_same, landState_pc, landRegs_pc, landClears_pc]

/-! ## The end of a bundle of one operation (R167) -/

/-- What has changed when an operation that adds at most one result for `d` has issued alone: beside that result only the program
address and the bookkeeping of the issue. -/
def IssueFrame (s : State) (i : Instr) (d : Dest) (t : State) : Prop :=
  let u := landed s
  let x := actor s
  let y := coreOf t s.cur
  withCoresOf u t = u
    ∧ (∀ c, c ≠ s.cur → coreOf t c = coreOf u c)
    ∧ (∀ k, { clusterOf t k with waitEngine := (clusterOf u k).waitEngine } = clusterOf u k)
    ∧ { y with inflight := x.inflight, issueCount := x.issueCount, waiting := x.waiting, stepWait := x.stepWait
               skipS := x.skipS, held := x.held, pc := x.pc, repidx := x.repidx } = x
    ∧ (∃ l, y.inflight = x.inflight ++ l ∧ l.length ≤ 1 ∧ ∀ g ∈ l, g.dst = d)
    ∧ y.pc = (siteOf s i).next

/-- An operation that stays held and steps no iterator leaves, at the end of its quiet bundle, what its result leaves. -/
theorem issued_frame {s t : State} {i : Instr} {slot : Nat} {d : Dest} (hs : slotOf i = some slot) (ho : oneShot i = false)
    (hb : baseEffects i (siteOf s i) = .none) (ht : AddsResult (landed s) s.cur d t) : IssueFrame s i d (issued s i t .none) := by
  obtain ⟨hrest, hclusters, hothers, l, hcore, hlen, hdst⟩ := ht
  have hy := issued_core s i slot t hs ho hb
  rw [hcore] at hy
  refine ⟨?_, fun c hc => ?_, fun k => ?_, ?_, ⟨l, ?_, hlen, hdst⟩, ?_⟩
  · exact (congrArg (withCoresOf (landed s)) (issued_rest s i slot t hs ho hb)).trans hrest
  · rw [issued_other s i slot t hs ho hb c hc, hothers c hc]
  · have hk : clusterOf t k = clusterOf (landed s) k := by rw [clusterOf, hclusters, clusterOf]
    rw [← hk]
    exact issued_cluster s i slot t hs ho hb k
  · rw [hy]
  · rw [hy]
  · rw [hy]

/-! ## The operations of R231 to R233 -/

/-- The elementwise operations of R231 and R232. -/
def elementwise (v : VSlot) (f : VF) : List Instr :=
  [.vadd v f, .vsub v f, .vmul v f, .vfma v f, .vfms v f, .vfnma v f, .vmin v f, .vmax v f, .vabs v f, .vneg v f, .vdiv v f,
    .vmulh v f, .vsadd v f, .vssub v f, .vand v f, .vor v f, .vxor v f, .vnot v f, .vshl v f, .vshr v f, .vsra v f, .vpopc v f,
    .vclz v f]

/-- The register that an operation of R231 to R233 writes: a mask register for VCMP, else a physical vector register (R168). -/
def resultDest (v : VSlot) (f : VF) (i : Instr) (y : Core) : Dest :=
  if i = .vcmp v f then .reg (if isVb v then .mb else .ma) (bitsOf f.d 2 0)
  else .reg (if isVb v then .vb else .va) (physV y.rbase f.d.toNat)

section Frame
variable {v : VSlot} {f : VF} {i : Instr}

theorem elementwise_perElement : ∀ i ∈ elementwise v f, ∃ lat op, PerElement i v f lat op := by
  obtain ⟨hadd, hsub, hmul, hfma, hfms, hfnma, hdiv⟩ := vectorArithmeticAndOrderComplete.1 v f
  obtain ⟨hmin, hmax, habs, hneg, hmulh, hsadd, hssub⟩ := vectorArithmeticAndOrderComplete.2 v f
  obtain ⟨hand, hor, hxor, hnot, hshl, hshr, hsra, hpopc, hclz⟩ := vectorLogicAndMasksComplete.1 v f
  simp only [elementwise, List.forall_mem_cons]
  exact ⟨⟨_, _, hadd⟩, ⟨_, _, hsub⟩, ⟨_, _, hmul⟩, ⟨_, _, hfma⟩, ⟨_, _, hfms⟩, ⟨_, _, hfnma⟩, ⟨_, _, hmin⟩, ⟨_, _, hmax⟩,
    ⟨_, _, habs⟩, ⟨_, _, hneg⟩, ⟨_, _, hdiv⟩, ⟨_, _, hmulh⟩, ⟨_, _, hsadd⟩, ⟨_, _, hssub⟩, ⟨_, _, hand⟩, ⟨_, _, hor⟩,
    ⟨_, _, hxor⟩, ⟨_, _, hnot⟩, ⟨_, _, hshl⟩, ⟨_, _, hshr⟩, ⟨_, _, hsra⟩, ⟨_, _, hpopc⟩, ⟨_, _, hclz⟩, List.forall_mem_nil _⟩

theorem elementwise_ne_vcmp : ∀ i ∈ elementwise v f, i ≠ .vcmp v f := by
  simp [elementwise]

/-- The operations stay held, and no iterator steps with them (R165, R170). -/
theorem elementwise_quiet (at_ : Site) : ∀ i ∈ elementwise v f ++ [.vcmp v f],
    slotOf i = some (vSlotNo v) ∧ oneShot i = false ∧ baseEffects i at_ = .none := by
  simp only [elementwise, List.cons_append, List.nil_append, List.forall_mem_cons]
  refine ⟨?_, ?_, ?_, ?_, ?_, ?_, ?_, ?_, ?_, ?_, ?_, ?_, ?_, ?_, ?_, ?_, ?_, ?_, ?_, ?_, ?_, ?_, ?_, ?_, List.forall_mem_nil _⟩
  all_goals exact ⟨rfl, rfl, rfl⟩

/-- Each operation of R231 to R233 adds at most one result, for its own destination. -/
theorem elementwise_adds (hi : i ∈ elementwise v f ++ [.vcmp v f]) :
    ∃ t : State → Nat → Elems → State, OnElements i v f t ∧ ∀ u c e, AddsResult u c (resultDest v f i (coreOf u c)) (t u c e) := by
  rcases List.mem_append.mp hi with hrow | hcmp
  · obtain ⟨lat, op, hper⟩ := elementwise_perElement i hrow
    refine ⟨_, hper, fun u c e => ?_⟩
    rw [resultDest, if_neg (elementwise_ne_vcmp i hrow)]
    exact addsResult_vWrite _ _ _ _ _ _
  · obtain rfl := List.mem_singleton.mp hcmp
    refine ⟨_, vcmp_onElements v f, fun u c e => ?_⟩
    rw [resultDest, if_pos rfl]
    exact addsResult_setM _ _ _ _ _ _

/-- The bundle of one vector operation has a header and two words (R162). -/
theorem siteOf_next_vector (hs : slotOf i = some (vSlotNo v)) (s : State) : (siteOf s i).next = (actor s).pc + 12 := by
  rw [landed_pc, siteOf, hs]
  cases v <;> rfl

end Frame

/-- Settles O59: an operation on its elements adds at most one result, and the end of its bundle changes nothing else but the
program address and the bookkeeping of the issue. -/
theorem vectorOperationsFrame : Obligations.VectorOperationsFrame := by
  intro v f e i s t hmem hi he hstep
  obtain ⟨hs, ho, hb⟩ := elementwise_quiet (siteOf s i) i hmem
  obtain ⟨w, hon, hadds⟩ := elementwise_adds hmem
  obtain rfl : issued s i (w (landed s) s.cur e) .none = t := Host.Outcome.next.inj ((hon s e hi he).symm.trans hstep)
  obtain ⟨hrest, hothers, hclusters, hcore, hflight, hpc⟩ := issued_frame hs ho hb (hadds _ _ _)
  exact ⟨hrest, hothers, hclusters, hcore, hflight, hpc.trans (siteOf_next_vector hs s)⟩

end Sys2Proof.Proofs
end

section
/-!
PROOFS. The array queue: accumulations, the gather and MWAIT (O29), banks, drains and projections (O30).
-/
namespace Sys2Proof.Proofs
open Machine Laws

variable {f : MF} {u : State} {c : Nat} (at_ : Site)

/-! ## Accumulations (R264 to R270) -/

/-- The lines of operand A that a walk gives an accumulation (R265). -/
def linesOfA (u : State) (c : Nat) (f : MF) : List Nat := itWalk (64 * count64 f.kc) (itOf (coreOf u c) f.ia.toNat)

/-- The lines of operand B that a walk gives an accumulation (R265). -/
def linesOfB (u : State) (c : Nat) (f : MF) : List Nat :=
  itWalk (bankCols f.fa.toNat * count64 f.kc) (itOf (coreOf u c) f.ib.toNat)

section Accumulation
variable {i : Instr}
  (hb : feederCheck u (linesOfB u c f) (bankCols f.fa.toNat) (min (arrayEntry u c i (mBank u c f)).mc (bankCols f.fa.toNat))
    (count64 f.kc) (codeBits f.fb.toNat) (bitOf f.sel 1) = none)
include hb

/-- An accumulation with A from a walk is queued once the lines of both operands pass (R265, R266). -/
theorem issueAccum_walked
    (ha : feederCheck u (linesOfA u c f) 64 (arrayEntry u c i (mBank u c f)).mr (count64 f.kc) (codeBits f.fa.toNat)
      (bitOf f.sel 0) = none) :
    issueAccum i f false u c at_
      = .ok (enqueue u c { arrayEntry u c i (mBank u c f) with walkA := linesOfA u c f, walkB := linesOfB u c f }) .none := by
  rw [linesOfB] at hb
  rw [linesOfA] at ha
  simp only [issueAccum, Bool.false_and, Bool.false_eq_true, if_false, ha, hb, Option.none_or, linesOfA, linesOfB]

/-- An accumulation with A from the latch is queued once the latch has its format and columns and B's lines pass (R271). -/
theorem issueAccum_gathered (hfmt : (coreOf u c).latch.fmt = f.fa.toNat) (hkc : (coreOf u c).latch.kc = count64 f.kc) :
    issueAccum i f true u c at_
      = .ok (enqueue u c { arrayEntry u c i (mBank u c f) with walkA := [], walkB := linesOfB u c f }) .none := by
  rw [linesOfB] at hb
  simp only [issueAccum, hfmt, hkc, ne_eq, not_true_eq_false, decide_false, Bool.or_self, Bool.and_false, Bool.false_eq_true,
    if_false, if_true, hb, Option.none_or, linesOfB]

end Accumulation

/-! ## The gather (R271) and MWAIT (R277) -/

/-- The rows of a gather: the base, and the stride times the index of each (R271). -/
def gatherRows (u : State) (c : Nat) (f : MF) : List Nat :=
  let base := itAddr (itOf (coreOf u c) f.ia.toNat)
  let list := itAddr (itOf (coreOf u c) f.ib.toNat)
  (List.range 64).map fun g =>
    wrapTo 64 ((base : Int) + signedOf 32 (spNum u (clusterOfCore c) (spOff list + 4 * g) 4) * (bitsOf f.ext 26 11 : Nat))

section Gather
variable
  (hbase : mLine u (itAddr (itOf (coreOf u c) f.ia.toNat)) (max 1 (codeBits f.fa.toNat / 8)) (max 1 (codeBits f.fa.toNat / 8)) = none)
  (hlist : mLine u (itAddr (itOf (coreOf u c) f.ib.toNat)) 256 4 = none)
include hbase hlist

theorem actMgth_waits (hw : writePending u c (spOff (itAddr (itOf (coreOf u c) f.ib.toNat))) 256 = true) :
    actMgth f u c at_ = .stall id := by
  simp only [actMgth, hbase, hlist, Option.none_or, hw, if_true]

theorem actMgth_queues (hw : writePending u c (spOff (itAddr (itOf (coreOf u c) f.ib.toNat))) 256 = false)
    (hrows : gatherCheck (gatherRows u c f) (count64 f.kc * codeBits f.fa.toNat) (max 1 (codeBits f.fa.toNat / 8)) = none) :
    let v := modCore u c fun x => { x with latch := { x.latch with fmt := f.fa.toNat, kc := count64 f.kc } }
    actMgth f u c at_ = .ok (enqueue v c { arrayEntry v c (.mgth f) 4 with walkA := gatherRows u c f }) .none := by
  rw [gatherRows] at hrows
  simp only [actMgth, hbase, hlist, Option.none_or, hw, Bool.false_eq_true, if_false, hrows, gatherRows]

end Gather

/-- What an MWAIT waits for: with `sel` 1 any operation of the queue, else one that names its bank (R277). -/
def mwaitHeld (u : State) (c : Nat) (f : MF) : Prop :=
  if f.sel.toNat = 1 then (coreOf u c).arrayQ ≠ [] else ∃ o ∈ (coreOf u c).arrayQ, o.bank = mBank u c f

theorem mwaitHeld_iff (u : State) (c : Nat) (f : MF) : mwaitHeld u c f ↔
    (if f.sel.toNat = 1 then !(coreOf u c).arrayQ.isEmpty else (coreOf u c).arrayQ.any fun o => o.bank = mBank u c f) = true := by
  unfold mwaitHeld
  split <;> simp

theorem actMwait_waits (h : mwaitHeld u c f) : actMwait f u c at_ = .stall id :=
  if_pos ((mwaitHeld_iff u c f).mp h)

theorem actMwait_done (h : ¬mwaitHeld u c f) : actMwait f u c at_ = .ok u .none :=
  if_neg (mt (mwaitHeld_iff u c f).mpr h)

/-- Settles O29: each operation passes its checks, and enters the queue or waits with what it read at issue. -/
theorem arrayOperationsQueue : Obligations.ArrayOperationsQueue := by
  intro f s
  refine ⟨?_, fun hi hfmt hkc hb => exec_of_ok rfl hi (issueAccum_gathered _ hb hfmt hkc), fun hi => ?_, fun hi => ?_⟩
  · simp only [List.forall_mem_cons]
    exact ⟨fun hi ha hb => exec_of_ok rfl hi (issueAccum_walked (siteOf s (.mma f)) hb ha),
      fun hi ha hb => exec_of_ok rfl hi (issueAccum_walked (siteOf s (.mmas f)) hb ha), List.forall_mem_nil _⟩
  · exact fun hbase hlist hrows => ⟨fun hw => exec_of_stall rfl hi (actMgth_waits (siteOf s (.mgth f)) hbase hlist hw),
      fun hw => exec_of_ok rfl hi (actMgth_queues (siteOf s (.mgth f)) hbase hlist hw hrows)⟩
  · exact ⟨fun h => exec_of_ok rfl hi (actMwait_done (siteOf s (.mwait f)) h),
      fun h => exec_of_stall rfl hi (actMwait_waits (siteOf s (.mwait f)) h)⟩

/-! ## Banks (R272, R273) -/

section Image
variable {va : Nat} {ks : List Nat} {t : Trap} (hva : itAddr (itOf (coreOf u c) f.ia.toNat) = va)
include hva

/-- A bank image leaves for its checked lines, each with a blank entry of the store queue (R273, R336). -/
theorem actAspl_ok (hk : imageCheck u c va .store = .ok ks) :
    let o := arrayEntry u c (.aspl f) (mBank u c f)
    let q := (List.range ks.length).foldl (fun (q : List (Nat × Nat × Nat) × State) j =>
      let r := enterBlank q.2 c o.id (blankLine (ks.getD j 0) 64)
      (q.1 ++ [(j, 0, r.1)], r.2)) ([], (freshId u).2)
    actAspl f u c at_ = .ok (enqueue q.2 c { o with walkA := [va], outs := q.1 }) .none := by
  simp only [actAspl, hva, hk]

theorem actAspl_trap (hk : imageCheck u c va .store = .error t) : actAspl f u c at_ = .trap t := by
  simp only [actAspl, hva, hk]

/-- A bank image is asked for, a load for each of its checked lines (R273). -/
theorem actAfil_ok (hk : imageCheck u c va .load = .ok ks) :
    let o := arrayEntry u c (.afil f) (mBank u c f)
    let v := (List.range ks.length).foldl (fun v j =>
      enterLoad (raceRead v c (wholeBits (ks.getD j 0) 64)) c (ks.getD j 0) 64 (.array o.id j)) (freshId u).2
    actAfil f u c at_ = .ok (enqueue v c { o with walkA := [va], out := ks.length }) .none := by
  simp only [actAfil, hva, hk]

theorem actAfil_trap (hk : imageCheck u c va .load = .error t) : actAfil f u c at_ = .trap t := by
  simp only [actAfil, hva, hk]

end Image

/-! ## Drains and projections (R274 to R276, R294, R295) -/

/-- The queue entry of an MDRN (R274). -/
def drainOp (u : State) (c : Nat) (f : MF) : ArrayOp :=
  { arrayEntry u c (.mdrn f) (mBank u c f) with
    walkA := if f.sel.toNat = 0 then [] else itWalk (count64 f.kc) (itOf (coreOf u c) f.ia.toNat)
    walkB := if bitsOf f.ext 16 15 = 1 then [] else itWalk (count64 f.kc) (itOf (coreOf u c) f.ib.toNat)
    vaDst := drainRegs (coreOf u c) f }

/-- The sets of a projection that read a forward row (R295). -/
abbrev readsForward (f : MF) : Prop := f.sel.toNat = 3 ∨ f.sel.toNat = 4

/-- The queue entry of a PRJA (R295). -/
def adjointOp (u : State) (c : Nat) (f : MF) : ArrayOp :=
  { arrayEntry u c (.prja f) (mBank u c f) with
    walkA := itWalk (count64 f.kc) (itOf (coreOf u c) f.ia.toNat)
    walkB := if bitsOf f.ext 16 15 = 1 then [] else itWalk (count64 f.kc) (itOf (coreOf u c) f.ib.toNat)
    walkC := if readsForward f then itWalk (count64 f.kc) (itOf (coreOf u c) (bitsOf f.ext 14 11)) else []
    vaDst := drainRegs (coreOf u c) f }

/-- A drain of translated rows is queued with a blank store for each of its elements (R276, R336). -/
theorem drainMem_ok {o : ArrayOp} {sp : Bool} {rows : List Nat} {ks : List (Nat × Nat × Nat)}
    (hk : drainKeys u c (codeBits f.fa.toNat / 8) (min o.mc (bankCols f.fa.toNat)) sp o.walkB rows (List.range (count64 f.kc))
      = .ok ks) :
    let q := drainEntries (freshId u).2 c o.id (fun k => .mem (lineOf k))
      (fun k => .store (blankLine k (codeBits f.fa.toNat / 8))) true ks
    drainMem u c o f sp rows = .ok (enqueue q.2 c { o with outs := q.1 }) .none := by
  simp only [drainMem, hk]

/-- A drain into an ACC tensor is queued with an add for each of its elements (R250, R276). -/
theorem drainAcc_ok {o : ArrayOp} {rows : List Nat} {ks : List (Nat × Nat × Nat)} {d : BitVec 512} {r : Bool}
    (hd : slotHandle u c 3 (drainHandle (coreOf u c) f) = .ok (d, r)) (hf : sameFamily f.fa.toNat (dFmt d) = true)
    (hk : addKeys u c (drainHandle (coreOf u c) f) d (min o.mc (bankCols f.fa.toNat)) o.walkB rows (List.range (count64 f.kc))
      = .ok ks) :
    let h := drainHandle (coreOf u c) f
    let add (k : Nat) : SqKind := .acc ⟨ctxOfCore u c, hIndex h, hGen h, k, dComb d, dFmt d, dElo d, f.fa.toNat, 0,
      stagesIn u c (hIndex h) (hGen h), some o.id, (coreOf u c).shadow.isSome⟩
    let q := drainEntries (freshId u).2 c o.id (fun k => .mem (lineOf k)) add false ks
    drainAcc u c o f rows = .ok (enqueue q.2 c { o with outs := q.1, desc := d }) .none := by
  simp only [drainAcc, hd, hf, Bool.not_true, Bool.false_eq_true, if_false, hk]

section Drain
variable (hrec : f.sel.toNat = 0 ∨ rowsCheck u (drainOp u c f).walkA 32 32 (List.range (count64 f.kc)) = none)
include hrec

/-- The record rows of a drain pass: it writes none, or each passes (R294). -/
theorem drainRecords_pass :
    (if f.sel.toNat = 0 then none else rowsCheck u (drainOp u c f).walkA 32 32 (List.range (count64 f.kc))) = none := by
  rcases hrec with hnone | hrows
  · exact if_pos hnone
  · rw [hrows, ite_self]

theorem actMdrn_registers (h0 : bitsOf f.ext 16 15 ≠ 0) (h2 : bitsOf f.ext 16 15 ≠ 2) :
    actMdrn f u c at_ = .ok (enqueue u c (drainOp u c f)) .none := by
  have hpass := drainRecords_pass hrec
  rw [drainOp] at hpass ⊢
  simp only [actMdrn, hpass]

theorem actMdrn_memory (h : bitsOf f.ext 16 15 = 0) :
    actMdrn f u c at_ = drainMem u c (drainOp u c f) f false (activeRows f (drainOp u c f).mr) := by
  have hpass := drainRecords_pass hrec
  rw [drainOp] at hpass ⊢
  simp only [actMdrn, hpass, h]

theorem actMdrn_tensor (h : bitsOf f.ext 16 15 = 2) :
    actMdrn f u c at_ = drainAcc u c (drainOp u c f) f (activeRows f (drainOp u c f).mr) := by
  have hpass := drainRecords_pass hrec
  rw [drainOp] at hpass ⊢
  simp only [actMdrn, hpass, h]

end Drain

section Adjoint
variable (hrec : rowsCheck u (adjointOp u c f).walkA 32 32 (List.range (count64 f.kc)) = none)
  (hfwd : readsForward f → rowsCheck u (adjointOp u c f).walkC
    (min (adjointOp u c f).mc (bankCols f.fa.toNat) * (codeBits f.fb.toNat / 8)) (codeBits f.fb.toNat / 8)
    (List.range (count64 f.kc)) = none)
include hrec hfwd

/-- The adjoint of a projection whose record and forward rows pass goes to registers or, row by row, to memory (R295). -/
theorem actPrja_passed : actPrja f u c at_ =
    if bitsOf f.ext 16 15 = 1 then .ok (enqueue u c (adjointOp u c f)) .none
    else drainMem u c (adjointOp u c f) f true (activeRows f (adjointOp u c f).mr) := by
  have hpass : (if readsForward f then rowsCheck u (adjointOp u c f).walkC
      (min (adjointOp u c f).mc (bankCols f.fa.toNat) * (codeBits f.fb.toNat / 8)) (codeBits f.fb.toNat / 8)
      (List.range (count64 f.kc)) else none) = none := ite_eq_right_iff.mpr hfwd
  rw [adjointOp] at hrec hpass ⊢
  simp only [actPrja, Bool.or_eq_true, decide_eq_true_eq, hrec, hpass, Option.none_or]

end Adjoint

/-- Settles O30: a bank operation acts, a transfer is queued once its image passes and a drain once its rows do, on the path that
its destination selects. -/
theorem banksAndDrainsQueue : Obligations.BanksAndDrainsQueue := by
  refine ⟨fun f s => ⟨fun hi => exec_of_ok rfl hi rfl, fun hi => exec_of_ok rfl hi rfl,
    fun hi ks hk => exec_of_ok rfl hi (actAspl_ok (siteOf s (.aspl f)) rfl hk),
    fun hi ks hk => exec_of_ok rfl hi (actAfil_ok (siteOf s (.afil f)) rfl hk),
    fun t => ⟨fun hk hi => exec_of_trap rfl hi (actAspl_trap (siteOf s (.aspl f)) rfl hk),
      fun hk hi => exec_of_trap rfl hi (actAfil_trap (siteOf s (.afil f)) rfl hk)⟩⟩,
    fun f s => ⟨fun hi hrec => ⟨fun h0 h2 => ?_, fun h0 ks hk => ?_, fun h2 d r ks hd hf hk => ?_⟩,
      fun hi hrec hfwd => ⟨fun h1 => ?_, fun h1 ks hk => ?_⟩⟩⟩
  · exact exec_of_ok rfl hi (actMdrn_registers (siteOf s (.mdrn f)) hrec h0 h2)
  · exact exec_of_ok rfl hi ((actMdrn_memory (siteOf s (.mdrn f)) hrec h0).trans (drainMem_ok hk))
  · exact exec_of_ok rfl hi ((actMdrn_tensor (siteOf s (.mdrn f)) hrec h2).trans (drainAcc_ok hd hf hk))
  · exact exec_of_ok rfl hi ((actPrja_passed (siteOf s (.prja f)) hrec hfwd).trans (if_pos h1))
  · exact exec_of_ok rfl hi ((actPrja_passed (siteOf s (.prja f)) hrec hfwd).trans ((if_neg h1).trans (drainMem_ok hk)))

end Sys2Proof.Proofs
end

section
/-!
PROOFS. The K slot (O31).
-/
namespace Sys2Proof.Proofs
open Machine Laws

/-- An operation that issues alone does what its meaning gives on every core it may act on. -/
theorem does_of_act {i : Instr} {slot : Nat} {p : State → Nat → Prop} {t : State → Nat → State} {e : State → Nat → Effects}
    (hs : slotOf i = some slot) (ha : ∀ u c at_, p u c → actOf i u c at_ = .ok (t u c) (e u c)) : Does i p t e :=
  does_of i slot (actOf i) p t e hs (fun s => exec_slot i slot s hs) fun _ => ha _ _ _

/-- The check of R280 passes an aligned address inside the scratchpad. -/
theorem kCheck_of_spReach {va : Nat} (h : spReach va 32) : kCheck va = none := by
  obtain ⟨hsp, hbounds, halign⟩ := h
  simp only [kCheck, hsp, hbounds, halign, Bool.not_true, Bool.or_self, Bool.false_eq_true, ne_eq, not_true_eq_false, if_false]

variable {f : KF} {u : State} {c : Nat} (at_ : Site)

/-- The scale of block j: from its stored magnitude, and from the underflow counter that KAUTO names (R281). -/
def autoScale (u : State) (c : Nat) (f : KF) (j : Nat) : Nat :=
  let w := ((coreOf u c).ufcnt[bitsOf f.imm 12 11]?.getD 0).toNat
  kautoScale ((fmtOf (bitsOf f.imm 7 4)).getD .i8) (bookOf (rdKb (coreOf u c) f.src.toNat).toNat)
    ((rmOf (bitsOf f.imm 10 8)).getD .rne) ((w >>> 32) % 2 ^ 16) (w >>> 48)
    (floatVal .f32 (spNum u (clusterOfCore c) (spOff (kAddr (coreOf u c) f) + 4 * j) 4)).abs

section Reach
variable (h : spReach (kAddr (coreOf u c) f) 32)
include h

theorem kLoad_ok (file : RegFile) : kLoad file f u c at_
    = .ok (setK u c 5 file f.dst.toNat (spNum u (clusterOfCore c) (spOff (kAddr (coreOf u c) f)) 32)) .none := by
  simp only [kLoad, kCheck_of_spReach h]

theorem actKsts_ok : actKsts f u c at_ = .ok u { Effects.none with
    sp := spWrites (clusterOfCore c) (spOff (kAddr (coreOf u c) f)) 32 (rdK (coreOf u c) f.src.toNat).toNat } := by
  simp only [actKsts, kCheck_of_spReach h]

theorem actKauto_ok :
    let g := bitsOf f.imm 14 13
    actKauto f u c at_ = .ok (pushFlight u c 4 1 (.reg .k f.dst.toNat) (ones 64 <<< (64 * g))
      (packFields 8 ((List.range 8).map (autoScale u c f)) <<< (64 * g)) 0 256) .none := by
  simp only [actKauto, kCheck_of_spReach h]
  rfl

end Reach

theorem actKmov_toK (h : f.imm.toNat = 0) :
    actKmov f u c at_ = .ok (setK u c 1 .k f.dst.toNat (rdK (coreOf u c) f.src.toNat).toNat) .none := by
  simp only [actKmov, h]

theorem actKmov_toKb (h : f.imm.toNat = 1) :
    actKmov f u c at_ = .ok (setK u c 1 .kb f.dst.toNat (rdK (coreOf u c) f.src.toNat).toNat) .none := by
  simp only [actKmov, h]

theorem actKmov_fromKb (h : f.imm.toNat = 2) :
    actKmov f u c at_ = .ok (setK u c 1 .k f.dst.toNat (rdKb (coreOf u c) f.src.toNat).toNat) .none := by
  simp only [actKmov, h]

/-- Settles O31, a row at a time: each is the model's own meaning of the operation, past the check of its address where it has
one. -/
theorem scaleSlotCompletes : Obligations.ScaleSlotCompletes := by
  intro f
  refine ⟨?_, ?_, ?_, fun h => ?_, fun h => ?_, fun h => ?_, ?_, ?_, ?_, ?_, ?_, ?_, rfl, ?_⟩
  · exact does_of_act rfl fun _ _ at_ h => kLoad_ok at_ h .k
  · exact does_of_act rfl fun _ _ at_ h => kLoad_ok at_ h .kb
  · exact does_of_act rfl fun _ _ at_ h => actKsts_ok at_ h
  · exact does_of_act rfl fun _ _ at_ _ => actKmov_toK at_ h
  · exact does_of_act rfl fun _ _ at_ _ => actKmov_toKb at_ h
  · exact does_of_act rfl fun _ _ at_ _ => actKmov_fromKb at_ h
  · exact does_of_act rfl fun _ _ at_ h => actKauto_ok at_ h
  · exact does_of_act rfl fun _ _ _ _ => rfl
  · exact does_of_act rfl fun _ _ _ _ => rfl
  · exact does_of_act rfl fun _ _ _ _ => rfl
  · exact does_of_act rfl fun _ _ _ _ => rfl
  · show Leaves (.itstep f) (fun _ _ => True) fun u _ => u
    exact does_of_act rfl fun _ _ _ _ => rfl
  · exact does_of_act rfl fun _ _ _ _ => rfl

end Sys2Proof.Proofs
end

section
/-!
PROOFS. The steps of the array queue and of the level-0 queue (O37).
-/
namespace Sys2Proof.Proofs
open Machine Laws

variable {s : State} {c k : Nat}

/-! ## The array queue (R262 to R264) -/

theorem arrayOpStart_starts {id : Nat} (hm : mayStart (coreOf s c).arrayQ = some id) (hw : ownsCycles s c = true) :
    exec (.arrayOpStart c) s = .next (modCore s c fun x =>
      { x with arrayQ := x.arrayQ.map fun o => if o.id = id then { o with started := true } else o }) := by
  show execArrayOpStart c s = _
  simp only [execArrayOpStart, hm, hw, if_true]

/-- The state in which core c completes an operation: the other core of its cluster has made some of its accesses (R279). -/
def besideTouched (s : State) (c : Nat) : State := touchQueue s (c + 1 - 2 * (c % 2))

section Complete
variable {o : ArrayOp} {r : List ArrayOp} (hq : (coreOf (besideTouched s c) c).arrayQ = o :: r)
include hq

/-- The first operation has its effect: it leaves the queue, or stays until its entries are acknowledged (R264, R277). -/
theorem arrayOpComplete_runs (hd : o.drained = false) (hs : o.started = true) (hw : ownsCycles (besideTouched s c) c = true)
    (ho : o.out = 0) :
    let v := besideTouched s c
    let r := finishArray v c o
    let w := noteEffect v r.1 c o.id false
    exec (.arrayOpComplete c) s = .next (if o.outs.isEmpty then leaveQueue w c o r.2
      else modCore w c fun x =>
        { x with arrayQ := x.arrayQ.map fun p => if p.id = o.id then { p with drained := true, flags := r.2 } else p }) := by
  show execArrayOpComplete c s = _
  rw [besideTouched] at hq hw
  simp only [execArrayOpComplete, hq, hd, hs, hw, ho, Bool.false_eq_true, if_false, Bool.not_true, Bool.or_self, ne_eq,
    not_true_eq_false, decide_false, besideTouched, apply_ite Host.Outcome.next]

/-- A drained operation whose entries are acknowledged leaves the queue (R277). -/
theorem arrayOpComplete_acknowledged (hd : o.drained = true) (ho : arrayOwes (besideTouched s c) c o = false) :
    exec (.arrayOpComplete c) s = .next (leaveQueue (besideTouched s c) c o o.flags) := by
  show execArrayOpComplete c s = _
  rw [besideTouched] at hq ho
  simp only [execArrayOpComplete, hq, hd, ho, Bool.false_eq_true, if_true, if_false, besideTouched]

end Complete

theorem mwinModeTakeEffect_idle {m : Nat} (hm : (clusterOf s k).modePending = some m) (hi : arrayIdle s k = true) :
    exec (.mwinModeTakeEffect k) s = .next (modCluster s k fun y => { y with mode := m, modePending := none }) := by
  show execMwinModeTakeEffect k s = _
  simp only [execMwinModeTakeEffect, hm, hi, if_true]

/-! ## Level-0 instructions (R219) -/

/-- The first level-0 instruction that is not done starts once acc0 is free and what it waits for holds. -/
theorem l0TileStart_ready {l : L0Inst} (hl : ((coreOf s c).l0q.find? fun l => !l.done) = some l) (hs : l.started = false)
    (hafter : ((coreOf s c).arrayQ.any fun o => l.after.contains o.id) = false)
    (hbusy : bankBusy s (clusterOfCore c) (physBank (coreOf s c) c 0) = false)
    (hres : (bankOf s (clusterOfCore c) (physBank (coreOf s c) c 0)).resident = none)
    (hwait : waitHolds s l.inst = true) (hown : ownsCycles s c = true) :
    let b := physBank (coreOf s c) c 0
    exec (.l0TileStart c) s = .next (modBank (putLocal s c { l with started := true, bank := b }) (clusterOfCore c) b
      fun y => { y with held := true }) := by
  show execL0TileStart c s = _
  simp only [execL0TileStart, hl, hs, hafter, hbusy, hres, hwait, hown, Option.isNone_none, Bool.not_false, Bool.and_self, if_true]

/-- The level-0 instruction l is done with flags: acc0 keeps its accumulator, and its counts fall. -/
def retireLocal (v : State) (c : Nat) (l : L0Inst) (flags : Nat) (r : LeafRes) : State :=
  let v := keepAcc (pastLeaf v) (clusterOfCore c) l.bank (decide (oFmt l.inst.a = 6)) r
  lowerReaders (putLocal v c { l with done := true, status := BitVec.ofNat 64 flags }) l.inst.ctx l.inst.counts

/-- The running level-0 instruction retires with its outputs in place, and signals its event if it names one. -/
theorem l0TileRetire_placed {l : L0Inst} (hl : ((coreOf s c).l0q.find? fun l => l.started && !l.done) = some l)
    {r : LeafRes} {us : List Placed} (hr : localResult (raceLeaf s c l.inst) c l.inst = .ok r)
    (hu : allOf (place (raceLeaf s c l.inst) c l.inst none) r.outs = .ok us) :
    let q := us.foldl (landPlaced 0) (raceOuts (raceLeaf s c l.inst) c us, r.flags)
    let v := retireLocal q.1 c l q.2 r
    exec (.l0TileRetire c) s = .next (if evIdx l.inst.tile.sigw = 0 then v
      else raiseEvent v l.inst.ctx (evIdx l.inst.tile.sigw) (evVal l.inst.tile.sigw)) := by
  show execL0TileRetire c s = _
  simp only [execL0TileRetire, hl, hr, hu]
  rfl

/-- Settles O37, one step at a time: each is the model's function for it, in the branch that its hypotheses select. -/
theorem arrayStepsComplete : Obligations.ArrayStepsComplete := by
  intro c k s
  refine ⟨fun id => arrayOpStart_starts, fun o r hq => ⟨fun hd hs hw ho => ⟨fun hnone => ?_, fun hsome => ?_⟩, ?_⟩,
    fun m => mwinModeTakeEffect_idle, fun l => l0TileStart_ready, fun l hl r us => l0TileRetire_placed hl⟩
  · exact (arrayOpComplete_runs hq hd hs hw ho).trans (congrArg _ (if_pos (List.isEmpty_iff.mpr hnone)))
  · exact (arrayOpComplete_runs hq hd hs hw ho).trans (congrArg _ (if_neg (mt List.isEmpty_iff.mp hsome)))
  · exact arrayOpComplete_acknowledged hq

end Sys2Proof.Proofs
end

section
/-!
PROOFS. The head check of the vector operations (O28).
-/
namespace Sys2Proof.Proofs
open Machine Laws

variable {i : Instr} {v : VUse} {f : VF} {u : State} {c : Nat} {t : Trap}

/-! ## Every vector operation checks its head before it acts (R229) -/

theorem slotOf_vector (hv : vUses i = some v) : slotOf i = some (vSlotNo v.x) := by
  cases i
  case vmcnt x f =>
    obtain rfl := Option.some.inj hv
    rw [apply_ite VUse.x, ite_self]
    rfl
  all_goals
    cases hv
  all_goals
    rfl

theorem vElems_error (x : VSlot) (ht : vHead u c f = .error t) : vElems u c x f = .error t := by
  simp only [vElems, ht]

/-- A vector operation begins with its head check: each meaning comes down to a match on the elements that the check admits. -/
theorem actOf_trap_of_head (hv : vUses i = some v) (at_ : Site) (ht : vHead u c v.f = .error t) :
    actOf i u c at_ = .trap t := by
  cases i
  case vmcnt x f =>
    obtain rfl := Option.some.inj hv
    rw [apply_ite VUse.f, ite_self] at ht
    conv => lhs; whnf
    rw [vElems_error x ht]
  all_goals
    cases hv
  all_goals
    conv => lhs; whnf
    rw [vElems_error _ ht]

/-! ## What the head check finds (R319, R322) -/

section Check
variable (hn : f.hsub.toNat ≠ 0)
include hn

theorem vHead_unbound (hb : (headOf (coreOf u c) f.head.toNat).bound = false) :
    vHead u c f = .error (trapOf 0x0D f.head.toNat) := by
  simp only [vHead, headUse, hn, hb, if_false, Bool.false_and, Bool.false_eq_true, Bool.not_false, if_true]

theorem vHead_width (hb : (headOf (coreOf u c) f.head.toNat).bound = true)
    (hw : 8 * (headOf (coreOf u c) f.head.toNat).ew ≠ vW f) : vHead u c f = .error (trapOf 0x0D f.head.toNat) := by
  simp only [vHead, hn, hb, hw, if_false, ne_eq, not_false_eq_true, decide_true, Bool.and_self, if_true]

/-- An empty head at its end traps, whatever its width. -/
theorem vHead_ended (hb : (headOf (coreOf u c) f.head.toNat).bound = true)
    (hfill : headFill (headOf (coreOf u c) f.head.toNat) = 0) (hend : headEnd u c f.head.toNat = true) :
    vHead u c f = .error (trapOf 0x0D f.head.toNat) := by
  by_cases hw : 8 * (headOf (coreOf u c) f.head.toNat).ew = vW f
  · simp only [vHead, headUse, hn, hb, hw, hfill, hend, if_false, ne_eq, not_true_eq_false, decide_false, Bool.and_false,
      Bool.false_eq_true, Bool.not_true, if_true]
  · exact vHead_width hn hb hw

end Check

/-- A head whose counts agree holds no entry (R318). -/
theorem headFill_eq_zero {y : Head} (h : y.pptr = y.cptr) : headFill y = 0 := by
  rw [headFill, h, BitVec.sub_self]
  rfl

theorem headEnd_closed {h : Nat} (hsrc : (headOf (coreOf u c) h).src = .str)
    (hc : (headSupply u c (headOf (coreOf u c) h)).closed = true)
    (ho : (headSupply u c (headOf (coreOf u c) h)).offered ≤ (headSupply u c (headOf (coreOf u c) h)).fetched) :
    headEnd u c h = true := by
  simp only [headEnd, hsrc, hc, ho, decide_true, Bool.and_self]

/-- Settles O28: each of the three heads fails the check with which every vector operation begins. -/
theorem vectorHeadTraps : Obligations.VectorHeadTraps := by
  intro i v s hv hi hn h y q t
  have taken (ht : vHead (landed s) s.cur v.f = .error t) : exec i s = .next (trapped s i t) :=
    exec_of_trap (slotOf_vector hv) hi (actOf_trap_of_head hv _ ht)
  exact ⟨fun hb => taken (vHead_unbound hn hb), fun hb hw => taken (vHead_width hn hb hw),
    fun hb hp hsrc hc ho => taken (vHead_ended hn hb (headFill_eq_zero hp) (headEnd_closed hsrc hc ho))⟩

end Sys2Proof.Proofs
end

section
/-!
PROOFS. The C slots: what forks an engine operation, copies and slots (O32).
-/
namespace Sys2Proof.Proofs
open Machine Laws

variable {y : CSlot} {f : CF} {u : State} {c : Nat} (at_ : Site)

/-! ## Places and forks (R172, R312) -/

/-- The check of n bytes at a scratchpad address passes an aligned one inside the scratchpad. -/
theorem cSpot_eq_none {va n al : Nat} (slot : Nat) (hsp : isSp va = true) (hb : spBounds va n = true) (ha : va % al = 0) :
    cSpot va n al slot = none := by
  simp only [cSpot, hsp, hb, ha, Bool.not_true, Bool.or_self, Bool.false_eq_true, ne_eq, not_true_eq_false, if_false]

theorem cSpot_of_spReach {va n : Nat} (slot : Nat) (h : spReach va n) : cSpot va n n slot = none := by
  obtain ⟨hsp, hb, ha⟩ := h
  exact cSpot_eq_none slot hsp hb ha

/-- The walk address of an operation, if it takes one, passes its check. -/
theorem walkSpot_pass {va n slot : Nat} (h : cIw f = true → cSpot va n 1 slot = none) :
    (if cIw f then cSpot va n 1 slot else none) = none :=
  ite_eq_right_iff.mpr h

/-- The side that a walk address replaces, if the operation takes one (R311). -/
abbrev walkOr (u : State) (c : Nat) (f : CF) (va : Nat) : Nat := if cIw f then cWalk (coreOf u c) f else va

theorem fork_ok {o : EngOp} (h : enginePlaces u (clusterOfCore o.core) < 16) : fork u o = .ok (addOp u o) .none := by
  simp only [fork, Nat.not_le.mpr h, if_false]

/-- A result in flight takes no engine place: the heads of every core stay. -/
theorem enginePlaces_pushFlight (slot lat : Nat) (d : Dest) (mask val flags gran k : Nat) :
    enginePlaces (pushFlight u c slot lat d mask val flags gran) k = enginePlaces u k := by
  have hheads (j : Nat) : (coreOf (pushFlight u c slot lat d mask val flags gran) j).heads = (coreOf u j).heads := by
    by_cases hj : j = c
    · subst hj
      rw [pushFlight, coreOf_modCore_same]
      rfl
    · rw [pushFlight, coreOf_modCore_other _ _ _ _ hj]
      rfl
  simp only [enginePlaces, strHeads, hheads]
  rfl

theorem enginePlaces_advance (n k : Nat) (src dst : Bool) : enginePlaces (advance u c y f n src dst) k = enginePlaces u k := by
  rw [advance]
  split
  · exact enginePlaces_pushFlight _ _ _ _ _ _ _ _
  · rfl

/-! ## Copies and slots (R316, R317) -/

/-- A copy that fills entries of a head. -/
def headCopyOp (u : State) (c : Nat) (f : CF) (d : CDesc) (src : List Span) : EngOp :=
  let q := headOf (coreOf u c) (cHead f)
  { blankOp u c .copy d src (entrySpans c q (nextEntry q) (d.len / q.ew)) with head := some (cHead f) }

section Copies
variable {d : CDesc} (hd : pairOf u c y f at_ = .ok d) (hplace : enginePlaces u (clusterOfCore c) < 16)
include hd hplace

theorem actCopy_memory (hto : toHead f = false) {src dst : List Span}
    (hsrc : sideOf u c (cSlotNo y) d.src d.len .load = .ok src)
    (hspot : cIw f = true → cSpot (walkOr u c f d.dst) d.len 1 (cSlotNo y) = none)
    (hdst : sideOf u c (cSlotNo y) (walkOr u c f d.dst) d.len .store = .ok dst) :
    actCopy y f u c at_ = .ok
      (addOp (advance u c y f d.len (!isSp d.src) (!cIw f && !isSp d.dst)) (blankOp u c .copy d src dst)) .none := by
  simp only [actCopy, hd, hsrc, hto, walkSpot_pass hspot, hdst, Bool.false_eq_true, if_false]
  exact fork_ok (Nat.lt_of_le_of_lt (Nat.le_of_eq (enginePlaces_advance _ _ _ _)) hplace)

theorem actCopy_head {q : Head} (hto : toHead f = true) {src : List Span}
    (hsrc : sideOf u c (cSlotNo y) d.src d.len .load = .ok src) (hq : headOf (coreOf u c) (cHead f) = q) (hb : q.bound = true)
    (hk : q.src = .copy) (hw : d.len % max q.ew 1 = 0) (hn : d.len / max q.ew 1 ≤ q.nent) :
    let o := headCopyOp u c f d src
    actCopy y f u c at_ = .ok (advance (allocHead (addOp u o) c (cHead f) o.id (d.len / q.ew)) c y f d.len (!isSp d.src) false)
      .none := by
  simp only [actCopy, hd, hsrc, hto, hq, hb, hk, hw, Nat.not_lt.mpr hn, Nat.not_le.mpr hplace, Bool.not_true, ne_eq,
    not_true_eq_false, decide_false, Bool.or_self, Bool.false_eq_true, if_false, if_true, headCopyOp]

theorem actCprf_ok (hlen : d.len = 4096) (halign : d.src % 4096 = 0)
    (hspot : cSpot (cWalk (coreOf u c) f) 4096 4096 (cSlotNo y) = none) {src : List Span}
    (hsrc : sideOf u c (cSlotNo y) d.src 4096 .load = .ok src)
    (hopen : bitOf f.opnds 0 = true → (openHandle u (ctxOfCore u c) (BitVec.ofNat 64 d.dst)).isSome = true) :
    let wa := cWalk (coreOf u c) f
    let h := BitVec.ofNat 64 d.dst
    actCprf y f u c at_ = .ok (addOp (advance u c y f 4096 (!isSp d.src) false)
      { blankOp u c .cprf d src (cutSpans [⟨0, 4096, .sp (clusterOfCore c) (spOff wa), 255⟩]) with
        tag := if bitOf f.opnds 0
          then some (spOff wa / 4096, some (tagKeyOf (ctxOfCore u c) h (BitVec.ofNat 64 d.src))) else none }) .none := by
  have hgen : (bitOf f.opnds 0 && (openHandle u (ctxOfCore u c) (BitVec.ofNat 64 d.dst)).isNone) = false := by
    cases hb : bitOf f.opnds 0
    · rfl
    · rw [Bool.true_and, ← Option.not_isSome, hopen hb]
      rfl
  simp only [actCprf, hd, hlen, halign, hspot, hsrc, hgen, ne_eq, not_true_eq_false, Bool.false_eq_true, if_false]
  exact fork_ok (Nat.lt_of_le_of_lt (Nat.le_of_eq (enginePlaces_advance _ _ _ _)) hplace)

theorem actCwb_ok (hlen : d.len = 4096) (halign : d.dst % 4096 = 0)
    (hspot : cSpot (cWalk (coreOf u c) f) 4096 4096 (cSlotNo y) = none) {dst : List Span}
    (hdst : sideOf u c (cSlotNo y) d.dst 4096 .store = .ok dst) :
    let wa := cWalk (coreOf u c) f
    actCwb y f u c at_ = .ok (addOp (advance u c y f 4096 false (!isSp d.dst))
      { blankOp u c .cwb d (cutSpans [⟨0, 4096, .sp (clusterOfCore c) (spOff wa), 255⟩]) dst with
        tag := if bitOf f.opnds 0 then some (spOff wa / 4096, none) else none }) .none := by
  simp only [actCwb, hd, hlen, halign, hspot, hdst, ne_eq, not_true_eq_false, if_false]
  exact fork_ok (Nat.lt_of_le_of_lt (Nat.le_of_eq (enginePlaces_advance _ _ _ _)) hplace)

end Copies

/-- Settles O32: an operation that issues has a place in the engine, so that it forks once its sides pass their checks. -/
theorem copiesFork : Obligations.CopiesFork := by
  intro y f s u c x slot k walk page
  have place (i : Instr) (hi : issues s i = true) (he : entersEngine i = true) : enginePlaces u (clusterOfCore c) < 16 :=
    issues_places s i hi he
  refine ⟨fun hi hto d src dst hd hsrc hspot hdst => ?_, fun hi hto d src hd hsrc hb hk hw hn => ?_,
    fun hi d src hd hlen halign hspot hsrc hopen => ?_, fun hi d dst hd hlen halign hspot hdst => ?_⟩
  · exact exec_of_ok rfl hi (actCopy_memory _ hd (place _ hi rfl) hto hsrc hspot hdst)
  · exact exec_of_ok rfl hi (actCopy_head _ hd (place _ hi rfl) hto hsrc rfl hb hk hw hn)
  · exact exec_of_ok rfl hi (actCprf_ok _ hd (place _ hi rfl) hlen halign hspot hsrc hopen)
  · exact exec_of_ok rfl hi (actCwb_ok _ hd (place _ hi rfl) hlen halign hspot hdst)

end Sys2Proof.Proofs
end

section
/-!
PROOFS. The C slots: stream heads, barriers and status (O33).
-/
namespace Sys2Proof.Proofs
open Machine Laws

variable {y : CSlot} {f : CF} {u : State} {c : Nat} (at_ : Site)

/-! ## Heads (R319 to R323) -/

/-- The state in which a binding of core c takes the record of an STR tensor as its consumer (R319). -/
def takeStream (u : State) (c : Nat) (r : Option TensorRec) : State :=
  match r with
  | some t => putRec u { recOf u t.ctx t.index t.gen with consumer := some c }
  | none => u

/-- The source of a binding by its kind (R319). -/
def sourceOf (kind : Nat) : HeadSrc :=
  match kind with
  | 1 => .str
  | 2 => .copy
  | 3 => .channel
  | _ => .software

theorem sourceOf_eq : ∀ kind : Nat,
    sourceOf kind = if kind = 1 then .str else if kind = 2 then .copy else if kind = 3 then .channel else .software
  | 0 | 1 | 2 | 3 | _ + 4 => rfl

section Bind
variable (hfill : headFilling u c (cHead f) = false)
include hfill

theorem actSbind_unbinds (hun : bitOf f.opnds 27 = true) :
    actSbind y f u c at_ = .ok (unbindHead u c (cHead f)) .none := by
  simp only [actSbind, hun, hfill, Bool.false_eq_true, if_false, if_true]

theorem actSbind_binds (hun : bitOf f.opnds 27 = false) {d : CDesc} {r : Option TensorRec}
    (hd : pairOf u c y f at_ = .ok d)
    (hbuf : bufferCheck d.dst d.len (32 * 2 ^ bitsOf f.opnds 29 28) at_ (cSlotNo y) = none)
    (hsrc : sourceCheck u c y f (bitsOf f.opnds 31 30) d at_ = .ok r) :
    let kind := bitsOf f.opnds 31 30
    let ew := 32 * 2 ^ bitsOf f.opnds 29 28
    let srcv := if kind = 1 then BitVec.ofNat 64 d.src else if kind = 3 then f.chan.setWidth 64 else 0
    actSbind y f u c at_ = .ok (modCore (takeStream (unbindHead u c (cHead f)) c r) c fun x =>
      setHead x (cHead f) ⟨true, d.dst, d.len / ew, ew, sourceOf kind, srcv, 0, 0, 0, []⟩) .none := by
  simp only [actSbind, hun, hd, hbuf, hsrc, hfill, Bool.false_eq_true, if_false, BitVec.ofNat_toNat]
  rfl

end Bind

section Counts
variable (y)

theorem actSwtf_zero (hn : cCount f = 0) : actSwtf y f u c at_ = .ok u .none := by
  simp only [actSwtf, hn, if_true]

theorem actSwte_zero (hn : cCount f = 0) : actSwte y f u c at_ = .ok u .none := by
  simp only [actSwte, hn, if_true]

variable {q : Head} (hq : headOf (coreOf u c) (cHead f) = q) (hb : q.bound = true) (hpos : 0 < cCount f) (hle : cCount f ≤ q.nent)
include hq hb hpos hle

theorem actSadv_of_producer (hprod : bitOf f.opnds 31 = true) (hsrc : q.src = .software) :
    actSadv y f u c at_ = if headFree q < cCount f then .stall id
      else .ok u { Effects.none with sadv := [(cHead f, true, cCount f)] } := by
  simp only [actSadv, hq, hb, Nat.ne_of_gt hpos, Nat.not_lt.mpr hle, hprod, hsrc, Bool.not_true, decide_false, Bool.or_self, ne_eq,
    not_true_eq_false, Bool.and_false, Bool.false_eq_true, if_false, if_true]

theorem actSadv_of_consumer (hprod : bitOf f.opnds 31 = false) :
    actSadv y f u c at_ = if headFill q < cCount f
      then if headFill q = 0 && headEnd u c (cHead f) then .trap (trapOf 0x0D (cHead f)) else .stall id
      else .ok u { Effects.none with sadv := [(cHead f, false, cCount f)] } := by
  simp only [actSadv, hq, hb, Nat.ne_of_gt hpos, Nat.not_lt.mpr hle, hprod, Bool.not_true, decide_false, Bool.or_self,
    Bool.false_and, Bool.false_eq_true, if_false]

theorem actSwtf_of_pos : actSwtf y f u c at_ = if cCount f ≤ headFill q then .ok u .none
    else if headEnd u c (cHead f) then .trap (trapOf 0x0D (cHead f)) else .stall id := by
  simp only [actSwtf, hq, hb, Nat.ne_of_gt hpos, Nat.not_lt.mpr hle, Bool.not_true, decide_false, Bool.or_self, Bool.false_eq_true,
    if_false]

theorem actSwte_of_pos : actSwte y f u c at_ = if cCount f ≤ headFree q then .ok u .none else .stall id := by
  simp only [actSwte, hq, hb, Nat.ne_of_gt hpos, Nat.not_lt.mpr hle, Bool.not_true, decide_false, Bool.or_self, Bool.false_eq_true,
    if_false]

end Counts

theorem actSclose_forks {d : CDesc} {e : BitVec 512} {r : Bool} {t : TensorRec} (hd : pairOf u c y f at_ = .ok d)
    (hh : slotHandle u c (cSlotNo y) (BitVec.ofNat 64 d.src) = .ok (e, r)) (hmixed : dMixed e = false) (hrole : dRole e = 1)
    (ht : recOf u (ctxOfCore u c) (hIndex (BitVec.ofNat 64 d.src)) (hGen (BitVec.ofNat 64 d.src)) = t)
    (hopen : t.closing = false) (hprod : t.producer = some c)
    (hplace : enginePlaces (putRec u { t with closing := true }) (clusterOfCore c) < 16) :
    actSclose y f u c at_ = .ok (addOp (putRec u { t with closing := true })
      { blankOp u c .sclose d [] [] with handle := BitVec.ofNat 64 d.src }) .none := by
  simp only [actSclose, hd, hh, hmixed, hrole, ht, hopen, hprod, ne_eq, not_true_eq_false, decide_false, Bool.or_self,
    Bool.false_eq_true, if_false]
  exact fork_ok hplace

/-! ## Barriers, waits and status (R326, R329, R330) -/

theorem actCarm_ok {d : CDesc} (hd : pairOf u c y f at_ = .ok d) :
    actCarm y f u c at_ = .ok (pushFlight u c (cSlotNo y) 1 (.barrier (bitsOf f.opnds 2 0) (bitOf f.opnds 31)) (2 ^ 48 - 1)
      (d.dst % 2 ^ 48) 0 0) .none := by
  simp only [actCarm, hd, ones]

/-- What a CWAIT waits for is done: a barrier's count, a completion word, or the core's engine operations (R326). -/
def waitDone (u : State) (c : Nat) (f : CF) : Bool :=
  let k := clusterOf u (clusterOfCore c)
  match bitsOf f.opnds 31 30 with
  | 0 => decide ((k.barriers[bitsOf f.opnds 2 0]?.getD ⟨0, false⟩).count.toInt ≤ 0)
  | 1 => (spNum u (clusterOfCore c) (spOff (cWalk (coreOf u c) f)) 8).testBit 63
  | _ => !k.engine.any fun o => o.core = c

theorem waitDone_iff : waitDone u c f = true ↔
    let k := clusterOf u (clusterOfCore c)
    if bitsOf f.opnds 31 30 = 0 then (k.barriers[bitsOf f.opnds 2 0]?.getD ⟨0, false⟩).count.toInt ≤ 0
    else if bitsOf f.opnds 31 30 = 1 then (spNum u (clusterOfCore c) (spOff (cWalk (coreOf u c) f)) 8).testBit 63 = true
    else ∀ o ∈ k.engine, o.core ≠ c := by
  rw [waitDone]
  generalize bitsOf f.opnds 31 30 = mode
  match mode with
  | 0 => exact decide_eq_true_iff
  | 1 => exact Iff.rfl
  | _ + 2 => simp

/-- A CWAIT completes once what it waits for is done, past the check of its completion word if it waits for one. -/
theorem actCwait_eq
    (hword : bitsOf f.opnds 31 30 = 1 → isSp (cWalk (coreOf u c) f) = true ∧ spBounds (cWalk (coreOf u c) f) 8 = true) :
    actCwait y f u c at_ = if waitDone u c f then .ok u .none else .stall id := by
  rw [actCwait, waitDone]
  generalize bitsOf f.opnds 31 30 = mode at hword ⊢
  match mode with
  | 0 => simp only [decide_eq_true_eq]
  | 1 =>
    obtain ⟨hsp, hb⟩ := hword rfl
    simp only [cSpot_eq_none _ hsp hb (Nat.mod_one _)]
  | _ + 2 => simp only [Bool.not_eq_true', ← Bool.not_eq_true, ite_not]

/-- The snapshot that CSTAT takes (R329). -/
def statusRecord (u : State) (c : Nat) (f : CF) : Nat :=
  match bitsOf f.opnds 31 29 with
  | 0 => headRecord u c (cHead f)
  | 1 => barrierRecord (clusterOf u (clusterOfCore c)) 0
  | 2 => barrierRecord (clusterOf u (clusterOfCore c)) 4
  | _ => engineRecord u (clusterOfCore c)

theorem statusRecord_eq : statusRecord u c f =
    if bitsOf f.opnds 31 29 = 0 then headRecord u c (cHead f)
    else if bitsOf f.opnds 31 29 = 1 then barrierRecord (clusterOf u (clusterOfCore c)) 0
    else if bitsOf f.opnds 31 29 = 2 then barrierRecord (clusterOf u (clusterOfCore c)) 4
    else engineRecord u (clusterOfCore c) := by
  rw [statusRecord]
  generalize bitsOf f.opnds 31 29 = kind
  match kind with
  | 0 | 1 | 2 | _ + 3 => rfl

section Transfer
variable (h : spReach (cWalk (coreOf u c) f) 32)
include h

theorem actCstat_ok : actCstat y f u c at_ = .ok u { Effects.none with
    sp := spWrites (clusterOfCore c) (spOff (cWalk (coreOf u c) f)) 32 (statusRecord u c f) } := by
  simp only [actCstat, cSpot_of_spReach _ h]
  rfl

theorem actCdesc_stores (hs : bitOf f.opnds 0 = true) : actCdesc y f u c at_ = .ok u { Effects.none with
    sp := spWrites (clusterOfCore c) (spOff (cWalk (coreOf u c) f)) 32 (rdE (coreOf u c) (isCb y) f.desc.toNat).toNat } := by
  simp only [actCdesc, cSpot_of_spReach _ h, hs, if_true]

theorem actCdesc_loads (hs : bitOf f.opnds 0 = false) : actCdesc y f u c at_ =
    .ok (pushFlight u c (cSlotNo y) 5 (.reg (if isCb y then .eb else .ea) f.desc.toNat) (2 ^ 256 - 1)
      (spNum u (clusterOfCore c) (spOff (cWalk (coreOf u c) f)) 32) 0 256) .none := by
  simp only [actCdesc, cSpot_of_spReach _ h, hs, Bool.false_eq_true, if_false, ones]

end Transfer

/-- Settles O33: each operation takes the branch of its meaning that the state of its head, barrier or engine selects. -/
theorem headsAndStatusComplete : Obligations.HeadsAndStatusComplete := by
  refine ⟨fun y f s => ⟨fun hi hfill => ⟨fun hun => ?_, fun hun d r hd hbuf hsrc => ?_⟩,
      fun hi hb hpos hle => ⟨fun hprod hsoft => ?_, fun hprod => ?_⟩, fun hn => ⟨fun hi => ?_, fun hi => ?_⟩,
      fun hi hb hpos hle => ?_, fun hi hb hpos hle => ?_, fun hi d e r hd hh hmixed hrole hopen hprod hplace => ?_⟩,
    fun y f s => ⟨fun hi d hd => ?_, fun hi hword => ?_,
      fun hreach => ⟨fun hi => ?_, fun hi => ⟨fun hs => ?_, fun hs => ?_⟩⟩⟩⟩
  · exact exec_of_ok rfl hi (actSbind_unbinds _ hfill hun)
  · refine (exec_of_ok rfl hi (actSbind_binds _ hfill hun hd hbuf hsrc)).trans ?_
    rw [sourceOf_eq]
    rfl
  · have hact := actSadv_of_producer y (siteOf s (.sadv y f)) rfl hb hpos hle hprod hsoft
    exact ⟨fun hroom => exec_of_ok rfl hi (hact.trans (if_neg (Nat.not_lt.mpr hroom))),
      fun hfull => exec_of_stall rfl hi (hact.trans (if_pos hfull))⟩
  · have hact := actSadv_of_consumer y (siteOf s (.sadv y f)) rfl hb hpos hle hprod
    refine ⟨fun hhas => exec_of_ok rfl hi (hact.trans (if_neg (Nat.not_lt.mpr hhas))),
      fun hshort hmore => exec_of_stall rfl hi (hact.trans ((if_pos hshort).trans (if_neg ?_))),
      fun hempty hend => exec_of_trap rfl hi (hact.trans ((if_pos (hempty ▸ hpos)).trans (if_pos ?_)))⟩
    · rcases hmore with h | h
      all_goals simp [h]
    · rw [hempty, hend]
      rfl
  · exact exec_of_ok rfl hi (actSwtf_zero y (siteOf s (.swtf y f)) hn)
  · exact exec_of_ok rfl hi (actSwte_zero y (siteOf s (.swte y f)) hn)
  · have hact := actSwtf_of_pos y (siteOf s (.swtf y f)) rfl hb hpos hle
    exact ⟨fun hhas => exec_of_ok rfl hi (hact.trans (if_pos hhas)),
      fun hshort hmore =>
        exec_of_stall rfl hi (hact.trans ((if_neg (Nat.not_le.mpr hshort)).trans (if_neg (ne_true_of_eq_false hmore)))),
      fun hshort hend => exec_of_trap rfl hi (hact.trans ((if_neg (Nat.not_le.mpr hshort)).trans (if_pos hend)))⟩
  · have hact := actSwte_of_pos y (siteOf s (.swte y f)) rfl hb hpos hle
    exact ⟨fun hroom => exec_of_ok rfl hi (hact.trans (if_pos hroom)),
      fun hfull => exec_of_stall rfl hi (hact.trans (if_neg (Nat.not_le.mpr hfull)))⟩
  · exact exec_of_ok rfl hi (actSclose_forks _ hd hh hmixed hrole rfl hopen hprod hplace)
  · exact exec_of_ok rfl hi (actCarm_ok _ hd)
  · have hact := actCwait_eq (y := y) (siteOf s (.cwait y f)) hword
    exact ⟨fun hdone => exec_of_ok rfl hi (hact.trans (if_pos (waitDone_iff.mpr hdone))),
      fun hnot => exec_of_stall rfl hi (hact.trans (if_neg (mt waitDone_iff.mp hnot)))⟩
  · refine (exec_of_ok rfl hi (actCstat_ok (y := y) (siteOf s (.cstat y f)) hreach)).trans ?_
    rw [statusRecord_eq]
    rfl
  · exact exec_of_ok rfl hi (actCdesc_stores (siteOf s (.cdesc y f)) hreach hs)
  · exact exec_of_ok rfl hi (actCdesc_loads (siteOf s (.cdesc y f)) hreach hs)

end Sys2Proof.Proofs
end

section
/-!
PROOFS. The C slots: transfers and checksums (O34).
-/
namespace Sys2Proof.Proofs
open Machine Laws

variable {y : CSlot} {f : CF} {u : State} {c : Nat} (at_ : Site)

/-! ## Transfers and checksums (R325, R327, R328) -/

/-- The engine operation of a transfer of endpoint i on a channel with entry e, which takes the next round (R327). -/
def transferOp (u : State) (c : Nat) (f : CF) (k : EngKind) (d : CDesc) (src dst : List Span) (e : BitVec 512) (i : Nat)
    (recv : Bool) : EngOp :=
  let r := nextTransfer u (ctxOfCore u c) f.chan.toNat i recv
  { blankOp r.2 c k d src dst with chan := f.chan.toNat, round := r.1, endpoint := i, tileBytes := chTile e }

section Transfers
variable {d : CDesc} (hd : pairOf u c y f at_ = .ok d) (hplace : enginePlaces u (clusterOfCore c) < 16)
include hd hplace

theorem actMcast_forks (hmask : d.mask ≠ 0) (hspot : cSpot (walkOr u c f d.dst) d.len 1 (cSlotNo y) = none) {src : List Span}
    (hsrc : sideOf u c (cSlotNo y) d.src d.len .load = .ok src) :
    actMcast y f u c at_ = .ok (addOp u (blankOp u c .mcast d src
      (cutSpans ((receivers d).map fun j => ⟨0, d.len, .sp j (spOff (walkOr u c f d.dst)), 255⟩)))) .none := by
  simp only [actMcast, hd, hmask, hspot, hsrc, if_false]
  exact fork_ok hplace

theorem actCsend_forks {e : BitVec 512} {i : Nat} (hch : chanCheck u c f d.len false = .ok (e, i))
    (hspot : cIw f = true → cSpot (walkOr u c f d.src) d.len 1 (cSlotNo y) = none) {src : List Span}
    (hsrc : sideOf u c (cSlotNo y) (walkOr u c f d.src) d.len .load = .ok src) :
    let r := nextTransfer u (ctxOfCore u c) f.chan.toNat i false
    actCsend y f u c at_ = .ok (advance (addRemote (addOp r.2 (transferOp u c f .csend d src [] e i false)) c f.chan.toNat e r.1
      (d.len / chTile e)) c y f d.len (!cIw f && !isSp d.src) false) .none := by
  simp only [actCsend, hd, hch, walkSpot_pass hspot, hsrc, Nat.not_le.mpr hplace, if_false, transferOp]

section Receive
variable {e : BitVec 512} {i : Nat} (hch : chanCheck u c f d.len true = .ok (e, i))
include hch

theorem actCrecv_memory (hto : toHead f = false)
    (hspot : cIw f = true → cSpot (walkOr u c f d.dst) d.len 1 (cSlotNo y) = none) {dst : List Span × List AccAdd}
    (hdst : recvDst u c (cSlotNo y) (walkOr u c f d.dst) d.len (chFmt e) = .ok dst) :
    let r := nextTransfer u (ctxOfCore u c) f.chan.toNat i true
    let o := { transferOp u c f .crecv d [] dst.1 e i true with accs := dst.2.map fun a => { a with array := some r.2.fresh } }
    actCrecv y f u c at_ = .ok (advance (addRemote (addOp r.2 o) c f.chan.toNat e r.1
      (contributionTiles e i (d.len / chTile e))) c y f d.len false (!cIw f && !isSp d.dst)) .none := by
  simp only [actCrecv, hd, hch, hto, walkSpot_pass hspot, hdst, Nat.not_le.mpr hplace, Bool.false_eq_true, if_false,
    Bool.not_false, Bool.true_and, transferOp]
  rfl

theorem actCrecv_head {q : Head} (hto : toHead f = true) (hq : headOf (coreOf u c) (cHead f) = q) (hb : q.bound = true)
    (hk : q.src = .channel) (hv : q.srcv.toNat = f.chan.toNat) (hw : chTile e % q.ew = 0) :
    let r := nextTransfer u (ctxOfCore u c) f.chan.toNat i true
    let o := { transferOp u c f .crecv d [] (entrySpans c q (nextEntry q) (d.len / q.ew)) e i true with head := some (cHead f) }
    actCrecv y f u c at_ = .ok (advance (addRemote (allocHead (addOp r.2 o) c (cHead f) o.id (d.len / q.ew)) c f.chan.toNat e r.1
      (contributionTiles e i (d.len / chTile e))) c y f d.len false false) .none := by
  simp only [actCrecv, hd, hch, hto, hq, hb, hk, hv, hw, Nat.not_le.mpr hplace, Bool.not_true, Bool.false_and, ne_eq,
    not_true_eq_false, decide_false, Bool.or_self, Bool.false_eq_true, if_false, if_true, List.map_nil, transferOp]
  rfl

end Receive

/-- The elements of a dense tensor of one role, neither a stream nor an accumulator, or of a mixed one, are checked (R328). -/
theorem actChks_forks {e : BitVec 512} {r : Bool} (hh : slotHandle u c (cSlotNo y) (BitVec.ofNat 64 d.src) = .ok (e, r))
    (hw : spReach (cWalk (coreOf u c) f) 8) (hrole : dMixed e = true ∨ dRole e = 0 ∨ dRole e = 3) (hfmt : dFmt e ≠ 13)
    (hcount : d.dst + d.len ≤ dCount e) {src : List Span} (hsrc : elemSpans u c (cSlotNo y) e d.dst d.len = .ok src) :
    actChks y f u c at_ = .ok (addOp u { blankOp u c .chks d src [] with
      result := spOff (cWalk (coreOf u c) f), cont := bitOf f.opnds 0, desc := e, first := d.dst }) .none := by
  have hread : (!dMixed e && (decide (dRole e = 1) || decide (dRole e = 2)) || decide (dFmt e = 13)) = false := by
    rcases hrole with h | h | h
    all_goals simp [h, hfmt]
  simp only [actChks, hd, hh, cSpot_of_spReach _ hw, hread, Nat.not_lt.mpr hcount, hsrc, Bool.false_eq_true, if_false]
  exact fork_ok hplace

end Transfers

/-- Settles O34: with a place in the engine, each operation forks once its channel or tensor and its sides pass their checks. -/
theorem transfersFork : Obligations.TransfersFork := by
  intro y f s u c x slot k ctx wa ch hplace d hd
  refine ⟨fun hi hmask hspot src hsrc => ?_, fun hi e i hch hspot src hsrc => ?_, fun hi hto e i hch hspot dst hdst => ?_,
    fun hi hto e i hch hb hk hv hw => ?_, fun hi e r hh hw hrole hfmt hcount src hsrc => ?_⟩
  · exact exec_of_ok rfl hi (actMcast_forks _ hd hplace hmask hspot hsrc)
  · exact exec_of_ok rfl hi (actCsend_forks _ hd hplace hch hspot hsrc)
  · exact exec_of_ok rfl hi (actCrecv_memory _ hd hplace hch hto hspot hdst)
  · exact exec_of_ok rfl hi (actCrecv_head _ hd hplace hch hto rfl hb hk hv hw)
  · exact exec_of_ok rfl hi (actChks_forks _ hd hplace hh hw hrole hfmt hcount hsrc)

end Sys2Proof.Proofs
end

section
/-!
PROOFS. The steps of the ordering model: stores, loads, adds, increments and streams (O36), the copy engine and the tiles of
channels (O38), and the accesses of a host (O41).
-/
namespace Sys2Proof.Proofs
open Machine

variable {s : State} {c k : Nat}

/-! ## Store queues, load sets, add bags and the async path (R337 to R339, R342) -/

theorem storeApply_applies {e : SqEntry} (he : mayApply (coreOf s c) k = some e) :
    exec (.storeApply c k) s
      = .next (tryReturn (noteEffect s (applyEntry (dropSq s c e.id) c e) c e.id (unknownYet e)) c) := by
  show execStoreApply c k s = _
  simp only [execStoreApply, he]

theorem loadPerform_performs {l : LoadEntry} (hl : mayPerform (coreOf s c) k = some l) :
    exec (.loadPerform c k) s = .next (tryReturn (performLoad s c l) c) := by
  show execLoadPerform c k s = _
  simp only [execLoadPerform, hl]

theorem accCombine_combines {b : Nat × AccAdd} (hb : s.bags[k]? = some b) :
    let r := landAdd { s with bags := s.bags.eraseIdx k } b.2
    exec (.accCombine k) s = .next (tryReturn (noteEffect s (ackAdd r.1 b.1 b.2 r.2) b.1 (b.2.array.getD 0) true) b.1) := by
  show execAccCombine k s = _
  simp only [execAccCombine, hb]

theorem asyncMerge_merges {e : AsyncEntry} (he : s.async[k]? = some e) :
    exec (.asyncMerge k) s = .next (softBytes
      { s with async := s.async.eraseIdx k, mem := memMasked s.mem (e.bytes.map fun b => (b.1, 0xFF#8, b.2)) }
      (e.bytes.map (·.1))) := by
  show execAsyncMerge k s = _
  simp only [execAsyncMerge, he, setMem]

/-! ## Event counters (R349, R365) -/

theorem eventIncrement_rises {i : EventInc} (hi : s.incs[k]? = some i) (hm : mayRise s i = true) :
    exec (.eventIncrement k) s = .next (landInc { s with incs := s.incs.eraseIdx k } i) := by
  show execEventIncrement k s = _
  simp only [execEventIncrement, hi, hm, if_true]

/-- Past this package's increments the next one of another package raises its counter, in a context that is live. -/
theorem eventIncrement_away {ctx i n : Nat} {r : List AwayStep} (hk : s.incs[k]? = none) (ha : s.away = .increment ctx i n :: r)
    (hl : (ctxOf s ctx).state = 1) : exec (.eventIncrement k) s = .next (raiseEvent { s with away := r } ctx i n) := by
  show execEventIncrement k s = _
  simp only [execEventIncrement, hk, awayInc, ha, hl, if_true]

theorem eventChainApply_applies {i : EventInc} {r : List EventInc} (hc : s.chains = i :: r) :
    exec .eventChainApply s = .next (applyInc { s with chains := r } i.ctx i.idx i.inc) := by
  show execEventChainApply s = _
  simp only [execEventChainApply, hc]

/-! ## Streams into heads (R340) -/

section Deliver
variable {h take : Nat} {a w : State} {y : Head} {u : HeadSupply} {q : List Bits8 × List Nat}

/-- The next entry of head y stands in its buffer, with the take elements q of its supply u; w is what its thread sees of a. -/
def deliverEntry (a w : State) (c h : Nat) (y : Head) (u : HeadSupply) (take : Nat) (q : List Bits8 × List Nat) : State :=
  let b := codeBits (dFmt u.desc)
  let v := raceWith (pastFree a) (ctxOfCore w c) q.1 false (otherUnits a noCore)
  let v := spPut v (clusterOfCore c) (spOff y.base + y.ew * (y.pptr.toNat % max y.nent 1)) y.ew (packFields b q.2)
  let t := recOf v (ctxOfCore w c) (hIndex y.srcv) (hGen y.srcv)
  let v := if u.stream then (putRec v { t with fetched := t.fetched + take }) else v
  setThreadHead v c h { y with pptr := y.pptr + 1, tailb := if take < headPer y u.desc then ceilDiv (take * b) 8 else 0 }

/-- Fewer elements than an entry holds are no reason to wait once the supply is closed. -/
theorem not_waitsForMore {per : Nat} {closed : Bool} (hlast : take = per ∨ closed = true) :
    (decide (take < per) && !closed) = false := by
  rcases hlast with rfl | rfl
  · rw [decide_eq_false (Nat.lt_irrefl take), Bool.false_and]
  · rw [Bool.not_true, Bool.and_false]

theorem pipeDeliver_delivers (ha : touchArrays s = a) (hy : threadHead a c h = y) (hw : threadView a c h = w)
    (hu : headSupply w c y = u) (ht : min (headPer y u.desc) (u.offered - u.fetched) = take) (hbound : y.bound = true)
    (hsrc : y.src = .str) (hroom : headFree y ≠ 0) (hsome : take ≠ 0) (hlast : take = headPer y u.desc ∨ u.closed = true)
    (hq : fetchElems w c u.desc u.fetched take = some q) :
    exec (.pipeDeliver c h) s = .next (deliverEntry a w c h y u take q) := by
  show execPipeDeliver c h s = _
  simp only [execPipeDeliver, ha, hy, hw, hu, ht, hbound, hsrc, hroom, hsome, not_waitsForMore hlast, hq, Bool.not_true,
    ne_eq, not_true_eq_false, decide_false, Bool.or_self, Bool.false_eq_true, if_false, deliverEntry]

end Deliver

/-- Settles O36, one step at a time: each is the model's function for it, in the branch that its hypotheses select. -/
theorem orderingStepsComplete : Obligations.OrderingStepsComplete := by
  intro c k h s
  exact ⟨fun e => storeApply_applies, fun l => loadPerform_performs, fun b => accCombine_combines, fun e => asyncMerge_merges,
    fun i => eventIncrement_rises, fun ctx i n r => eventIncrement_away, fun i r => eventChainApply_applies,
    fun hbound hsrc hroom hsome hlast q => pipeDeliver_delivers rfl rfl rfl rfl rfl hbound hsrc hroom hsome hlast⟩

/-! ## The lines and the completion of an engine operation (R341, R314) -/

section Operation
variable {op line : Nat} {o : EngOp} (ho : engFind (touchArrays s) k op = some o)
include ho

theorem threadLineAccess_reads {p : Span} (hp : o.src[line]? = some p) (hnew : o.readDone.contains line = false) :
    exec (.threadLineAccess k op line) s = .next (readLine (touchArrays s) k o line p) := by
  obtain ⟨hline, -⟩ := List.getElem?_eq_some_iff.mp hp
  show execThreadLineAccess k op line s = _
  simp only [execThreadLineAccess, ho, hline, hp, hnew, Bool.false_eq_true, if_true, if_false]

/-- Past the lines that it reads, the thread numbers those that it writes. -/
theorem threadLineAccess_writes {p : Span} (hline : o.src.length ≤ line) (hp : o.dst[line - o.src.length]? = some p)
    (hkind : writesLines o = true) (hnew : o.writeDone.contains (line - o.src.length) = false)
    (hmay : mayWrite (touchArrays s) o p = true) :
    exec (.threadLineAccess k op line) s
      = .next (noteEffect (touchArrays s) (writeLine (touchArrays s) k o (line - o.src.length) p) o.core o.id false) := by
  show execThreadLineAccess k op line s = _
  simp only [execThreadLineAccess, ho, Nat.not_lt.mpr hline, hp, hkind, hnew, hmay, Bool.not_true, Bool.or_self,
    Bool.false_eq_true, if_false]

/-- Operation o of cluster k is complete: its own effect, its completion word, its event and its flags (R309, R314, R36). -/
def completeOp (a : State) (k op : Nat) (o : EngOp) : State :=
  let r := engFinish a k o
  let v := modCluster r.1 k fun y => { y with engine := y.engine.filter fun p => decide (p.id ≠ op) }
  let v := if o.cmpl / 2 % 2 = 1 then spPut v k o.cwoff 8 (completionWord r.2) else v
  let v := if o.cmpl % 2 = 1 && o.fail.isNone then raiseEvent v o.ctx o.evidx 1 else v
  tryReturn (noteEffect a (returnOpFlags v o) o.core o.id false) o.core

/-- An operation completes when it is done, and a CSEND that has failed does so at once. -/
theorem engineOpComplete_completes
    (hdone : engDone (touchArrays s) o = true ∨ (o.kind = .csend ∧ o.fail.isSome = true)) :
    exec (.engineOpComplete k op) s = .next (completeOp (touchArrays s) k op o) := by
  have hnow : (!engDone (touchArrays s) o && !(decide (o.kind = .csend) && o.fail.isSome)) = false := by
    rcases hdone with h | ⟨hkind, hfail⟩
    · rw [h, Bool.not_true, Bool.false_and]
    · rw [decide_eq_true hkind, hfail, Bool.and_self, Bool.not_true, Bool.and_false]
  show execEngineOpComplete k op s = _
  simp only [execEngineOpComplete, ho, hnow, Bool.false_eq_true, if_false, completeOp]

end Operation

/-! ## Channel tiles (R387 to R389) -/

/-- The tiles of a channel once tile x stands in its mailbox, beside the rest. -/
def arrived (e : BitVec 512) (x : ChanTile) (rest : List ChanTile) : List ChanTile :=
  if x.complete then rest ++ [{ x with moving := false, senders := [] }]
  else if chCombines e = false then rest ++ [{ x with moving := false, complete := true }]
  else if chWide e then arriveWide e x rest else arriveNarrow e x rest

section Arrive
variable {n : Nat} {x : ChanTile} (hx : s.chanTiles[n]? = some x) (hmove : x.moving = true)
include hx hmove

/-- A tile for a mailbox of another package goes there. -/
theorem channelTileArrive_away (hfar : chLocal s (chEntry s x.ctx x.chan) x.to_ = none) :
    exec (.channelTileArrive n) s = .next (arriveAway s (chEntry s x.ctx x.chan) x (s.chanTiles.eraseIdx n)) := by
  show execChannelTileArrive n s = _
  simp only [execChannelTileArrive, hx, hmove, hfar, Option.isNone_none, Bool.not_true, Bool.false_eq_true, if_true, if_false]

variable (hhere : (chLocal s (chEntry s x.ctx x.chan) x.to_).isSome = true)
include hhere

/-- A tile whose signature is not that of the channel is discarded, and its senders fail. -/
theorem channelTileArrive_foreign (hsig : x.sig ≠ chSig s (chEntry s x.ctx x.chan)) :
    exec (.channelTileArrive n) s = .next (failSender { s with chanTiles := s.chanTiles.eraseIdx n } x 0x12) := by
  have hnear := Option.isSome_iff_ne_none.mp hhere
  show execChannelTileArrive n s = _
  simp only [execChannelTileArrive, hx, hmove, Option.isNone_iff_eq_none, hnear, hsig, Bool.not_true, Bool.false_eq_true,
    if_false, ne_eq, not_false_eq_true, if_true]

theorem channelTileArrive_boxed (hsig : x.sig = chSig s (chEntry s x.ctx x.chan))
    (hbox : mayBox s (chEntry s x.ctx x.chan) x = true) :
    exec (.channelTileArrive n) s
      = .next { s with chanTiles := arrived (chEntry s x.ctx x.chan) x (s.chanTiles.eraseIdx n) } := by
  have hnear := Option.isSome_iff_ne_none.mp hhere
  show execChannelTileArrive n s = _
  simp only [execChannelTileArrive, hx, hmove, Option.isNone_iff_eq_none, hnear, hsig, hbox, Bool.not_true, Bool.false_eq_true,
    if_false, ne_eq, not_true_eq_false, arrived, Bool.not_eq_true']

end Arrive

/-- A reception of core c waits for tiles of this one's channel and round. -/
def awaits (x : ChanTile) (c : Nat) (o : EngOp) : Bool :=
  (o.kind = .crecv && o.core = c && o.ctx = x.ctx && o.chan = x.chan) && decide (o.round = x.round)

theorem channelTileDeliver_awaited {n j : Nat} {a : State} {x : ChanTile} {e : BitVec 512} {o : EngOp} (ha : touchArrays s = a)
    (hx : a.chanTiles[n]? = some x) (hfull : x.complete = true) (hstill : x.moving = false) (he : chEntry a x.ctx x.chan = e)
    (hc : chLocal a e x.to_ = some c) (ho : (clusterOf a (clusterOfCore c)).engine.find? (awaits x c) = some o)
    (hj : tilePlace e o x = some j) (hnew : o.sent.contains j = false) (hturn : inTurn e o j = true)
    (hround : roundBehind a e x.ctx x.chan o.round = false) (hroom : tileRoom a o j = true) :
    exec (.channelTileDeliver n) s
      = .next (deliverTile { a with chanTiles := a.chanTiles.eraseIdx n } (clusterOfCore c) e o x j) := by
  show execChannelTileDeliver n s = _
  unfold awaits at ho
  simp only [execChannelTileDeliver, ha, hx, hfull, hstill, he, hc, ho, hj, hnew, hturn, hround, hroom, Bool.not_false,
    Bool.not_true, Bool.and_self, Bool.or_self, Bool.false_eq_true, if_true, if_false]

/-- Operation o counts the tile that is ready for it (R389). -/
def countTile (v : State) (r : ReadyTile) (o : EngOp) : State :=
  engSet v (clusterOfCore r.core) { o with tiles := o.tiles ++ [r.tile] }

section Ready
variable {n : Nat} {r : ReadyTile} {v : State} {o : EngOp} (hr : s.readyTiles[n]? = some r)
  (hv : { s with readyTiles := s.readyTiles.eraseIdx n } = v) (ho : engFind v (clusterOfCore r.core) r.op = some o)
include hr hv ho

theorem scratchpadTileReady_headless (hnone : o.head = none) :
    exec (.scratchpadTileReady n) s = .next (countTile v r o) := by
  show execScratchpadTileReady n s = _
  simp only [execScratchpadTileReady, hr, hv, ho, hnone, countTile]

/-- The tile fills the entries of the head that the operation feeds, as many as it has bytes for. -/
theorem scratchpadTileReady_fills {h : Nat} (hsome : o.head = some h) :
    let w := countTile v r o
    let m := o.tileBytes / max (opHead w o h).ew 1
    exec (.scratchpadTileReady n) s = .next (fillEntries w o h ((List.range m).map fun i => r.tile * m + i)) := by
  show execScratchpadTileReady n s = _
  simp only [execScratchpadTileReady, hr, hv, ho, hsome, countTile]

end Ready

/-- Settles O38, one step at a time: each is the model's function for it, in the branch that its hypotheses select. -/
theorem engineStepsComplete : Obligations.EngineStepsComplete := by
  intro k op line n s a
  refine ⟨fun o ho => ⟨fun p => threadLineAccess_reads ho, fun p => threadLineAccess_writes ho, engineOpComplete_completes ho⟩,
    fun x hx hmove hhere => ⟨channelTileArrive_foreign hx hmove hhere, channelTileArrive_boxed hx hmove hhere⟩,
    fun x => channelTileArrive_away, ?_, ?_⟩
  · intro x c o j hx hfull hstill e hc eng waits
    exact channelTileDeliver_awaited rfl hx hfull hstill rfl hc
  · intro r o hr v ho w
    exact ⟨scratchpadTileReady_headless hr rfl ho, fun h => scratchpadTileReady_fills hr rfl ho⟩

/-! ## The accesses of a host (R343, R348, R139) -/

section Host
variable {h pa n : Nat} {bs : List (BitVec 8)} {v : BitVec 64}

theorem mayApplyHost_mem (hk : s.hostBuf[k]? = some (.mem h pa bs)) : mayApplyHost s k = true := by
  simp only [mayApplyHost, hk]

theorem hostApply_mem (hk : s.hostBuf[k]? = some (.mem h pa bs)) (ht : inTiers pa bs.length = true) :
    exec (.hostApply k) s = .next (hostStore { s with hostBuf := s.hostBuf.eraseIdx k } pa bs) := by
  show execHostApply k s = _
  simp only [execHostApply, mayApplyHost_mem hk, hk, ht, Bool.not_true, Bool.false_eq_true, if_false, if_true]

/-- A write of a register that may apply is the module's write of that register. -/
theorem hostApply_reg {off : Nat} (hk : s.hostBuf[k]? = some (.reg h off v)) (hm : mayApplyHost s k = true) :
    exec (.hostApply k) s = writeMgmt off v { s with hostBuf := s.hostBuf.eraseIdx k } := by
  show execHostApply k s = _
  simp only [execHostApply, hm, hk, Bool.not_true, Bool.false_eq_true, if_false]

/-- `FABSEL` stands at an offset with no behaviour of its own (R139, R445). -/
theorem writeMgmt_fabsel (hb : s.bootok = true) :
    writeMgmt 0x90200 v s = .next { s with fabsel := BitVec.ofNat 16 (bitsOf v 15 0) } := by
  simp [writeMgmt, hb, execMgmtRegisterWrite]

variable (hb : s.bootok = true)
include hb

theorem hostRead_management (hlo : mgmtBase ≤ pa) (hhi : pa + n ≤ mgmtBase + 2 ^ 32) :
    exec (.hostRead pa n) s = .next { s with
      hostReply := (List.range n).map fun i => BitVec.ofNat 8
        (fieldAt (readMgmt s ((pa - mgmtBase + i) / 8 * 8)) 8 ((pa - mgmtBase + i) % 8)) } := by
  show execHostRead pa n s = _
  simp only [execHostRead, hlo, hhi, hb, decide_true, Bool.and_self, Bool.true_or, if_true]

theorem hostRead_memory (hout : pa < mgmtBase ∨ mgmtBase + 2 ^ 32 < pa + n) (ht : inTiers pa n = true) :
    exec (.hostRead pa n) s
      = .next { s with hostReply := (List.range n).map fun i => memByte s.mem (memKey s.pkg.toNat pa + i) } := by
  have houtside : (decide (mgmtBase ≤ pa) && decide (pa + n ≤ mgmtBase + 2 ^ 32)) = false := by
    rw [← Bool.decide_and]
    exact decide_eq_false (by omega)
  show execHostRead pa n s = _
  simp only [execHostRead, houtside, ht, hb, Bool.false_eq_true, if_true, if_false]

end Host

/-- Settles O41: memory and the management registers each take a host's access, as its address selects them. -/
theorem hostAccessCompletes : Obligations.HostAccessCompletes := by
  intro k h pa n bs v s hb
  refine ⟨hostApply_mem, fun hk hm => ?_, hostRead_management hb, hostRead_memory hb⟩
  exact (hostApply_reg hk hm).trans (writeMgmt_fabsel hb)

end Sys2Proof.Proofs
end

section
/-!
PROOFS. Event counters: an increment saturates, fires what it crosses, and queues the chains in order (O56).
-/
namespace Sys2Proof.Proofs
open Machine

variable {e inc i t : Nat} {l : List Nat}

/-! ## Fields of a number, by their bits -/

/-- A field replaced is the bits above it, its new bits, and the bits below it. -/
theorem setBits_eq (x hi lo v : Nat) : setBits x hi lo v
    = 2 ^ lo * (2 ^ (hi + 1 - lo) * (x >>> lo / 2 ^ (hi + 1 - lo)) + v % 2 ^ (hi + 1 - lo)) + x % 2 ^ lo := by
  have hx : 2 ^ lo * (x >>> lo) + x % 2 ^ lo = x := by rw [Nat.shiftRight_eq_div_pow]; exact Nat.div_add_mod x _
  have hf := Nat.div_add_mod (x >>> lo) (2 ^ (hi + 1 - lo))
  have hsum : x = 2 ^ lo * (2 ^ (hi + 1 - lo) * (x >>> lo / 2 ^ (hi + 1 - lo))) + x >>> lo % 2 ^ (hi + 1 - lo) * 2 ^ lo + x % 2 ^ lo := by
    rw [Nat.mul_comm (x >>> lo % 2 ^ (hi + 1 - lo)), ← Nat.mul_add, hf, hx]
  rw [setBits, Nat.mul_add, Nat.mul_comm (2 ^ lo) (v % _)]
  omega

theorem testBit_setBits (x hi lo v i : Nat) :
    (setBits x hi lo v).testBit i = if lo ≤ i ∧ i ≤ hi then v.testBit (i - lo) else x.testBit i := by
  rw [setBits_eq, Nat.testBit_two_pow_mul_add _ (Nat.mod_lt _ (Nat.two_pow_pos _))]
  by_cases hlo : i < lo
  · rw [if_pos hlo, if_neg (by omega), Nat.testBit_mod_two_pow, decide_eq_true hlo, Bool.true_and]
  rw [if_neg hlo, Nat.testBit_two_pow_mul_add _ (Nat.mod_lt _ (Nat.two_pow_pos _))]
  by_cases hhi : i - lo < hi + 1 - lo
  · rw [if_pos hhi, if_pos (by omega), Nat.testBit_mod_two_pow, decide_eq_true hhi, Bool.true_and]
  · rw [if_neg hhi, if_neg (by omega), Nat.testBit_div_two_pow, Nat.testBit_shiftRight]
    congr 1
    omega

theorem testBit_setBits_out {x hi lo v : Nat} (h : i < lo ∨ hi < i) : (setBits x hi lo v).testBit i = x.testBit i := by
  rw [testBit_setBits, if_neg (by omega)]

/-- One bit replaced. -/
theorem testBit_setBits_one (x n v : Nat) : (setBits x n n v).testBit i = if i = n then v.testBit 0 else x.testBit i := by
  rw [testBit_setBits]
  by_cases h : i = n
  · rw [if_pos (by omega), if_pos h, h, Nat.sub_self]
  · rw [if_neg (by omega), if_neg h]

/-- A field is given by its bits. -/
theorem field_congr {x y lo n : Nat} (h : ∀ i < n, x.testBit (lo + i) = y.testBit (lo + i)) :
    (x >>> lo) % 2 ^ n = (y >>> lo) % 2 ^ n := by
  refine Nat.eq_of_testBit_eq fun i => ?_
  simp only [Nat.testBit_mod_two_pow, Nat.testBit_shiftRight]
  by_cases hi : i < n
  · rw [h i hi]
  · simp [hi]

/-! ## The thresholds in the order of their firing -/

/-- Threshold t fires before u: at a lower value, or at the same one with no higher rank. -/
def firesBefore (e t u : Nat) : Prop := evThr e t < evThr e u ∨ (evThr e t = evThr e u ∧ evRank e t ≤ evRank e u)

theorem firesBefore_trans {u v : Nat} (h : firesBefore e t u) (k : firesBefore e u v) : firesBefore e t v := by
  unfold firesBefore at *
  omega

theorem insThr_perm (e t : Nat) (l : List Nat) : (insThr e t l).Perm (t :: l) := by
  induction l with
  | nil => exact .refl _
  | cons u us ih =>
    rw [insThr]
    split
    · exact .refl _
    · exact (ih.cons u).trans (.swap t u us)

theorem insThr_ordered (hl : l.Pairwise (firesBefore e)) : (insThr e t l).Pairwise (firesBefore e) := by
  induction l with
  | nil => exact List.pairwise_singleton _ _
  | cons u us ih =>
    obtain ⟨hu, hus⟩ := List.pairwise_cons.mp hl
    rw [insThr]
    split
    next h =>
      have htu : firesBefore e t u := by
        simp only [Bool.or_eq_true, Bool.and_eq_true, decide_eq_true_eq] at h
        unfold firesBefore
        omega
      refine List.pairwise_cons.mpr ⟨fun v hv => ?_, hl⟩
      obtain rfl | hv := List.mem_cons.mp hv
      · exact htu
      · exact firesBefore_trans htu (hu v hv)
    next h =>
      have hut : firesBefore e u t := by
        simp only [Bool.or_eq_true, Bool.and_eq_true, decide_eq_true_eq] at h
        unfold firesBefore
        omega
      refine List.pairwise_cons.mpr ⟨fun v hv => ?_, ih hus⟩
      obtain rfl | hv := List.mem_cons.mp ((insThr_perm e t us).mem_iff.mp hv)
      · exact hut
      · exact hu v hv

/-- The thresholds of a list that a condition selects, sorted. -/
def sortThr (e : Nat) (p : Nat → Bool) (l : List Nat) (ts : List Nat) : List Nat :=
  ts.foldl (fun l t => if p t then insThr e t l else l) l

theorem sortThr_cons (e : Nat) (p : Nat → Bool) (l : List Nat) (t : Nat) (ts : List Nat) :
    sortThr e p l (t :: ts) = sortThr e p (if p t then insThr e t l else l) ts := rfl

theorem sortThr_perm (e : Nat) (p : Nat → Bool) (l ts : List Nat) : (sortThr e p l ts).Perm (ts.filter p ++ l) := by
  induction ts generalizing l with
  | nil => exact .refl _
  | cons t ts ih =>
    rw [sortThr_cons]
    refine (ih _).trans ?_
    by_cases h : p t = true
    · rw [if_pos h, List.filter_cons_of_pos h]
      exact ((insThr_perm e t l).append_left _).trans List.perm_middle
    · rw [if_neg h, List.filter_cons_of_neg h]

theorem sortThr_ordered {p : Nat → Bool} {ts : List Nat} (hl : l.Pairwise (firesBefore e)) :
    (sortThr e p l ts).Pairwise (firesBefore e) := by
  induction ts generalizing l with
  | nil => exact hl
  | cons t ts ih =>
    rw [sortThr_cons]
    refine ih ?_
    split
    · exact insThr_ordered hl
    · exact hl

/-! ## An increment, part by part (R365) -/

/-- The value after an increment. -/
def raisedValue (e inc : Nat) : Nat := min (e % 2 ^ 64 + inc) (2 ^ 64 - 1)

/-- The entry with its value raised, and `SATD` when it saturates. -/
def raised (e inc : Nat) : Nat :=
  let e1 := setBits e 63 0 (raisedValue e inc)
  if e % 2 ^ 64 + inc > 2 ^ 64 - 1 then setBits e1 80 80 1 else e1

/-- Threshold t of an entry with a raised value is armed, and the step from the old value crosses it. -/
def crossed (e e1 inc t : Nat) : Bool :=
  evArmed e1 t && decide (e % 2 ^ 64 < evThr e1 t) && decide (evThr e1 t ≤ raisedValue e inc)

/-- The thresholds that an increment fires, in their order. -/
def fired (e inc : Nat) : List Nat := sortThr (raised e inc) (crossed e (raised e inc) inc) [] (List.range 4)

/-- A threshold that has fired: no longer armed, and marked. -/
def markFired (e t : Nat) : Nat := setBits (setBits e (64 + t) (64 + t) 0) (68 + t) (68 + t) 1

/-- The thresholds that stay armed, in the order of their ranks. -/
def leftArmed (e inc : Nat) : List Nat := (armedByRank (raised e inc)).filter fun t => !(fired e inc).contains t

theorem incStep_entry (e inc : Nat) :
    (incStep e inc).1 = reRank ((fired e inc).foldl markFired (raised e inc)) (leftArmed e inc) 0 := rfl

theorem incStep_chains (e inc : Nat) : (incStep e inc).2 = (fired e inc).filterMap fun t =>
    if evChain (raised e inc) t % 2 ^ 16 = 0 then none
    else some (evChain (raised e inc) t % 2 ^ 16, evChain (raised e inc) t / 2 ^ 16) := rfl

/-! ## What each part leaves (R364) -/

theorem raisedValue_lt (e inc : Nat) : raisedValue e inc < 2 ^ 64 := by
  rw [raisedValue]
  omega

/-- Bits 64 on of an entry but `SATD` stand as they were. -/
theorem testBit_raised (hlo : 64 ≤ i) (hs : i ≠ 80) : (raised e inc).testBit i = e.testBit i := by
  have hv : (setBits e 63 0 (raisedValue e inc)).testBit i = e.testBit i := testBit_setBits_out (by omega)
  unfold raised
  dsimp only
  split
  · rw [testBit_setBits_one, if_neg hs, hv]
  · exact hv

theorem testBit_raised_value (h : i < 64) : (raised e inc).testBit i = (raisedValue e inc).testBit i := by
  have hv : (setBits e 63 0 (raisedValue e inc)).testBit i = (raisedValue e inc).testBit i := by
    rw [testBit_setBits, if_pos (by omega), Nat.sub_zero]
  unfold raised
  dsimp only
  split
  · rw [testBit_setBits_one, if_neg (by omega), hv]
  · exact hv

theorem testBit_raised_satd : (raised e inc).testBit 80 = (e.testBit 80 || decide (2 ^ 64 ≤ e % 2 ^ 64 + inc)) := by
  unfold raised
  dsimp only
  split
  next h =>
    have hs : 2 ^ 64 ≤ e % 2 ^ 64 + inc := by omega
    rw [testBit_setBits_one, if_pos rfl, decide_eq_true hs, Bool.or_true]
    rfl
  next h =>
    have hs : ¬ 2 ^ 64 ≤ e % 2 ^ 64 + inc := by omega
    rw [testBit_setBits_out (by omega), decide_eq_false hs, Bool.or_false]

/-- Renumbering touches the ranks alone. -/
theorem testBit_reRank (hl : ∀ t ∈ l, t < 4) (hi : i < 72 ∨ 80 ≤ i) (r : Nat) : (reRank e l r).testBit i = e.testBit i := by
  induction l generalizing e r with
  | nil => rfl
  | cons t ts ih =>
    obtain ⟨ht, hts⟩ := List.forall_mem_cons.mp hl
    rw [reRank, ih hts, testBit_setBits_out (by omega)]

/-- A threshold that fires changes its two bits alone. -/
theorem testBit_markFired (e t : Nat) : (markFired e t).testBit i
    = if i = 64 + t then false else if i = 68 + t then true else e.testBit i := by
  rw [markFired, testBit_setBits_one, testBit_setBits_one]
  split
  next h => rw [if_neg (by omega), Nat.testBit_one_zero]
  · rw [Nat.zero_testBit]

theorem evArmed_foldl_markFired (hl : ∀ t ∈ l, t < 4) (ht : t < 4) :
    evArmed (l.foldl markFired e) t = (evArmed e t && !l.contains t) := by
  induction l generalizing e with
  | nil => simp
  | cons u us ih =>
    obtain ⟨hu, hus⟩ := List.forall_mem_cons.mp hl
    rw [List.foldl_cons, ih hus, evArmed, testBit_markFired, List.contains_cons]
    by_cases h : t = u
    · simp [h]
    · rw [if_neg (by omega), if_neg (by omega), beq_false_of_ne h, Bool.false_or, evArmed]

theorem testBit_foldl_markFired_mark (hl : ∀ t ∈ l, t < 4) (ht : t < 4) :
    (l.foldl markFired e).testBit (68 + t) = (e.testBit (68 + t) || l.contains t) := by
  induction l generalizing e with
  | nil => simp
  | cons u us ih =>
    obtain ⟨hu, hus⟩ := List.forall_mem_cons.mp hl
    rw [List.foldl_cons, ih hus, testBit_markFired, if_neg (by omega), List.contains_cons]
    by_cases h : t = u
    · simp [h]
    · rw [if_neg (by omega), beq_false_of_ne h, Bool.false_or]

theorem testBit_foldl_markFired_out (hl : ∀ t ∈ l, t < 4) (hi : i < 64 ∨ 72 ≤ i) :
    (l.foldl markFired e).testBit i = e.testBit i := by
  induction l generalizing e with
  | nil => rfl
  | cons u us ih =>
    obtain ⟨hu, hus⟩ := List.forall_mem_cons.mp hl
    rw [List.foldl_cons, ih hus, testBit_markFired, if_neg (by omega), if_neg (by omega)]

/-! ## The thresholds that fire (R365) -/

/-- The threshold and the chain of an entry stand above what an increment writes. -/
theorem evThr_congr {x y : Nat} (h : ∀ i, 128 ≤ i → x.testBit i = y.testBit i) (t : Nat) : evThr x t = evThr y t :=
  field_congr fun i _ => h _ (by omega)

theorem evChain_congr {x y : Nat} (h : ∀ i, 128 ≤ i → x.testBit i = y.testBit i) (t : Nat) : evChain x t = evChain y t :=
  field_congr fun i _ => h _ (by omega)

theorem testBit_raised_high (hi : 128 ≤ i) : (raised e inc).testBit i = e.testBit i := testBit_raised (by omega) (by omega)

theorem evArmed_raised (ht : t < 4) : evArmed (raised e inc) t = evArmed e t := testBit_raised (by omega) (by omega)

theorem evRank_raised (ht : t < 4) : evRank (raised e inc) t = evRank e t :=
  field_congr (n := 2) fun i hi => testBit_raised (by omega) (by omega)

theorem evThr_raised (t : Nat) : evThr (raised e inc) t = evThr e t := evThr_congr (fun _ => testBit_raised_high) t

theorem evChain_raised (t : Nat) : evChain (raised e inc) t = evChain e t := evChain_congr (fun _ => testBit_raised_high) t

theorem crossed_raised (ht : t < 4) : crossed e (raised e inc) inc t = crossed e e inc t := by
  rw [crossed, crossed, evArmed_raised ht, evThr_raised]

theorem fired_perm : (fired e inc).Perm ((List.range 4).filter (crossed e (raised e inc) inc)) :=
  (sortThr_perm _ _ [] (List.range 4)).trans (.of_eq (List.append_nil _))

theorem mem_fired : t ∈ fired e inc ↔ t < 4 ∧ crossed e e inc t = true := by
  rw [fired_perm.mem_iff, List.mem_filter, List.mem_range]
  exact and_congr_right fun ht => by rw [crossed_raised ht]

theorem lt_of_mem_fired (t : Nat) (h : t ∈ fired e inc) : t < 4 := (mem_fired.mp h).1

theorem contains_fired (ht : t < 4) : (fired e inc).contains t = crossed e e inc t := by
  rw [Bool.eq_iff_iff, List.contains_iff_mem, mem_fired]
  exact and_iff_right ht

theorem fired_nodup : (fired e inc).Nodup := fired_perm.nodup_iff.mpr (List.nodup_range.filter _)

theorem fired_ordered : (fired e inc).Pairwise (firesBefore e) := by
  refine (sortThr_ordered List.Pairwise.nil).imp_of_mem fun {t u} ht hu h => ?_
  have ht := lt_of_mem_fired t ht
  have hu := lt_of_mem_fired u hu
  rw [firesBefore, evThr_raised, evThr_raised, evRank_raised ht, evRank_raised hu] at h
  exact h

theorem lt_of_mem_leftArmed (t : Nat) (h : t ∈ leftArmed e inc) : t < 4 := by
  simp only [leftArmed, armedByRank, List.mem_filter, List.mem_flatMap, List.mem_range] at h
  obtain ⟨⟨_, _, ht, _⟩, _⟩ := h
  exact ht

/-! ## The entry after an increment -/

/-- Outside of the thresholds' own bits, an increment changes what it raises alone. -/
theorem testBit_incStep (hi : i < 64 ∨ 80 ≤ i) : (incStep e inc).1.testBit i = (raised e inc).testBit i := by
  rw [incStep_entry, testBit_reRank lt_of_mem_leftArmed (by omega), testBit_foldl_markFired_out lt_of_mem_fired (by omega)]

theorem testBit_incStep_high (hi : 128 ≤ i) : (incStep e inc).1.testBit i = e.testBit i :=
  (testBit_incStep (by omega)).trans (testBit_raised_high hi)

theorem incStep_value (e inc : Nat) : (incStep e inc).1 % 2 ^ 64 = raisedValue e inc := by
  have h : ((incStep e inc).1 >>> 0) % 2 ^ 64 = (raisedValue e inc >>> 0) % 2 ^ 64 :=
    field_congr fun i hi => by rw [Nat.zero_add, testBit_incStep (.inl hi), testBit_raised_value hi]
  rwa [Nat.shiftRight_zero, Nat.shiftRight_zero, Nat.mod_eq_of_lt (raisedValue_lt e inc)] at h

theorem evArmed_incStep (ht : t < 4) : evArmed (incStep e inc).1 t = (evArmed e t && !crossed e e inc t) := by
  rw [incStep_entry, evArmed, testBit_reRank lt_of_mem_leftArmed (by omega), ← evArmed,
    evArmed_foldl_markFired lt_of_mem_fired ht, evArmed_raised ht, contains_fired ht]

theorem testBit_incStep_mark (ht : t < 4) :
    (incStep e inc).1.testBit (68 + t) = (e.testBit (68 + t) || crossed e e inc t) := by
  rw [incStep_entry, testBit_reRank lt_of_mem_leftArmed (by omega), testBit_foldl_markFired_mark lt_of_mem_fired ht,
    testBit_raised (by omega) (by omega), contains_fired ht]

theorem incStep_queues (e inc : Nat) : (incStep e inc).2
    = ((fired e inc).filter fun t => decide (evChain e t % 2 ^ 16 ≠ 0)).map fun t => (evChain e t % 2 ^ 16, evChain e t / 2 ^ 16) := by
  rw [incStep_chains, ← List.filterMap_eq_map, List.filterMap_filter]
  refine List.filterMap_congr fun t _ => ?_
  rw [evChain_raised]
  by_cases h : evChain e t % 2 ^ 16 = 0
  · rw [if_pos h, decide_eq_false (not_not_intro h), if_neg Bool.false_ne_true]
  · rw [if_neg h, decide_eq_true h, if_pos rfl, Function.comp_apply]

/-- Settles O56: the fired thresholds are those that the step crosses, sorted; each loses its arming and is marked, and what is left is
renumbered, which touches nothing but ranks. -/
theorem incrementFiresThresholds : Obligations.IncrementFiresThresholds := by
  intro e inc _
  refine ⟨incStep_value e inc, (testBit_incStep (by omega)).trans testBit_raised_satd, fun t ht => ?_,
    fired e inc, fired_nodup, fun t => mem_fired, fired_ordered, incStep_queues e inc⟩
  exact ⟨evArmed_incStep ht, testBit_incStep_mark ht, evThr_congr (fun _ => testBit_incStep_high) t,
    evChain_congr (fun _ => testBit_incStep_high) t⟩

end Sys2Proof.Proofs
end

section
/-!
PROOFS. The debug unit (O42) and the network (O44).
-/
namespace Sys2Proof.Proofs
open Machine

variable {s u : State}

/-! ## Debug modes (R435 to R437) -/

/-- The request of a mode write on a context that is authorised: leaving mode 2, its halted cores go on. -/
theorem debugModeWrite_authorised {ctx : Nat} {v : BitVec 64} (hm : bitsOf v 1 0 ≠ 3)
    (ha : (if bitsOf v 1 0 = 0 then some s else authorise s ctx (8 + bitsOf v 1 0)) = some u) :
    exec (.debugModeWrite ctx v) s
      = .next (modCtx (if (ctxOf u ctx).dbgmode = 2 && bitsOf v 1 0 ≠ 2 then (coresIn u ctx).foldl resumeHalted u else u) ctx
          fun y => { y with dbgmode := bitsOf v 1 0, trlog := max 8 (min 24 (bitsOf v 47 40)) }) := by
  show Host.Outcome.next (writeMode ctx v s).1 = _
  simp only [writeMode, if_neg hm, ha]

/-! ## Readbacks (R431, R432, R434) -/

/-- A readback of units that exist and are in service runs once all its contexts allow it. -/
theorem rbUnits_runs {ldie : Nat} {cs : List Nat} {run : State → State} (hd : diePresent s ldie = true)
    (ha : authoriseAll s (rbKind s) cs.eraseDups = (u, true)) : rbUnits s true ldie cs run = run u := by
  simp only [rbUnits, hd, ha, Bool.not_true, Bool.false_eq_true, if_false, if_true]

variable {dst : BitVec 64}

theorem readbackCore_runs {mine : List Nat} (hmine : mine = match (coreOf s (rbUnit s)).task with | some t => [t.ctx] | none => [])
    (hmay : rbMay s 0 = true) (hc : rbUnit s < 512) (hd : diePresent s (rbUnit s / 64) = true)
    (ha : authoriseAll s (rbKind s) (rbCtx s :: mine).eraseDups = (u, true)) :
    exec (.readbackCore dst) s = .next (readCore u (rbUnit s) (rbAddr dst)) := by
  subst hmine
  show execReadbackCore dst s = _
  simp only [execReadbackCore, hmay, decide_eq_true hc, if_true]
  exact congrArg _ (rbUnits_runs hd ha)

theorem readbackCluster_runs (hmay : rbMay s 1 = true) (hk : rbUnit s < 256) (hd : diePresent s (rbUnit s / 32) = true)
    (ha : authoriseAll s (rbKind s) (rbCtx s :: (clusterOf s (rbUnit s)).spCtx.toList).eraseDups = (u, true)) :
    exec (.readbackCluster dst) s = .next (rbRuns (writeClusterImage u (rbUnit s) (rbAddr dst)) 8454144 0) := by
  show execReadbackCluster dst s = _
  simp only [execReadbackCluster, hmay, decide_eq_true hk, if_true]
  exact congrArg _ (rbUnits_runs hd ha)

section Scheduler
variable (hmay : rbMay s 2 = true)
include hmay

/-- The package's scheduler is on no die. -/
theorem readbackScheduler_package (hl : rbUnit s / 2 ^ 13 = 5) (hn : rbUnit s % 2 ^ 13 = 0)
    (ha : authoriseAll s 2 (rbCtx s :: schedCtxs s 5 0).eraseDups = (u, true)) :
    exec (.readbackScheduler dst) s = .next (readScheduler u 5 0 (rbAddr dst)) := by
  show execReadbackScheduler dst s = _
  simp only [execReadbackScheduler, hmay, hl, hn, ha, decide_true, Bool.and_self, Bool.not_true, Bool.false_eq_true, if_true,
    if_false]

theorem readbackScheduler_onDie {d : Nat} (hne : rbUnit s / 2 ^ 13 ≠ 5 ∨ rbUnit s % 2 ^ 13 ≠ 0)
    (hs : schedDie (rbUnit s / 2 ^ 13) (rbUnit s % 2 ^ 13) = some d) (hd : diePresent s d = true)
    (ha : authoriseAll s (rbKind s) (rbCtx s :: schedCtxs s (rbUnit s / 2 ^ 13) (rbUnit s % 2 ^ 13)).eraseDups = (u, true)) :
    exec (.readbackScheduler dst) s
      = .next (readScheduler u (rbUnit s / 2 ^ 13) (rbUnit s % 2 ^ 13) (rbAddr dst)) := by
  have hpackage : ¬ (decide (rbUnit s / 2 ^ 13 = 5) && decide (rbUnit s % 2 ^ 13 = 0)) = true := by
    simpa only [Bool.and_eq_true, decide_eq_true_eq, not_and_or] using hne
  show execReadbackScheduler dst s = _
  simp only [execReadbackScheduler, hmay, if_neg hpackage, hs, Option.isSome_some, Option.getD_some, Bool.not_true,
    Bool.false_eq_true, if_false]
  exact congrArg _ (rbUnits_runs hd ha)

end Scheduler

theorem readbackEvent_runs (hmay : rbMay s 3 = true) (hlive : (ctxOf s (rbCtx s)).state = 1)
    (he : eventOk s (rbCtx s) (rbUnit s) = true) (ha : authorise s (rbCtx s) 3 = some u) :
    exec (.readbackEvent dst) s
      = .next (rbRuns (storeRange u (rbAddr dst) 64 (evEntry u (rbCtx s) (rbUnit s))) 64 0) := by
  show execReadbackEvent dst s = _
  simp only [execReadbackEvent, hmay, hlive, he, ha, Bool.not_true, Bool.false_eq_true, ne_eq, not_true_eq_false, if_false]

theorem readbackDone_ends {n e : Nat} (hp : s.rbPend = some (n, e)) : exec .readbackDone s
    = .next { s with rbBusy := false, rbPend := none, rbBytes := BitVec.ofNat 32 n, rbEcode := e } := by
  show execReadbackDone s = _
  simp only [execReadbackDone, hp]

/-- Settles O42, one event at a time: each is the model's function for it, in the branch that its hypotheses select. -/
theorem debugEventsComplete : Obligations.DebugEventsComplete := by
  intro ctx v dst s u
  refine ⟨debugModeWrite_authorised, fun hm => congrArg _ (if_pos hm), rfl, readbackCore_runs rfl, readbackCluster_runs,
    fun hmay => ⟨readbackScheduler_package hmay, fun d => readbackScheduler_onDie hmay⟩, readbackEvent_runs,
    fun hmay => congrArg _ (if_pos hmay), fun hmay => congrArg _ (if_pos hmay), fun n e => readbackDone_ends⟩

/-! ## Recovery (R378) -/

theorem satNat_eq_min (x hi : Nat) : satNat x hi = min x hi := by
  unfold satNat
  split <;> omega

/-- A channel that holds flits and makes no progress passes them to its router's escape channel. -/
theorem noProgressTimeout_recovers {r c : Nat} (h : vcFlits s r c ≠ []) :
    exec (.noProgressTimeout r c) s = .next { s with
      reccnt := BitVec.ofNat 32 (min (s.reccnt.toNat + 1) (2 ^ 32 - 1))
      escape := s.escape ++ (vcFlits s r c).map fun f => (r, f)
      vcs := s.vcs.filter fun v => !(decide (v.router = r) && decide (v.vc = c))
      recovering := s.recovering ++ [r] } := by
  rw [← satNat_eq_min]
  exact if_neg h

/-! ## Flits at a port that works (R379, R380) -/

section Flits
variable {n : Nat} {q : Port} {f : Flit} (hq : portOf s n = some q)
include hq

theorem headerFlit_takes (hk : f.kind = 0) :
    exec (.headerFlit n f) s = .next (packetFlit s n q f fun s q => openPacket s n q f) := by
  show execHeaderFlit n f s = _
  simp only [execHeaderFlit, hq, hk, ne_eq, not_true_eq_false, if_false]

theorem payloadFlit_takes (hk : f.kind = 1) :
    exec (.payloadFlit n f) s = .next (packetFlit s n q f fun s q => addPayload s n q f) := by
  show execPayloadFlit n f s = _
  simp only [execPayloadFlit, hq, hk, ne_eq, not_true_eq_false, if_false]

theorem acknowledge_eq (hk : f.kind = 2) : exec (.acknowledge n f) s
    = .next (if !flitGood f then badFlit s n f
        else setPort s n { q with retry := q.retry.filter fun g => !(sameFlow f g && (f.seq - g.seq).toNat < 2 ^ 31) }) := by
  show execAcknowledge n f s = _
  simp only [execAcknowledge, hq, hk, ne_eq, not_true_eq_false, if_false]

theorem retryRequest_eq (hk : f.kind = 3) : exec (.retryRequest n f) s
    = .next (if !flitGood f then badFlit s n f
        else setPort s n { q with sent := q.sent ++ resend f f.payload.toNat q.retry }) := by
  show execRetryRequest n f s = _
  simp only [execRetryRequest, hq, hk, ne_eq, not_true_eq_false, if_false]

theorem idle_eq (hk : f.kind = 4) : exec (.idle n f) s = .next (if !flitGood f then badFlit s n f else s) := by
  show execIdle n f s = _
  simp only [execIdle, hq, hk, decide_true, Bool.true_and]

/-- A flit with a bad CRC is discarded, unless it is one of a packet that comes again anyway. -/
theorem flitCrcFail_discards (hbad : flitGood f = false) (h : 2 ≤ f.kind.toNat ∨ resent q f = false) :
    exec (.flitCrcFail n f) s = .next (badFlit s n f) := by
  have hnot : (decide (f.kind.toNat ≤ 1) && resent q f) = false := by
    obtain hkind | hnew := h
    · rw [decide_eq_false (by omega), Bool.false_and]
    · rw [hnew, Bool.and_false]
  show execFlitCrcFail n f s = _
  simp only [execFlitCrcFail, hq, hbad, hnot, Bool.or_self, Bool.false_eq_true, if_false]

theorem portFailure_fails : exec (.portFailure n) s = .next (failAccesses (failEngines (moveFlows
    (withdrawPort (setPort s n { q with failed := true, retry := [], open_ := [], await := none }) n) n q))) := by
  show execPortFailure n s = _
  simp only [execPortFailure, hq]

end Flits

/-! ## Packets and the geyser (R381, R362) -/

theorem fixedLatencyPacketRelease_releases {k : Nat} {p : Packet} (hp : s.early[k]? = some p) :
    exec (.fixedLatencyPacketRelease k) s
      = .next (deliverWaiting s.early.length { s with early := s.early.set k { p with released := true } }) := by
  show execFixedLatencyPacketRelease k s = _
  simp only [execFixedLatencyPacketRelease, hp, List.length_set]

/-- The count goes on by one where the package takes over no other count. -/
theorem geyserTick_counts (h : s.geyserPending = none) : exec .geyserTick s = .next { s with geyser := s.geyser + 1 } := by
  show execGeyserTick s = _
  rw [execGeyserTick, h, Option.getD_none, ← h]

theorem geyserTick_takes {m : BitVec 64} (h : s.geyserPending = some m) :
    exec .geyserTick s = .next { s with geyser := m, geyserPending := none } := by
  show execGeyserTick s = _
  rw [execGeyserTick, h, Option.getD_some]

/-- Settles O44, one event at a time: each is the model's function for it, in the branch that its hypotheses select. -/
theorem networkEventsComplete : Obligations.NetworkEventsComplete := by
  intro r c n f rs g m s
  refine ⟨noProgressTimeout_recovers, rfl, fun q hq => ⟨fun hgood => ?_, fun hbad => ?_, portFailure_fails hq⟩, rfl,
    fun p => fixedLatencyPacketRelease_releases, geyserTick_counts, geyserTick_takes, fun hf => congrArg _ (if_pos hf)⟩
  · have hnot : ¬ (!flitGood f) = true := by rw [hgood]; exact Bool.false_ne_true
    exact ⟨headerFlit_takes hq, payloadFlit_takes hq, fun hk => (acknowledge_eq hq hk).trans (congrArg _ (if_neg hnot)),
      fun hk => (retryRequest_eq hq hk).trans (congrArg _ (if_neg hnot)),
      fun hk => (idle_eq hq hk).trans (congrArg _ (if_neg hnot))⟩
  · have hnot : (!flitGood f) = true := by rw [hbad]; rfl
    exact ⟨fun h => flitCrcFail_discards hq hbad (.inl h), fun h => flitCrcFail_discards hq hbad (.inr h),
      fun hk => (acknowledge_eq hq hk).trans (congrArg _ (if_pos hnot)),
      fun hk => (retryRequest_eq hq hk).trans (congrArg _ (if_pos hnot)),
      fun hk => (idle_eq hq hk).trans (congrArg _ (if_pos hnot))⟩

end Sys2Proof.Proofs
end

section
/-!
PROOFS. Groups, gangs and the geyser count (O19), events and fences (O20).
-/
namespace Sys2Proof.Proofs
open Machine Laws

variable {f : SRR} {u : State} {c : Nat} (at_ : Site)

/-- An operation that issues alone traps where its meaning does, on every core it may act on. -/
theorem traps_of_act {i : Instr} {slot : Nat} {p : State → Nat → Prop} {t : State → Nat → Trap}
    (hs : slotOf i = some slot) (ha : ∀ u c at_, p u c → actOf i u c at_ = .trap (t u c)) : Traps i p t :=
  traps_of i slot (actOf i) p t hs (fun s => exec_slot i slot s hs) fun _ => ha _ _ _

/-- An operation that issues alone waits where its meaning does, on every core it may act on. -/
theorem waits_of_act {i : Instr} {slot : Nat} {p : State → Nat → Prop} {g : State → State}
    (hs : slotOf i = some slot) (ha : ∀ u c at_, p u c → actOf i u c at_ = .stall g) : Waits i p g :=
  waits_of i slot (actOf i) p g hs (fun s => exec_slot i slot s hs) fun _ => ha _ _ _

/-! ## Group lines (R355, R356) -/

/-- Membership of a line, as the operations read it from the line's group. -/
theorem isMember_eq (u : State) (c line : Nat) : (lineGroup u c line).members.contains c = isMember u c line := rfl

theorem actGjoin_joins (h : isMember u c (bitsOf f.fn 4 0) = false) :
    actGjoin f u c at_ = .ok u { Effects.none with joins := [bitsOf f.fn 4 0] } := by
  simp only [actGjoin, isMember_eq, h, Bool.false_eq_true, if_false]

theorem actGjoin_misuse (h : isMember u c (bitsOf f.fn 4 0) = true) :
    actGjoin f u c at_ = .trap (trapOf 0x11 (bitsOf f.fn 4 0)) := by
  simp only [actGjoin, isMember_eq, h, if_true, misuse]

theorem actGleave_misuse (h : isMember u c (bitsOf f.fn 4 0) = false) :
    actGleave f u c at_ = .trap (trapOf 0x11 (bitsOf f.fn 4 0)) := by
  simp only [actGleave, isMember_eq, h, Bool.not_false, if_true, misuse]

theorem actSync_misuse (h : isMember u c (bitsOf f.fn 4 0) = false) :
    actSync f u c at_ = .trap (trapOf 0x11 (bitsOf f.fn 4 0)) := by
  simp only [actSync, isMember_eq, h, Bool.not_false, if_true, misuse]

section Member
variable (h : isMember u c (bitsOf f.fn 4 0) = true)
include h

theorem actGleave_waits (ho : accOwed u c = true) : actGleave f u c at_ = .stall id := by
  simp only [actGleave, isMember_eq, h, ho, Bool.not_true, Bool.false_eq_true, if_false, if_true]

theorem actGleave_leaves (ho : accOwed u c = false) :
    actGleave f u c at_ = .ok (
      let line := bitsOf f.fn 4 0
      let g := lineGroup u c line
      let v := putGroup u (leaveGroup c g)
      { v with recasts := v.recasts.map fun r =>
          if r.ctx = g.ctx && dWgrp (descOf v r.ctx r.index) = line
          then { r with required := r.required.filter (· ≠ c) } else r }) .none := by
  simp only [actGleave, isMember_eq, h, ho, Bool.not_true, Bool.false_eq_true, if_false]

theorem actSync_asserts : actSync f u c at_ = .ok (
    modCore (noteWait (putGroup u (assertLine (lineGroup u c (bitsOf f.fn 4 0)) c)) c) c
      fun x => { x with syncWait := some (bitsOf f.fn 4 0) }) { Effects.none with waits := true } := by
  simp only [actSync, isMember_eq, h, Bool.not_true, Bool.false_eq_true, if_false]

end Member

/-! ## Gangs (R360) -/

/-- A skew step below 8 is the low 3 bits of its register. -/
theorem bitsOf_low3 {w : Word} (h : w.toNat < 8) : bitsOf w 63 3 = 0 ∧ bitsOf w 2 0 = w.toNat := by
  constructor
  · rw [bitsOf, Nat.shiftRight_eq_div_pow, Nat.div_eq_of_lt h, Nat.zero_mod]
  · exact Nat.mod_eq_of_lt h

section Gang
variable {g : Gang} (hg : gangOf u c = some g)
include hg

theorem actFuse_lead (hf : g.fused = true) (hlead : g.members.head? = some c) (hstep : (sA (coreOf u c) f).toNat < 8) :
    actFuse f u c at_ = .ok u { Effects.none with step := some (sA (coreOf u c) f).toNat } := by
  obtain ⟨hhigh, hlow⟩ := bitsOf_low3 hstep
  simp only [actFuse, hg, hf, hlead, hhigh, hlow, Bool.not_true, Bool.false_eq_true, ne_eq, not_true_eq_false, if_false]

theorem actFuse_other (hf : g.fused = true) (hlead : g.members.head? ≠ some c) : actFuse f u c at_ = .ok u .none := by
  simp only [actFuse, hg, hf, Bool.not_true, Bool.false_eq_true, if_false, if_pos hlead]

theorem actDecpl_fused (hf : g.fused = true) : actDecpl f u c at_
    = .ok u { Effects.none with target := some (sA (coreOf u c) f), decouple := true } := by
  simp only [actDecpl, hg, hf, Bool.not_true, Bool.false_eq_true, if_false]

theorem actRejoin_joining (gd : Guard) (hj : g.joining = true) : actRejoin gd u c at_
    = .ok u { Effects.none with place := rejoinPlace g } := by
  simp only [actRejoin, hg, hj, if_true]

theorem actRejoin_waits (gd : Guard) (hj : g.joining = false) (hf : g.fused = false) : actRejoin gd u c at_
    = .stall fun s => assertGang s c g at_.next := by
  simp only [actRejoin, hg, hj, hf, Bool.false_eq_true, if_false]

end Gang

/-! ## The geyser count (R363) -/

theorem actWstep_waits (h : u.geyser.toNat < (sA (coreOf u c) f).toNat) :
    actWstep f u c at_ = .stall fun s => modCore s c fun x => { x with stepWait := true } := by
  simp only [actWstep, if_pos h]

theorem actWstep_passes (h : (sA (coreOf u c) f).toNat ≤ u.geyser.toNat) :
    actWstep f u c at_ = .ok (if bitOf f.fn 0
      then setP u c 0 1 7 !(decide ((sA (coreOf u c) f).toNat < u.geyser.toNat) && !(coreOf u c).stepWait) else u) .none := by
  simp only [actWstep, if_neg (Nat.not_lt.mpr h)]

/-! ## Events of the own package (R366, R365) -/

@[simp] theorem paPut_chains (u : State) (pa n v : Nat) : (paPut u pa n v).chains = u.chains := rfl

@[simp] theorem paPut_pkg (u : State) (pa n v : Nat) : (paPut u pa n v).pkg = u.pkg := rfl

section Event
variable (hres : bitsOf (sA (coreOf u c) f) 63 32 = 0)
  (hpkg : bitsOf (sA (coreOf u c) f) 31 16 = 0xFFFF ∨ bitsOf (sA (coreOf u c) f) 31 16 = u.pkg.toNat)
  (hev : eventOk u (ctxOfCore u c) (bitsOf (sA (coreOf u c) f) 15 0) = true)

/-- All ones and the package's own number name this package. -/
theorem evPkg_own {a : Word} (h : bitsOf a 31 16 = 0xFFFF ∨ bitsOf a 31 16 = u.pkg.toNat) : evPkg u a = u.pkg.toNat := by
  unfold evPkg
  split
  · rfl
  next hne => exact h.resolve_left hne

include hres hpkg hev

theorem evIndex_ok : evIndex u c (sA (coreOf u c) f) at_ = .ok (bitsOf (sA (coreOf u c) f) 15 0) := by
  simp only [evIndex, hres, evPkg_own hpkg, hev, ne_eq, not_true_eq_false, decide_false, Bool.or_self, Bool.false_eq_true, if_false,
    if_true]

theorem actEvadd_sends : actEvadd f u c at_ = .ok
    { (evRet f u c).2 with
      incs := (evRet f u c).2.incs ++ [⟨u.pkg.toNat, ctxOfCore u c, bitsOf (sA (coreOf u c) f) 15 0, (sB (coreOf u c) f).toNat,
        some c, (coreOf u c).sq.map (·.id), (evRet f u c).1, none⟩]
      free := (evRet f u c).2.free + 1 } .none := by
  simp only [eventOk, Bool.and_eq_true, decide_eq_true_eq] at hev
  obtain ⟨hpos, hlt⟩ := hev
  have hindex : (decide (bitsOf (sA (coreOf u c) f) 15 0 = 0)
      || decide (evCount u (ctxOfCore u c) ≤ bitsOf (sA (coreOf u c) f) 15 0)) = false := by
    rw [decide_eq_false (by omega), decide_eq_false (by omega), Bool.or_self]
  simp only [actEvadd, hres, evPkg_own hpkg, hindex, ne_eq, not_true_eq_false, decide_false, Bool.false_and, Bool.false_eq_true,
    if_false, if_true]

theorem actEvarm_arms (hchain : bitsOf (sD (coreOf u c) f) 15 0 = 0
      ∨ eventOk u (ctxOfCore u c) (bitsOf (sD (coreOf u c) f) 15 0) = true) :
    let ctx := ctxOfCore u c
    let i := bitsOf (sA (coreOf u c) f) 15 0
    let n := bitsOf f.fn 1 0
    let r := fireArmed (armEntry (evEntry u ctx i) n (sB (coreOf u c) f).toNat (bitsOf (sD (coreOf u c) f) 31 0)) n
    actEvarm f u c at_ = .ok { paPut u (evAddr u ctx i) 64 r.1 with
      chains := u.chains ++ r.2.map fun q => ⟨u.pkg.toNat, ctx, q.1, q.2, none, [], none, none⟩ } .none := by
  have hlow : bitsOf (sD (coreOf u c) f) 31 0 % 2 ^ 16 = bitsOf (sD (coreOf u c) f) 15 0 := by
    simp only [bitsOf, Nat.shiftRight_zero]
    omega
  have hok : (decide (bitsOf (sD (coreOf u c) f) 15 0 ≠ 0)
      && !eventOk u (ctxOfCore u c) (bitsOf (sD (coreOf u c) f) 15 0)) = false := by
    obtain h | h := hchain
    · rw [h]; rfl
    · rw [h, Bool.not_true, Bool.and_false]
  simp only [actEvarm, evIndex_ok at_ hres hpkg hev, hlow, hok, paPut_chains, paPut_pkg, Bool.false_eq_true, if_false]

theorem actEvarmDis_disarms :
    let i := bitsOf (sA (coreOf u c) f) 15 0
    let n := bitsOf f.fn 1 0
    let e := evEntry u (ctxOfCore u c) i
    actEvarmDis f u c at_ = .ok (paPut u (evAddr u (ctxOfCore u c) i) 64
      (reRank (setBits e (64 + n) (64 + n) 0) ((armedByRank e).filter (· ≠ n)) 0)) .none := by
  simp only [actEvarmDis, evIndex_ok at_ hres hpkg hev]

theorem actEvwait_eq : actEvwait f u c at_
    = if evValue u (ctxOfCore u c) (bitsOf (sA (coreOf u c) f) 15 0) < (sB (coreOf u c) f).toNat then .stall id else .ok u .none := by
  simp only [actEvwait, evIndex_ok at_ hres hpkg hev]

theorem actEvrd_sends : actEvrd f u c at_ = .ok
    { (pendS u c f.d.toNat).2 with
      incs := (pendS u c f.d.toNat).2.incs ++ [⟨u.pkg.toNat, ctxOfCore u c, bitsOf (sA (coreOf u c) f) 15 0, 0, some c, [],
        some (pendS u c f.d.toNat).1, some (bitsOf f.fn 2 0)⟩] } .none := by
  simp only [actEvrd, evIndex_ok at_ hres hpkg hev]

end Event

/-! ## Fences (R345, R346) -/

/-- What a FENCE that orders earlier reads waits for: loads that have not performed, atomics whose value is out. -/
def readsLeft (u : State) (c kind : Nat) : Prop :=
  kind ≠ 1 ∧ ((coreOf u c).loads ≠ [] ∨ (coreOf u c).sq.any returnsValue = true)

/-- What a FENCE that orders earlier writes waits for: store-queue entries whose home is in its scope. -/
def writesLeft (u : State) (c kind scope : Nat) : Prop :=
  kind ≠ 2 ∧ ((coreOf u c).sq.any fun e => inScope u c scope (entryHome u e)) = true

theorem actFence_passes (hr : ¬ readsLeft u c (bitsOf f.fn 4 3)) (hw : ¬ writesLeft u c (bitsOf f.fn 4 3) (bitsOf f.fn 2 0)) :
    actFence f u c at_ = .ok u .none := by
  unfold readsLeft at hr
  unfold writesLeft at hw
  simp only [actFence, Bool.and_eq_true, Bool.or_eq_true, decide_eq_true_eq, if_neg hr, if_neg hw]

theorem actFence_waits (h : readsLeft u c (bitsOf f.fn 4 3) ∨ writesLeft u c (bitsOf f.fn 4 3) (bitsOf f.fn 2 0)) :
    actFence f u c at_ = .stall id := by
  unfold readsLeft writesLeft at h
  simp only [actFence, Bool.and_eq_true, Bool.or_eq_true, decide_eq_true_eq]
  split
  · rfl
  next hr => rw [if_pos (h.resolve_left hr)]

/-- The writes that stood in the scope at issue are the ones noted, or those of now. -/
def fencedWrites (u : State) (c : Nat) (f : SRR) : List Nat := (coreOf u c).xfence.getD (asyncIn u c (bitsOf f.fn 2 0))

theorem actXfence_passes (h : ∀ n ∈ fencedWrites u c f, ∀ e ∈ u.async, e.id ≠ n) :
    actXfence f u c at_ = .ok (modCore u c fun x => { x with xfence := none }) .none := by
  have hnone : ¬ ((fencedWrites u c f).any fun n => u.async.any fun e => e.id = n) = true := by
    simpa only [List.any_eq_true, decide_eq_true_eq, not_exists, not_and] using h
  exact if_neg hnone

theorem actXfence_waits (h : ∃ n ∈ fencedWrites u c f, ∃ e ∈ u.async, e.id = n) :
    actXfence f u c at_ = .stall fun s => modCore s c fun x => { x with xfence := some (fencedWrites u c f) } := by
  have hsome : ((fencedWrites u c f).any fun n => u.async.any fun e => e.id = n) = true := by
    simpa only [List.any_eq_true, decide_eq_true_eq] using h
  exact if_pos hsome

/-! ## The statements -/

/-- Settles O19: each operation takes the branch of its meaning that the core's line, its gang or the geyser count selects. -/
theorem groupsAndGangsComplete : Obligations.GroupsAndGangsComplete := by
  refine ⟨fun f => ⟨?_, fun _ _ => rfl, ?_, ?_, ?_, ?_, fun i hi => ?_⟩,
    fun f gd => ⟨fun g => ⟨?_, ?_, ?_, ?_, fun s hi hg hj hf => ?_⟩, fun s hi hlt => ?_, ?_, ?_⟩⟩
  · exact does_of_act rfl fun _ _ at_ h => actGjoin_joins at_ h
  · exact traps_of_act rfl fun _ _ at_ h => actGjoin_misuse at_ h
  · exact does_of_act rfl fun _ _ at_ ⟨h, ho⟩ => actGleave_leaves at_ h ho
  · exact waits_of_act rfl fun _ _ at_ ⟨h, ho⟩ => actGleave_waits at_ h ho
  · exact does_of_act rfl fun _ _ at_ h => actSync_asserts at_ h
  · simp only [List.mem_cons, List.not_mem_nil, or_false] at hi
    obtain rfl | rfl := hi
    · exact traps_of_act rfl fun _ _ at_ h => actGleave_misuse at_ h
    · exact traps_of_act rfl fun _ _ at_ h => actSync_misuse at_ h
  · exact does_of_act rfl fun _ _ at_ ⟨hg, hf, hlead, hstep⟩ => actFuse_lead at_ hg hf hlead hstep
  · exact does_of_act rfl fun _ _ at_ ⟨hg, hf, hlead⟩ => actFuse_other at_ hg hf hlead
  · exact does_of_act rfl fun _ _ at_ ⟨hg, hf⟩ => actDecpl_fused at_ hg hf
  · exact does_of_act rfl fun _ _ at_ ⟨hg, hj⟩ => actRejoin_joining at_ hg gd hj
  · exact exec_of_stall rfl hi (actRejoin_waits (siteOf s (.rejoin gd)) hg gd hj hf)
  · exact exec_of_stall rfl hi (actWstep_waits (siteOf s (.wstep f)) hlt)
  · exact does_of_act rfl fun _ _ at_ ⟨h, hl⟩ => (actWstep_passes at_ h).trans (by rw [hl]; rfl)
  · exact does_of_act rfl fun _ _ at_ ⟨h, hl⟩ => (actWstep_passes at_ h).trans (by rw [hl]; rfl)

/-- Settles O20: an event of this package passes the check of its index, and a fence waits for what is left of its kind in its
scope. -/
theorem eventsAndFencesComplete : Obligations.EventsAndFencesComplete := by
  refine ⟨fun f s hres hpkg hev => ⟨fun hi => ?_, fun hi hchain => ?_, fun hi => ?_, fun hi => ?_, fun hi => ?_⟩,
    fun f s => ⟨fun hi => ⟨fun he hl => ?_, fun h => ?_⟩, fun hi => ⟨fun h => ?_, fun h => ?_⟩⟩⟩
  · exact exec_of_ok rfl hi (actEvadd_sends (siteOf s (.evadd f)) hres hpkg hev)
  · exact exec_of_ok rfl hi (actEvarm_arms (siteOf s (.evarm f)) hres hpkg hev hchain)
  · exact exec_of_ok rfl hi (actEvarmDis_disarms (siteOf s (.evarmDis f)) hres hpkg hev)
  · have hact := actEvwait_eq (siteOf s (.evwait f)) hres hpkg hev
    exact ⟨fun h => exec_of_ok rfl hi (hact.trans (if_neg (Nat.not_lt.mpr h))),
      fun h => exec_of_stall rfl hi (hact.trans (if_pos h))⟩
  · exact exec_of_ok rfl hi (actEvrd_sends (siteOf s (.evrd f)) hres hpkg hev)
  · exact exec_of_ok rfl hi (actFence_passes (siteOf s (.fence f)) he hl)
  · exact exec_of_stall rfl hi (actFence_waits (siteOf s (.fence f)) h)
  · exact exec_of_ok rfl hi (actXfence_passes (siteOf s (.xfence f)) h)
  · exact exec_of_stall rfl hi (actXfence_waits (siteOf s (.xfence f)) h)

end Sys2Proof.Proofs
end

section
/-!
PROOFS. Encodings: sample words (O1), and decoding undoes the encoder (O2).
-/
namespace Sys2Proof.Proofs
open Machine Laws

/-- Settles O1: the decoder computes on the sample words. -/
theorem decodesSampleWords : Obligations.DecodesSampleWords := by
  refine ⟨?_, ?_, ?_, ?_, ?_, ?_, ?_, ?_, ?_, ?_, ?_, ?_⟩
  all_goals decide +kernel

/-- Settles O2: an operation of each opcode has its word lemma, and an event has no words. -/
theorem encodeDecodeAgree : Obligations.EncodeDecodeAgree := by
  intro i
  change Encodes.Statement i
  cases i with
  | nop => exact Encodes.nop
  | add f => exact Encodes.add f
  | sub f => exact Encodes.sub f
  | mul f => exact Encodes.mul f
  | mulh f => exact Encodes.mulh f
  | mulhn f => exact Encodes.mulhn f
  | div f => exact Encodes.div f
  | divn f => exact Encodes.divn f
  | mod f => exact Encodes.mod f
  | modn f => exact Encodes.modn f
  | and f => exact Encodes.and f
  | or f => exact Encodes.or f
  | xor f => exact Encodes.xor f
  | shl f => exact Encodes.shl f
  | shr f => exact Encodes.shr f
  | sra f => exact Encodes.sra f
  | min f => exact Encodes.min f
  | max f => exact Encodes.max f
  | minn f => exact Encodes.minn f
  | maxn f => exact Encodes.maxn f
  | clz f => exact Encodes.clz f
  | popc f => exact Encodes.popc f
  | sext f => exact Encodes.sext f
  | zext f => exact Encodes.zext f
  | addi f => exact Encodes.addi f
  | andi f => exact Encodes.andi f
  | ori f => exact Encodes.ori f
  | xori f => exact Encodes.xori f
  | shli f => exact Encodes.shli f
  | shri f => exact Encodes.shri f
  | srai f => exact Encodes.srai f
  | li f => exact Encodes.li f
  | lih16 f => exact Encodes.lih16 f
  | lih32 f => exact Encodes.lih32 f
  | lih48 f => exact Encodes.lih48 f
  | cmp f => exact Encodes.cmp f
  | cmpi f => exact Encodes.cmpi f
  | pand f => exact Encodes.pand f
  | por f => exact Encodes.por f
  | pxor f => exact Encodes.pxor f
  | sel f => exact Encodes.sel f
  | pmov f => exact Encodes.pmov f
  | pmovToS f => exact Encodes.pmovToS f
  | pmovFromS f => exact Encodes.pmovFromS f
  | br f => exact Encodes.br f
  | jmp f => exact Encodes.jmp f
  | call f => exact Encodes.call f
  | ret g => exact Encodes.ret g
  | loop f => exact Encodes.loop f
  | rbset f => exact Encodes.rbset f
  | exit g => exact Encodes.exit g
  | yield g => exact Encodes.yield g
  | ldl f => exact Encodes.ldl f
  | stl f => exact Encodes.stl f
  | ldm f => exact Encodes.ldm f
  | stm f => exact Encodes.stm f
  | amo f => exact Encodes.amo f
  | sacc f => exact Encodes.sacc f
  | sapp f => exact Encodes.sapp f
  | hld f => exact Encodes.hld f
  | hview f => exact Encodes.hview f
  | rcast f => exact Encodes.rcast f
  | hold f => exact Encodes.hold f
  | rels f => exact Encodes.rels f
  | hgen f => exact Encodes.hgen f
  | taglk f => exact Encodes.taglk f
  | tagset f => exact Encodes.tagset f
  | tagclr f => exact Encodes.tagclr f
  | tagclrK f => exact Encodes.tagclrK f
  | xsv f => exact Encodes.xsv f
  | xvs f => exact Encodes.xvs f
  | itset f => exact Encodes.itset f
  | itget f => exact Encodes.itget f
  | gjoin f => exact Encodes.gjoin f
  | gleave f => exact Encodes.gleave f
  | sync f => exact Encodes.sync f
  | fuse f => exact Encodes.fuse f
  | decpl f => exact Encodes.decpl f
  | rejoin g => exact Encodes.rejoin g
  | wstep f => exact Encodes.wstep f
  | evadd f => exact Encodes.evadd f
  | evarm f => exact Encodes.evarm f
  | evarmDis f => exact Encodes.evarmDis f
  | evwait f => exact Encodes.evwait f
  | evrd f => exact Encodes.evrd f
  | fence f => exact Encodes.fence f
  | xfence f => exact Encodes.xfence f
  | tis f => exact Encodes.tis f
  | tiwait f => exact Encodes.tiwait f
  | csrr f => exact Encodes.csrr f
  | csrw f => exact Encodes.csrw f
  | trap f => exact Encodes.trap f
  | eret f => exact Encodes.eret f
  | brk f => exact Encodes.brk f
  | vnop x => exact Encodes.vnop x
  | vadd x f => exact Encodes.vadd x f
  | vsub x f => exact Encodes.vsub x f
  | vmul x f => exact Encodes.vmul x f
  | vfma x f => exact Encodes.vfma x f
  | vfms x f => exact Encodes.vfms x f
  | vfnma x f => exact Encodes.vfnma x f
  | vmin x f => exact Encodes.vmin x f
  | vmax x f => exact Encodes.vmax x f
  | vabs x f => exact Encodes.vabs x f
  | vneg x f => exact Encodes.vneg x f
  | vdiv x f => exact Encodes.vdiv x f
  | vmulh x f => exact Encodes.vmulh x f
  | vsadd x f => exact Encodes.vsadd x f
  | vssub x f => exact Encodes.vssub x f
  | vand x f => exact Encodes.vand x f
  | vor x f => exact Encodes.vor x f
  | vxor x f => exact Encodes.vxor x f
  | vnot x f => exact Encodes.vnot x f
  | vshl x f => exact Encodes.vshl x f
  | vshr x f => exact Encodes.vshr x f
  | vsra x f => exact Encodes.vsra x f
  | vpopc x f => exact Encodes.vpopc x f
  | vclz x f => exact Encodes.vclz x f
  | vcmp x f => exact Encodes.vcmp x f
  | vsel x f => exact Encodes.vsel x f
  | vmand x f => exact Encodes.vmand x f
  | vmor x f => exact Encodes.vmor x f
  | vmxor x f => exact Encodes.vmxor x f
  | vmnot x f => exact Encodes.vmnot x f
  | vmcnt x f => exact Encodes.vmcnt x f
  | vcvt x f => exact Encodes.vcvt x f
  | vqnt x f => exact Encodes.vqnt x f
  | vdqn x f => exact Encodes.vdqn x f
  | vcbx x f => exact Encodes.vcbx x f
  | vcbq x f => exact Encodes.vcbq x f
  | vamax x f => exact Encodes.vamax x f
  | vmov x f => exact Encodes.vmov x f
  | vbcst x f => exact Encodes.vbcst x f
  | vperm x f => exact Encodes.vperm x f
  | vshfl x f => exact Encodes.vshfl x f
  | viota x f => exact Encodes.viota x f
  | vcmps x f => exact Encodes.vcmps x f
  | vexpd x f => exact Encodes.vexpd x f
  | vxv x f => exact Encodes.vxv x f
  | vred x f => exact Encodes.vred x f
  | vscan x f => exact Encodes.vscan x f
  | vdot x f => exact Encodes.vdot x f
  | vexp2 x f => exact Encodes.vexp2 x f
  | vlog2 x f => exact Encodes.vlog2 x f
  | vrcp x f => exact Encodes.vrcp x f
  | vrsq x f => exact Encodes.vrsq x f
  | vsqrt x f => exact Encodes.vsqrt x f
  | vsinpi x f => exact Encodes.vsinpi x f
  | vcospi x f => exact Encodes.vcospi x f
  | vtanh x f => exact Encodes.vtanh x f
  | vsigm x f => exact Encodes.vsigm x f
  | vld x f => exact Encodes.vld x f
  | vst x f => exact Encodes.vst x f
  | vgth x f => exact Encodes.vgth x f
  | vsct x f => exact Encodes.vsct x f
  | vacc x f => exact Encodes.vacc x f
  | vamo x f => exact Encodes.vamo x f
  | vapp x f => exact Encodes.vapp x f
  | mnop => exact Encodes.mnop
  | mma f => exact Encodes.mma f
  | mmag f => exact Encodes.mmag f
  | mmas f => exact Encodes.mmas f
  | mgth f => exact Encodes.mgth f
  | aclr f => exact Encodes.aclr f
  | aspl f => exact Encodes.aspl f
  | afil f => exact Encodes.afil f
  | asw f => exact Encodes.asw f
  | mdrn f => exact Encodes.mdrn f
  | prja f => exact Encodes.prja f
  | mwait f => exact Encodes.mwait f
  | knop => exact Encodes.knop
  | klds f => exact Encodes.klds f
  | ksts f => exact Encodes.ksts f
  | kldc f => exact Encodes.kldc f
  | kmov f => exact Encodes.kmov f
  | kauto f => exact Encodes.kauto f
  | kufc f => exact Encodes.kufc f
  | itlvl f => exact Encodes.itlvl f
  | itrst f => exact Encodes.itrst f
  | itrev f => exact Encodes.itrev f
  | itstep f => exact Encodes.itstep f
  | kseed f => exact Encodes.kseed f
  | cnop x => exact Encodes.cnop x
  | copy x f => exact Encodes.copy x f
  | cprf x f => exact Encodes.cprf x f
  | cwb x f => exact Encodes.cwb x f
  | sbind x f => exact Encodes.sbind x f
  | sadv x f => exact Encodes.sadv x f
  | swtf x f => exact Encodes.swtf x f
  | swte x f => exact Encodes.swte x f
  | mcast x f => exact Encodes.mcast x f
  | csend x f => exact Encodes.csend x f
  | crecv x f => exact Encodes.crecv x f
  | chks x f => exact Encodes.chks x f
  | cwait x f => exact Encodes.cwait x f
  | carm x f => exact Encodes.carm x f
  | cstat x f => exact Encodes.cstat x f
  | sclose x f => exact Encodes.sclose x f
  | cdesc x f => exact Encodes.cdesc x f
  | tnop t => exact Encodes.tnop t
  | tmm t => exact Encodes.tmm t
  | tmmg t => exact Encodes.tmmg t
  | tconv t => exact Encodes.tconv t
  | tmap t => exact Encodes.tmap t
  | tred t => exact Encodes.tred t
  | tscan t => exact Encodes.tscan t
  | tcopy t => exact Encodes.tcopy t
  | tcast t => exact Encodes.tcast t
  | tprj t => exact Encodes.tprj t
  | tprja t => exact Encodes.tprja t
  | tcol t => exact Encodes.tcol t
  | tfill t => exact Encodes.tfill t
  | tevt t => exact Encodes.tevt t
  | twait t => exact Encodes.twait t
  | tchk t => exact Encodes.tchk t
  | tstep t => exact Encodes.tstep t
  | issueBundle _ | moduleResetBoot | dieFatalFault _ | dieSwitchInComplete _ | powerLimitExceeded
  | powerLimitRecovered | detClockChangeBoundary | thermalTrip _ | thermalDieFatal _ | setPowerLimit _
  | dieIdleEntry _ | dataError _ _ | sqtailWrite _ _ _ | cqheadWrite _ _ _ | ovrClear _ _ _ | contextCreate _
  | contextUpdate _ | contextDestroy _ | partitionWrite _ _ | xinvWrite _ | xinvDone | preemptSoftRequest _ _
  | preemptHardRequest _ _ | cxsaveWrite _ _ | readbackCore _ | readbackCluster _ | readbackScheduler _
  | readbackEvent _ | readbackCertChain _ | readbackAttestation _ | readbackDone | debugModeWrite _ _ | debugHalt _
  | debugResume _ | owndigWrite _ _ _ | mgmtRegisterWrite _ _ | hostApply _ | hostRead _ _ | fetchEntry
  | handOutPiece _ _ _ | agingTick _ _ _ | steal _ | gangAdmit _ | taskStart _ | bankSpill _ _ | taskRetire _
  | pieceRetireMerge _ | tileRetire _ | completionRecordWrite _ _ | faultRecordReceive _ | stallRelease _
  | watchdogExpiry _ | preemptDeadlineExpiry _ | hardPreemptFreeze _ | freezeRecordSave _ | frozenTaskResume _
  | arrayOpStart _ | arrayOpComplete _ | mwinModeTakeEffect _ | l0TileStart _ | l0TileRetire _ | storeApply _ _
  | loadPerform _ _ | accCombine _ | pipeDeliver _ _ | threadLineAccess _ _ _ | asyncMerge _ | engineOpComplete _ _
  | pageWalkComplete _ _ _ | faultServiceResolve _ | faultResolvedRetry _ | recastArrival _ | recastComplete _
  | eventIncrement _ | eventChainApply | syncRelease _ _ _ | rejoinRelease _ | geyserTick | geyserAlignMessage _
  | noProgressTimeout _ _ | recoveryWindowEnd _ | headerFlit _ _ | payloadFlit _ _ | acknowledge _ _
  | retryRequest _ _ | idle _ _ | flitCrcFail _ _ | portFailure _ | channelTileArrive _ | channelTileDeliver _
  | scratchpadTileReady _ | fabricGroupConfigure _ _ _ | fixedLatencyPacketRelease _ => exact fun _ => no_words _ rfl rfl rfl

end Sys2Proof.Proofs
end

section
/-!
PROOFS. Scalar arithmetic, logic and immediates (O6), division (O7), compares (O8) and predicate operations (O9).
-/
namespace Sys2Proof.Proofs
open Machine Laws

/-! ## Operations that write one result -/

section Result
variable {i : Instr} (act : Act) (hs : slotOf i = some 0) (hm : actOf i = act)
include hs hm

theorem sResult_of_act {d : BitVec 5} {lat : Nat} {v w : Core → Word} (ha : act = sRes d lat v) (hv : ∀ x, v x = w x) :
    SResult i d lat w := by
  obtain rfl : v = w := funext hv
  exact fun s hi _ => exec_of_ok hs hi (by rw [hm, ha]; rfl)

theorem pResult_of_act {d : BitVec 5} {v w : Core → Bool} (ha : act = pRes (d.toNat % 8) v) (hv : ∀ x, v x = w x) :
    PResult i d w := by
  obtain rfl : v = w := funext hv
  exact fun s hi _ => exec_of_ok hs hi (by rw [hm, ha]; rfl)

end Result

/-! ## Words of the results (R197) -/

theorem mul_eq (a b : Word) : a * b = BitVec.ofNat 64 (a.toNat * b.toNat) := by
  rw [BitVec.ofNat_mul, BitVec.ofNat_toNat, BitVec.ofNat_toNat, BitVec.setWidth_eq, BitVec.setWidth_eq]

theorem ofInt_mulHigh (a b : Word) :
    BitVec.ofInt 64 (a.toInt * b.toInt / 2 ^ 64) = ((a.signExtend 128) * (b.signExtend 128)).extractLsb' 64 64 := by
  have hp : (a.signExtend 128) * (b.signExtend 128) = BitVec.ofInt 128 (a.toInt * b.toInt) := by
    rw [BitVec.signExtend, BitVec.signExtend, BitVec.ofInt_mul]
  rw [hp]
  apply BitVec.eq_of_toNat_eq
  rw [BitVec.extractLsb'_toNat, BitVec.toNat_ofInt, BitVec.toNat_ofInt, Nat.shiftRight_eq_div_pow]
  generalize a.toInt * b.toInt = x
  norm_num
  omega

theorem ofNat_mulHigh (a b : Word) :
    BitVec.ofNat 64 (a.toNat * b.toNat / 2 ^ 64) = ((a.zeroExtend 128) * (b.zeroExtend 128)).extractLsb' 64 64 := by
  apply BitVec.eq_of_toNat_eq
  simp only [BitVec.extractLsb'_toNat, BitVec.toNat_mul, BitVec.toNat_ofNat, BitVec.truncate_eq_setWidth, BitVec.toNat_setWidth,
    Nat.shiftRight_eq_div_pow]
  have ha := a.isLt
  have hb := b.isLt
  rw [Nat.mod_eq_of_lt (by omega : a.toNat < 2 ^ 128), Nat.mod_eq_of_lt (by omega : b.toNat < 2 ^ 128)]
  generalize a.toNat * b.toNat = x
  omega

theorem min_eq (a b : Word) : (if b.slt a then b else a) = BitVec.ofInt 64 (min a.toInt b.toInt) := by
  rw [BitVec.slt_eq_decide]
  split
  next h => rw [min_eq_right (of_decide_eq_true h).le, BitVec.ofInt_toInt]
  next h => rw [min_eq_left (not_lt.mp (mt decide_eq_true h)), BitVec.ofInt_toInt]

theorem max_eq (a b : Word) : (if a.slt b then b else a) = BitVec.ofInt 64 (max a.toInt b.toInt) := by
  rw [BitVec.slt_eq_decide]
  split
  next h => rw [max_eq_right (of_decide_eq_true h).le, BitVec.ofInt_toInt]
  next h => rw [max_eq_left (not_lt.mp (mt decide_eq_true h)), BitVec.ofInt_toInt]

theorem minn_eq (a b : Word) : (if b.ult a then b else a) = BitVec.ofNat 64 (min a.toNat b.toNat) := by
  rw [BitVec.ult_eq_decide]
  split
  next h => rw [min_eq_right (of_decide_eq_true h).le, BitVec.ofNat_toNat, BitVec.setWidth_eq]
  next h => rw [min_eq_left (not_lt.mp (mt decide_eq_true h)), BitVec.ofNat_toNat, BitVec.setWidth_eq]

theorem maxn_eq (a b : Word) : (if a.ult b then b else a) = BitVec.ofNat 64 (max a.toNat b.toNat) := by
  rw [BitVec.ult_eq_decide]
  split
  next h => rw [max_eq_right (of_decide_eq_true h).le, BitVec.ofNat_toNat, BitVec.setWidth_eq]
  next h => rw [max_eq_left (not_lt.mp (mt decide_eq_true h)), BitVec.ofNat_toNat, BitVec.setWidth_eq]

theorem sshiftRight_eq_ofInt (a : Word) (n : Nat) : a.sshiftRight n = BitVec.ofInt 64 (a.toInt / 2 ^ n) := by
  rw [BitVec.sshiftRight, Int.shiftRight_eq_div_pow, Nat.cast_pow, Nat.cast_ofNat]

theorem bitLen_le_iff {n x : Nat} (h : x < 2 ^ n) (m : Nat) : bitLen n x ≤ m ↔ x < 2 ^ m := by
  induction n generalizing x m with
  | zero =>
    obtain rfl : x = 0 := by omega
    exact iff_of_true (Nat.zero_le m) (Nat.two_pow_pos m)
  | succ n ih =>
    rw [bitLen]
    split
    next hx => subst hx; exact iff_of_true (Nat.zero_le m) (Nat.two_pow_pos m)
    next hx =>
      cases m with
      | zero => exact iff_of_false (by omega) (by omega)
      | succ m =>
        rw [Nat.add_comm 1, Nat.add_le_add_iff_right, ih (by omega), Nat.div_lt_iff_lt_mul two_pos, Nat.pow_succ]

/-- Leading zeros are the zeros that a scan from the highest bit meets first. -/
theorem takeWhile_leadingZeros {w x : Nat} (h : x < 2 ^ w) :
    ((List.range w).takeWhile fun j => !x.testBit (w - 1 - j)).length = w - bitLen w x := by
  induction w with
  | zero => rfl
  | succ w ih =>
    rw [List.range_succ_eq_map, List.takeWhile_cons, List.takeWhile_map, Nat.add_sub_cancel, Nat.sub_zero]
    cases htop : x.testBit w with
    | true =>
      have hlen : ¬ bitLen (w + 1) x ≤ w := by
        rw [bitLen_le_iff h]
        exact not_lt.mpr (Nat.ge_two_pow_of_testBit htop)
      simp only [Bool.not_true, Bool.false_eq_true, if_false, List.length_nil]
      omega
    | false =>
      have hx : x < 2 ^ w := Nat.lt_of_testBit w htop (Nat.testBit_two_pow_self) fun j hj => by
        rw [Nat.testBit_lt_two_pow (lt_of_lt_of_le h (Nat.pow_le_pow_right two_pos hj)), Nat.testBit_two_pow_of_ne (by omega)]
      have hlen : bitLen (w + 1) x = bitLen w x :=
        eq_of_forall_ge_iff fun m => by rw [bitLen_le_iff h, bitLen_le_iff hx]
      have hle : bitLen w x ≤ w := (bitLen_le_iff hx w).mpr hx
      have hshift : (fun j => !x.testBit (w - (j + 1))) = fun j => !x.testBit (w - 1 - j) :=
        funext fun j => by rw [Nat.sub_sub, Nat.add_comm 1]
      simp only [Bool.not_false, if_true, List.length_cons, List.length_map, Function.comp_def, hshift, ih hx, hlen]
      omega

theorem popCount_eq_filter (w x : Nat) : popCount w x = ((List.range w).filter fun j => x.testBit j).length := by
  induction w generalizing x with
  | zero => rfl
  | succ w ih =>
    rw [popCount, ih, List.range_succ_eq_map, List.filter_cons, List.filter_map, Nat.testBit_zero]
    simp only [Function.comp_def, Nat.testBit_succ, decide_eq_true_eq]
    split
    next h => rw [List.length_cons, List.length_map, h, Nat.add_comm]
    next h => rw [List.length_map, Nat.mod_two_ne_one.mp h, Nat.zero_add]

theorem clz_eq (a : Word) :
    BitVec.ofNat 64 (leadingZeros 64 a.toNat) = BitVec.ofNat 64 ((List.range 64).takeWhile fun j => !a.getLsbD (63 - j)).length := by
  rw [leadingZeros, Nat.mod_eq_of_lt a.isLt, ← takeWhile_leadingZeros a.isLt]
  rfl

theorem popc_eq (a : Word) :
    BitVec.ofNat 64 (popCount 64 a.toNat) = BitVec.ofNat 64 ((List.range 64).filter fun j => a.getLsbD j).length := by
  rw [popCount_eq_filter]
  rfl

theorem signedOf_toNat {w : Nat} (hw : 0 < w) (x : BitVec w) : signedOf w x.toNat = x.toInt := by
  obtain ⟨n, rfl⟩ : ∃ n, w = n + 1 := ⟨w - 1, by omega⟩
  have := x.isLt
  dsimp only [signedOf]
  rw [Nat.mod_eq_of_lt x.isLt, BitVec.toInt_eq_toNat_cond, Nat.add_sub_cancel, Nat.pow_succ]
  grind

theorem signedOf_mod (w x : Nat) : signedOf w (x % 2 ^ w) = signedOf w x := by
  simp only [signedOf, Nat.mod_mod]

theorem sext64_eq {w : Nat} (hw : 0 < w) (a : Word) : sext64 w a.toNat = (a.setWidth w).signExtend 64 := by
  rw [sext64, BitVec.signExtend, ← signedOf_toNat hw, BitVec.toNat_setWidth, signedOf_mod]

theorem zext_eq (w : Nat) (a : Word) : BitVec.ofNat 64 (lowBits w a.toNat) = (a.setWidth w).setWidth 64 := by
  apply BitVec.eq_of_toNat_eq
  rw [BitVec.toNat_ofNat, lowBits, BitVec.toNat_setWidth, BitVec.toNat_setWidth]

/-- The bits of a word with a field replaced. -/
theorem getLsbD_setBits (a : Word) (v : BitVec 16) (hi lo j : Nat) (hj : j < 64) :
    (BitVec.ofNat 64 (setBits a.toNat hi lo v.toNat)).getLsbD j
      = if lo ≤ j ∧ j ≤ hi then v.getLsbD (j - lo) else a.getLsbD j := by
  rw [BitVec.getLsbD_ofNat, testBit_setBits, decide_eq_true hj, Bool.true_and]
  rfl

theorem lih16_eq (a : Word) (v : BitVec 16) :
    BitVec.ofNat 64 (setBits a.toNat 31 16 v.toNat) = a.extractLsb' 32 32 ++ v ++ a.extractLsb' 0 16 := by
  refine BitVec.eq_of_getLsbD_eq fun j hj => ?_
  rw [getLsbD_setBits a v _ _ _ hj]
  simp only [BitVec.getLsbD_append, BitVec.getLsbD_extractLsb']
  grind

theorem lih32_eq (a : Word) (v : BitVec 16) :
    BitVec.ofNat 64 (setBits a.toNat 47 32 v.toNat) = a.extractLsb' 48 16 ++ v ++ a.extractLsb' 0 32 := by
  refine BitVec.eq_of_getLsbD_eq fun j hj => ?_
  rw [getLsbD_setBits a v _ _ _ hj]
  simp only [BitVec.getLsbD_append, BitVec.getLsbD_extractLsb']
  grind

theorem lih48_eq (a : Word) (v : BitVec 16) :
    BitVec.ofNat 64 (setBits a.toNat 63 48 v.toNat) = v ++ a.extractLsb' 0 48 := by
  refine BitVec.eq_of_getLsbD_eq fun j hj => ?_
  rw [getLsbD_setBits a v _ _ _ hj]
  simp only [BitVec.getLsbD_append, BitVec.getLsbD_extractLsb']
  grind

/-- Settles O6: each operation writes the word of its meaning, which is the one of R197 by the lemma named in its row. -/
theorem scalarOperationsComplete : Obligations.ScalarOperationsComplete := by
  refine ⟨fun f => ⟨?_, ?_, ?_, ?_, ?_, ?_, ?_, ?_, ?_, ?_, ?_, ?_⟩,
    fun f => ⟨?_, ?_, ?_, ?_, ?_, fun h => ⟨?_, ?_⟩, fun h => ⟨?_, ?_⟩, fun h => ⟨?_, ?_⟩⟩,
    fun f => ⟨?_, ?_, ?_, ?_, ?_, ?_, ?_⟩, fun f => ⟨?_, ?_, ?_, ?_⟩⟩
  · exact sResult_of_act (actAdd f) rfl rfl rfl fun _ => rfl
  · exact sResult_of_act (actSub f) rfl rfl rfl fun _ => rfl
  · exact sResult_of_act (actMul f) rfl rfl rfl fun x => mul_eq _ _
  · exact sResult_of_act (actMulh f) rfl rfl rfl fun x => ofInt_mulHigh _ _
  · exact sResult_of_act (actMulhn f) rfl rfl rfl fun x => ofNat_mulHigh _ _
  · exact sResult_of_act (actAnd f) rfl rfl rfl fun _ => rfl
  · exact sResult_of_act (actOr f) rfl rfl rfl fun _ => rfl
  · exact sResult_of_act (actXor f) rfl rfl rfl fun _ => rfl
  · exact sResult_of_act (actMin f) rfl rfl rfl fun x => min_eq _ _
  · exact sResult_of_act (actMax f) rfl rfl rfl fun x => max_eq _ _
  · exact sResult_of_act (actMinn f) rfl rfl rfl fun x => minn_eq _ _
  · exact sResult_of_act (actMaxn f) rfl rfl rfl fun x => maxn_eq _ _
  · exact sResult_of_act (actShl f) rfl rfl rfl fun _ => rfl
  · exact sResult_of_act (actShr f) rfl rfl rfl fun _ => rfl
  · exact sResult_of_act (actSra f) rfl rfl rfl fun x => sshiftRight_eq_ofInt _ _
  · exact sResult_of_act (actClz f) rfl rfl rfl fun x => clz_eq _
  · exact sResult_of_act (actPopc f) rfl rfl rfl fun x => popc_eq _
  · exact sResult_of_act (actSext f) rfl rfl rfl fun x => by rw [extWidth, h]; exact sext64_eq (by decide) _
  · exact sResult_of_act (actZext f) rfl rfl rfl fun x => by rw [extWidth, h]; exact zext_eq _ _
  · exact sResult_of_act (actSext f) rfl rfl rfl fun x => by rw [extWidth, h]; exact sext64_eq (by decide) _
  · exact sResult_of_act (actZext f) rfl rfl rfl fun x => by rw [extWidth, h]; exact zext_eq _ _
  · exact sResult_of_act (actSext f) rfl rfl rfl fun x => by rw [extWidth, h]; exact sext64_eq (by decide) _
  · exact sResult_of_act (actZext f) rfl rfl rfl fun x => by rw [extWidth, h]; exact zext_eq _ _
  · exact sResult_of_act (actAddi f) rfl rfl rfl fun _ => rfl
  · exact sResult_of_act (actAndi f) rfl rfl rfl fun _ => rfl
  · exact sResult_of_act (actOri f) rfl rfl rfl fun _ => rfl
  · exact sResult_of_act (actXori f) rfl rfl rfl fun _ => rfl
  · exact sResult_of_act (actShli f) rfl rfl rfl fun _ => rfl
  · exact sResult_of_act (actShri f) rfl rfl rfl fun _ => rfl
  · exact sResult_of_act (actSrai f) rfl rfl rfl fun x => sshiftRight_eq_ofInt _ _
  · exact sResult_of_act (actLi f) rfl rfl rfl fun _ => rfl
  · exact sResult_of_act (actLih16 f) rfl rfl rfl fun x => lih16_eq _ _
  · exact sResult_of_act (actLih32 f) rfl rfl rfl fun x => lih32_eq _ _
  · exact sResult_of_act (actLih48 f) rfl rfl rfl fun x => lih48_eq _ _

/-! ## Division (R198) -/

theorem ofInt_tdiv (a b : Word) : BitVec.ofInt 64 (a.toInt.tdiv b.toInt) = a.sdiv b :=
  BitVec.eq_of_toInt_eq (by rw [BitVec.toInt_ofInt, BitVec.toInt_sdiv])

theorem ofInt_tmod (a b : Word) : BitVec.ofInt 64 (a.toInt.tmod b.toInt) = a.srem b := by
  rw [← BitVec.toInt_srem, BitVec.ofInt_toInt]

theorem divSigned_zero (a : Word) : divSigned a 0 = (BitVec.allOnes 64, a) := if_pos rfl

theorem divSigned_of_ne {b : Word} (a : Word) (hb : b ≠ 0) : divSigned a b = (a.sdiv b, a.srem b) := by
  rw [divSigned, if_neg hb, ofInt_tdiv, ofInt_tmod]

/-- Quotient and remainder of the most negative word by −1 (R198). -/
theorem divSigned_overflow : divSigned (BitVec.intMin 64) (BitVec.allOnes 64) = (BitVec.intMin 64, 0) := by decide +kernel

theorem toInt_divSigned {a b : Word} (hb : b ≠ 0) (ho : ¬(a = BitVec.intMin 64 ∧ b = BitVec.allOnes 64)) :
    (divSigned a b).1.toInt = a.toInt.tdiv b.toInt
      ∧ (divSigned a b).2.toInt = a.toInt - (divSigned a b).1.toInt * b.toInt := by
  have hq : (a.sdiv b).toInt = a.toInt.tdiv b.toInt :=
    BitVec.toInt_sdiv_of_ne_or_ne a b ((not_and_or.mp ho).imp_right fun h e => h (e.trans BitVec.neg_one_eq_allOnes))
  rw [divSigned_of_ne a hb, BitVec.toInt_srem, hq, Int.tmod_def, Int.mul_comm]
  exact ⟨rfl, rfl⟩

theorem divUnsigned_zero (a : Word) : divUnsigned a 0 = (BitVec.allOnes 64, a) := if_pos rfl

theorem toNat_divUnsigned {a b : Word} (hb : b ≠ 0) :
    (divUnsigned a b).1.toNat = a.toNat / b.toNat ∧ (divUnsigned a b).2.toNat = a.toNat % b.toNat := by
  rw [divUnsigned, if_neg hb, BitVec.toNat_ofNat, BitVec.toNat_ofNat,
    Nat.mod_eq_of_lt ((Nat.div_le_self _ _).trans_lt a.isLt), Nat.mod_eq_of_lt ((Nat.mod_le _ _).trans_lt a.isLt)]
  exact ⟨rfl, rfl⟩

/-- Settles O7: the quotients and remainders of the model, by the cases of the table. -/
theorem divisionFollowsItsTable : Obligations.DivisionFollowsItsTable := by
  intro f
  refine ⟨⟨fun x => (divSigned (sA x f) (sB x f)).1, fun x => (divSigned (sA x f) (sB x f)).2,
      fun x => ⟨fun hb => ?_, fun ha hb => ?_, toInt_divSigned⟩, ?_, ?_⟩,
    fun x => (divUnsigned (sA x f) (sB x f)).1, fun x => (divUnsigned (sA x f) (sB x f)).2,
      fun x => ⟨fun hb => ?_, toNat_divUnsigned⟩, ?_, ?_⟩
  · simp only [hb, divSigned_zero, and_self]
  · simp only [ha, hb, divSigned_overflow, and_self]
  · exact sResult_of_act (actDiv f) rfl rfl rfl fun _ => rfl
  · exact sResult_of_act (actMod f) rfl rfl rfl fun _ => rfl
  · simp only [hb, divUnsigned_zero, and_self]
  · exact sResult_of_act (actDivn f) rfl rfl rfl fun _ => rfl
  · exact sResult_of_act (actModn f) rfl rfl rfl fun _ => rfl

/-! ## Compares (R199) -/

theorem not_slt (v w : Word) : (!v.slt w) = decide (w.toInt ≤ v.toInt) := by
  rw [BitVec.slt_eq_decide, ← decide_not, decide_eq_decide, not_lt]

theorem not_ult (v w : Word) : (!v.ult w) = decide (w.toNat ≤ v.toNat) := by
  rw [BitVec.ult_eq_decide, ← decide_not, decide_eq_decide, not_lt]

/-- The six conditions, of which three are negations of the other three. -/
theorem cmpCond_eq (n : Nat) (v w : Word) : cmpCond n v w =
    if n = 0 then v == w else if n = 1 then v != w
    else if n = 2 then decide (v.toInt < w.toInt) else if n = 3 then decide (w.toInt ≤ v.toInt)
    else if n = 4 then decide (v.toNat < w.toNat) else decide (w.toNat ≤ v.toNat) := by
  match n with
  | 0 => exact (beq_eq_decide v w).symm
  | 1 => exact decide_not.trans (congrArg Bool.not (beq_eq_decide v w).symm)
  | 2 => exact BitVec.slt_eq_decide
  | 3 => exact not_slt v w
  | 4 => exact BitVec.ult_eq_decide
  | n + 5 => exact not_ult v w

theorem field_eq_iff (v : BitVec 6) {n : Nat} (hn : n < 2 ^ 6) : v.toNat = n ↔ v = BitVec.ofNat 6 n := by
  rw [← BitVec.toNat_inj, BitVec.toNat_ofNat, Nat.mod_eq_of_lt hn]

/-- Settles O8: both compares take the condition of their field. -/
theorem comparesWriteOnePredicate : Obligations.ComparesWriteOnePredicate := by
  refine ⟨fun f _ => pResult_of_act (actCmp f) rfl rfl rfl fun x => ?_,
    fun f => pResult_of_act (actCmpi f) rfl rfl rfl fun x => ?_⟩
  · simp only [cmpCond_eq, field_eq_iff f.fn (by decide : 0 < 2 ^ 6), field_eq_iff f.fn (by decide : 1 < 2 ^ 6),
      field_eq_iff f.fn (by decide : 2 < 2 ^ 6), field_eq_iff f.fn (by decide : 3 < 2 ^ 6),
      field_eq_iff f.fn (by decide : 4 < 2 ^ 6)]
    rfl
  · have hlt : bitsOf f.d 4 3 < 4 := Nat.mod_lt _ (by decide)
    rw [cmpCond_eq]
    obtain h | h | h | h : bitsOf f.d 4 3 = 0 ∨ bitsOf f.d 4 3 = 1 ∨ bitsOf f.d 4 3 = 2 ∨ bitsOf f.d 4 3 = 3 := by omega
    all_goals rw [h]; rfl

/-! ## Predicates (R200) -/

theorem packFields_lt (w : Nat) (l : List Nat) : packFields w l < 2 ^ (w * l.length) := by
  induction l with
  | nil => exact Nat.two_pow_pos _
  | cons a l ih =>
    rw [packFields, List.length_cons, Nat.mul_succ, Nat.add_comm (w * _), Nat.pow_add]
    have ha : a % 2 ^ w < 2 ^ w := Nat.mod_lt _ (Nat.two_pow_pos w)
    calc a % 2 ^ w + 2 ^ w * packFields w l < 2 ^ w * (packFields w l + 1) := by rw [Nat.mul_succ]; omega
      _ ≤ 2 ^ w * 2 ^ (w * l.length) := Nat.mul_le_mul_left _ ih

/-- Packed bits read back one by one. -/
theorem testBit_packFields_bits (l : List Bool) (j : Nat) : (packFields 1 (l.map b2n)).testBit j = l.getD j false := by
  induction l generalizing j with
  | nil => rw [List.map_nil, packFields, Nat.zero_testBit, List.getD_nil]
  | cons b l ih =>
    have hb : b2n b % 2 ^ 1 < 2 ^ 1 := Nat.mod_lt _ (Nat.two_pow_pos 1)
    rw [List.map_cons, packFields, Nat.add_comm, Nat.testBit_two_pow_mul_add _ hb]
    cases j with
    | zero => cases b <;> rfl
    | succ j => rw [if_neg (by omega), Nat.add_sub_cancel, ih, List.getD_cons_succ]

theorem predByte_eq (x : Core) : predByte x = packFields 1 (((List.range 8).map (rdP x)).map b2n) := by
  rw [List.map_map]
  rfl

theorem predByte_lt (x : Core) : predByte x < 256 := by
  rw [predByte_eq]
  refine (packFields_lt 1 _).trans_eq ?_
  rw [List.length_map, List.length_map, List.length_range]
  rfl

/-- PMOV_TO_S packs the predicates, p0 lowest. -/
theorem getLsbD_predByte (x : Core) {j : Nat} (hj : j < 8) : (BitVec.ofNat 64 (predByte x)).getLsbD j = rdP x j := by
  have hj' : j < 64 := by omega
  rw [BitVec.getLsbD_ofNat, decide_eq_true hj', Bool.true_and, predByte_eq, testBit_packFields_bits, List.getD_eq_getElem?_getD,
    List.getElem?_map, List.getElem?_range hj]
  rfl

theorem toNat_predByte (x : Core) : (BitVec.ofNat 64 (predByte x)).toNat < 256 := by
  have := predByte_lt x
  rwa [BitVec.toNat_ofNat, Nat.mod_eq_of_lt (by omega)]

/-- Settles O9: each operation writes the predicate or the word of its meaning. -/
theorem predicateOperationsComplete : Obligations.PredicateOperationsComplete := by
  intro f
  refine ⟨?_, ?_, ?_, ?_, ?_, ⟨_, fun x => ⟨fun _ => getLsbD_predByte x, toNat_predByte x⟩, ?_⟩, ?_⟩
  · exact pResult_of_act (actPand f) rfl rfl rfl fun _ => rfl
  · exact pResult_of_act (actPor f) rfl rfl rfl fun _ => rfl
  · exact pResult_of_act (actPxor f) rfl rfl rfl fun _ => rfl
  · exact pResult_of_act (actPmov f) rfl rfl rfl fun _ => rfl
  · exact sResult_of_act (actSel f) rfl rfl rfl fun _ => rfl
  · exact sResult_of_act (actPmovToS f) rfl rfl rfl fun _ => rfl
  · exact fun s hi _ => exec_of_ok rfl hi rfl

end Sys2Proof.Proofs
end

section
/-!
PROOFS. Copies, iterator access and RBSET (O10), control transfers (O11), software traps (O13) and the scratchpad accesses of the S
slot (O14).
-/
namespace Sys2Proof.Proofs
open Machine Laws

variable {f : SRR}

/-! ## Copies and iterators (R217, R218) -/

/-- A field of a number that stands in a word is that field of the word. -/
theorem ofNat_fieldAt {n w : Nat} (x : BitVec n) (i : Nat) : BitVec.ofNat w (fieldAt x.toNat w i) = x.extractLsb' (w * i) w := by
  apply BitVec.eq_of_toNat_eq
  rw [BitVec.toNat_ofNat, fieldAt, Nat.mod_mod, BitVec.extractLsb'_toNat]

theorem extractLsb'_zero {n : Nat} (x : BitVec n) (w : Nat) : x.extractLsb' 0 w = x.setWidth w := by
  apply BitVec.eq_of_toNat_eq
  rw [BitVec.extractLsb'_toNat, BitVec.toNat_setWidth, Nat.shiftRight_zero]

theorem toNat_append_add {m n : Nat} (x : BitVec m) (y : BitVec n) : (x ++ y).toNat = x.toNat * 2 ^ n + y.toNat := by
  rw [BitVec.toNat_append, ← Nat.shiftLeft_add_eq_or_of_lt y.isLt, Nat.shiftLeft_eq]

/-- A level as ITGET returns it has the stride above the count. -/
theorem ofNat_lvWord (l : ItLevel) : BitVec.ofNat 64 (lvWord l) = (l.stride ++ l.count).setWidth 64 := by
  apply BitVec.eq_of_toNat_eq
  rw [BitVec.toNat_ofNat, BitVec.toNat_setWidth, toNat_append_add, lvWord, Nat.add_comm]

/-- The indices as ITGET returns them, that of level 0 lowest. -/
theorem ofNat_indices (a b c d : BitVec 16) :
    BitVec.ofNat 64 (packFields 16 [a.toNat, b.toNat, c.toNat, d.toNat]) = d ++ c ++ b ++ a := by
  apply BitVec.eq_of_toNat_eq
  have := a.isLt
  have := b.isLt
  have := c.isLt
  have := d.isLt
  simp only [toNat_append_add, BitVec.toNat_ofNat, packFields]
  omega

section Itset
variable (u : State) (c : Nat) (at_ : Site)

/-- ITSET of the base (R218). -/
theorem actItset_base (h : bitsOf f.fn 2 0 = 0) :
    actItset f u c at_ = .ok u { Effects.none with
      itWrites := [(f.d.toNat % 16, .base ((sA (coreOf u c) f).setWidth 56))] } := by
  dsimp only [actItset]
  rw [h, ← extractLsb'_zero]
  rfl

/-- ITSET of level n (R218). -/
theorem actItset_level {n : Nat} (hn : n < 4) (h : bitsOf f.fn 2 0 = n + 1) :
    actItset f u c at_ = .ok u { Effects.none with itWrites :=
      [(f.d.toNat % 16, .level n ((sA (coreOf u c) f).setWidth 16) ((sA (coreOf u c) f).extractLsb' 16 32))] } := by
  dsimp only [actItset]
  rw [h, ← extractLsb'_zero]
  match n, hn with
  | 0, _ | 1, _ | 2, _ | 3, _ => rfl

/-- ITSET of the indices (R218). -/
theorem actItset_indices (h : bitsOf f.fn 2 0 = 5) :
    actItset f u c at_ = .ok u { Effects.none with itWrites := [(f.d.toNat % 16, .indices (sA (coreOf u c) f))] } := by
  dsimp only [actItset]
  rw [h]
  rfl

end Itset

/-- Settles O10: each operation writes the lane, the part or the base of its meaning. -/
theorem copiesIteratorsAndBaseComplete : Obligations.CopiesIteratorsAndBaseComplete := by
  refine ⟨fun f => ⟨?_, ?_⟩, fun f => ⟨fun h => ?_, fun n hn h => ?_, fun h => ?_, fun h => ?_, fun h => ?_, fun h => ?_, fun h => ?_,
    fun h => ?_, fun h => ?_⟩, fun f => ⟨fun hw => ?_, ?_⟩⟩
  · exact does_of_act rfl fun _ _ _ _ => rfl
  · exact sResult_of_act (actXvs f) rfl rfl rfl fun x => ofNat_fieldAt _ _
  · exact does_of_act rfl fun u c at_ _ => actItset_base u c at_ h
  · exact does_of_act rfl fun u c at_ _ => actItset_level u c at_ hn h
  · exact does_of_act rfl fun u c at_ _ => actItset_indices u c at_ h
  · exact sResult_of_act (actItget f) rfl rfl rfl fun x => by rw [h]; exact BitVec.ofNat_toNat _ _
  · exact sResult_of_act (actItget f) rfl rfl rfl fun x => by rw [h]; exact ofNat_lvWord _
  · exact sResult_of_act (actItget f) rfl rfl rfl fun x => by rw [h]; exact ofNat_lvWord _
  · exact sResult_of_act (actItget f) rfl rfl rfl fun x => by rw [h]; exact ofNat_lvWord _
  · exact sResult_of_act (actItget f) rfl rfl rfl fun x => by rw [h]; exact ofNat_lvWord _
  · exact sResult_of_act (actItget f) rfl rfl rfl fun x => by rw [h]; exact ofNat_indices _ _ _ _
  · have hlegal : (decide (f.d.toNat = 0) && decide (f.a.toNat = 0) && decide (f.imm.toNat < 16)) = true := hw
    exact of_decide_eq_true (Bool.and_eq_true_iff.mp hlegal).2
  · exact does_of_act rfl fun _ _ _ _ => rfl

/-! ## Control (R201 to R205) -/

theorem doesNothing_of_act {i : Instr} {slot : Nat} (hs : slotOf i = some slot) (ha : ∀ u c at_, actOf i u c at_ = .ok u .none) :
    DoesNothing i :=
  fun _ hi _ => exec_of_ok hs hi (ha _ _ _)

/-- Settles O11: the targets and links are those of the bundle that holds the operation alone, and LOOP takes the branch that its
counter selects. -/
theorem controlTransfersComplete : Obligations.ControlTransfersComplete := by
  refine ⟨⟨fun f => ⟨fun s hi => ?_, fun s hi => ?_⟩, fun f s hi => ?_, fun g s hi => ?_⟩,
    fun f s hi => ⟨fun h => ?_, fun h => ?_⟩, ?_, fun x => ?_, ?_, ?_, fun x => ?_, fun g => ?_, fun g => ?_⟩
  · exact exec_of_ok rfl hi rfl
  · exact exec_of_ok rfl hi rfl
  · exact exec_of_ok rfl hi rfl
  · exact exec_of_ok rfl hi rfl
  · exact exec_of_ok rfl hi (if_pos h)
  · exact exec_of_ok rfl hi (if_neg (Nat.not_le.mpr h))
  · exact doesNothing_of_act (slot := 0) rfl fun _ _ _ => rfl
  · exact doesNothing_of_act (slot := vSlotNo x) rfl fun _ _ _ => rfl
  · exact doesNothing_of_act (slot := 3) rfl fun _ _ _ => rfl
  · exact doesNothing_of_act (slot := 4) rfl fun _ _ _ => rfl
  · exact doesNothing_of_act (slot := cSlotNo x) rfl fun _ _ _ => rfl
  · exact does_of_act rfl fun _ _ _ _ => rfl
  · exact does_of_act rfl fun _ _ _ _ => rfl

/-! ## Software traps and the return (R223, R224) -/

theorem actEret_returns {u : State} {c : Nat} (at_ : Site) (h : (coreOf u c).shadow.isSome = true) :
    actEret f u c at_ = .ok u { Effects.none with eret := some (bitOf f.fn 0) } := if_pos h

theorem actEret_illegal {u : State} {c : Nat} (at_ : Site) (h : (coreOf u c).shadow = none) :
    actEret f u c at_ = .trap (trapIllegal at_.addr 0) := if_neg (by rw [h]; exact Bool.false_ne_true)

/-- Settles O13: ERET takes the branch of the handler state. -/
theorem trapsAndReturnComplete : Obligations.TrapsAndReturnComplete := by
  refine ⟨fun f => ⟨?_, ?_⟩, fun f => ⟨?_, fun s hi h => ?_⟩⟩
  · exact traps_of_act rfl fun _ _ _ _ => rfl
  · exact traps_of_act rfl fun _ _ _ _ => rfl
  · exact does_of_act rfl fun _ _ at_ h => actEret_returns at_ h
  · exact exec_of_trap rfl hi (actEret_illegal _ h)

/-! ## Scratchpad by address (R206, R207) -/

section Scratchpad
variable {u : State} {c : Nat} (at_ : Site)

section Inside
variable (halign : sAddr (coreOf u c) f % sSize f = 0) (hsp : isSp (sAddr (coreOf u c) f) = true)
  (hbounds : spBounds (sAddr (coreOf u c) f) (sSize f) = true)
include halign hsp hbounds

theorem actLdl_loads : actLdl f u c at_ = .ok (setS u c 0 4 f.d.toNat
    (extendLoad (bitOf f.fn 2) (sSize f) (spNum u (clusterOfCore c) (spOff (sAddr (coreOf u c) f)) (sSize f)))) .none := by
  simp only [actLdl, halign, hsp, hbounds, ne_eq, not_true_eq_false, Bool.not_true, Bool.or_self, Bool.false_eq_true, if_false]

theorem actStl_stores : actStl f u c at_ = .ok u { Effects.none with
    sp := spWrites (clusterOfCore c) (spOff (sAddr (coreOf u c) f)) (sSize f) (sD (coreOf u c) f).toNat } := by
  simp only [actStl, halign, hsp, hbounds, ne_eq, not_true_eq_false, Bool.not_true, Bool.or_self, Bool.false_eq_true, if_false]

end Inside

/-- LDL and STL. -/
def spOps (f : SRR) : List Instr := [.ldl f, .stl f]

theorem spOps_misaligned {i : Instr} (hi : i ∈ spOps f) (h : sAddr (coreOf u c) f % sSize f ≠ 0) :
    slotOf i = some 0 ∧ actOf i u c at_ = .trap (trapAt 0x09 (sAddr (coreOf u c) f) 0 0) := by
  simp only [spOps, List.mem_cons, List.not_mem_nil, or_false] at hi
  obtain rfl | rfl := hi
  all_goals exact ⟨rfl, if_pos h⟩

theorem spOps_outside {i : Instr} (hi : i ∈ spOps f) (halign : sAddr (coreOf u c) f % sSize f = 0)
    (h : isSp (sAddr (coreOf u c) f) = false ∨ spBounds (sAddr (coreOf u c) f) (sSize f) = false) :
    slotOf i = some 0 ∧ actOf i u c at_ = .trap (trapAt 0x0A (sAddr (coreOf u c) f) 0 0) := by
  have hout : (!isSp (sAddr (coreOf u c) f) || !spBounds (sAddr (coreOf u c) f) (sSize f)) = true := by
    rw [← Bool.not_and, Bool.not_eq_true', Bool.and_eq_false_iff]
    exact h
  simp only [spOps, List.mem_cons, List.not_mem_nil, or_false] at hi
  obtain rfl | rfl := hi
  all_goals exact ⟨rfl, (if_neg (not_not_intro halign)).trans (if_pos hout)⟩

end Scratchpad

/-- Settles O14: an access inside the scratchpad passes both checks, and else the first of them that fails decides. -/
theorem scratchpadAccessCompletes : Obligations.ScratchpadAccessCompletes := by
  intro f s u c va n
  refine ⟨fun hsp hbounds halign => ⟨fun hi => ?_, fun hi => ?_⟩, fun i hmem hi => ⟨fun h => ?_, fun h hout => ?_⟩⟩
  · exact exec_of_ok rfl hi (actLdl_loads (siteOf s (.ldl f)) halign hsp hbounds)
  · exact exec_of_ok rfl hi (actStl_stores (siteOf s (.stl f)) halign hsp hbounds)
  · obtain ⟨hs, ha⟩ := spOps_misaligned (siteOf s i) hmem h
    exact exec_of_trap hs hi ha
  · obtain ⟨hs, ha⟩ := spOps_outside (siteOf s i) hmem h hout
    exact exec_of_trap hs hi ha

end Sys2Proof.Proofs
end

section
/-!
PROOFS. Memory by address (O15), atomics, ACC adds and appends of the S slot (O16), and level-0 tile instructions (O21).
-/
namespace Sys2Proof.Proofs
open Machine Laws

variable {f : SRR} {u : State} {c : Nat} (at_ : Site)

/-! ## Loads and stores by address (R208) -/

/-- The state in which a load of a translated page sends its access: a page that may race is read so (R348). -/
def loadReads (f : SRR) (u : State) (c : Nat) (x : Xlat) : State :=
  let key := xlatRead u (ctxOfCore u c) x (sAddr (coreOf u c) f)
  if x.role = 3 then raceRead u c (wholeBits key (sSize f)) else u

section ByAddress
variable (halign : sAddr (coreOf u c) f % sSize f = 0) (hmem : isSp (sAddr (coreOf u c) f) = false)
include halign hmem

theorem actLdm_plain {x : Xlat} (hp : bitOf f.fn 3 = false) (hx : access u c (sAddr (coreOf u c) f) .load 0 0 = .ok x) :
    let key := xlatRead u (ctxOfCore u c) x (sAddr (coreOf u c) f)
    let r := pendS (loadReads f u c x) c f.d.toNat
    actLdm f u c at_ = .ok (enterLoad r.2 c key (sSize f) (.flight r.1 (bitOf f.fn 2) none)) .none := by
  simp only [actLdm, loadReads, halign, hmem, hp, hx, ne_eq, not_true_eq_false, Bool.false_eq_true, if_false]

theorem actLdm_probes {x : Xlat} (hp : bitOf f.fn 3 = true) (hx : access u c (sAddr (coreOf u c) f) .load 0 0 = .ok x) :
    let key := xlatRead u (ctxOfCore u c) x (sAddr (coreOf u c) f)
    let r := pendS (loadReads f u c x) c f.d.toNat
    let q := pushPending r.2 c 0 (.reg .p 7) 1 1 1
    actLdm f u c at_ = .ok (enterLoad q.2 c key (sSize f) (.flight r.1 (bitOf f.fn 2) (some q.1))) .none := by
  simp only [actLdm, loadReads, halign, hmem, hp, hx, ne_eq, not_true_eq_false, Bool.false_eq_true, if_false, if_true]

theorem actLdm_refused {t : Trap} (hx : access u c (sAddr (coreOf u c) f) .load 0 0 = .error t) :
    actLdm f u c at_ = if bitOf f.fn 3 && decide (t.cause = 0x07) then .ok (setP u c 0 1 7 false) .none else .trap t := by
  simp only [actLdm, halign, hmem, hx, ne_eq, not_true_eq_false, Bool.false_eq_true, if_false]

theorem actStm_stores {x : Xlat} (hx : access u c (sAddr (coreOf u c) f) .store 0 0 = .ok x) :
    actStm f u c at_ = .ok (enterStore u c (wholeBytes (xlatHome x (sAddr (coreOf u c) f)) (sSize f) (sD (coreOf u c) f).toNat))
      .none := by
  simp only [actStm, halign, hmem, hx, ne_eq, not_true_eq_false, Bool.false_eq_true, if_false]

theorem actStm_refused {t : Trap} (hx : access u c (sAddr (coreOf u c) f) .store 0 0 = .error t) :
    actStm f u c at_ = .trap t := by
  simp only [actStm, halign, hmem, hx, ne_eq, not_true_eq_false, Bool.false_eq_true, if_false]

end ByAddress

/-- Settles O15: an access takes the branch that its page and its probe bit select. -/
theorem memoryAccessCompletes : Obligations.MemoryAccessCompletes := by
  intro f s u c va n halign hmem
  refine ⟨fun hi => ⟨fun x hx => ⟨fun hp => ?_, fun hp => ?_⟩, fun t hx => ?_⟩, fun hi => ⟨fun x hx => ?_, fun t hx => ?_⟩⟩
  · exact exec_of_ok rfl hi (actLdm_plain (siteOf s (.ldm f)) halign hmem hp hx)
  · exact exec_of_ok rfl hi (actLdm_probes (siteOf s (.ldm f)) halign hmem hp hx)
  · have ha := actLdm_refused (siteOf s (.ldm f)) halign hmem hx
    split
    next h => exact exec_of_ok rfl hi (ha.trans (if_pos h))
    next h => exact exec_of_trap rfl hi (ha.trans (if_neg h))
  · exact exec_of_ok rfl hi (actStm_stores (siteOf s (.stm f)) halign hmem hx)
  · exact exec_of_trap rfl hi (actStm_refused (siteOf s (.stm f)) halign hmem hx)

/-! ## Atomics, ACC adds and appends (R209, R211, R212) -/

/-- The bytes of an AMO: fn[0]. -/
def amoSize (f : SRR) : Nat := if bitOf f.fn 0 then 8 else 4

theorem actAmo_misaligned (h : (sA (coreOf u c) f).toNat % amoSize f ≠ 0) :
    actAmo f u c at_ = .trap (trapAt 0x09 (sA (coreOf u c) f).toNat 0 0) := if_pos h

theorem actAmo_scratchpad (h : spReach (sA (coreOf u c) f).toNat (amoSize f)) :
    actAmo f u c at_ = .ok (amoRet f u c).2 { Effects.none with
      sp := [.amo (clusterOfCore c) (spOff (sA (coreOf u c) f).toNat) (amoSize f) (bitsOf f.fn 5 2) (sB (coreOf u c) f).toNat
        (sD (coreOf u c) f).toNat (amoRet f u c).1 c] } := by
  obtain ⟨hsp, hbounds, halign⟩ := h
  rw [amoSize] at hbounds halign
  simp only [actAmo, amoSize, halign, hsp, hbounds, ne_eq, not_true_eq_false, Bool.not_true, Bool.false_eq_true, if_false, if_true]

theorem actAmo_memory {x : Xlat} (halign : (sA (coreOf u c) f).toNat % amoSize f = 0) (hmem : isSp (sA (coreOf u c) f).toNat = false)
    (hx : access u c (sA (coreOf u c) f).toNat .atomic 0 0 = .ok x) :
    let key := xlatHome x (sA (coreOf u c) f).toNat
    let r := amoRet f (raceRead u c (wholeBits key (amoSize f))) c
    actAmo f u c at_ = .ok (enterSq r.2 c (.mem (lineOf key))
      (.amo (bitsOf f.fn 5 2) key (amoSize f) (sB (coreOf u c) f).toNat (sD (coreOf u c) f).toNat r.1)) .none := by
  rw [amoSize] at halign
  simp only [actAmo, amoSize, halign, hmem, hx, ne_eq, not_true_eq_false, Bool.false_eq_true, if_false]

theorem actSacc_adds {d : BitVec 512} {r : Bool} {key : Nat} (hd : slotHandle u c 0 (sA (coreOf u c) f) = .ok (d, r))
    (hi : (sB (coreOf u c) f).toNat < dCount d) (hf : sameFamily (bitsOf f.fn 3 0) (dFmt d) = true)
    (hk : accPage u c 0 0 (accVa d (sB (coreOf u c) f).toNat) (hIndex (sA (coreOf u c) f)) (hGen (sA (coreOf u c) f)) (dWgrp d)
      = .ok key) :
    actSacc f u c at_ = .ok (enterAcc u c (sA (coreOf u c) f) d key (bitsOf f.fn 3 0)
      ((sD (coreOf u c) f).toNat % 2 ^ codeBits (bitsOf f.fn 3 0))) .none := by
  simp only [actSacc, hd, if_neg (Nat.not_le.mpr hi), hf, hk, Bool.not_true, Bool.false_eq_true, if_false, lowBits]

theorem actSapp_appends {d : BitVec 512} {t : TensorRec} {ks : List Nat}
    (hd : appendCheck u c 0 (sA (coreOf u c) f) 1 = .ok (d, t)) (hk : appendPages u c 0 d t.issued [0] = .ok ks) :
    actSapp f u c at_
      = .ok (enterAppends u c d t ks [(sD (coreOf u c) f).toNat % 2 ^ codeBits (dFmt d)]) .none := by
  simp only [actSapp, hd, hk, lowBits]

/-- Settles O16: each operation passes its checks, and an AMO takes the branch of its address. -/
theorem atomicsAddsAndAppendsComplete : Obligations.AtomicsAddsAndAppendsComplete := by
  refine ⟨fun f s hi => ⟨fun h => ?_, fun h => ?_, fun x halign hmem hx => ?_⟩,
    fun f s => ⟨fun hi d r key hd hlt hf hk => ?_, fun hi d t hd ks hk => ?_⟩⟩
  · exact exec_of_trap rfl hi (actAmo_misaligned (siteOf s (.amo f)) h)
  · exact exec_of_ok rfl hi (actAmo_scratchpad (siteOf s (.amo f)) h)
  · exact exec_of_ok rfl hi (actAmo_memory (siteOf s (.amo f)) halign hmem hx)
  · exact exec_of_ok rfl hi (actSacc_adds (siteOf s (.sacc f)) hd hlt hf hk)
  · exact exec_of_ok rfl hi (actSapp_appends (siteOf s (.sapp f)) hd hk)

/-! ## Level-0 tile instructions (R219, R220) -/

section Tis
variable (halign : (sA (coreOf u c) f).toNat % 64 = 0) (hroom : ((coreOf u c).l0q.filter fun l => !l.done).length < 4)
  {w : BitVec 512} (hw : tileAt u c (sA (coreOf u c) f).toNat = .ok (some w))
include halign hroom hw

theorem actTis_rejected {q : Nat × Option Nat} (hq : acceptCheck u (ctxOfCore u c) 0 (tileOfBits w) = .error q) :
    actTis f u c at_ = .ok (setS u c 0 1 f.d.toNat (BitVec.ofNat 64 (2 ^ 63 + q.1 * 2 ^ 16))) .none := by
  simp only [actTis, halign, if_neg (Nat.not_le.mpr hroom), hw, hq, ne_eq, not_true_eq_false, if_false]

theorem actTis_accepted {os : Opds} {v : State} (hq : acceptCheck u (ctxOfCore u c) 0 (tileOfBits w) = .ok os)
    (hv : raiseReaders u (ctxOfCore u c) (newLocal u c ((coreOf u c).ticket + 1) (tileOfBits w) os).inst.counts = some v) :
    let l := newLocal u c ((coreOf u c).ticket + 1) (tileOfBits w) os
    actTis f u c at_ = .ok (setS (modCore v c fun y => { y with ticket := y.ticket + 1, l0q := y.l0q ++ [l] }) c 0 1 f.d.toNat
      (BitVec.ofNat 64 ((coreOf u c).ticket + 1))) .none := by
  simp only [actTis, halign, if_neg (Nat.not_le.mpr hroom), hw, hq, hv, ne_eq, not_true_eq_false, if_false]

end Tis

/-- The ticket that TIWAIT waits for: no later than the last one given. -/
def ticketWaited (f : SRR) (x : Core) : Nat := min ((sA x f).toNat % 2 ^ 32) x.ticket

theorem actTiwait_returns
    (h : ((coreOf u c).l0q.any fun l => decide (l.ticket ≤ ticketWaited f (coreOf u c)) && !l.done) = false) :
    actTiwait f u c at_ = .ok (setS u c 0 1 f.d.toNat (if ticketWaited f (coreOf u c) = 0 then 0
      else (((coreOf u c).l0q.find? fun l => decide (l.ticket = ticketWaited f (coreOf u c))).map (·.status)).getD 0)) .none :=
  if_neg (Bool.eq_false_iff.mp h)

theorem actTiwait_waits
    (h : ((coreOf u c).l0q.any fun l => decide (l.ticket ≤ ticketWaited f (coreOf u c)) && !l.done) = true) :
    actTiwait f u c at_ = .stall id := if_pos h

/-- Settles O21: TIS takes the branch of the acceptance checks, TIWAIT that of its ticket. -/
theorem localTilesComplete : Obligations.LocalTilesComplete := by
  intro f s u c x ctx ta
  refine ⟨fun hi halign hroom w hw => ⟨fun q hq => ?_, fun os v hq => ?_⟩, fun hi => ⟨fun h => ?_, fun h => ?_⟩⟩
  · exact exec_of_ok rfl hi (actTis_rejected (siteOf s (.tis f)) halign hroom hw hq)
  · exact fun hv => exec_of_ok rfl hi (actTis_accepted (siteOf s (.tis f)) halign hroom hw hq hv)
  · exact exec_of_ok rfl hi (actTiwait_returns (siteOf s (.tiwait f)) h)
  · exact exec_of_stall rfl hi (actTiwait_waits (siteOf s (.tiwait f)) h)

end Sys2Proof.Proofs
end

section
/-!
PROOFS. Handles and holds (O17), recasts and the tag table (O18).
-/
namespace Sys2Proof.Proofs
open Machine Laws

variable {f : SRR} {u : State} {c : Nat} (at_ : Site)

/-! ## Reading descriptors (R213) -/

section Current
variable {d : BitVec 512} {r : Bool} (hd : slotHandle u c 0 (sA (coreOf u c) f) = .ok (d, r))
include hd

theorem actHld_reads : actHld f u c at_ = .ok (setS u c 0 1 f.d.toNat
    ((descOf u (ctxOfCore u c) (hIndex (sA (coreOf u c) f))).extractLsb' (64 * bitsOf f.fn 2 0) 64)) .none := by
  simp only [actHld, hd, ofNat_fieldAt]

theorem actHview_views : actHview f u c at_ = .ok (setS u c 0 1 f.d.toNat
    (if (sB (coreOf u c) f).toNat < dCount d then BitVec.ofNat 64 (elemVa d (sB (coreOf u c) f).toNat)
     else BitVec.allOnes 64)) .none := by
  simp only [actHview, hd, ← Nat.not_lt, ite_not]

/-! ## Holds (R77, R214) -/

section Counted
variable (himm : countsImm u (ctxOfCore u c) d r = true)
include himm

theorem actHold_raises {v : State}
    (hv : raiseReaders u (ctxOfCore u c)
      (heldWith u (ctxOfCore u c) d (hIndex (sA (coreOf u c) f)) (hGen (sA (coreOf u c) f))) = some v) :
    actHold f u c at_ = .ok (addHold v (ctxOfCore u c) (hIndex (sA (coreOf u c) f)) (hGen (sA (coreOf u c) f))
      (heldWith u (ctxOfCore u c) d (hIndex (sA (coreOf u c) f)) (hGen (sA (coreOf u c) f)))) .none := by
  simp only [actHold, hd, himm, hv, Bool.not_true, Bool.false_eq_true, if_false]

theorem actRels_lowers (hn : readerCount u (ctxOfCore u c) (hIndex (sA (coreOf u c) f)) (hGen (sA (coreOf u c) f)) ≠ 0) :
    actRels f u c at_ = .ok (lowerReaders (dropHold u (ctxOfCore u c) (hIndex (sA (coreOf u c) f)) (hGen (sA (coreOf u c) f)))
      (ctxOfCore u c) (relsWith u (ctxOfCore u c) d (hIndex (sA (coreOf u c) f)) (hGen (sA (coreOf u c) f)))) .none := by
  simp only [actRels, hd, himm, hn, Bool.not_true, decide_false, Bool.or_self, Bool.false_eq_true, if_false]

end Counted

end Current

/-- The index that HGEN names. -/
def genIndex (f : SRR) (x : Core) : Nat := (sA x f).toNat % 2 ^ 16

theorem actHgen_gives (h : df (descOf u (ctxOfCore u c) (genIndex f (coreOf u c))) 63 63 = 1) :
    actHgen f u c at_ = .ok (setS u c 0 1 f.d.toNat (BitVec.ofNat 64 (ctxOfCore u c * 2 ^ 48
      + df (descOf u (ctxOfCore u c) (genIndex f (coreOf u c))) 95 64 * 2 ^ 16 + genIndex f (coreOf u c)))) .none := by
  rw [genIndex] at h ⊢
  exact if_neg (by rw [h]; exact Nat.one_ne_zero)

theorem actHgen_invalid (h : df (descOf u (ctxOfCore u c) (genIndex f (coreOf u c))) 63 63 = 0) :
    actHgen f u c at_ = .trap (trapOf 0x08 (genIndex f (coreOf u c) * 2 ^ 16)) := if_pos h

/-- Settles O17: each operation passes the checks of its handle. -/
theorem handleOperationsComplete : Obligations.HandleOperationsComplete := by
  refine ⟨fun f => ⟨fun s d r hi hd => ?_, fun s d r hi hd => ?_, fun s hi => ⟨fun h => ?_, fun h => ?_⟩⟩,
    fun f s d r => fun hd himm => ⟨fun hi v hv => ?_, fun hi hn => ?_⟩⟩
  · exact exec_of_ok rfl hi (actHld_reads (siteOf s (.hld f)) hd)
  · exact exec_of_ok rfl hi (actHview_views (siteOf s (.hview f)) hd)
  · exact exec_of_ok rfl hi (actHgen_gives (siteOf s (.hgen f)) h)
  · exact exec_of_trap rfl hi (actHgen_invalid (siteOf s (.hgen f)) h)
  · exact exec_of_ok rfl hi (actHold_raises (siteOf s (.hold f)) hd himm hv)
  · exact exec_of_ok rfl hi (actRels_lowers (siteOf s (.rels f)) hd himm hn)

/-! ## Recasts (R215, R82) -/

/-- The terms that an RCAST names. -/
def rcastTerms (f : SRR) (x : Core) : Terms := ⟨sB x f, rdS x (f.b.toNat + 1), rdS x (f.b.toNat + 2)⟩

theorem actRcast_accepted (h : (coreOf u c).answer = some .accepted) :
    actRcast f u c at_ = .ok (modCore u c fun x => { x with answer := none, asked := false }) .none := by
  simp only [actRcast, h]

theorem actRcast_waits (h : (coreOf u c).answer = none) (hasked : (coreOf u c).asked = true) :
    actRcast f u c at_ = .stall id := by
  simp only [actRcast, h, hasked, if_true]

theorem actRcast_asks {d : BitVec 512} {r : Bool} (h : (coreOf u c).answer = none) (hasked : (coreOf u c).asked = false)
    (hd : slotHandle u c 0 (sA (coreOf u c) f) = .ok (d, r)) (hres : bitsOf (sD (coreOf u c) f) 63 32 = 0)
    (hterms : termsBad d (rolesOf u (ctxOfCore u c) d) (rcastTerms f (coreOf u c)) = none)
    (hev : rcastEvent u (ctxOfCore u c) (sD (coreOf u c) f) = none) :
    let t := rcastTerms f (coreOf u c)
    let ev := sD (coreOf u c) f
    actRcast f u c at_ = .stall fun v => { modCore v c (fun x => { x with asked := true }) with
      recastReqs := v.recastReqs
        ++ [⟨.core c, ctxOfCore u c, sA (coreOf u c) f, t.p, t.role, t.base, bitsOf ev 15 0, 1, bitsOf ev 31 16⟩] } := by
  rw [rcastTerms] at hterms
  simp only [actRcast, rcastTerms, h, hasked, hd, hres, hterms, hev, ne_eq, not_true_eq_false, Bool.false_eq_true, if_false]

/-! ## The tag table (R216) -/

/-- The key that a tag operation names. -/
def tagKey (f : SRR) (u : State) (c : Nat) : TagKey := tagKeyOf (ctxOfCore u c) (sA (coreOf u c) f) (sB (coreOf u c) f)

/-- The word of TAGLK: the slot that holds a key, or all ones. -/
def tagWord (k : Cluster) (key : TagKey) : Word :=
  match tagFind k key with
  | some n => BitVec.ofNat 64 n
  | none => BitVec.allOnes 64

theorem tagWord_eq (k : Cluster) (key : TagKey) : tagWord k key =
    match (k.tags.find? fun e => decide (e.2 = key)) with
    | some e => BitVec.ofNat 64 e.1
    | none => BitVec.allOnes 64 := by
  rw [tagWord, tagFind]
  cases k.tags.find? fun e => decide (e.2 = key) <;> rfl

section Tags
variable (hd : ∃ q, slotHandle u c 0 (sA (coreOf u c) f) = .ok q)
include hd

theorem actTaglk_looks : actTaglk f u c at_
    = .ok (setS u c 0 3 f.d.toNat (tagWord (clusterOf u (clusterOfCore c)) (tagKey f u c))) .none := by
  obtain ⟨q, hq⟩ := hd
  simp only [actTaglk, hq]
  rfl

theorem actTagset_installs (hn : (sD (coreOf u c) f).toNat < 2048) : actTagset f u c at_
    = .ok (pushFlight u c 0 1 (.tag (sD (coreOf u c) f).toNat (some (tagKey f u c))) 1 0 0 64) .none := by
  obtain ⟨q, hq⟩ := hd
  simp only [actTagset, hq, if_neg (Nat.not_le.mpr hn), tagKey]

theorem actTagclrK_clears : actTagclrK f u c at_ = .ok (pushFlight u c 0 1 (.tagKey (tagKey f u c)) 1 0 0 64) .none := by
  obtain ⟨q, hq⟩ := hd
  simp only [actTagclrK, hq, tagKey]

end Tags

theorem actTagclr_clears (hn : (sD (coreOf u c) f).toNat < 2048) :
    actTagclr f u c at_ = .ok (pushFlight u c 0 1 (.tag (sD (coreOf u c) f).toNat none) 1 0 0 64) .none :=
  if_neg (Nat.not_le.mpr hn)

/-- Settles O18: RCAST takes the branch of its answer and of its request, and a tag operation that of its handle. -/
theorem recastsAndTagsComplete : Obligations.RecastsAndTagsComplete := by
  refine ⟨fun f s hi => ⟨fun h => ?_, fun h hasked => ?_, fun h hasked d r hd hres hterms hev => ?_⟩,
    fun f s => ⟨fun hi hd => ?_, fun hi hd hn => ?_, fun hi hn => ?_, fun hi hd => ?_⟩⟩
  · exact exec_of_ok rfl hi (actRcast_accepted (siteOf s (.rcast f)) h)
  · exact exec_of_stall rfl hi (actRcast_waits (siteOf s (.rcast f)) h hasked)
  · exact exec_of_stall rfl hi (actRcast_asks (siteOf s (.rcast f)) h hasked hd hres hterms hev)
  · exact exec_of_ok rfl hi ((actTaglk_looks (siteOf s (.taglk f)) hd).trans
      (congrArg (fun v => OpRes.ok (setS _ _ 0 3 _ v) .none) (tagWord_eq _ _)))
  · exact exec_of_ok rfl hi (actTagset_installs (siteOf s (.tagset f)) hd hn)
  · exact exec_of_ok rfl hi (actTagclr_clears (siteOf s (.tagclr f)) hn)
  · exact exec_of_ok rfl hi (actTagclrK_clears (siteOf s (.tagclrK f)) hd)

end Sys2Proof.Proofs
end

section
/-!
PROOFS. Stalls, the watchdog, pre-emption, freezes and resumptions (O45).
-/
namespace Sys2Proof.Proofs
open Machine

variable {s : State} {c : Nat}

/-! ## Waits end (R176, R402, R409) -/

theorem stallRelease_retries (hmode : (coreOf s c).mode = .running) (hw : (coreOf s c).waiting.isSome = true) :
    execStallRelease c s = .next (issueCycle s [c]) := by
  simp only [execStallRelease, hmode, hw, if_true]

theorem stallRelease_returns {h : Bool} (hmode : (coreOf s c).mode = .returning h) :
    execStallRelease c s = .next (tryReturn s c) := by
  simp only [execStallRelease, hmode]

section Watchdog
variable {n : Nat} (hslot : waitSlot s c = some n)
include hslot

theorem watchdogExpiry_withdraws (h : asserted (coreOf s c) = true ∨ (coreOf s c).mode = .exiting) :
    execWatchdogExpiry c s = .next (takeTrap ((endsWith s c).foldl withdraw s) c (trapOf 0x13 n)) := by
  have hor : (asserted (coreOf s c) || decide ((coreOf s c).mode = .exiting)) = true := by
    rw [Bool.or_eq_true, decide_eq_true_eq]
    exact h
  simp only [execWatchdogExpiry, hslot, hor, if_true]

section Running
variable (ha : asserted (coreOf s c) = false) (hmode : (coreOf s c).mode = .running)
include ha hmode

theorem watchdogExpiry_traps (ht : nextTrap s c = none) :
    execWatchdogExpiry c s = .next (takeTrap s c (trapOf 0x13 n)) := by
  simp [execWatchdogExpiry, hslot, ha, hmode, ht]

theorem watchdogExpiry_other {q : Nat × Trap} (ht : nextTrap s c = some q) :
    execWatchdogExpiry c s = .next (takeTrap s q.1 q.2) := by
  simp [execWatchdogExpiry, hslot, ha, hmode, ht]

end Running

end Watchdog

/-! ## Pre-emption requests (R410 to R412) -/

/-- A write of the pre-emption register takes its fields first. -/
def preemptFields (s : State) (ctx : Nat) (v : BitVec 64) : State :=
  modCtx s ctx fun y => { y with hold := bitOf v 63, qmask := BitVec.ofNat 32 (bitsOf v 31 0) }

section Request
variable {ctx : Nat} {v : BitVec 64} (hsave : (ctxOf s ctx).cxsave ≠ 0)
include hsave

theorem preemptSoft_asks (hreq : bitsOf v 33 32 = 1) : execPreemptSoftRequest ctx v s =
    .next ((requested (preemptFields s ctx v) ctx (bitsOf v 31 0)).foldl (fun s c => modCore s c askSoft)
      (preemptFields s ctx v)) := by
  simp [execPreemptSoftRequest, preemptWrite, preemptFields, hreq]
  exact fun h => absurd h hsave

theorem preemptHard_asks (hreq : bitsOf v 33 32 = 2) : execPreemptHardRequest ctx v s =
    .next ((requested (preemptFields s ctx v) ctx (bitsOf v 31 0)).foldl (fun s c => modCore s c fun x => { x with hard := true })
      (preemptFields s ctx v)) := by
  simp [execPreemptHardRequest, preemptWrite, preemptFields, hreq]
  exact fun h => absurd h hsave

end Request

theorem preemptDeadline_hardens (hsoft : (coreOf s c).soft = true) (hd : (coreOf s c).deadline = true) :
    execPreemptDeadlineExpiry c s = .next (modCore s c fun x => { x with hard := true }) := by
  simp only [execPreemptDeadlineExpiry, modCore, hsoft, hd, Bool.and_self, if_true]

/-! ## Freezes, records and resumptions (R411, R414, R417) -/

/-- The cores in step with one that have reached its repetition and are not frozen. -/
def standingHere (s : State) (c : Nat) : List Nat :=
  (lockstep s c).filter fun c => decide ((coreOf s c).mode ≠ .frozen) && !behind s c

section Freeze
variable (hhard : (coreOf s c).hard = true) (hopen : (standingHere s c).all (openBoundary s) = true)
include hhard hopen

theorem hardPreempt_freezes
    (h : standingHere s c = [] ∨ asserted (coreOf s c) = true ∨ runsFirmware (coreOf s c) = true ∨ nextTrap s c = none) :
    execHardPreemptFreeze c s = .next ((standingHere s c).foldl (fun s c => freezeCore s c (some 0x10) .frozen) s) := by
  have hnone : (if (standingHere s c).isEmpty || asserted (coreOf s c) || runsFirmware (coreOf s c) then none
      else nextTrap s c) = none := by
    rcases h with h | h | h | h <;> simp [h]
  unfold standingHere at *
  simp only [execHardPreemptFreeze, hhard, hopen, hnone]
  rfl

theorem hardPreempt_traps {q : Nat × Trap} (hne : standingHere s c ≠ []) (ha : asserted (coreOf s c) = false)
    (hf : runsFirmware (coreOf s c) = false) (ht : nextTrap s c = some q) :
    execHardPreemptFreeze c s = .next (takeTrap s q.1 q.2) := by
  have hempty : (standingHere s c).isEmpty = false := List.isEmpty_eq_false_iff.mpr hne
  unfold standingHere at *
  simp only [execHardPreemptFreeze, hhard, hopen, hempty, ha, hf, ht]
  rfl

end Freeze

theorem freezeRecord_saves {t : Task} (ht : (coreOf s c).task = some t) (h : mayRecord s c = true) :
    execFreezeRecordSave c s = .next (saveRecord s c t) := by
  simp only [execFreezeRecordSave, ht, h, if_true]

theorem frozenTask_resumes {p : Piece} {z : FrozenTask} (hmode : (coreOf s c).mode = .free) (htask : (coreOf s c).task = none)
    (hp : servedLocal s c = some p)
    (hz : (s.frozen.find? fun z => decide (z.core = c) && decide (z.task.piece = p.id)) = some z) :
    execFrozenTaskResume c s =
      .next ((s.frozen.filter fun w => (frozenCores s z).contains w.core && decide (w.task.piece = p.id)).foldl resumeTask s) := by
  simp [execFrozenTaskResume, hmode, htask, hp, hz]

/-- Settles O45: each event takes the branch that its conditions select. -/
theorem stopsAndResumesComplete : Obligations.StopsAndResumesComplete := by
  intro c b ctx v s
  refine ⟨rfl, stallRelease_retries, fun h => stallRelease_returns, fun n q hslot => ⟨?_, ?_, ?_⟩, fun hsave => ⟨?_, ?_⟩,
    preemptDeadline_hardens, fun hhard hopen => ⟨?_, fun q => ?_⟩, fun t => freezeRecord_saves, fun p z => frozenTask_resumes,
    fun hb => ?_⟩
  · exact watchdogExpiry_withdraws hslot
  · exact watchdogExpiry_traps hslot
  · exact fun ha hm ht => watchdogExpiry_other hslot ha hm ht
  · exact preemptSoft_asks hsave
  · exact preemptHard_asks hsave
  · exact hardPreempt_freezes hhard hopen
  · exact hardPreempt_traps hhard hopen
  · exact congrArg Host.Outcome.next (if_pos hb)

end Sys2Proof.Proofs
end

section
/-!
PROOFS. The constant registers (O54) and reversed iterators (O57).
-/
namespace Sys2Proof.Proofs
open Machine Laws

/-! ## The registers that read constants (R194) -/

theorem physS_zero (b : Nat) : physS b 0 = 0 := rfl

theorem setS_zero (s : State) (c slot lat : Nat) (v : Word) : setS s c slot lat 0 v = s := rfl

theorem setP_zero (s : State) (c slot lat : Nat) (b : Bool) : setP s c slot lat 0 b = s := rfl

/-- Settles O54: register 0 is tested for before a result enters the window. -/
theorem zeroRegistersDiscard : Obligations.ZeroRegistersDiscard := by
  refine ⟨fun x => ⟨rfl, rfl⟩, fun s c slot lat v b => ⟨setS_zero s c slot lat v, setP_zero s c slot lat b⟩,
    fun s c d => rfl, fun a ha => ?_⟩
  simp only [List.mem_cons, List.not_mem_nil, or_false] at ha
  rcases ha with h | h <;> simp only [collides, h]

/-! ## Iterators count in mixed radix (R170) -/

/-- A level whose index is the lowest digit of a count. -/
def lvAt (l : ItLevel) (k : Nat) : ItLevel := { l with idx := BitVec.ofNat 16 (k % lvCount l) }

/-- An iterator k steps after all its indices are 0. -/
def itAt (i : Iter) (k : Nat) : Iter :=
  { i with
    l0 := lvAt i.l0 k, l1 := lvAt i.l1 (k / lvCount i.l0), l2 := lvAt i.l2 (k / lvCount i.l0 / lvCount i.l1)
    l3 := lvAt i.l3 (k / lvCount i.l0 / lvCount i.l1 / lvCount i.l2) }

theorem lvCount_pos (l : ItLevel) : 0 < lvCount l := by
  unfold lvCount
  split <;> omega

theorem lvCount_le (l : ItLevel) : lvCount l ≤ 65536 := by
  have := l.count.isLt
  unfold lvCount
  split <;> omega

theorem lvAt_idx (l : ItLevel) (k : Nat) : (lvAt l k).idx.toNat = k % lvCount l := by
  have hlt := Nat.mod_lt k (lvCount_pos l)
  have hle := lvCount_le l
  simp only [lvAt, BitVec.toNat_ofNat]
  exact Nat.mod_eq_of_lt (by omega)

theorem lvAt_zero {l : ItLevel} (h : l.idx = 0) : lvAt l 0 = l := by
  rw [lvAt, Nat.zero_mod]
  exact congrArg (fun v => { l with idx := v }) h.symm

/-- A level's step counts one up, and carries where its digit wraps. -/
theorem lvStep_lvAt (l : ItLevel) (k : Nat) : lvStep (lvAt l k) = (lvAt l (k + 1), decide (lvCount l ∣ k + 1)) := by
  have hpos := lvCount_pos l
  have hlt := Nat.mod_lt k hpos
  have hcount : lvCount (lvAt l k) = lvCount l := rfl
  rw [lvStep, hcount, lvAt_idx]
  by_cases h : k % lvCount l + 1 ≥ lvCount l
  · have hmod : (k + 1) % lvCount l = 0 := by
      rw [← Nat.mod_add_mod, show k % lvCount l + 1 = lvCount l by omega, Nat.mod_self]
    simp [h, lvAt, hmod, Nat.dvd_iff_mod_eq_zero]
  · have hmod : (k + 1) % lvCount l = k % lvCount l + 1 := by
      rw [← Nat.mod_add_mod, Nat.mod_eq_of_lt (by omega)]
    have hne : ¬ lvCount l ∣ k + 1 := by
      rw [Nat.dvd_iff_mod_eq_zero, hmod]
      omega
    simp only [h, if_false, hne, decide_false, lvAt, hmod, BitVec.ofNat_add]
    rfl

theorem itStep_itAt (i : Iter) (k : Nat) : itStep (itAt i k) = itAt i (k + 1) := by
  simp only [itStep, itAt, lvStep_lvAt, Nat.succ_div]
  by_cases h0 : lvCount i.l0 ∣ k + 1
  · by_cases h1 : lvCount i.l1 ∣ k / lvCount i.l0 + 1
    · by_cases h2 : lvCount i.l2 ∣ k / lvCount i.l0 / lvCount i.l1 + 1 <;> simp [h0, h1, h2, Nat.succ_div]
    · simp [h0, h1, Nat.succ_div]
  · simp [h0]

theorem itSteps_itAt (n k : Nat) (i : Iter) : itSteps n (itAt i k) = itAt i (k + n) := by
  induction n generalizing k with
  | zero => rfl
  | succ n ih => rw [itSteps, itStep_itAt, ih, Nat.add_assoc, Nat.add_comm 1 n]

/-- The digits of the last count less k are the highest digits less those of k. -/
theorem reversed_digit {m k : Nat} (n : Nat) (h : k < n * m) :
    (n * m - 1 - k) % n = n - 1 - k % n ∧ (n * m - 1 - k) / n = m - 1 - k / n := by
  have hn : 0 < n := by
    rcases Nat.eq_zero_or_pos n with h0 | h0
    · simp [h0] at h
    · exact h0
  have hr := Nat.mod_lt k hn
  have hq : k / n < m := Nat.div_lt_of_lt_mul h
  have hsplit : n * m - 1 - k = (n - 1 - k % n) + n * (m - 1 - k / n) := by
    have hk := Nat.mod_add_div k n
    have hm : n * (m - 1 - k / n) = n * m - n - n * (k / n) := by rw [Nat.mul_sub, Nat.mul_sub, Nat.mul_one]
    have hle : n * (k / n) + n ≤ n * m := by
      calc n * (k / n) + n = n * (k / n + 1) := by ring
        _ ≤ n * m := Nat.mul_le_mul_left n hq
    omega
  rw [hsplit, Nat.add_mul_mod_self_left, Nat.add_mul_div_left _ _ hn]
  exact ⟨Nat.mod_eq_of_lt (by omega), by rw [Nat.div_eq_of_lt (by omega), Nat.zero_add]⟩

/-- What a level adds to the address at a count. -/
def lvOffset (l : ItLevel) (k : Nat) : Int := ((k % lvCount l : Nat) : Int) * l.stride.toInt

/-- A level reversed: its stride negated, its index 0. -/
def lvReverse (l : ItLevel) : ItLevel := { l with stride := -l.stride, idx := 0 }

/-- How far a level goes from its first index to its last. -/
def lvSpan (l : ItLevel) : Int := ((lvCount l : Int) - 1) * l.stride.toInt

theorem lvOffset_reverse {l : ItLevel} {k k' : Nat} (hs : l.stride ≠ BitVec.intMin 32)
    (hk : k' % lvCount l = lvCount l - 1 - k % lvCount l) :
    lvOffset (lvReverse l) k + lvSpan l = lvOffset l k' := by
  have hlt := Nat.mod_lt k (lvCount_pos l)
  have hdigit : ((k' % lvCount l : Nat) : Int) = (lvCount l : Int) - 1 - ((k % lvCount l : Nat) : Int) := by omega
  have hneg : (lvReverse l).stride.toInt = -l.stride.toInt := BitVec.toInt_neg_of_ne_intMin hs
  have hcount : lvCount (lvReverse l) = lvCount l := rfl
  rw [lvOffset, lvOffset, lvSpan, hcount, hdigit, hneg]
  ring

theorem itAddr_itAt (i : Iter) (k : Nat) :
    itAddr (itAt i k) = wrapTo 56 ((i.base.toNat : Int) + lvOffset i.l0 k + lvOffset i.l1 (k / lvCount i.l0)
      + lvOffset i.l2 (k / lvCount i.l0 / lvCount i.l1)
      + lvOffset i.l3 (k / lvCount i.l0 / lvCount i.l1 / lvCount i.l2)) := by
  simp only [itAddr, itAt, lvAt_idx, lvOffset]
  rfl

theorem wrapTo_ofInt_add (x y : Int) : wrapTo 56 (((BitVec.ofInt 56 x).toNat : Int) + y) = wrapTo 56 (x + y) := by
  have h : ((BitVec.ofInt 56 x).toNat : Int) = x % (2 ^ 56 : Nat) := by
    rw [BitVec.toNat_ofInt]
    omega
  rw [h, wrapTo, wrapTo, Int.emod_add_emod]

theorem itAt_zero {i : Iter} (h : ∀ l ∈ [i.l0, i.l1, i.l2, i.l3], l.idx = 0) : itAt i 0 = i := by
  have h0 := lvAt_zero (h i.l0 (by simp))
  have h1 := lvAt_zero (h i.l1 (by simp))
  have h2 := lvAt_zero (h i.l2 (by simp))
  have h3 := lvAt_zero (h i.l3 (by simp))
  simp only [itAt, Nat.zero_div, h0, h1, h2, h3]

theorem itReverse_itAt (i : Iter) : itAt (itReverse i) 0 = itReverse i :=
  itAt_zero (by simp [itReverse])

theorem itAddr_itReverse (i : Iter) (k : Nat) :
    itAddr (itAt (itReverse i) k) = wrapTo 56 ((i.base.toNat : Int)
      + (lvOffset (lvReverse i.l0) k + lvSpan i.l0)
      + (lvOffset (lvReverse i.l1) (k / lvCount i.l0) + lvSpan i.l1)
      + (lvOffset (lvReverse i.l2) (k / lvCount i.l0 / lvCount i.l1) + lvSpan i.l2)
      + (lvOffset (lvReverse i.l3) (k / lvCount i.l0 / lvCount i.l1 / lvCount i.l2)
        + lvSpan i.l3)) := by
  have hcount (l : ItLevel) : lvCount (lvReverse l) = lvCount l := rfl
  have hbase : (itReverse i).base
      = BitVec.ofInt 56 ((i.base.toNat : Int) + lvSpan i.l0 + lvSpan i.l1 + lvSpan i.l2 + lvSpan i.l3) := rfl
  have hlevels : (itReverse i).l0 = lvReverse i.l0 ∧ (itReverse i).l1 = lvReverse i.l1 ∧ (itReverse i).l2 = lvReverse i.l2
      ∧ (itReverse i).l3 = lvReverse i.l3 := ⟨rfl, rfl, rfl, rfl⟩
  obtain ⟨h0, h1, h2, h3⟩ := hlevels
  rw [itAddr_itAt, hbase, h0, h1, h2, h3]
  simp only [hcount, Int.add_assoc _ _ (lvOffset _ _)]
  rw [wrapTo_ofInt_add]
  refine congrArg (wrapTo 56) ?_
  ring

/-- Settles O57: count k of the reversed iterator has the digits that count n - 1 - k of the iterator lacks to the highest. -/
theorem reversedIteratorGoesBack : Obligations.ReversedIteratorGoesBack := by
  intro i k h n hk
  have hzero : itAt i 0 = i := itAt_zero fun l hl => (h l hl).1
  have hstride := fun l hl => (h l hl).2
  have hn : n = lvCount i.l0 * (lvCount i.l1 * (lvCount i.l2 * lvCount i.l3)) := by
    simp only [n, Nat.mul_assoc]
  obtain ⟨m0, d0⟩ := reversed_digit _ (hn ▸ hk)
  have hk1 : k / lvCount i.l0 < lvCount i.l1 * (lvCount i.l2 * lvCount i.l3) := Nat.div_lt_of_lt_mul (hn ▸ hk)
  obtain ⟨m1, d1⟩ := reversed_digit _ hk1
  have hk2 := Nat.div_lt_of_lt_mul hk1
  obtain ⟨m2, d2⟩ := reversed_digit _ hk2
  have hk3 := Nat.div_lt_of_lt_mul hk2
  obtain ⟨m3, -⟩ := reversed_digit (m := 1) (lvCount i.l3) (by simpa using hk3)
  rw [Nat.mul_one] at m3
  rw [← itReverse_itAt, itSteps_itAt, ← hzero, itSteps_itAt, hzero, Nat.zero_add, Nat.zero_add, itAddr_itReverse, itAddr_itAt, hn,
    d0, d1, d2, ← lvOffset_reverse (hstride i.l0 (by simp)) m0, ← lvOffset_reverse (hstride i.l1 (by simp)) m1,
    ← lvOffset_reverse (hstride i.l2 (by simp)) m2, ← lvOffset_reverse (hstride i.l3 (by simp)) m3]

end Sys2Proof.Proofs
end

section
/-!
PROOFS. What the register-only S operations leave unchanged (O58).
-/
namespace Sys2Proof.Proofs
open Machine Laws

/-- An S operation that stays held, steps no iterator, and completes with at most one more result in flight. -/
structure WritesRegister (i : Instr) : Prop where
  slot : slotOf i = some 0
  held : oneShot i = false
  quiet : ∀ at_, baseEffects i at_ = .none
  result : ∀ u c at_, ∃ d t, actOf i u c at_ = .ok t .none ∧ AddsResult u c d t

theorem addsResult_setS (u : State) (c slot lat r : Nat) (v : Word) :
    AddsResult u c (.reg .s (physS (coreOf u c).rbase r)) (setS u c slot lat r v) :=
  addsResult_ite addsResult_refl (addsResult_pushFlight _ _ _ _ _ _)

theorem addsResult_setP (u : State) (c slot lat n : Nat) (v : Bool) : AddsResult u c (.reg .p n) (setP u c slot lat n v) :=
  addsResult_ite addsResult_refl (addsResult_pushFlight _ _ _ _ _ _)

section Row
variable {i : Instr} (act : Act) (hs : slotOf i = some 0) (ho : oneShot i = false) (hb : ∀ at_, baseEffects i at_ = .none)
  (hm : actOf i = act)
include hs ho hb hm

theorem writesRegister_sRes {d : BitVec 5} {lat : Nat} {v : Core → Word} (ha : act = sRes d lat v) : WritesRegister i := by
  subst hm
  exact ⟨hs, ho, hb, fun u c at_ => ⟨_, _, by rw [ha, sRes], addsResult_setS u c 0 lat d.toNat _⟩⟩

theorem writesRegister_pRes {n : Nat} {v : Core → Bool} (ha : act = pRes n v) : WritesRegister i := by
  subst hm
  exact ⟨hs, ho, hb, fun u c at_ => ⟨_, _, by rw [ha, pRes], addsResult_setP u c 0 1 n _⟩⟩

end Row

/-- The register-only S operations (R197 to R200). -/
def registerOps (f : SRR) (r : SRI) (w : SI16) : List Instr :=
  [.add f, .sub f, .mul f, .mulh f, .mulhn f, .div f, .divn f, .mod f, .modn f, .and f, .or f, .xor f, .shl f, .shr f, .sra f,
    .min f, .max f, .minn f, .maxn f, .clz f, .popc f, .sext f, .zext f, .addi r, .andi r, .ori r, .xori r, .shli r, .shri r,
    .srai r, .li w, .lih16 w, .lih32 w, .lih48 w, .cmp f, .cmpi r, .pand f, .por f, .pxor f, .sel f, .pmov f, .pmovToS f]

theorem registerOps_writeRegister (f : SRR) (r : SRI) (w : SI16) : ∀ i ∈ registerOps f r w, WritesRegister i := by
  simp only [registerOps, List.forall_mem_cons]
  refine ⟨?_, ?_, ?_, ?_, ?_, ?_, ?_, ?_, ?_, ?_, ?_, ?_, ?_, ?_, ?_, ?_, ?_, ?_, ?_, ?_, ?_, ?_, ?_, ?_, ?_, ?_, ?_, ?_,
    ?_, ?_, ?_, ?_, ?_, ?_, ?_, ?_, ?_, ?_, ?_, ?_, ?_, ?_, List.forall_mem_nil _⟩
  · exact writesRegister_sRes (actAdd f) rfl rfl (fun _ => rfl) rfl rfl
  · exact writesRegister_sRes (actSub f) rfl rfl (fun _ => rfl) rfl rfl
  · exact writesRegister_sRes (actMul f) rfl rfl (fun _ => rfl) rfl rfl
  · exact writesRegister_sRes (actMulh f) rfl rfl (fun _ => rfl) rfl rfl
  · exact writesRegister_sRes (actMulhn f) rfl rfl (fun _ => rfl) rfl rfl
  · exact writesRegister_sRes (actDiv f) rfl rfl (fun _ => rfl) rfl rfl
  · exact writesRegister_sRes (actDivn f) rfl rfl (fun _ => rfl) rfl rfl
  · exact writesRegister_sRes (actMod f) rfl rfl (fun _ => rfl) rfl rfl
  · exact writesRegister_sRes (actModn f) rfl rfl (fun _ => rfl) rfl rfl
  · exact writesRegister_sRes (actAnd f) rfl rfl (fun _ => rfl) rfl rfl
  · exact writesRegister_sRes (actOr f) rfl rfl (fun _ => rfl) rfl rfl
  · exact writesRegister_sRes (actXor f) rfl rfl (fun _ => rfl) rfl rfl
  · exact writesRegister_sRes (actShl f) rfl rfl (fun _ => rfl) rfl rfl
  · exact writesRegister_sRes (actShr f) rfl rfl (fun _ => rfl) rfl rfl
  · exact writesRegister_sRes (actSra f) rfl rfl (fun _ => rfl) rfl rfl
  · exact writesRegister_sRes (actMin f) rfl rfl (fun _ => rfl) rfl rfl
  · exact writesRegister_sRes (actMax f) rfl rfl (fun _ => rfl) rfl rfl
  · exact writesRegister_sRes (actMinn f) rfl rfl (fun _ => rfl) rfl rfl
  · exact writesRegister_sRes (actMaxn f) rfl rfl (fun _ => rfl) rfl rfl
  · exact writesRegister_sRes (actClz f) rfl rfl (fun _ => rfl) rfl rfl
  · exact writesRegister_sRes (actPopc f) rfl rfl (fun _ => rfl) rfl rfl
  · exact writesRegister_sRes (actSext f) rfl rfl (fun _ => rfl) rfl rfl
  · exact writesRegister_sRes (actZext f) rfl rfl (fun _ => rfl) rfl rfl
  · exact writesRegister_sRes (actAddi r) rfl rfl (fun _ => rfl) rfl rfl
  · exact writesRegister_sRes (actAndi r) rfl rfl (fun _ => rfl) rfl rfl
  · exact writesRegister_sRes (actOri r) rfl rfl (fun _ => rfl) rfl rfl
  · exact writesRegister_sRes (actXori r) rfl rfl (fun _ => rfl) rfl rfl
  · exact writesRegister_sRes (actShli r) rfl rfl (fun _ => rfl) rfl rfl
  · exact writesRegister_sRes (actShri r) rfl rfl (fun _ => rfl) rfl rfl
  · exact writesRegister_sRes (actSrai r) rfl rfl (fun _ => rfl) rfl rfl
  · exact writesRegister_sRes (actLi w) rfl rfl (fun _ => rfl) rfl rfl
  · exact writesRegister_sRes (actLih16 w) rfl rfl (fun _ => rfl) rfl rfl
  · exact writesRegister_sRes (actLih32 w) rfl rfl (fun _ => rfl) rfl rfl
  · exact writesRegister_sRes (actLih48 w) rfl rfl (fun _ => rfl) rfl rfl
  · exact writesRegister_pRes (actCmp f) rfl rfl (fun _ => rfl) rfl rfl
  · exact writesRegister_pRes (actCmpi r) rfl rfl (fun _ => rfl) rfl rfl
  · exact writesRegister_pRes (actPand f) rfl rfl (fun _ => rfl) rfl rfl
  · exact writesRegister_pRes (actPor f) rfl rfl (fun _ => rfl) rfl rfl
  · exact writesRegister_pRes (actPxor f) rfl rfl (fun _ => rfl) rfl rfl
  · exact writesRegister_sRes (actSel f) rfl rfl (fun _ => rfl) rfl rfl
  · exact writesRegister_pRes (actPmov f) rfl rfl (fun _ => rfl) rfl rfl
  · exact writesRegister_sRes (actPmovToS f) rfl rfl (fun _ => rfl) rfl rfl

/-- The bundle of one S operation has a header and one word (R162). -/
theorem siteOf_next_scalar {i : Instr} (hs : slotOf i = some 0) (s : State) : (siteOf s i).next = (actor s).pc + 8 := by
  rw [landed_pc, siteOf, hs]
  rfl

/-- Settles O58: an operation that writes a register adds at most one result, and the end of its bundle changes nothing else but
the program address and the bookkeeping of the issue. -/
theorem registerOperationsFrame : Obligations.RegisterOperationsFrame := by
  intro f r w i s t hmem hi hstep
  obtain ⟨hs, ho, hb, hres⟩ := registerOps_writeRegister f r w i hmem
  obtain ⟨d, v, hact, hadds⟩ := hres (landed s) s.cur (siteOf s i)
  obtain rfl : issued s i v .none = t := Host.Outcome.next.inj ((exec_of_ok hs hi hact).symm.trans hstep)
  obtain ⟨hrest, hothers, hclusters, hcore, ⟨l, hl, hlen, -⟩, hpc⟩ := issued_frame hs ho (hb _) hadds
  have hy := issued_core s i 0 v hs ho (hb _)
  obtain ⟨_, hv, -⟩ := hadds.core
  refine ⟨hrest, hothers, hclusters, hcore, ⟨l, hl, hlen⟩, hpc.trans (siteOf_next_scalar hs s), ?_, ?_⟩
  · rw [hy]
  · rw [hy, hv]

end Sys2Proof.Proofs
end

section
/-!
PROOFS. A result lands in the next issue cycle (O53).
-/
namespace Sys2Proof.Proofs
open Machine Laws

/-! ## A register result that lands alone (R175, R195) -/

theorem coreOf_landNow (s : State) (c : Nat) :
    let x := coreOf s c
    let fs := dueNow x x.issueCount
    coreOf (landNow s c) c = landState fs (landRegs fs fs (landClears fs
      { x with inflight := x.inflight.filter fun a => decide (a.due ≠ some x.issueCount) })) := by
  simp only [landNow, coreOf_modCluster, coreOf_setCore_same]

section Register
variable {a : Flight} {r : RegFile} {n : Nat} (hd : a.dst = .reg r n)
include hd

theorem landClears_reg (x : Core) : landClears [a] x = x := by
  rw [landClears, List.foldl_cons, List.foldl_nil, hd]

theorem landState_reg (x : Core) : landState [a] x = x := by
  simp only [landState, List.foldl_cons, List.foldl_nil, hd]

theorem landRegs_single (hc : collides a = true) (x : Core) :
    landRegs [a] [a] x = writeReg { x with aflags := x.aflags ||| BitVec.ofNat 6 a.flags } r n a.mask a.val := by
  simp [landRegs, hd, hc]

end Register

theorem collides_s {a : Flight} {n : Nat} (hd : a.dst = .reg .s n) (hn : n ≠ 0) : collides a = true := by
  rw [collides, hd]
  cases n with
  | zero => exact absurd rfl hn
  | succ n => rfl

/-- A write of all 64 bits replaces the register. -/
theorem merged_ones (old : Nat) (v : Word) : merged 64 old (ones 64) v.toNat = v.toNat := by
  have hz : old &&& (ones 64 ^^^ (ones 64 &&& ones 64)) = 0 := by simp
  have hv : v.toNat &&& ones 64 = v.toNat := by
    rw [ones, Nat.and_two_pow_sub_one_eq_mod, Nat.mod_eq_of_lt v.isLt]
  rw [merged, hz, hv, Nat.zero_or, Nat.mod_eq_of_lt v.isLt]

theorem rawS_writeReg_same (x : Core) {n : Nat} (hn : n ≠ 0) (hlt : n < 32) (v : Word) :
    rawS (writeReg x .s n (ones 64) v.toNat) n = v := by
  simp [rawS, hn, writeReg, merged_ones, hlt]

/-- A whole result for an s register, alone in its cycle, is what a read finds. -/
theorem rdS_landNow_single {s : State} {c d : Nat} {a : Flight} {v : Word}
    (hdue : dueNow (coreOf s c) (coreOf s c).issueCount = [a]) (hdst : a.dst = .reg .s (physS (coreOf s c).rbase d))
    (hn : physS (coreOf s c).rbase d ≠ 0) (hlt : physS (coreOf s c).rbase d < 32) (hmask : a.mask = ones 64)
    (hval : a.val = v.toNat) : rdS (coreOf (landNow s c) c) d = v := by
  have hland := coreOf_landNow s c
  simp only [hdue] at hland
  rw [hland, landState_reg hdst, landRegs_single hdst (collides_s hdst hn), landClears_reg hdst, hmask, hval]
  exact rawS_writeReg_same _ hn hlt v

/-! ## ADD -/

theorem physS_eq_zero {b r : Nat} : physS b r = 0 ↔ r = 0 := by
  unfold physS
  split <;> omega

theorem physS_lt {b r : Nat} (h : r < 32) : physS b r < 32 := by
  unfold physS
  split <;> omega

section Issued
variable {s t : State} {i : Instr} {k : Nat} (hk : slotOf i = some k) (ho : oneShot i = false)
  (hb : baseEffects i (siteOf s i) = .none)
include hk ho hb

theorem issued_s : (coreOf (issued s i t .none) s.cur).s = (coreOf t s.cur).s := by rw [issued_core s i k t hk ho hb]

theorem issued_rbase : (coreOf (issued s i t .none) s.cur).rbase = (coreOf t s.cur).rbase := by rw [issued_core s i k t hk ho hb]

theorem issued_inflight : (coreOf (issued s i t .none) s.cur).inflight = (coreOf t s.cur).inflight := by
  rw [issued_core s i k t hk ho hb]

theorem issued_issueCount : (coreOf (issued s i t .none) s.cur).issueCount = (coreOf t s.cur).issueCount + 1 := by
  rw [issued_core s i k t hk ho hb]

end Issued

/-- A whole result in flight for a physical s register. -/
def sFlight (id due slot n : Nat) (v : Word) : Flight := ⟨id, some due, slot, .reg .s n, ones 64, v.toNat, 0, 64, 0⟩

theorem rdS_zero (x : Core) : rdS x 0 = 0 := rfl

/-- A result for a register other than s0 enters the window for its physical register. -/
theorem coreOf_setS {u : State} {c r : Nat} (slot lat : Nat) (v : Word) (hn : physS (coreOf u c).rbase r ≠ 0) :
    coreOf (setS u c slot lat r v) c = { coreOf u c with
      inflight := (coreOf u c).inflight ++ [sFlight u.fresh ((coreOf u c).issueCount + lat) slot (physS (coreOf u c).rbase r) v] } := by
  rw [setS, if_neg hn]
  exact coreOf_modCore_same _ _ _

/-- An operation that issues with one whole result of latency 1 for an s register: a read finds the old value after the issue,
and the result from the next landing on, if no other result lands there. -/
theorem issued_setS_lands {s : State} {i : Instr} {k d : Nat} {v : Word} (hk : slotOf i = some k) (ho : oneShot i = false)
    (hb : baseEffects i (siteOf s i) = .none) (hd : d < 32) (hne : physS (actor s).rbase d ≠ 0) :
    let t := issued s i (setS (landed s) s.cur 0 1 d v) .none
    rdS (coreOf t s.cur) d = rdS (actor s) d
      ∧ ((∀ a ∈ (actor s).inflight, a.due ≠ some ((actor s).issueCount + 1)) → rdS (coreOf (landNow t s.cur) s.cur) d = v) := by
  intro t
  have hcore := coreOf_setS (u := landed s) (c := s.cur) 0 1 v hne
  have hbase : (coreOf t s.cur).rbase = (actor s).rbase := by rw [issued_rbase hk ho hb, hcore, actor]
  have hcount : (coreOf t s.cur).issueCount = (actor s).issueCount + 1 := by rw [issued_issueCount hk ho hb, hcore, actor]
  have hflight : (coreOf t s.cur).inflight = (actor s).inflight
      ++ [sFlight (landed s).fresh ((actor s).issueCount + 1) 0 (physS (actor s).rbase d) v] := by
    rw [issued_inflight hk ho hb, hcore, actor]
  have hregs : (coreOf t s.cur).s = (actor s).s := by rw [issued_s hk ho hb, hcore, actor]
  refine ⟨by rw [rdS, rdS, rawS, rawS, hbase, hregs], fun hquiet => ?_⟩
  have hnone : (actor s).inflight.filter (fun a => decide (a.due = some ((actor s).issueCount + 1))) = [] :=
    List.filter_eq_nil_iff.mpr fun a ha => by simpa using hquiet a ha
  refine rdS_landNow_single (a := sFlight (landed s).fresh ((actor s).issueCount + 1) 0 (physS (actor s).rbase d) v)
    ?_ ?_ ?_ ?_ rfl rfl
  · rw [hcount, dueNow, hflight, List.filter_append, hnone]
    simp [sFlight]
  · rw [hbase, sFlight]
  · rwa [hbase]
  · exact physS_lt hd

/-- Settles O53: the sum is in flight until the next landing, which writes it. -/
theorem addLandsInTheNextCycle : Obligations.AddLandsInTheNextCycle := by
  intro f s t x hi hstep
  obtain rfl : issued s (.add f) (setS (landed s) s.cur 0 1 f.d.toNat (sA x f + sB x f)) .none = t :=
    Host.Outcome.next.inj ((exec_of_ok rfl hi rfl).symm.trans hstep)
  by_cases hd : f.d = 0
  · have hzero : f.d.toNat = 0 := by rw [hd]; rfl
    rw [hzero, if_pos hd, rdS_zero, rdS_zero, rdS_zero]
    exact ⟨rfl, fun _ => rfl⟩
  · rw [if_neg hd]
    exact issued_setS_lands rfl rfl rfl f.d.isLt (mt physS_eq_zero.mp fun h => hd (BitVec.eq_of_toNat_eq h))

end Sys2Proof.Proofs
end

section
/-!
PROOFS. What holds an operation back changes nothing else (O51).
-/
namespace Sys2Proof.Proofs
open Machine Laws

theorem coreOf_awaitEngine (s : State) (c d : Nat) : coreOf (awaitEngine s c) d = coreOf s d := by
  rw [awaitEngine, coreOf_modCluster]

/-- A wait is noted on its core, and at most a place in the engine's queue on its cluster. -/
theorem coreOf_stalled (s : State) (c slot : Nat) (i : Instr) :
    coreOf (stalled s c slot i) c = { coreOf s c with waiting := some (slot, i) } := by
  rw [stalled]
  split <;> simp only [coreOf_awaitEngine, coreOf_modCore_same]

theorem coreOf_waited (s : State) (i : Instr) : coreOf (waited s i id) s.cur = { coreOf s s.cur with
    held := (coreOf s s.cur).held.setIfInBounds ((slotOf i).getD 0) i, waiting := some ((slotOf i).getD 0, i) } := by
  simp only [waited, id, coreOf_stalled, holding, begun, List.foldl_cons, List.foldl_nil, coreOf_modCore_same]

section Alone
variable {s : State} {i : Instr} {slot : Nat} {act : Act} (hl : lockstep s s.cur = [s.cur])
include hl

theorem issueSolo_interlocked (hi : issuing s s.cur = true) (hs : slotOf i = some slot)
    (hw : interlock (landed s) s.cur i = true) : issueSolo slot i act s = .next (waited s i id) := by
  have hrep : groupRep s [soloLane s slot i act s.cur] = .stall s.cur slot i id := by
    rw [landed] at hw
    simp [groupRep, groupOps, landLanes, soloLane, laneWaits, hw]
  simp only [issueSolo, soloStep, hl, List.all_cons, List.all_nil, hi, List.map_cons, List.map_nil, hrep]
  simp [notIssued, waited, holding, hs]

theorem issueSolo_not_issuing (hi : issuing s s.cur = false) : issueSolo slot i act s = .next s := by
  simp [issueSolo, soloStep, hl, hi]

end Alone

/-- Settles O51: the step of a slot operation takes the branch that its gate, its interlock or its core selects. -/
theorem heldBackChangesNothing : Obligations.HeldBackChangesNothing := by
  intro i s hsome
  obtain ⟨slot, hs⟩ := Option.isSome_iff_exists.mp hsome
  rw [exec_slot i slot s hs]
  exact ⟨fun hm hg => solo_gated s slot i _ hm hs hg,
    fun hl hi hw => ⟨issueSolo_interlocked hl hi hs hw, coreOf_waited s i⟩,
    fun hl hi => issueSolo_not_issuing hl hi⟩

end Sys2Proof.Proofs
end

section
/-!
PROOFS. Where stores reach (O60).
-/
namespace Sys2Proof.Proofs
open Machine Laws

/-! ## States with the same bytes -/

/-- `t` has the memory and the scratchpads of `s`. -/
structure SameBytes (s t : State) : Prop where
  mem : t.mem = s.mem
  sp : ∀ k, (clusterOf t k).sp = (clusterOf s k).sp

namespace SameBytes
variable {s t u : State}

protected theorem refl : SameBytes s s := ⟨rfl, fun _ => rfl⟩

protected theorem trans (h : SameBytes s t) (h' : SameBytes t u) : SameBytes s u :=
  ⟨h'.mem.trans h.mem, fun k => (h'.sp k).trans (h.sp k)⟩

protected theorem spByte (h : SameBytes s t) (k a : Nat) : spByte t k a = spByte s k a := by
  rw [Machine.spByte, h.sp k, Machine.spByte]

/-- A state with the memory and the clusters of another. -/
protected theorem of_eq (hm : t.mem = s.mem) (hc : t.clusters = s.clusters) : SameBytes s t :=
  ⟨hm, fun k => by rw [clusterOf, hc, clusterOf]⟩

protected theorem modCluster {k : Nat} {f : Cluster → Cluster} (h : SameBytes s t) (hf : ∀ y, (f y).sp = y.sp) :
    SameBytes s (modCluster t k f) := by
  refine h.trans ⟨rfl, fun j => ?_⟩
  by_cases hj : j = k
  · rw [hj, clusterOf_modCluster_same, hf]
  · rw [clusterOf_modCluster_other _ _ _ _ hj]

protected theorem foldl {α : Type} {l : List α} {g : State → α → State} (h : SameBytes s t)
    (hg : ∀ v a, SameBytes v (g v a)) : SameBytes s (l.foldl g t) :=
  List.foldlRecOn l g (motive := fun v => SameBytes s v) h fun v hv a _ => hv.trans (hg v a)

protected theorem ite {p : Prop} [Decidable p] {v : State} (h : SameBytes s t) (h' : SameBytes s v) :
    SameBytes s (if p then t else v) := by
  split
  · exact h
  · exact h'

end SameBytes

variable {s t : State} {c : Nat}

theorem modCore_sameBytes {f : Core → Core} : SameBytes s (modCore s c f) := .of_eq rfl rfl

theorem landNow_sameBytes : SameBytes s (landNow s c) :=
  SameBytes.modCluster (SameBytes.of_eq rfl rfl) (landShared_sp _)

theorem leaveEngine_sameBytes : SameBytes s (leaveEngine s c) := SameBytes.refl.modCluster fun _ => rfl

theorem addRaced_sameBytes {ctx : Nat} {ks : List Nat} : SameBytes s (addRaced s ctx ks) := .of_eq rfl rfl

theorem softBytes_sameBytes {keys : List Nat} : SameBytes s (softBytes s keys) :=
  SameBytes.refl.foldl fun _ _ => addRaced_sameBytes.ite .refl

theorem raceWith_sameBytes {ctx : Nat} {bits : List Bits8} {reads : Bool} {us : List UnitBits} :
    SameBytes s (raceWith s ctx bits reads us) :=
  SameBytes.refl.foldl fun _ _ => addRaced_sameBytes.trans addRaced_sameBytes

theorem raceKernel_sameBytes {keys : List Nat} {writes : Bool} : SameBytes s (raceKernel s c keys writes) := by
  have htiles : ∀ ctx a, SameBytes s (raceTiles s ctx keys writes a) := fun ctx a =>
    SameBytes.refl.foldl fun _ _ => addRaced_sameBytes.trans addRaced_sameBytes
  exact (htiles _ _).trans (SameBytes.refl.ite (.of_eq rfl rfl))

theorem raceCasts_sameBytes {keys : List Nat} : SameBytes s (raceCasts s c keys) :=
  SameBytes.refl.foldl fun _ _ => SameBytes.refl.ite addRaced_sameBytes

/-- The checks of a plain store note races and nothing else. -/
theorem raceStore_sameBytes {bits : List Bits8} : SameBytes s (raceStore s c bits) := by
  dsimp only [raceStore]
  exact raceWith_sameBytes.trans (raceKernel_sameBytes.trans raceCasts_sameBytes)

/-- A plain store enters its queue. -/
theorem enterStore_sameBytes {bits : List (Nat × BitVec 8 × BitVec 8)} : SameBytes s (enterStore s c bits) := by
  dsimp only [enterStore]
  split
  · exact raceStore_sameBytes
  · exact raceStore_sameBytes.trans (.of_eq rfl rfl)

theorem noteEffect_sameBytes {was : State} {id : Nat} {whole : Bool} : SameBytes s (noteEffect was s c id whole) := by
  rw [noteEffect]
  split
  · exact .refl
  · exact .of_eq rfl rfl

/-! ## The end of the bundle of a store -/

/-- The effects of a store on the scratchpad (R207). -/
def spOnly (l : List SpEff) : Effects := { Effects.none with sp := l }

theorem finishRep_sameBytes {l : List SpEff} : SameBytes s (finishRep s c (spOnly l) []) := by
  have hcore : SameBytes s (modCore (advHeads (modCore s c fun x => applyIters x (spOnly l)) c (spOnly l)) c fun x =>
      { x with issueCount := x.issueCount + 1, waiting := none, stepWait := false, skipS := false }) := .of_eq rfl rfl
  exact hcore.trans leaveEngine_sameBytes

theorem moveGang_sameBytes {e : Effects} : SameBytes s (moveGang s c e) := by
  rw [moveGang]
  split
  · exact .of_eq rfl rfl
  · exact .refl

/-- A bundle without a transfer, a gang move, an end or a safe point changes the bookkeeping of its core. -/
theorem finishBundle_sameBytes {at_ : Site} {l : List SpEff} {ops : List (Nat × Instr)} :
    SameBytes s (finishBundle s c at_ (spOnly l) ops false false) := by
  refine SameBytes.trans (t := moveGang (modCore s c fun x => _) c (spOnly l)) ?_ (.of_eq rfl rfl)
  exact modCore_sameBytes.trans moveGang_sameBytes

/-- At the end of its bundle, an operation that steps no iterator leaves the bytes that its scratchpad effects leave. -/
theorem issued_sameBytes {i : Instr} {l : List SpEff} (hb : baseEffects i (siteOf s i) = .none) :
    ∃ v, SameBytes t v ∧ SameBytes (applySps v l) (issued s i t (spOnly l)) := by
  refine ⟨finishRep (modCore t s.cur fun x => { x with held := x.held.setIfInBounds ((slotOf i).getD 0) i }) s.cur (spOnly l) [],
    modCore_sameBytes.trans finishRep_sameBytes, ?_⟩
  rw [issued, hb, none_add]
  refine SameBytes.trans ?_ finishBundle_sameBytes
  exact SameBytes.refl

theorem issued_none_sameBytes {i : Instr} (hb : baseEffects i (siteOf s i) = .none) (h : SameBytes s t) :
    SameBytes s (issued s i t .none) := by
  obtain ⟨v, hv, ht⟩ := issued_sameBytes (t := t) (l := []) hb
  exact h.trans (hv.trans ht)

/-! ## The bytes of a scratchpad store (R207) -/

/-- A run of whole bytes changes no memory, no other scratchpad, and no byte outside it. -/
theorem applySps_spWrites {k : Nat} (n : Nat) {off v : Nat} (hw : Memory.wf (clusterOf s k).sp = true) :
    (applySps s (spWrites k off n v)).mem = s.mem
      ∧ ∀ j a, (j ≠ k ∨ a < off ∨ off + n ≤ a) → spByte (applySps s (spWrites k off n v)) j a = spByte s j a := by
  induction n generalizing s off v with
  | zero => exact ⟨rfl, fun _ _ _ => rfl⟩
  | succ n ih =>
    have hstep : applySps s (spWrites k off (n + 1) v)
        = applySps (spMasked s k [(off, 0xFF#8, BitVec.ofNat 8 v)]) (spWrites k (off + 1) n (v / 256)) := rfl
    have hsp : (clusterOf (spMasked s k [(off, 0xFF#8, BitVec.ofNat 8 v)]) k).sp
        = memMasked (clusterOf s k).sp [(off, 0xFF#8, BitVec.ofNat 8 v)] := by
      rw [spMasked, clusterOf_modCluster_same]
    obtain ⟨hmem, hbytes⟩ := ih (s := spMasked s k [(off, 0xFF#8, BitVec.ofNat 8 v)]) (off := off + 1) (v := v / 256)
      (hsp ▸ memMasked_wf _ _ hw)
    rw [hstep]
    refine ⟨hmem, fun j a h => (hbytes j a (by omega)).trans ?_⟩
    by_cases hj : j = k
    · subst hj
      rw [spByte, hsp, spByte]
      exact memByte_memMasked_outside _ _ _ hw (List.forall_mem_singleton.mpr (by omega))
    · rw [spByte, spMasked, clusterOf_modCluster_other _ _ _ _ hj, spByte]

theorem sp_wf (h : memOk s = true) (k : Nat) : Memory.wf (clusterOf s k).sp = true :=
  Kept.sp_wf (a := s) ⟨⟨rfl, rfl, rfl, rfl, rfl⟩, id⟩ h k

/-! ## A plain store applies (R337) -/

/-- A byte that exactly one masked write names takes its bits. -/
theorem memByte_memMasked_single {m : List Host.Cell} {ws : List (Nat × BitVec 8 × BitVec 8)} {a : Nat} {mask v : BitVec 8}
    (hw : Memory.wf m = true) (h : ws.filter (fun b => decide (b.1 = a)) = [(a, mask, v)]) :
    memByte (memMasked m ws) a = (memByte m a &&& ~~~mask) ||| (v &&& mask) := by
  induction ws generalizing m with
  | nil => simp at h
  | cons q r ih =>
    obtain ⟨j, mj, vj⟩ := q
    rw [memMasked]
    by_cases hj : j = a
    · subst hj
      rw [List.filter_cons_of_pos (by simp)] at h
      obtain ⟨hq, hr⟩ := List.cons.inj h
      cases hq
      have hout : ∀ q ∈ r, q.1 ≠ j := fun q hq he => by
        have : q ∈ r.filter (fun b => decide (b.1 = j)) := List.mem_filter.mpr ⟨hq, decide_eq_true he⟩
        rw [hr] at this
        exact absurd this List.not_mem_nil
      rw [memByte_memMasked_outside _ _ _ (memSet_wf _ _ _ hw) hout, memByte_memSet _ _ _ _ hw, if_pos rfl]
    · rw [List.filter_cons_of_neg (by simpa using hj)] at h
      rw [ih (memSet_wf _ _ _ hw) h, memByte_memSet _ _ _ _ hw, if_neg (Ne.symm hj)]

theorem softBytes_cores (keys : List Nat) : (softBytes s keys).cores = s.cores :=
  List.foldlRecOn s.ctxs _ (motive := fun v : State => v.cores = s.cores) rfl fun v hv q _ => by
    rw [← hv]
    split <;> rfl

theorem noteEffect_cores (was : State) (id : Nat) (whole : Bool) : (noteEffect was s c id whole).cores = s.cores := by
  rw [noteEffect]
  split <;> rfl

theorem tryReturn_running (h : (coreOf s c).mode = .running) : tryReturn s c = s := by
  simp only [tryReturn, h]

/-- A plain store of a core that runs its task leaves its masked bytes. -/
theorem storeApply_leaves {k : Nat} {e : SqEntry} {bits : List (Nat × BitVec 8 × BitVec 8)} (hmode : (coreOf s c).mode = .running)
    (he : mayApply (coreOf s c) k = some e) (hk : e.kind = .store bits) :
    ∃ t, exec (.storeApply c k) s = .next t ∧ SameBytes (setMem s (memMasked s.mem bits)) t := by
  have happly : applyEntry (dropSq s c e.id) c e = softBytes (setMem (dropSq s c e.id) (memMasked s.mem bits)) (bits.map (·.1)) := by
    simp only [applyEntry, hk]
    rfl
  have hrun : (coreOf (noteEffect s (applyEntry (dropSq s c e.id) c e) c e.id (unknownYet e)) c).mode = .running := by
    have hdrop : (coreOf (dropSq s c e.id) c).mode = .running := by rw [dropSq, coreOf_modCore_same, hmode]
    rw [coreOf, noteEffect_cores, happly, softBytes_cores]
    exact hdrop
  refine ⟨_, storeApply_applies he, ?_⟩
  rw [tryReturn_running hrun, happly]
  have hset : SameBytes (setMem s (memMasked s.mem bits)) (setMem (dropSq s c e.id) (memMasked s.mem bits)) := .of_eq rfl rfl
  exact (hset.trans softBytes_sameBytes).trans noteEffect_sameBytes

/-- Settles O60: STL and STM through the end of their bundles, and a plain store as it applies. -/
theorem storesReachOnlyTheirBytes : Obligations.StoresReachOnlyTheirBytes := by
  intro f s t
  refine ⟨fun hi hreach hok hstep => ?_, fun x hi halign hmem hx hstep => ?_, fun c k e bits hok hmode he hk hstep => ?_⟩
  · obtain ⟨hsp, hbounds, halign⟩ := hreach
    obtain rfl := Host.Outcome.next.inj
      ((exec_of_ok rfl hi (actStl_stores (siteOf s (.stl f)) halign hsp hbounds)).symm.trans hstep)
    obtain ⟨v, hv, ht⟩ := issued_sameBytes (t := landed s) (i := .stl f) (l := spWrites (clusterOfCore s.cur)
      (spOff (sAddr (actor s) f)) (sSize f) (sD (actor s) f).toNat) rfl
    have hland : SameBytes s v := landNow_sameBytes.trans hv
    obtain ⟨hm, hb⟩ := applySps_spWrites (s := v) (k := clusterOfCore s.cur) (sSize f) (off := spOff (sAddr (actor s) f))
      (v := (sD (actor s) f).toNat) (hland.sp _ ▸ sp_wf hok _)
    exact ⟨ht.mem.trans (hm.trans hland.mem), fun k a h => (ht.spByte k a).trans ((hb k a h).trans (hland.spByte k a))⟩
  · suffices h : SameBytes s t from ⟨h.mem, h.spByte⟩
    obtain rfl := Host.Outcome.next.inj ((exec_of_ok rfl hi (actStm_stores (siteOf s (.stm f)) halign hmem hx)).symm.trans hstep)
    exact issued_none_sameBytes rfl (landNow_sameBytes.trans enterStore_sameBytes)
  · obtain ⟨u, hu, hbytes⟩ := storeApply_leaves hmode he hk
    obtain rfl : u = t := Host.Outcome.next.inj (hu.symm.trans hstep)
    have hwf : Memory.wf s.mem = true := ((memOk_iff s).mp hok).1
    rw [hbytes.mem]
    exact ⟨fun a h => memByte_memMasked_outside _ _ _ hwf h, fun a m v h => memByte_memMasked_single hwf h,
      fun j a => hbytes.spByte j a⟩

end Sys2Proof.Proofs
end

section
/-!
PROOFS. CSR accesses and their landings (O12).
-/
namespace Sys2Proof.Proofs
open Machine Laws

/-! ## The flags that land in a cycle (R36, R407) -/

/-- A fold of disjunctions, started anywhere. -/
theorem foldl_or (g : Flight → BitVec 6) (l : List Flight) (u : BitVec 6) :
    l.foldl (fun v a => v ||| g a) u = u ||| l.foldl (fun v a => v ||| g a) 0#6 := by
  induction l generalizing u with
  | nil => simp
  | cons a l ih => rw [List.foldl_cons, List.foldl_cons, ih, ih (0#6 ||| g a), BitVec.or_assoc, BitVec.zero_or]

/-- The AFLAGS bits that a landing clears. -/
def clearsOf (a : Flight) : BitVec 6 := if a.dst = .csr 0x01C then BitVec.ofNat 6 a.val else 0#6

/-- The bits that the landings of a cycle clear. -/
def clearsIn (l : List Flight) : BitVec 6 := l.foldl (fun v a => v ||| clearsOf a) 0#6

/-- The flags that the landings of a cycle set. -/
def flagsIn (l : List Flight) : BitVec 6 := l.foldl (fun v a => v ||| BitVec.ofNat 6 a.flags) 0#6

theorem clearsIn_eq (l : List Flight) :
    l.foldl (fun v a => if a.dst = .csr 0x01C then v ||| BitVec.ofNat 6 a.val else v) 0#6 = clearsIn l := by
  refine congrArg (fun g => List.foldl g 0#6 l) (funext fun v => funext fun a => ?_)
  rw [clearsOf]
  split <;> simp

theorem clearsIn_cons (a : Flight) (l : List Flight) : clearsIn (a :: l) = clearsOf a ||| clearsIn l := by
  rw [clearsIn, List.foldl_cons, foldl_or, BitVec.zero_or, clearsIn]

theorem flagsIn_cons (a : Flight) (l : List Flight) : flagsIn (a :: l) = BitVec.ofNat 6 a.flags ||| flagsIn l := by
  rw [flagsIn, List.foldl_cons, foldl_or (fun a => BitVec.ofNat 6 a.flags), BitVec.zero_or, flagsIn]

theorem and_not_or (x u v : BitVec 6) : x &&& ~~~u &&& ~~~v = x &&& ~~~(u ||| v) := by
  ext i
  simp [Bool.and_assoc]

theorem and_not_zero (x : BitVec 6) : x &&& ~~~0#6 = x := by
  rw [show ~~~0#6 = BitVec.allOnes 6 from rfl, BitVec.and_allOnes]

/-- A core with bits of its task's AFLAGS cleared. -/
def clearTask (v : BitVec 6) (x : Core) : Core :=
  match x.shadow with
  | some h => { x with shadow := some { h with aflags := h.aflags &&& ~~~v } }
  | none => { x with aflags := x.aflags &&& ~~~v }

theorem clearTask_running {x : Core} (v : BitVec 6) (h : x.shadow = none) :
    clearTask v x = { x with aflags := x.aflags &&& ~~~v } := by simp only [clearTask, h]

theorem clearTask_handler {x : Core} {h : Shadow} (v : BitVec 6) (hs : x.shadow = some h) :
    clearTask v x = { x with shadow := some { h with aflags := h.aflags &&& ~~~v } } := by simp only [clearTask, hs]

theorem landClears_single (a : Flight) (x : Core) : landClears [a] x = if a.dst = .csr 0x01C then clearTask (clearsOf a) x else x := by
  rw [landClears, List.foldl_cons, List.foldl_nil]
  split
  next i hd =>
    by_cases hi : i = 0x01C
    · subst hi
      rw [if_pos rfl, if_pos hd, clearsOf, if_pos hd]
      cases hs : x.shadow <;> simp only [clearTask, hs]
    · have hne : a.dst ≠ .csr 0x01C := fun h => hi (Dest.csr.inj (hd.symm.trans h))
      rw [if_neg hi, if_neg hne]
  next hd => rw [if_neg (hd 0x01C)]

theorem landClears_cons (a : Flight) (l : List Flight) (x : Core) : landClears (a :: l) x = landClears l (landClears [a] x) := rfl

theorem landClears_running {l : List Flight} {x : Core} (h : x.shadow = none) :
    (landClears l x).shadow = none ∧ (landClears l x).aflags = x.aflags &&& ~~~clearsIn l := by
  induction l generalizing x with
  | nil => exact ⟨h, (and_not_zero _).symm⟩
  | cons a l ih =>
    have hone : (landClears [a] x).shadow = none ∧ (landClears [a] x).aflags = x.aflags &&& ~~~clearsOf a := by
      rw [landClears_single, clearTask_running _ h]
      split
      · exact ⟨h, rfl⟩
      next hd => exact ⟨h, by rw [clearsOf, if_neg hd, and_not_zero]⟩
    obtain ⟨hs, hf⟩ := ih hone.1
    rw [landClears_cons, clearsIn_cons, hf, hone.2, and_not_or]
    exact ⟨hs, rfl⟩

theorem landClears_handler {l : List Flight} {x : Core} {h : Shadow} (hs : x.shadow = some h) :
    (landClears l x).aflags = x.aflags
      ∧ ∃ h', (landClears l x).shadow = some h' ∧ h'.aflags = h.aflags &&& ~~~clearsIn l := by
  induction l generalizing x h with
  | nil => exact ⟨rfl, h, hs, (and_not_zero _).symm⟩
  | cons a l ih =>
    have hone : (landClears [a] x).aflags = x.aflags
        ∧ ∃ h', (landClears [a] x).shadow = some h' ∧ h'.aflags = h.aflags &&& ~~~clearsOf a := by
      rw [landClears_single, clearTask_handler _ hs]
      split
      · exact ⟨rfl, _, rfl, rfl⟩
      next hd => exact ⟨rfl, h, hs, by rw [clearsOf, if_neg hd, and_not_zero]⟩
    obtain ⟨hfa, h1, hs1, hf1⟩ := hone
    obtain ⟨hfb, h2, hs2, hf2⟩ := ih hs1
    rw [landClears_cons, clearsIn_cons, hfb, hfa]
    exact ⟨rfl, h2, hs2, by rw [hf2, hf1, and_not_or]⟩

/-- What a landing that is no CSRW of AFLAGS leaves of the flags. -/
structure SameFlags (x y : Core) : Prop where
  own : y.aflags = x.aflags
  task : y.shadow.map (·.aflags) = x.shadow.map (·.aflags)

theorem sameFlags_trans {x y z : Core} (h : SameFlags x y) (h' : SameFlags y z) : SameFlags x z :=
  ⟨h'.own.trans h.own, h'.task.trans h.task⟩

/-- A landing in handler state that rewrites the shadow but for its flags. -/
theorem sameFlags_shadow {x y : Core} {h h' : Shadow} (hs : x.shadow = some h) (hy : y.shadow = some h')
    (hf : h'.aflags = h.aflags) (ha : y.aflags = x.aflags) : SameFlags x y :=
  ⟨ha, by rw [hs, hy, Option.map_some, Option.map_some, hf]⟩

theorem landCsr_flags (x : Core) (i v : Nat) : SameFlags x (landCsr x i v) := by
  unfold landCsr
  split
  case h_1 h hs | h_3 h hs | h_5 h hs | h_9 h hs => exact sameFlags_shadow hs rfl rfl rfl
  all_goals exact ⟨rfl, rfl⟩

/-- A fold of landings of which each leaves the flags leaves them. -/
theorem foldl_flags {g : Core → Flight → Core} (hg : ∀ y a, SameFlags y (g y a)) (l : List Flight) (x : Core) :
    SameFlags x (l.foldl g x) :=
  List.foldlRecOn l g (motive := fun y => SameFlags x y) ⟨rfl, rfl⟩ fun y hy a _ => sameFlags_trans hy (hg y a)

theorem landState_flags (l : List Flight) (x : Core) : SameFlags x (landState l x) := by
  dsimp only [landState]
  refine sameFlags_trans (sameFlags_trans (sameFlags_trans (foldl_flags ?_ l _) (foldl_flags ?_ l _)) (foldl_flags ?_ l _))
    (foldl_flags ?_ l _)
  all_goals
    intro y a
    split
  all_goals first | exact ⟨rfl, rfl⟩ | exact landCsr_flags _ _ _

theorem writeReg_aflags (x : Core) (r : RegFile) (n mask val : Nat) : (writeReg x r n mask val).aflags = x.aflags := by
  cases r <;> rfl

theorem writeReg_shadow (x : Core) (r : RegFile) (n mask val : Nat) : (writeReg x r n mask val).shadow = x.shadow := by
  cases r <;> rfl

theorem countCollision_aflags (x : Core) (r : RegFile) (n slot : Nat) : (countCollision x r n slot).aflags = x.aflags := by
  rw [countCollision]

theorem countCollision_shadow (x : Core) (r : RegFile) (n slot : Nat) : (countCollision x r n slot).shadow = x.shadow := by
  rw [countCollision]

/-- The flags of each result are added, whether it is written, discarded or counted as a collision. -/
theorem landRegs_aflags (all l : List Flight) (x : Core) : (landRegs all l x).aflags = x.aflags ||| flagsIn l := by
  induction l generalizing x with
  | nil => simp [landRegs, flagsIn]
  | cons a l ih =>
    rw [flagsIn_cons, ← BitVec.or_assoc]
    dsimp only [landRegs]
    split
    · split
      · rw [ih]
      split
      · rw [ih]
        split
        · rw [writeReg_aflags]
        · rw [countCollision_aflags, writeReg_aflags]
      · rw [ih]
    · rw [ih]

theorem landRegs_shadow (all l : List Flight) (x : Core) : (landRegs all l x).shadow = x.shadow := by
  induction l generalizing x with
  | nil => rfl
  | cons a l ih =>
    dsimp only [landRegs]
    split
    · split
      · rw [ih]
      split
      · rw [ih]
        split
        · rw [writeReg_shadow]
        · rw [countCollision_shadow, writeReg_shadow]
      · rw [ih]
    · rw [ih]

/-- The flags of a core after a cycle: cleared bits first, then the flags that land. -/
theorem landNow_flags (s : State) (c : Nat) :
    let x := coreOf s c
    let fs := dueNow x x.issueCount
    SameFlags (landRegs fs fs (landClears fs { x with inflight := x.inflight.filter fun a => decide (a.due ≠ some x.issueCount) }))
      (coreOf (landNow s c) c) := by
  dsimp only
  rw [coreOf_landNow]
  exact landState_flags _ _

section Landed
variable {s : State} {c : Nat}

theorem landNow_flags_running (h : (coreOf s c).shadow = none) :
    let fs := dueNow (coreOf s c) (coreOf s c).issueCount
    (coreOf (landNow s c) c).shadow = none
      ∧ (coreOf (landNow s c) c).aflags = ((coreOf s c).aflags &&& ~~~clearsIn fs) ||| flagsIn fs := by
  intro fs
  obtain ⟨hown, htask⟩ := landNow_flags s c
  obtain ⟨hcs, hcf⟩ := landClears_running (l := fs)
    (x := { coreOf s c with inflight := (coreOf s c).inflight.filter fun a => decide (a.due ≠ some (coreOf s c).issueCount) }) h
  rw [landRegs_shadow, hcs, Option.map_none, Option.map_eq_none_iff] at htask
  exact ⟨htask, by rw [hown, landRegs_aflags, hcf]⟩

theorem landNow_flags_handler {h : Shadow} (hs : (coreOf s c).shadow = some h) :
    let fs := dueNow (coreOf s c) (coreOf s c).issueCount
    (coreOf (landNow s c) c).aflags = (coreOf s c).aflags ||| flagsIn fs
      ∧ (coreOf (landNow s c) c).shadow.map (·.aflags) = some (h.aflags &&& ~~~clearsIn fs) := by
  intro fs
  obtain ⟨hown, htask⟩ := landNow_flags s c
  obtain ⟨hcf, h', hcs, hcf'⟩ := landClears_handler (l := fs)
    (x := { coreOf s c with inflight := (coreOf s c).inflight.filter fun a => decide (a.due ≠ some (coreOf s c).issueCount) }) hs
  rw [landRegs_shadow, hcs, Option.map_some, hcf'] at htask
  exact ⟨by rw [hown, landRegs_aflags, hcf], htask⟩

end Landed

/-! ## CSRs and the landing of a CSRW (R221, R222) -/

/-- The CSRs that hold what the core itself keeps and a landing may change. -/
def coreCsrs : List Nat := [0x006, 0x007, 0x008, 0x009, 0x011, 0x014, 0x01A, 0x01B, 0x01C, 0x021, 0x024, 0x025, 0x026, 0x027]

/-- Such a CSR as a read finds it. -/
def coreCsr (x : Core) (j : Nat) : Word :=
  match j with
  | 0x006 => BitVec.ofNat 64 ((x.shadow.map (·.rbase)).getD x.rbase)
  | 0x007 => BitVec.ofNat 64 ((x.shadow.map (·.repidx)).getD x.repidx)
  | 0x008 => (x.shadow.map (·.loopcnt)).getD x.loopcnt
  | 0x009 => BitVec.ofNat 64 (((x.shadow.map (·.loopend)).getD x.loopend).toNat % 2 ^ 56)
  | 0x011 => x.tpc
  | 0x014 => x.tvec
  | 0x01A => x.seedkey
  | 0x01B => (x.shadow.map (·.wcoll)).getD x.wcoll
  | 0x01C => ((x.shadow.map (·.aflags)).getD x.aflags).zeroExtend 64
  | 0x021 => x.spdeadline
  | 0x024 => x.ufcnt[0]?.getD 0
  | 0x025 => x.ufcnt[1]?.getD 0
  | 0x026 => x.ufcnt[2]?.getD 0
  | 0x027 => x.ufcnt[3]?.getD 0
  | _ => 0

theorem csrRead_coreCsr (s : State) (c : Nat) : ∀ j ∈ coreCsrs, csrRead s c j = coreCsr (coreOf s c) j := by
  simp only [coreCsrs, List.forall_mem_cons]
  exact ⟨rfl, rfl, rfl, rfl, rfl, rfl, rfl, rfl, rfl, rfl, rfl, rfl, rfl, rfl, List.forall_mem_nil _⟩

/-- What the other CSRs of a core show does not change. -/
structure CsrFrame (x y : Core) : Prop where
  task : y.task = x.task
  tcause : y.tcause = x.tcause
  taddr : y.taddr = x.taddr
  tdetail : y.tdetail = x.tdetail
  hard : y.hard = x.hard
  soft : y.soft = x.soft
  age : y.age = x.age
  replaycnt : y.replaycnt = x.replaycnt
  arrayQ : y.arrayQ = x.arrayQ
  swap : y.swap = x.swap

theorem csrFrame_trans {x y z : Core} (h : CsrFrame x y) (h' : CsrFrame y z) : CsrFrame x z :=
  ⟨h'.task.trans h.task, h'.tcause.trans h.tcause, h'.taddr.trans h.taddr, h'.tdetail.trans h.tdetail, h'.hard.trans h.hard,
    h'.soft.trans h.soft, h'.age.trans h.age, h'.replaycnt.trans h.replaycnt, h'.arrayQ.trans h.arrayQ, h'.swap.trans h.swap⟩

theorem landCsr_csrFrame (x : Core) (i v : Nat) : CsrFrame x (landCsr x i v) := by
  unfold landCsr
  split
  all_goals exact ⟨rfl, rfl, rfl, rfl, rfl, rfl, rfl, rfl, rfl, rfl⟩

theorem clearTask_csrFrame (x : Core) (v : BitVec 6) : CsrFrame x (clearTask v x) := by
  unfold clearTask
  split
  all_goals exact ⟨rfl, rfl, rfl, rfl, rfl, rfl, rfl, rfl, rfl, rfl⟩

/-- A core after a CSRW has landed alone. -/
def csrLanded (i v : Nat) (x : Core) : Core := if i = 0x01C then clearTask (BitVec.ofNat 6 v) x else landCsr x i v

theorem csrLanded_csrFrame (i v : Nat) (x : Core) : CsrFrame x (csrLanded i v x) := by
  unfold csrLanded
  split
  · exact clearTask_csrFrame x _
  · exact landCsr_csrFrame x i v

theorem landCsr_aflags (x : Core) (v : Nat) : landCsr x 0x01C v = x := rfl

/-- A CSRW leaves every other CSR, but for the `REPIDX` that a handler's write of `TPC` sets to 0. -/
theorem coreCsr_landCsr_other {x : Core} {i j : Nat} (v : Nat) (hj : j ≠ i) (htpc : i = 0x011 → j = 0x007 → x.shadow = none) :
    coreCsr (landCsr x i v) j = coreCsr x j := by
  cases hs : x.shadow
  all_goals
    simp only [landCsr, hs]
    split
  all_goals
    unfold coreCsr
    split
  all_goals simp_all

theorem coreCsr_clearTask_other {x : Core} {j : Nat} (v : BitVec 6) (hj : j ≠ 0x01C) : coreCsr (clearTask v x) j = coreCsr x j := by
  cases hs : x.shadow with
  | none =>
    rw [clearTask_running v hs]
    unfold coreCsr
    split
    case h_9 => exact absurd rfl hj
    all_goals rfl
  | some h =>
    rw [clearTask_handler v hs]
    unfold coreCsr
    split
    case h_9 => exact absurd rfl hj
    all_goals simp only [hs, Option.map_some, Option.getD_some]

/-- A core without the results that land in its present cycle. -/
def withoutDue (x : Core) : Core := { x with inflight := x.inflight.filter fun a => decide (a.due ≠ some x.issueCount) }

theorem withoutDue_csrFrame (x : Core) : CsrFrame x (withoutDue x) := ⟨rfl, rfl, rfl, rfl, rfl, rfl, rfl, rfl, rfl, rfl⟩

/-- No CSR of the core shows the results in flight. -/
theorem coreCsr_withoutDue (x : Core) (j : Nat) : coreCsr (withoutDue x) j = coreCsr x j := rfl

section Alone
variable {s : State} {c i : Nat} {a : Flight} (hdue : dueNow (coreOf s c) (coreOf s c).issueCount = [a]) (hdst : a.dst = .csr i)
include hdst

theorem landShared_csr_other (hi : i ≠ 0x018) (k : Cluster) : landShared [a] k = k := by
  rw [landShared, List.foldl_cons, List.foldl_nil, hdst]
  exact if_neg hi

include hdue

theorem clusterOf_landNow (hi : i ≠ 0x018) (k : Nat) : clusterOf (landNow s c) k = clusterOf s k := by
  rw [landNow, hdue]
  by_cases hk : k = clusterOfCore c
  · rw [hk, clusterOf_modCluster_same, landShared_csr_other hdst hi, clusterOf_setCore]
  · rw [clusterOf_modCluster_other _ _ _ _ hk, clusterOf_setCore]

theorem coreOf_landNow_csr (hf : a.flags = 0) : coreOf (landNow s c) c = csrLanded i a.val (withoutDue (coreOf s c)) := by
  have hregs : ∀ y, landRegs [a] [a] y = y := fun y => by
    simp only [landRegs, hdst, hf]
    rw [show y.aflags ||| BitVec.ofNat 6 0 = y.aflags from BitVec.or_zero]
  have hstate : ∀ y, landState [a] y = landCsr y i a.val := fun y => by
    simp only [landState, List.foldl_cons, List.foldl_nil, hdst]
  have hclear : ∀ y, landClears [a] y = if i = 0x01C then clearTask (BitVec.ofNat 6 a.val) y else y := fun y => by
    rw [landClears_single, clearsOf, hdst]
    by_cases hi : i = 0x01C
    · rw [hi, if_pos rfl, if_pos rfl, if_pos rfl]
    · rw [if_neg (mt Dest.csr.inj hi), if_neg hi]
  rw [coreOf_landNow, hdue, hregs, hstate, hclear, csrLanded, withoutDue]
  by_cases hi : i = 0x01C
  · rw [if_pos hi, if_pos hi, hi, landCsr_aflags]
  · rw [if_neg hi, if_neg hi]

end Alone

/-! ## What a CSRW leaves in its own CSR -/

/-- The CSRs that take all 64 bits (R222). -/
theorem coreCsr_landCsr_whole (x : Core) (v : Nat) : ∀ i ∈ [0x008, 0x014, 0x01A, 0x024, 0x025, 0x026, 0x027],
    coreCsr (landCsr x i v) i = BitVec.ofNat 64 v := by
  have hcount : ∀ n (h : n < 4), (x.ufcnt.setIfInBounds n (BitVec.ofNat 64 v))[n]?.getD 0 = BitVec.ofNat 64 v := fun n h => by
    simp [h]
  have hloop : coreCsr (landCsr x 0x008 v) 0x008 = BitVec.ofNat 64 v := by
    cases hs : x.shadow <;> simp [landCsr, coreCsr, hs]
  simp only [List.forall_mem_cons]
  exact ⟨hloop, rfl, rfl, hcount 0 (by decide), hcount 1 (by decide), hcount 2 (by decide), hcount 3 (by decide),
    List.forall_mem_nil _⟩

theorem bitsOf_ofNat_low (v : Nat) {n : Nat} (h : n < 64) : bitsOf (BitVec.ofNat 64 v) n 0 = v % 2 ^ (n + 1) := by
  rw [bitsOf, Nat.shiftRight_zero, BitVec.toNat_ofNat, Nat.sub_zero,
    Nat.mod_mod_of_dvd _ (Nat.pow_dvd_pow 2 (by omega : n + 1 ≤ 64))]

theorem coreCsr_landCsr_rbase (x : Core) (v : Nat) :
    coreCsr (landCsr x 0x006 v) 0x006 = BitVec.ofNat 64 (bitsOf (BitVec.ofNat 64 v) 3 0) := by
  rw [bitsOf_ofNat_low v (by decide)]
  cases hs : x.shadow <;> simp [landCsr, coreCsr, hs]

theorem coreCsr_landCsr_tpc (x : Core) (v : Nat) :
    coreCsr (landCsr x 0x011 v) 0x011 = BitVec.ofNat 64 (bitsOf (BitVec.ofNat 64 v) 55 0)
      ∧ (x.shadow.isSome = true → coreCsr (landCsr x 0x011 v) 0x007 = 0) := by
  rw [bitsOf_ofNat_low v (by decide)]
  cases hs : x.shadow <;> simp [landCsr, coreCsr, hs]

theorem coreCsr_landCsr_spdeadline (x : Core) (v : Nat) :
    coreCsr (landCsr x 0x021 v) 0x021 = BitVec.ofNat 64 (bitsOf (BitVec.ofNat 64 v) 31 0) := by
  rw [bitsOf_ofNat_low v (by decide)]
  rfl

theorem coreCsr_landCsr_wcoll (x : Core) (v : Nat) : coreCsr (landCsr x 0x01B v) 0x01B
    = BitVec.ofNat 64 (bitsOf (BitVec.ofNat 64 v) 63 32 * 2 ^ 32 + bitsOf (coreCsr x 0x01B) 31 0) := by
  cases hs : x.shadow <;> simp [landCsr, coreCsr, hs, writeWcoll]

/-- A 1 written to a flag clears it (R7). -/
theorem zeroExtend_clear (x : BitVec 6) (v : Nat) :
    (x &&& ~~~BitVec.ofNat 6 v).zeroExtend 64 = x.zeroExtend 64 &&& ~~~BitVec.ofNat 64 v := by
  refine BitVec.eq_of_getLsbD_eq fun i hi => ?_
  by_cases h : i < 6
  · simp only [BitVec.truncate_eq_setWidth, BitVec.getLsbD_setWidth, BitVec.getLsbD_and, BitVec.getLsbD_not,
      BitVec.getLsbD_ofNat, hi, h, decide_true, Bool.true_and]
  · simp [BitVec.getLsbD_of_ge x i (by omega)]

theorem coreCsr_clearTask (x : Core) (v : Nat) :
    coreCsr (clearTask (BitVec.ofNat 6 v) x) 0x01C = coreCsr x 0x01C &&& ~~~BitVec.ofNat 64 v := by
  cases hs : x.shadow with
  | none =>
    rw [clearTask_running _ hs]
    simp only [coreCsr, hs]
    exact zeroExtend_clear _ v
  | some h =>
    rw [clearTask_handler _ hs]
    simp only [coreCsr, hs]
    exact zeroExtend_clear _ v

/-! ## The CSRs that show other state -/

section Others
variable {s : State} {c : Nat} (hf : CsrFrame (coreOf s c) (coreOf (landNow s c) c))
include hf

theorem ctxOfCore_landNow : ctxOfCore (landNow s c) c = ctxOfCore s c := by rw [ctxOfCore, hf.task, ctxOfCore]

theorem gangPos_landNow : gangPos (landNow s c) c = gangPos s c := by
  have hgang : gangOf (landNow s c) c = gangOf s c := by
    rw [gangOf, hf.task, gangOf]
    rfl
  rw [gangPos, hgang, gangPos]

theorem gline_landNow (line : Nat) : gline (landNow s c) c line = gline s c line := by
  rw [gline, ctxOfCore_landNow hf, gline]
  rfl

theorem mwin_landNow (hk : ∀ k, clusterOf (landNow s c) k = clusterOf s k) : mwin (landNow s c) c = mwin s c := by
  have hq : ∀ d, (coreOf (landNow s c) d).arrayQ = (coreOf s d).arrayQ := fun d => by
    by_cases hd : d = c
    · rw [hd, hf.arrayQ]
    · rw [landNow, coreOf_modCluster, coreOf_setCore_other _ _ _ _ hd]
  have hbusy : bankBusy (landNow s c) (clusterOfCore c) = bankBusy s (clusterOfCore c) := by
    refine funext fun b => ?_
    simp only [bankBusy, bankOf, hk, hq]
  simp only [mwin, bankOf, hk, hq, hbusy, hf.swap]

theorem csrRead_landNow_other {j : Nat} (hj : j ∉ coreCsrs) (hm : j = 0x018 → mwin (landNow s c) c = mwin s c) :
    csrRead (landNow s c) c j = csrRead s c j := by
  unfold csrRead
  simp only [hf.task, hf.tcause, hf.taddr, hf.tdetail, hf.hard, hf.soft, hf.age, hf.replaycnt, gangPos_landNow hf, gline_landNow hf]
  split
  case h_16 => rw [hm rfl]
  case h_7 | h_8 | h_9 | h_10 | h_12 | h_15 | h_18 | h_19 | h_20 | h_22 | h_24 | h_25 | h_26 | h_27 => exact absurd (by decide) hj
  all_goals rfl

end Others

/-! ## The accumulator windows (R260) -/

theorem bovf_cleared (v : Vector Bank 4) (clear : Nat) {b : Nat} (hb : b < 4) :
    ((v.mapFinIdx fun j y _ => if clear.testBit j then { y with bovf := false } else y)[b]?.getD .fresh).bovf
      = ((v[b]?.getD .fresh).bovf && !clear.testBit b) := by
  rw [Vector.getElem?_eq_getElem hb, Vector.getElem?_eq_getElem hb, Option.getD_some, Option.getD_some, Vector.getElem_mapFinIdx]
  cases clear.testBit b with
  | true => rw [if_pos rfl, Bool.not_true, Bool.and_false]
  | false => rw [if_neg Bool.false_ne_true, Bool.not_false, Bool.and_true]

section Window
variable {s : State} {c b : Nat} {a : Flight} (hdue : dueNow (coreOf s c) (coreOf s c).issueCount = [a]) (hdst : a.dst = .csr 0x018)
include hdue hdst

theorem clusterOf_landNow_window :
    (clusterOf (landNow s c) (clusterOfCore c)).modePending
        = (if a.val % 8 ≤ 4 then some (a.val % 8) else (clusterOf s (clusterOfCore c)).modePending)
      ∧ (b < 4 → (bankOf (landNow s c) (clusterOfCore c) b).bovf
        = ((bankOf s (clusterOfCore c) b).bovf && !((a.val / 2 ^ 12) % 16).testBit b)) := by
  have hk : clusterOf (landNow s c) (clusterOfCore c) = landShared [a] (clusterOf s (clusterOfCore c)) := by
    rw [landNow, hdue, clusterOf_modCluster_same, clusterOf_setCore]
  simp only [bankOf, hk, landShared, List.foldl_cons, List.foldl_nil, hdst, if_true]
  refine ⟨by split <;> rfl, fun hb => ?_⟩
  split
  · exact bovf_cleared _ _ hb
  · exact bovf_cleared _ _ hb

end Window

theorem testBit_field {v b : Nat} (hb : b < 4) : ((v / 2 ^ 12) % 16).testBit b = bitOf (BitVec.ofNat 64 v) (12 + b) := by
  rw [show (16 : Nat) = 2 ^ 4 from rfl, Nat.testBit_mod_two_pow, decide_eq_true hb, Bool.true_and, Nat.testBit_div_two_pow, bitOf,
    BitVec.toNat_ofNat, Nat.testBit_mod_two_pow, decide_eq_true (by omega), Bool.true_and, Nat.add_comm]

/-! ## The landing of a CSRW alone -/

/-- The CSRs that a CSRW changes on its core (R222). -/
def writableCsrs : List Nat := [0x006, 0x008, 0x011, 0x014, 0x018, 0x01A, 0x01B, 0x01C, 0x021, 0x024, 0x025, 0x026, 0x027]

theorem csrLanded_readOnly {i : Nat} (h : i ∉ writableCsrs) (v : Nat) (x : Core) : csrLanded i v x = x := by
  have hne : i ≠ 0x01C := fun e => h (e ▸ by decide)
  rw [csrLanded, if_neg hne]
  unfold landCsr
  split
  case h_16 => rfl
  all_goals exact absurd (by decide) h

theorem coreCsr_csrLanded_other {x : Core} {i j : Nat} (v : Nat) (hj : j ≠ i) (htpc : i = 0x011 → j = 0x007 → x.shadow = none) :
    coreCsr (csrLanded i v x) j = coreCsr x j := by
  unfold csrLanded
  split
  next hi => exact coreCsr_clearTask_other _ (hi ▸ hj)
  next hi => exact coreCsr_landCsr_other v hj htpc

section Alone
variable {s : State} {c i : Nat} {a : Flight} (hdue : dueNow (coreOf s c) (coreOf s c).issueCount = [a]) (hdst : a.dst = .csr i)
  (hflags : a.flags = 0)
include hdue hdst hflags

theorem landNow_csrFrame : CsrFrame (coreOf s c) (coreOf (landNow s c) c) := by
  rw [coreOf_landNow_csr hdue hdst hflags]
  exact csrFrame_trans (withoutDue_csrFrame _) (csrLanded_csrFrame _ _ _)

theorem csrRead_landNow_core {j : Nat} (hj : j ∈ coreCsrs) :
    csrRead (landNow s c) c j = coreCsr (csrLanded i a.val (withoutDue (coreOf s c))) j := by
  rw [csrRead_coreCsr _ _ j hj, coreOf_landNow_csr hdue hdst hflags]

/-- No other CSR changes. -/
theorem csrRead_landNow_ne {j : Nat} (hj : j ≠ i) (htpc : i = 0x011 → j = 0x007 → (coreOf s c).shadow = none) :
    csrRead (landNow s c) c j = csrRead s c j := by
  by_cases hcore : j ∈ coreCsrs
  · rw [csrRead_landNow_core hdue hdst hflags hcore, csrRead_coreCsr _ _ j hcore, ← coreCsr_withoutDue]
    exact coreCsr_csrLanded_other _ hj htpc
  · exact csrRead_landNow_other (landNow_csrFrame hdue hdst hflags) hcore fun h =>
      mwin_landNow (landNow_csrFrame hdue hdst hflags) (clusterOf_landNow hdue hdst fun e => hj (h.trans e.symm))

theorem csrRead_landNow_readOnly (hi : i ∉ writableCsrs) (j : Nat) : csrRead (landNow s c) c j = csrRead s c j := by
  by_cases hcore : j ∈ coreCsrs
  · rw [csrRead_landNow_core hdue hdst hflags hcore, csrRead_coreCsr _ _ j hcore, csrLanded_readOnly hi, coreCsr_withoutDue]
  · exact csrRead_landNow_other (landNow_csrFrame hdue hdst hflags) hcore fun h =>
      mwin_landNow (landNow_csrFrame hdue hdst hflags) (clusterOf_landNow hdue hdst fun e => hi (e ▸ by decide))

/-- A CSR of the core but AFLAGS is read as the CSRW leaves it. -/
theorem csrRead_landNow_written {j : Nat} (hj : j ∈ coreCsrs) (hi : i ≠ 0x01C) :
    csrRead (landNow s c) c j = coreCsr (landCsr (withoutDue (coreOf s c)) i a.val) j := by
  rw [csrRead_landNow_core hdue hdst hflags hj, csrLanded, if_neg hi]

end Alone

theorem wholeCsrs_core : ∀ i ∈ [0x008, 0x014, 0x01A, 0x024, 0x025, 0x026, 0x027], i ∈ coreCsrs ∧ i ≠ 0x01C := by decide

/-- Settles O12: the accesses enter the window, a CSRW that lands alone leaves its CSR by its access code, and the flags of a
cycle are cleared first and then set. -/
theorem csrAccessCompletes : Obligations.CsrAccessCompletes := by
  refine ⟨fun f s => ⟨fun hi => exec_of_ok rfl hi rfl, fun hi => exec_of_ok rfl hi rfl⟩, ?_, ?_⟩
  · intro s c i a x k t v r w hdue hdst hflags
    have hwrite {j : Nat} := csrRead_landNow_written (j := j) hdue hdst hflags
    refine ⟨fun hi => ?_, fun hi => ?_, fun hi => ?_, fun hi => ?_, fun hi => ?_, fun hi => ?_, fun hi => ?_,
      csrRead_landNow_readOnly hdue hdst hflags, fun j => csrRead_landNow_ne hdue hdst hflags⟩
    · obtain ⟨hcore, hne⟩ := wholeCsrs_core i hi
      exact (hwrite hcore hne).trans (coreCsr_landCsr_whole _ _ i hi)
    all_goals subst hi
    · exact (hwrite (by decide) (by decide)).trans (coreCsr_landCsr_rbase _ _)
    · obtain ⟨htpc, hrep⟩ := coreCsr_landCsr_tpc (withoutDue x) a.val
      exact ⟨(hwrite (by decide) (by decide)).trans htpc, fun h => (hwrite (by decide) (by decide)).trans (hrep h)⟩
    · exact (hwrite (by decide) (by decide)).trans (coreCsr_landCsr_spdeadline _ _)
    · exact (hwrite (by decide) (by decide)).trans (coreCsr_landCsr_wcoll _ _)
    · exact (csrRead_landNow_core hdue hdst hflags (by decide)).trans (coreCsr_clearTask (withoutDue x) a.val)
    · obtain ⟨hmode, -⟩ := clusterOf_landNow_window (b := 0) hdue hdst
      refine ⟨fun b hb => ?_, ?_⟩
      · rw [← testBit_field hb]
        exact (clusterOf_landNow_window hdue hdst).2 hb
      · rw [bitsOf_ofNat_low a.val (by decide)]
        exact hmode
  · intro s c x y fs set clear
    have hclear : clear = clearsIn fs := clearsIn_eq fs
    refine ⟨fun h => ?_, fun h hs => ?_⟩
    · rw [hclear]
      exact landNow_flags_running h
    · rw [hclear]
      exact landNow_flags_handler hs

end Sys2Proof.Proofs
end

section
/-!
PROOFS. Headers read back, and words that decode refuses (O3).
-/
namespace Sys2Proof.Proofs
open Machine Laws

/-! ## Words from their adjacent fields -/

/-- Two adjacent fields of a word, side by side. -/
theorem append_fields {n : Nat} (w : BitVec n) {s t l m : Nat} (h : t = s + l) :
    w.extractLsb' t m ++ w.extractLsb' s l = w.extractLsb' s (m + l) := by
  subst h
  refine BitVec.eq_of_getLsbD_eq fun i hi => ?_
  by_cases hl : i < l
  · rw [bit_low _ _ _ hl, BitVec.getLsbD_extractLsb', BitVec.getLsbD_extractLsb', decide_eq_true hl, decide_eq_true hi]
  · have hm : i - l < m := by omega
    have hs : s + l + (i - l) = s + i := by omega
    rw [bit_high _ _ _ (by omega), BitVec.getLsbD_extractLsb', BitVec.getLsbD_extractLsb', decide_eq_true hm, decide_eq_true hi, hs]

theorem ofBool_bit {n : Nat} (w : BitVec n) (i : Nat) : BitVec.ofBool (w.getLsbD i) = w.extractLsb' i 1 := by
  refine BitVec.eq_of_getLsbD_eq fun j hj => ?_
  obtain rfl : j = 0 := by omega
  rw [bit_ofBool, BitVec.getLsbD_extractLsb', decide_eq_true hj, Bool.true_and, Nat.add_zero]

theorem encodeHeader_header (w : BitVec 32) : encodeHeader (header w) = w := by
  simp (disch := omega) only [encodeHeader, header, ofBool_bit, append_fields]
  exact extract_all w

theorem header_encodeHeader (h : Header) : header (encodeHeader h) = h := by
  obtain ⟨len, cls, q, rot, sp, rep, pop, pres⟩ := h
  simp (disch := decide) only [header, encodeHeader, extract_high, extract_low, extract_all, bit_high, bit_low]
  simp only [Nat.reduceSub, extract_all, bit_ofBool]

/-! ## A word from its opcode and the fields of its form -/

theorem eq_of_toNat {n : Nat} {x y : BitVec n} (h : x.toNat = y.toNat) : y = x := (BitVec.eq_of_toNat_eq h).symm

section S
variable {w : BitVec 32} {op : BitVec 7} (h : (w.extractLsb' 25 7).toNat = op.toNat)
include h

theorem ofRR_rr : ofRR op (rr w) = w := by
  rw [eq_of_toNat h]
  simp (disch := omega) only [ofRR, rr, sGuard, ofBool_bit, append_fields]
  exact extract_all w

theorem ofRI_ri : ofRI op (ri w) = w := by
  rw [eq_of_toNat h]
  simp (disch := omega) only [ofRI, ri, sGuard, ofBool_bit, append_fields]
  exact extract_all w

theorem ofI16_i16 : ofI16 op (i16 w) = w := by
  rw [eq_of_toNat h]
  simp (disch := omega) only [ofI16, i16, sGuard, ofBool_bit, append_fields]
  exact extract_all w

theorem ofD21_d21 : ofD21 op (d21 w) = w := by
  rw [eq_of_toNat h]
  simp (disch := omega) only [ofD21, d21, sGuard, ofBool_bit, append_fields]
  exact extract_all w

theorem ofC12_c12 : ofC12 op (c12 w) = w := by
  rw [eq_of_toNat h]
  simp (disch := omega) only [ofC12, c12, sGuard, ofBool_bit, append_fields]
  exact extract_all w

theorem ofBare_sGuard (hz : w.extractLsb' 0 21 = 0#21) : ofBare op (sGuard w) = w := by
  rw [eq_of_toNat h, ofBare, ← hz]
  simp (disch := omega) only [sGuard, ofBool_bit, append_fields]
  exact extract_all w

end S

theorem ofVF_vf {w : BitVec 64} {op : BitVec 8} (h : (w.extractLsb' 56 8).toNat = op.toNat) : ofVF op (vf w) = w := by
  rw [eq_of_toNat h]
  simp (disch := omega) only [ofVF, vf, ofBool_bit, append_fields]
  exact extract_all w

theorem ofMF_mf {w : BitVec 64} {op : BitVec 6} (h : (w.extractLsb' 58 6).toNat = op.toNat) : ofMF op (mf w) = w := by
  rw [eq_of_toNat h]
  simp (disch := omega) only [ofMF, mf, ofBool_bit, append_fields]
  exact extract_all w

theorem ofKF_kf {w : BitVec 32} {op : BitVec 5} (h : (w.extractLsb' 27 5).toNat = op.toNat) : ofKF op (kf w) = w := by
  rw [eq_of_toNat h]
  simp (disch := omega) only [ofKF, kf, ofBool_bit, append_fields]
  exact extract_all w

theorem ofCF_cf {w : BitVec 64} {op : BitVec 6} (h : (w.extractLsb' 58 6).toNat = op.toNat) : ofCF op (cf w) = w := by
  rw [eq_of_toNat h]
  simp (disch := omega) only [ofCF, cf, ofBool_bit, append_fields]
  exact extract_all w

/-- A word whose opcode and whose other bits are 0. -/
theorem eq_zero_of_fields {n s l : Nat} (hn : n = l + s) {w : BitVec n} (hop : (w.extractLsb' s l).toNat = 0)
    (hz : w.extractLsb' 0 s = 0) : w = 0 := by
  subst hn
  have hw : w.extractLsb' s l ++ w.extractLsb' 0 s = w :=
    (append_fields w (Nat.zero_add s).symm).trans (extract_all w)
  have hop0 : w.extractLsb' s l = 0#l := BitVec.eq_of_toNat_eq (by simpa using hop)
  rw [← hw, hz, hop0]
  exact BitVec.zero_append_zero

/-! ## An accepted word is the encoding of its operation (R189) -/

/-- An accepted word has an assigned opcode and passes its field check. -/
theorem checked_ok_iff {r : Except DecodeErr Instr} {i : Instr} : checked r = .ok i ↔ r = .ok i ∧ i.wellFormed = true := by
  cases r with
  | error e => simp [checked]
  | ok j =>
    rw [checked]
    split
    next hw =>
      constructor
      · rintro h
        obtain rfl := Except.ok.inj h
        exact ⟨rfl, hw⟩
      · exact fun h => h.1
    next hw =>
      constructor
      · intro h
        cases h
      · rintro ⟨h, hi⟩
        obtain rfl := Except.ok.inj h
        exact absurd hi hw

theorem ok_of_ite {p : Prop} [Decidable p] {a b : Instr} {e : DecodeErr} (h : (if p then Except.ok a else .error e) = .ok b) :
    p ∧ a = b := by
  split at h
  next hp => exact ⟨hp, Except.ok.inj h⟩
  next => cases h

theorem encode_of_pmovForm {w : BitVec 32} {i : Instr} (hop : (w.extractLsb' 25 7).toNat = 0x2A) (h : pmovForm w = .ok i) :
    encode i = .w32 w := by
  unfold pmovForm at h
  split at h
  case h_4 => cases h
  all_goals
    obtain rfl := Except.ok.inj h
    exact congrArg Code.w32 (ofRR_rr (op := 0x2A) hop)

theorem encode_of_bare {w : BitVec 32} {op : BitVec 7} {i j : Instr} (hop : (w.extractLsb' 25 7).toNat = op.toNat)
    (h : bare w j = .ok i) (hj : encode j = .w32 (ofBare op (sGuard w))) : encode i = .w32 w := by
  obtain ⟨hz, rfl⟩ := ok_of_ite h
  rw [hj, ofBare_sGuard hop hz]

theorem encode_of_sOp {w : BitVec 32} {i : Instr} (h : sOp w = .ok i) : encode i = .w32 w := by
  unfold sOp at h
  split at h
  case h_1 hop =>
    obtain ⟨hz, rfl⟩ := ok_of_ite h
    exact congrArg Code.w32 (eq_zero_of_fields rfl hop hz).symm
  case h_42 hop => exact encode_of_pmovForm hop h
  case h_46 hop => exact encode_of_bare (op := 0x33) hop h rfl
  case h_49 hop => exact encode_of_bare (op := 0x36) hop h rfl
  case h_50 hop => exact encode_of_bare (op := 0x37) hop h rfl
  case h_76 hop => exact encode_of_bare (op := 0x65) hop h rfl
  case h_66 hop =>
    obtain rfl := Except.ok.inj h
    split
    all_goals exact congrArg Code.w32 (ofRR_rr (op := 0x5A) hop)
  case h_79 hop =>
    obtain rfl := Except.ok.inj h
    split
    all_goals exact congrArg Code.w32 (ofRR_rr (op := 0x69) hop)
  case h_91 => cases h
  all_goals
    rename_i hop
    obtain rfl := Except.ok.inj h
  case h_25 | h_26 | h_27 | h_28 | h_29 | h_30 | h_31 | h_37 | h_48 => exact congrArg Code.w32 (ofRI_ri hop)
  case h_32 | h_33 | h_34 | h_35 | h_88 | h_90 => exact congrArg Code.w32 (ofI16_i16 hop)
  case h_43 | h_45 | h_47 => exact congrArg Code.w32 (ofD21_d21 hop)
  case h_86 | h_87 => exact congrArg Code.w32 (ofC12_c12 hop)
  all_goals exact congrArg Code.w32 (ofRR_rr hop)

theorem encode_of_vOp {x : VSlot} {w : BitVec 64} {i : Instr} (h : vOp x w = .ok i) : encode i = .w64 w := by
  unfold vOp at h
  split at h
  case h_1 hop =>
    obtain ⟨hz, rfl⟩ := ok_of_ite h
    exact congrArg Code.w64 (eq_zero_of_fields rfl hop hz).symm
  case h_65 => cases h
  all_goals
    rename_i hop
    obtain rfl := Except.ok.inj h
    exact congrArg Code.w64 (ofVF_vf hop)

theorem encode_of_mOp {w : BitVec 64} {i : Instr} (h : mOp w = .ok i) : encode i = .w64 w := by
  unfold mOp at h
  split at h
  case h_1 hop =>
    obtain ⟨hz, rfl⟩ := ok_of_ite h
    exact congrArg Code.w64 (eq_zero_of_fields rfl hop hz).symm
  case h_13 => cases h
  all_goals
    rename_i hop
    obtain rfl := Except.ok.inj h
    exact congrArg Code.w64 (ofMF_mf hop)

theorem encode_of_kOp {w : BitVec 32} {i : Instr} (h : kOp w = .ok i) : encode i = .w32 w := by
  unfold kOp at h
  split at h
  case h_1 hop =>
    obtain ⟨hz, rfl⟩ := ok_of_ite h
    exact congrArg Code.w32 (eq_zero_of_fields rfl hop hz).symm
  case h_13 => cases h
  all_goals
    rename_i hop
    obtain rfl := Except.ok.inj h
    exact congrArg Code.w32 (ofKF_kf hop)

theorem encode_of_cOp {x : CSlot} {w : BitVec 64} {i : Instr} (h : cOp x w = .ok i) : encode i = .w64 w := by
  unfold cOp at h
  split at h
  case h_1 hop =>
    obtain ⟨hz, rfl⟩ := ok_of_ite h
    exact congrArg Code.w64 (eq_zero_of_fields rfl hop hz).symm
  case h_18 => cases h
  all_goals
    rename_i hop
    obtain rfl := Except.ok.inj h
    exact congrArg Code.w64 (ofCF_cf hop)

/-! ## Unassigned opcodes (R183 to R188) -/

theorem checked_error {r : Except DecodeErr Instr} {e : DecodeErr} (h : r = .error e) : checked r = .error e := by
  rw [h, checked]

theorem decodeS_unassigned {w : BitVec 32} (h : (w.extractLsb' 25 7).toNat ∈ [0x23, 0x2B, 0x2C, 0x2D, 0x2E, 0x2F, 0x38, 0x39, 0x3A,
    0x3B, 0x3C, 0x3D, 0x3E, 0x3F, 0x47, 0x48, 0x49, 0x4A, 0x4B, 0x4C, 0x4D, 0x4E, 0x4F, 0x56, 0x57, 0x5B, 0x67, 0x6E, 0x6F, 0x72,
    0x73, 0x74, 0x75, 0x76, 0x77, 0x7D, 0x7E, 0x7F]) : decodeS w = .error .unassigned := by
  refine checked_error ?_
  unfold sOp
  split
  case h_91 => rfl
  all_goals
    rename_i hop
    rw [hop] at h
    exact absurd h (by decide)

theorem decodeV_unassigned (x : VSlot) {w : BitVec 64} {op : Nat} (hop : (w.extractLsb' 56 8).toNat = op)
    (h : op = 0x0F ∨ 0x19 ≤ op ∧ op ≤ 0x1F ∨ 0x27 ≤ op ∧ op ≤ 0x2F ∨ 0x36 ≤ op ∧ op ≤ 0x3F ∨ 0x48 ≤ op ∧ op ≤ 0x4F
      ∨ 0x53 ≤ op ∧ op ≤ 0x5F ∨ 0x69 ≤ op ∧ op ≤ 0x6F ∨ 0x77 ≤ op) :
    decodeV x w = .error .unassigned := by
  refine checked_error ?_
  unfold vOp
  split
  case h_65 => rfl
  all_goals omega

theorem decodeM_unassigned {w : BitVec 64} (h : 0x0C ≤ (w.extractLsb' 58 6).toNat) :
    decodeM w = .error .unassigned := by
  refine checked_error ?_
  unfold mOp
  split
  case h_13 => rfl
  all_goals omega

theorem decodeK_unassigned {w : BitVec 32} (h : (w.extractLsb' 27 5).toNat = 6 ∨ 0x0D ≤ (w.extractLsb' 27 5).toNat) :
    decodeK w = .error .unassigned := by
  refine checked_error ?_
  unfold kOp
  split
  case h_13 => rfl
  all_goals omega

theorem decodeC_unassigned (x : CSlot) {w : BitVec 64} (h : 0x11 ≤ (w.extractLsb' 58 6).toNat) :
    decodeC x w = .error .unassigned := by
  refine checked_error ?_
  unfold cOp
  split
  case h_18 => rfl
  all_goals omega

/-! ## Reserved and unused fields are zero (R6) -/

/-- A field that a two-source operation does not use (R197). -/
theorem fn_of_rrUses {f : SRR} {d a b : Bool} (h : rrUses f d a b 1 = true) : f.fn = 0 := by
  simp only [rrUses, Bool.and_eq_true, decide_eq_true_eq] at h
  obtain ⟨-, hfn⟩ := h
  exact BitVec.eq_of_toNat_eq (Nat.lt_one_iff.mp hfn)

theorem bare_zero {w : BitVec 32} {i j : Instr} (h : bare w j = .ok i) : w.extractLsb' 0 21 = 0 := (ok_of_ite h).1

section Accepted
variable {w : BitVec 32} {i : Instr} (h : sOp w = .ok i)
include h

theorem sOp_nop_zero (hop : (w.extractLsb' 25 7).toNat = 0) : w = 0 := by
  simp only [sOp, hop] at h
  exact eq_zero_of_fields rfl hop (ok_of_ite h).1

theorem sOp_bare_zero (hop : (w.extractLsb' 25 7).toNat ∈ [0x33, 0x36, 0x37, 0x65]) : w.extractLsb' 0 21 = 0 := by
  simp only [List.mem_cons, List.not_mem_nil, or_false] at hop
  rcases hop with hop | hop | hop | hop
  all_goals
    simp only [sOp, hop] at h
    exact bare_zero h

theorem sOp_fn_zero (hwf : i.wellFormed = true) (hlo : 1 ≤ (w.extractLsb' 25 7).toNat) (hhi : (w.extractLsb' 25 7).toNat ≤ 0x15) :
    w.extractLsb' 0 6 = 0 := by
  unfold sOp at h
  split at h
  case h_2 | h_3 | h_4 | h_5 | h_6 | h_7 | h_8 | h_9 | h_10 | h_11 | h_12 | h_13 | h_14 | h_15 | h_16 | h_17 | h_18 | h_19 |
      h_20 | h_21 | h_22 =>
    obtain rfl := Except.ok.inj h
    exact fn_of_rrUses hwf
  case h_91 => cases h
  all_goals omega

end Accepted

theorem mOp_nop_zero {w : BitVec 64} {i : Instr} (h : mOp w = .ok i) (hop : (w.extractLsb' 58 6).toNat = 0) : w = 0 := by
  simp only [mOp, hop] at h
  exact eq_zero_of_fields rfl hop (ok_of_ite h).1

theorem kOp_nop_zero {w : BitVec 32} {i : Instr} (h : kOp w = .ok i) (hop : (w.extractLsb' 27 5).toNat = 0) : w = 0 := by
  simp only [kOp, hop] at h
  exact eq_zero_of_fields rfl hop (ok_of_ite h).1

theorem cOp_nop_zero {x : CSlot} {w : BitVec 64} {i : Instr} (h : cOp x w = .ok i) (hop : (w.extractLsb' 58 6).toNat = 0) : w = 0 := by
  simp only [cOp, hop] at h
  exact eq_zero_of_fields rfl hop (ok_of_ite h).1

/-! ## The fields of a vector word (R179) -/

/-- The fields of a vector operation with values that no operation takes (R179, R230). -/
structure VFieldsOk (f : VF) : Prop where
  width : f.width.toNat < 3
  rm : f.rm.toNat < 7
  hsub : f.hsub.toNat < 4
  head : f.hsub.toNat = 0 → f.head.toNat = 0

section Vector
variable {f : VF}

theorem hsub_of_hsubOk {a b c : Use} (h : hsubOk f a b c = true) : f.hsub.toNat < 4 ∧ (f.hsub.toNat = 0 → f.head.toNat = 0) := by
  unfold hsubOk at h
  split at h
  case h_1 hs => exact ⟨by omega, fun _ => of_decide_eq_true h⟩
  case h_5 => cases h
  all_goals exact ⟨by omega, fun h0 => by omega⟩

theorem vFieldsOk_of {d a b c : Use} (h : vRegsOk f d a b c = true) (hm : f.rm.toNat < 7) : VFieldsOk f := by
  simp only [vRegsOk, Bool.and_eq_true, decide_eq_true_eq] at h
  obtain ⟨⟨⟨⟨⟨hw, -⟩, -⟩, -⟩, -⟩, hs⟩ := h
  obtain ⟨hsub, hhead⟩ := hsub_of_hsubOk hs
  exact ⟨hw, hm, hsub, hhead⟩

theorem vFieldsOk_of_zero {d a b c : Use} (h : vRegsOk f d a b c = true) (hm : f.rm.toNat = 0) : VFieldsOk f :=
  vFieldsOk_of h (by omega)

theorem rm_of_rmOk {sr floating : Bool} {n : Nat} (h : rmOk f sr floating n = true) : f.rm.toNat < 7 := by
  rw [rmOk] at h
  split at h
  · rw [Bool.and_eq_true, decide_eq_true_eq] at h
    omega
  · have := of_decide_eq_true h
    omega

theorem vFieldsOk_of_rmOk {d a b c : Use} {sr floating : Bool} {n : Nat} (h : vRegsOk f d a b c = true)
    (hm : rmOk f sr floating n = true) : VFieldsOk f := vFieldsOk_of h (rm_of_rmOk hm)

theorem vArith_fields {c : Use} (h : vArith f c = true) : VFieldsOk f := by
  simp only [vArith, Bool.and_eq_true, decide_eq_true_eq] at h
  obtain ⟨⟨⟨⟨hr, -⟩, -⟩, -⟩, hm⟩ := h
  exact vFieldsOk_of_rmOk hr hm

theorem vPlain_fields {b : Use} {p : Fmt → Bool} (h : vPlain f b p = true) : VFieldsOk f := by
  simp only [vPlain, Bool.and_eq_true, decide_eq_true_eq] at h
  obtain ⟨⟨⟨⟨hr, -⟩, -⟩, -⟩, hm⟩ := h
  exact vFieldsOk_of_zero hr hm

theorem vdivLegal_fields (h : vdivLegal f = true) : VFieldsOk f := by
  simp only [vdivLegal, Bool.and_eq_true, decide_eq_true_eq] at h
  obtain ⟨⟨⟨⟨hr, -⟩, -⟩, -⟩, hm⟩ := h
  exact vFieldsOk_of_rmOk hr hm

theorem vShiftLegal_fields (h : vShiftLegal f = true) : VFieldsOk f := by
  simp only [vShiftLegal, Bool.and_eq_true, decide_eq_true_eq] at h
  obtain ⟨⟨⟨⟨hr, -⟩, -⟩, hm⟩, -⟩ := h
  exact vFieldsOk_of_zero hr hm

theorem vcmpLegal_fields (h : vcmpLegal f = true) : VFieldsOk f := by
  simp only [vcmpLegal, Bool.and_eq_true, decide_eq_true_eq] at h
  obtain ⟨⟨⟨⟨⟨hr, -⟩, -⟩, hm⟩, -⟩, -⟩ := h
  exact vFieldsOk_of_zero hr hm

theorem vselLegal_fields (h : vselLegal f = true) : VFieldsOk f := by
  simp only [vselLegal, Bool.and_eq_true, decide_eq_true_eq] at h
  obtain ⟨hp, -⟩ := h
  exact vPlain_fields hp

theorem vMaskLegal_fields {b : Use} {n : Nat} (h : vMaskLegal f b n = true) : VFieldsOk f := by
  simp only [vMaskLegal, Bool.and_eq_true, decide_eq_true_eq] at h
  obtain ⟨⟨⟨⟨⟨hr, -⟩, -⟩, hm⟩, -⟩, -⟩ := h
  exact vFieldsOk_of_zero hr hm

theorem vmcntLegal_fields (h : vmcntLegal f = true) : VFieldsOk f := by
  simp only [vmcntLegal, Bool.and_eq_true, decide_eq_true_eq] at h
  obtain ⟨⟨⟨⟨⟨hr, -⟩, -⟩, hm⟩, -⟩, -⟩ := h
  split at hr
  · exact vFieldsOk_of_zero hr hm
  · exact vFieldsOk_of_zero hr hm

theorem vcvtLegal_fields (h : vcvtLegal f = true) : VFieldsOk f := by
  simp only [vcvtLegal, Bool.and_eq_true, decide_eq_true_eq] at h
  obtain ⟨⟨⟨⟨⟨⟨hr, -⟩, -⟩, -⟩, -⟩, -⟩, hm⟩ := h
  exact vFieldsOk_of_rmOk hr hm

theorem vqntLegal_fields (h : vqntLegal f = true) : VFieldsOk f := by
  simp only [vqntLegal, Bool.and_eq_true, decide_eq_true_eq, vBlockLegal] at h
  obtain ⟨⟨⟨-, -⟩, ⟨⟨⟨hr, -⟩, -⟩, -⟩⟩, hm⟩ := h
  exact vFieldsOk_of_rmOk hr hm

theorem vdqnLegal_fields (h : vdqnLegal f = true) : VFieldsOk f := by
  simp only [vdqnLegal, Bool.and_eq_true, decide_eq_true_eq, vBlockLegal] at h
  obtain ⟨⟨⟨⟨-, -⟩, ⟨⟨⟨hr, -⟩, -⟩, -⟩⟩, hm⟩, -⟩ := h
  exact vFieldsOk_of_zero hr hm

theorem vcbLegal_fields {p q : Fmt → Bool} {anyRm : Bool} (h : vcbLegal f p q anyRm = true) : VFieldsOk f := by
  simp only [vcbLegal, Bool.and_eq_true] at h
  obtain ⟨⟨⟨⟨⟨hr, -⟩, -⟩, -⟩, -⟩, hm⟩ := h
  split at hm
  · exact vFieldsOk_of hr (of_decide_eq_true hm)
  · exact vFieldsOk_of_zero hr (of_decide_eq_true hm)

theorem vamaxLegal_fields (h : vamaxLegal f = true) : VFieldsOk f := by
  simp only [vamaxLegal, Bool.and_eq_true, decide_eq_true_eq] at h
  obtain ⟨⟨⟨⟨hr, -⟩, -⟩, hm⟩, -⟩ := h
  exact vFieldsOk_of_zero hr hm

theorem vMoveLegal_fields {b c : Use} (h : vMoveLegal f b c = true) : VFieldsOk f := by
  simp only [vMoveLegal, Bool.and_eq_true, decide_eq_true_eq] at h
  obtain ⟨⟨⟨⟨hr, -⟩, -⟩, hm⟩, -⟩ := h
  exact vFieldsOk_of_zero hr hm

theorem vbcstLegal_fields (h : vbcstLegal f = true) : VFieldsOk f := by
  simp only [vbcstLegal, Bool.and_eq_true, decide_eq_true_eq] at h
  obtain ⟨⟨-, hm⟩, hr⟩ := h
  split at hr
  · simp only [Bool.and_eq_true] at hr
    exact vFieldsOk_of_zero hr.1.1 hm
  · simp only [Bool.and_eq_true] at hr
    exact vFieldsOk_of_zero hr.1.1.1 hm

theorem viotaLegal_fields (h : viotaLegal f = true) : VFieldsOk f := by
  simp only [viotaLegal, Bool.and_eq_true, decide_eq_true_eq] at h
  obtain ⟨⟨⟨hr, -⟩, -⟩, hm⟩ := h
  exact vFieldsOk_of_zero hr hm

theorem vshflLegal_fields (h : vshflLegal f = true) : VFieldsOk f := by
  simp only [vshflLegal, Bool.and_eq_true, decide_eq_true_eq] at h
  obtain ⟨⟨⟨⟨⟨hr, -⟩, -⟩, hm⟩, -⟩, -⟩ := h
  exact vFieldsOk_of_zero hr hm

theorem vredLegal_fields (h : vredLegal f = true) : VFieldsOk f := by
  simp only [vredLegal, Bool.and_eq_true] at h
  obtain ⟨⟨⟨hr, -⟩, -⟩, hm⟩ := h
  split at hm
  · simp only [Bool.and_eq_true] at hm
    obtain ⟨⟨-, hrm⟩, -⟩ := hm
    exact vFieldsOk_of_rmOk hr hrm
  · cases hm

theorem vscanLegal_fields (h : vscanLegal f = true) : VFieldsOk f := by
  simp only [vscanLegal, Bool.and_eq_true] at h
  obtain ⟨⟨⟨⟨⟨hr, -⟩, -⟩, -⟩, hm⟩, -⟩ := h
  unfold fmtIs at hm
  split at hm
  · rw [Bool.and_eq_true] at hm
    exact vFieldsOk_of_rmOk hr hm.2
  · cases hm

theorem vdotLegal_fields (h : vdotLegal f = true) : VFieldsOk f := by
  simp only [vdotLegal, Bool.and_eq_true, decide_eq_true_eq] at h
  obtain ⟨⟨⟨⟨⟨⟨hr, -⟩, -⟩, -⟩, -⟩, -⟩, hm⟩ := h
  exact vFieldsOk_of_rmOk hr hm

theorem vsfLegal_fields {f64 : Bool} (h : vsfLegal f f64 = true) : VFieldsOk f := by
  simp only [vsfLegal, Bool.and_eq_true, decide_eq_true_eq] at h
  obtain ⟨⟨⟨⟨hr, -⟩, -⟩, hm⟩, -⟩ := h
  exact vFieldsOk_of_zero hr hm

theorem vldLegal_fields {d a : Use} (h : vldLegal f d a = true) : VFieldsOk f := by
  simp only [vldLegal, Bool.and_eq_true, decide_eq_true_eq] at h
  obtain ⟨⟨⟨⟨hr, -⟩, -⟩, hm⟩, -⟩ := h
  exact vFieldsOk_of_zero hr hm

theorem vgthLegal_fields {d a : Use} (h : vgthLegal f d a = true) : VFieldsOk f := by
  simp only [vgthLegal, Bool.and_eq_true, decide_eq_true_eq] at h
  obtain ⟨⟨⟨⟨⟨hr, -⟩, -⟩, hm⟩, -⟩, -⟩ := h
  exact vFieldsOk_of_zero hr hm

theorem vaccLegal_fields (h : vaccLegal f = true) : VFieldsOk f := by
  simp only [vaccLegal, Bool.and_eq_true, decide_eq_true_eq] at h
  obtain ⟨⟨⟨⟨hr, -⟩, -⟩, hm⟩, -⟩ := h
  exact vFieldsOk_of_zero hr hm

theorem vamoLegal_fields (h : vamoLegal f = true) : VFieldsOk f := by
  simp only [vamoLegal, Bool.and_eq_true] at h
  obtain ⟨⟨⟨⟨hr, -⟩, -⟩, -⟩, hm⟩ := h
  split at hm
  · rw [Bool.and_eq_true] at hm
    exact vFieldsOk_of_rmOk hr hm.2
  · rw [Bool.and_eq_true] at hm
    exact vFieldsOk_of_zero hr (of_decide_eq_true hm.1)

theorem vappLegal_fields (h : vappLegal f = true) : VFieldsOk f := by
  simp only [vappLegal, Bool.and_eq_true, decide_eq_true_eq] at h
  obtain ⟨⟨⟨⟨hr, -⟩, -⟩, hm⟩, -⟩ := h
  exact vFieldsOk_of_zero hr hm

end Vector

/-- Every vector operation but VNOP checks its width, its rounding and its head. -/
theorem vOp_fields {x : VSlot} {w : BitVec 64} {i : Instr} (h : vOp x w = .ok i) (hwf : i.wellFormed = true) :
    ((w.extractLsb' 56 8).toNat = 0 → w = 0) ∧ ((w.extractLsb' 56 8).toNat ≠ 0 → VFieldsOk (vf w)) := by
  refine ⟨fun hop => ?_, fun hne => ?_⟩
  · simp only [vOp, hop] at h
    exact eq_zero_of_fields rfl hop (ok_of_ite h).1
  unfold vOp at h
  split at h
  case h_1 hop => exact absurd hop hne
  case h_65 => cases h
  all_goals obtain rfl := Except.ok.inj h
  case h_43 | h_44 => exact vMoveLegal_fields ((Bool.and_eq_true _ _).mp hwf).1
  case h_2 | h_3 | h_4 | h_5 | h_6 | h_7 => exact vArith_fields hwf
  case h_8 | h_9 | h_10 | h_11 | h_13 | h_14 | h_15 | h_16 | h_17 | h_18 | h_19 | h_23 | h_24 => exact vPlain_fields hwf
  case h_12 => exact vdivLegal_fields hwf
  case h_20 | h_21 | h_22 => exact vShiftLegal_fields hwf
  case h_25 => exact vcmpLegal_fields hwf
  case h_26 => exact vselLegal_fields hwf
  case h_27 | h_28 | h_29 | h_30 => exact vMaskLegal_fields hwf
  case h_31 => exact vmcntLegal_fields hwf
  case h_32 => exact vcvtLegal_fields hwf
  case h_33 => exact vqntLegal_fields hwf
  case h_34 => exact vdqnLegal_fields hwf
  case h_35 | h_36 => exact vcbLegal_fields hwf
  case h_37 => exact vamaxLegal_fields hwf
  case h_38 | h_40 | h_45 => exact vMoveLegal_fields hwf
  case h_39 => exact vbcstLegal_fields hwf
  case h_41 => exact vshflLegal_fields hwf
  case h_42 => exact viotaLegal_fields hwf
  case h_46 => exact vredLegal_fields hwf
  case h_47 => exact vscanLegal_fields hwf
  case h_48 => exact vdotLegal_fields hwf
  case h_49 | h_50 | h_51 | h_52 | h_53 | h_54 | h_55 | h_56 | h_57 => exact vsfLegal_fields hwf
  case h_58 | h_59 => exact vldLegal_fields hwf
  case h_60 | h_61 => exact vgthLegal_fields hwf
  case h_62 => exact vaccLegal_fields hwf
  case h_63 => exact vamoLegal_fields hwf
  case h_64 => exact vappLegal_fields hwf

/-- The fields of a vector word that is accepted. -/
theorem vOp_zero_or_fields {x : VSlot} {w : BitVec 64} {i : Instr} (h : vOp x w = .ok i) (hwf : i.wellFormed = true) :
    ((w.extractLsb' 56 8).toNat = 0 → w = 0) ∧ w.extractLsb' 50 2 ≠ 3 ∧ w.extractLsb' 39 3 ≠ 7 ∧ (w.extractLsb' 17 3).toNat < 4
      ∧ (w.extractLsb' 17 3 = 0 → w.extractLsb' 14 3 = 0) := by
  obtain ⟨hzero, hfields⟩ := vOp_fields h hwf
  refine ⟨hzero, ?_⟩
  by_cases hop : (w.extractLsb' 56 8).toNat = 0
  · rw [hzero hop]
    decide
  obtain ⟨hw, hm, hs, hh⟩ := hfields hop
  refine ⟨fun e => ?_, fun e => ?_, hs, fun e => ?_⟩
  · exact absurd (congrArg BitVec.toNat e) (Nat.ne_of_lt hw)
  · exact absurd (congrArg BitVec.toNat e) (Nat.ne_of_lt hm)
  · exact BitVec.eq_of_toNat_eq (hh (congrArg BitVec.toNat e))

/-! ## The bundle of one slot (R161, R162, R189) -/

/-- What the opcode map of a slot gives for its words. -/
def slotOp (k : Nat) (lo hi : BitVec 32) : Except DecodeErr Instr :=
  match k with
  | 0 => sOp lo
  | 1 => vOp .va (hi ++ lo)
  | 2 => vOp .vb (hi ++ lo)
  | 3 => mOp (hi ++ lo)
  | 4 => kOp lo
  | 5 => cOp .ca (hi ++ lo)
  | _ => cOp .cb (hi ++ lo)

theorem decodeSlot_eq (lo hi : BitVec 32) : ∀ k, decodeSlot k lo hi = checked (slotOp k lo hi)
  | 0 | 1 | 2 | 3 | 4 | 5 => rfl
  | _ + 6 => rfl

/-- The opcode of a word is assigned. -/
def assigned (r : Except DecodeErr Instr) : Bool :=
  match r with
  | .error .unassigned => false
  | _ => true

theorem slotAssigned_eq (lo hi : BitVec 32) : ∀ k, slotAssigned k lo hi = assigned (slotOp k lo hi)
  | 0 | 1 | 2 | 3 | 4 | 5 => rfl
  | _ + 6 => rfl

theorem assigned_of_checked_ok {r : Except DecodeErr Instr} {i : Instr} (h : checked r = .ok i) : assigned r = true := by
  rw [(checked_ok_iff.mp h).1]
  rfl

/-- Check 5 refuses exactly the words that are refused as unassigned. -/
theorem assigned_of_checked_error {r : Except DecodeErr Instr} {e : DecodeErr} (h : checked r = .error e) :
    assigned r = decide (e ≠ .unassigned) := by
  cases r with
  | error d =>
    obtain rfl : d = e := Except.error.inj h
    cases d <;> rfl
  | ok i =>
    rw [checked] at h
    split at h
    · cases h
    · obtain rfl := Except.error.inj h
      rfl

/-- The present words of a bundle of one slot. -/
theorem splitSlots_single {k : Nat} (hk : k < 7) (ws : List (BitVec 32)) :
    splitSlots (BitVec.ofNat 7 (2 ^ k)) (List.range 7) ws
      = [(k, ws.headD 0#32, if slotWords k = 1 then 0#32 else (ws.drop 1).headD 0#32)] := by
  interval_cases k
  all_goals rfl

theorem presWords_single {k : Nat} (hk : k < 7) : presWords (BitVec.ofNat 7 (2 ^ k)) = slotWords k := by
  interval_cases k
  all_goals rfl

/-- The words that the bytes of a bundle of one slot hold. -/
theorem splitSlots_bundleWords {k : Nat} (hk : k < 7) (w : Nat) :
    splitSlots (BitVec.ofNat 7 (2 ^ k)) (List.range 7) (bundleWords (slotWords k) w)
      = [(k, BitVec.ofNat 32 w, BitVec.ofNat 32 (if slotWords k = 1 then 0 else w / 2 ^ 32))] := by
  have hfield (j : Nat) : BitVec.ofNat 32 (fieldAt w 32 j) = BitVec.ofNat 32 (w / 2 ^ (32 * j)) :=
    BitVec.eq_of_toNat_eq (by rw [fieldAt, BitVec.toNat_ofNat, BitVec.toNat_ofNat, Nat.mod_mod, Nat.shiftRight_eq_div_pow])
  have hlo : BitVec.ofNat 32 (fieldAt w 32 0) = BitVec.ofNat 32 w := by rw [hfield, Nat.mul_zero, Nat.pow_zero, Nat.div_one]
  rw [splitSlots_single hk]
  obtain h | h : slotWords k = 1 ∨ slotWords k = 2 := by
    unfold slotWords
    split
    · exact .inl rfl
    · exact .inr rfl
  · rw [h, if_pos rfl, if_pos rfl, ← hlo]
    rfl
  · have hhi : BitVec.ofNat 32 (fieldAt w 32 1) = BitVec.ofNat 32 (w / 2 ^ 32) := hfield 1
    rw [h, if_neg (by decide), if_neg (by decide), ← hlo, ← hhi]
    rfl

theorem splitSlots_fetched {h : Header} {k : Nat} (hk : k < 7) (hp : h.pres = BitVec.ofNat 7 (2 ^ k))
    (hlen : h.len.toNat = presWords h.pres) (w : Nat) : splitSlots h.pres (List.range 7) (bundleWords h.len.toNat w)
      = [(k, BitVec.ofNat 32 w, BitVec.ofNat 32 (if slotWords k = 1 then 0 else w / 2 ^ 32))] := by
  rw [hlen, hp, presWords_single hk]
  exact splitSlots_bundleWords hk w

section Fetch
variable {s : State} {c v w : Nat} {h : Header}

theorem header_ofNat (hv : v = (encodeHeader h).toNat) : header (BitVec.ofNat 32 v) = h := by
  rw [hv, BitVec.ofNat_toNat, BitVec.setWidth_eq, header_encodeHeader]

/-- A fetch of readable bytes is the decode of their words. -/
theorem fetchBundle_decodes (halign : (coreOf s c).pc.toNat % 4 = 0)
    (hv : codeNum s c (coreOf s c).pc.toNat (codeRegion (coreOf s c)) (coreOf s c).pc.toNat 4 = .ok v)
    (hh : v = (encodeHeader h).toNat)
    (hw : codeNum s c (coreOf s c).pc.toNat (codeRegion (coreOf s c)) ((coreOf s c).pc.toNat + 4) (4 * h.len.toNat) = .ok w) :
    fetchBundle s c = decodeBundle (coreOf s c) h (bundleWords h.len.toNat w) := by
  simp only [fetchBundle, hv, header_ofNat hh, hw, halign, ne_eq, not_true_eq_false, if_false]

end Fetch

theorem check6Slot_single (hk : k < 7) {clash : Bool} (hclash : k ≤ 3 ∨ clash = false) : check6Slot [k] clash = some k := by
  rcases hclash with h | rfl
  · interval_cases k
    all_goals cases clash <;> rfl
  · interval_cases k
    all_goals rfl

section Decode
variable {x : Core} {h : Header} {k w : Nat} {ws : List (BitVec 32)} (hlen : h.len.toNat = presWords h.pres)
include hlen

theorem decodeBundle_class (hc : 2 ≤ h.cls.toNat) : decodeBundle x h ws = .error (trapIllegal x.pc 7) := by
  simp only [decodeBundle, hlen, hc, ne_eq, not_true_eq_false, if_false, if_true]

section OneSlot
variable {lo hi : BitVec 32} (hc : h.cls.toNat < 2) (hs : splitSlots h.pres (List.range 7) ws = [(k, lo, hi)])
include hc hs

theorem decodeBundle_unassigned (he : decodeSlot k lo hi = .error .unassigned) :
    decodeBundle x h ws = .error (trapIllegal x.pc k) := by
  have ha : slotAssigned k lo hi = false := by
    rw [slotAssigned_eq, assigned_of_checked_error ((decodeSlot_eq lo hi k).symm.trans he)]
    rfl
  simp [decodeBundle, hlen, hs, Nat.not_le.mpr hc, ha]

theorem decodeBundle_illegal (hk : k < 7) (he : decodeSlot k lo hi = .error .illegalField)
    (hclash : k ≤ 3 ∨ walkClash ((issueMix x ⟨h, []⟩).map (·.2)) = false) :
    decodeBundle x h ws = .error (trapIllegal x.pc k) := by
  have ha : slotAssigned k lo hi = true := by
    rw [slotAssigned_eq, assigned_of_checked_error ((decodeSlot_eq lo hi k).symm.trans he)]
    rfl
  simp [decodeBundle, hlen, hs, Nat.not_le.mpr hc, ha, he]
  rw [check6Slot_single hk hclash]

/-- A quiet bundle of one accepted word issues that operation alone (R164). -/
theorem decodeBundle_ok {i : Instr} (hk : k < 7) (hd : decodeSlot k lo hi = .ok i) (hq : h.q = true)
    (hgang : ∀ g f, i ≠ .fuse g ∧ i ≠ .decpl g ∧ i ≠ .rejoin f) (hclash : walkClash [i] = false) (hbits : laneBits i ≤ 1024) :
    decodeBundle x h ws = .ok ⟨h, [(k, i)]⟩ := by
  have ha : slotAssigned k lo hi = true := by
    rw [slotAssigned_eq, assigned_of_checked_ok ((decodeSlot_eq lo hi k).symm.trans hd)]
  have hmix : issueMix x ⟨h, [(k, i)]⟩ = [(k, i)] := by
    simp only [issueMix, hq]
    interval_cases k
    all_goals rfl
  have hcheck : check6Slot [] false = none := rfl
  have hout : gangOutside ⟨h, [(k, i)]⟩ = false := by
    rw [gangOutside, List.any_cons, List.any_nil, Bool.or_false, Bool.and_eq_false_iff]
    right
    split
    next g hi => exact absurd hi (hgang g g.g).1
    next g hi => exact absurd hi (hgang g g.g).2.1
    next g hi => exact absurd hi (hgang ⟨g, 0, 0, 0, 0⟩ g).2.2
    · rfl
  simp [decodeBundle, hlen, hs, Nat.not_le.mpr hc, ha, hd, hmix, hclash, hcheck, hout, Nat.not_lt.mpr hbits]

end OneSlot

end Decode

/-- Settles O3: headers and words by their fields, the opcode maps by their cases, and a bundle of one slot by the checks of R189
in their order. -/
theorem headersReadBackAndBadWordsRefused : Obligations.HeadersReadBackAndBadWordsRefused := by
  refine ⟨⟨header_encodeHeader, encodeHeader_header⟩,
    ⟨fun w => decodeS_unassigned, fun x w => decodeV_unassigned x rfl, fun w => decodeM_unassigned, fun w => decodeK_unassigned,
      decodeC_unassigned⟩, ⟨fun w i hd => ?_, fun x w i hd => ?_, fun w i hd => ?_, fun w i hd => ?_, fun x w i hd => ?_⟩,
    ⟨fun w i hd => ?_, fun x w i hd => ?_, fun w i hd => ?_, fun w i hd => ?_, fun x w i hd => ?_⟩, ?_⟩
  case refine_11 =>
    intro s c k v w h e x halign hv hh hw hlen
    rw [fetchBundle_decodes halign hv hh hw]
    refine ⟨decodeBundle_class hlen, fun hc hk hp he hclash => ?_⟩
    have hs := splitSlots_fetched hk hp hlen w
    cases e with
    | unassigned => exact decodeBundle_unassigned hlen hc hs he
    | illegalField => exact decodeBundle_illegal hlen hc hs hk he hclash
  all_goals obtain ⟨h, hwf⟩ := checked_ok_iff.mp hd
  · exact ⟨hwf, encode_of_sOp h⟩
  · exact ⟨hwf, encode_of_vOp h⟩
  · exact ⟨hwf, encode_of_mOp h⟩
  · exact ⟨hwf, encode_of_kOp h⟩
  · exact ⟨hwf, encode_of_cOp h⟩
  · exact ⟨sOp_nop_zero h, sOp_bare_zero h, sOp_fn_zero h hwf⟩
  · exact vOp_zero_or_fields h hwf
  · exact mOp_nop_zero h
  · exact kOp_nop_zero h
  · exact cOp_nop_zero h

end Sys2Proof.Proofs
end

section
/-!
PROOFS. The fetch of a bundle of one slot (O4).
-/
namespace Sys2Proof.Proofs
open Machine Laws

/-- There are seven slots (R160). -/
theorem slotOf_all_lt (i : Instr) : (slotOf i).all (fun k => decide (k < 7)) = true := by
  have hv : ∀ x, vSlotNo x < 7 := fun x => by cases x <;> decide
  have hc : ∀ x, cSlotNo x < 7 := fun x => by cases x <;> decide
  cases i <;> simp [slotOf, hv, hc]

theorem slotOf_lt {i : Instr} {k : Nat} (h : slotOf i = some k) : k < 7 := by
  have hall := slotOf_all_lt i
  rw [h] at hall
  exact of_decide_eq_true hall

section Word
variable {i : Instr} {k : Nat} (hwf : i.wellFormed = true) (hs : slotOf i = some k)
include hwf hs

/-- The code of an operation has the width of its slot, and decodes to it. -/
theorem encode_decodes : codeBitCount (encode i) = 32 * slotWords k ∧ reread i = some i := by
  obtain ⟨hcount, hread⟩ := encodeDecodeAgree i hwf
  have hbits : wordBits i = 32 * slotWords k := by simp only [wordBits, hs]
  have hne : wordBits i ≠ 0 := by
    rw [hbits, slotWords]
    split <;> decide
  exact ⟨hcount.trans hbits, hread hne⟩

theorem decodeSlot_w32 {u : BitVec 32} (he : encode i = .w32 u) : slotWords k = 1 ∧ decodeSlot k u 0#32 = .ok i := by
  obtain ⟨hcount, hread⟩ := encode_decodes hwf hs
  rw [he, codeBitCount] at hcount
  refine ⟨by omega, ?_⟩
  simp only [reread, he, hs] at hread
  cases hd : decodeSlot k u 0#32 with
  | error e => rw [hd] at hread; cases hread
  | ok j => rw [hd] at hread; exact congrArg Except.ok (Option.some.inj hread)

theorem decodeSlot_w64 {u : BitVec 64} (he : encode i = .w64 u) :
    slotWords k = 2 ∧ decodeSlot k (u.extractLsb' 0 32) (u.extractLsb' 32 32) = .ok i := by
  obtain ⟨hcount, hread⟩ := encode_decodes hwf hs
  rw [he, codeBitCount] at hcount
  refine ⟨by omega, ?_⟩
  simp only [reread, he, hs] at hread
  cases hd : decodeSlot k (u.extractLsb' 0 32) (u.extractLsb' 32 32) with
  | error e => rw [hd] at hread; cases hread
  | ok j => rw [hd] at hread; exact congrArg Except.ok (Option.some.inj hread)

end Word

/-- Settles O4: the bytes give the words of the encoding, which decode to the operation, and every check of the bundle passes. -/
theorem fetchReadsEncodedBundle : Obligations.FetchReadsEncodedBundle := by
  intro s c k v w h i x word hwf hs halign hp hlen hc hq hgang hclash hbits hv hh hw hword
  have hk := slotOf_lt hs
  have hpres : h.len.toNat = presWords h.pres := by rw [hlen, hp, presWords_single hk]
  have hdec : decodeSlot k (BitVec.ofNat 32 w) (BitVec.ofNat 32 (if slotWords k = 1 then 0 else w / 2 ^ 32)) = .ok i := by
    cases he : encode i with
    | none => simp only [word, he] at hword
    | w32 u =>
      obtain ⟨h1, hd⟩ := decodeSlot_w32 hwf hs he
      simp only [word, he] at hword
      rw [if_pos h1, hword, BitVec.ofNat_toNat, BitVec.setWidth_eq]
      exact hd
    | w64 u =>
      obtain ⟨h2, hd⟩ := decodeSlot_w64 hwf hs he
      simp only [word, he] at hword
      have hlo : BitVec.ofNat 32 w = u.extractLsb' 0 32 := BitVec.eq_of_toNat_eq (by
        rw [BitVec.toNat_ofNat, BitVec.extractLsb'_toNat, Nat.shiftRight_zero, hword])
      have hhi : BitVec.ofNat 32 (w / 2 ^ 32) = u.extractLsb' 32 32 := BitVec.eq_of_toNat_eq (by
        rw [BitVec.toNat_ofNat, BitVec.extractLsb'_toNat, Nat.shiftRight_eq_div_pow, hword])
      rw [if_neg (by omega), hlo, hhi]
      exact hd
    | w512 u => simp only [word, he] at hword
  rw [← hlen] at hw
  exact ⟨_, (fetchBundle_decodes halign hv hh hw).trans (decodeBundle_ok hpres (by rw [hc]; decide)
    (splitSlots_fetched hk hp hpres w) hk hdec hq hgang hclash hbits), rfl, rfl⟩

end Sys2Proof.Proofs
end

section
/-!
PROOFS. No operation of a slot leaves a core a path to follow (R358), for O5: only the end of a bundle in a fused gang does.
One lemma per function says so, as for what every step keeps (O49).
-/
namespace Sys2Proof.Proofs
open Machine Laws

/-! ## The list of paths a core is to follow -/

/-- A core has no path of its gang's lead left to follow. -/
def NoFollow (a : Nat) (s : State) : Prop := (coreOf s a).follow = []

/-- An operation that takes effect leaves the core none. -/
def ResNoFollow (a : Nat) : OpRes → Prop
  | .ok t _ => NoFollow a t
  | _ => True

variable {a : Nat} {s t : State}

/-- An update of any fields but the cores. -/
protected theorem NoFollow.upd {mem clusters ctxs qps tensors recastReqs recasts incs chains groups gangs bags async hostBuf
    hostReply tiles pieces pointers rr faults cqes frozen asserts savedClusters stoppedOps parts partBusy dies substituted
    switching powerLimit reduced clockPending xinvBusy xinvEcode xinvScope netctl reccnt late retryCnt fabsel routes rbsel
    rbBytes rbEcode rbBusy rbPend pkg geyser geyserPending ports vcs arriving escape recovering linkSlots flows early delivered
    chanTiles readyTiles transfers chanRounds away rmUnits poolUsed raced agenda free fresh cur} (h : NoFollow a s) :
    NoFollow a { s with
      mem, clusters, ctxs, qps, tensors, recastReqs, recasts, incs, chains, groups, gangs, bags, async, hostBuf, hostReply,
      tiles, pieces, pointers, rr, faults, cqes, frozen, asserts, savedClusters, stoppedOps, parts, partBusy, dies, substituted,
      switching, powerLimit, reduced, clockPending, xinvBusy, xinvEcode, xinvScope, netctl, reccnt, late, retryCnt, fabsel,
      routes, rbsel, rbBytes, rbEcode, rbBusy, rbPend, pkg, geyser, geyserPending, ports, vcs, arriving, escape, recovering,
      linkSlots, flows, early, delivered, chanTiles, readyTiles, transfers, chanRounds, away, rmUnits, poolUsed, raced,
      agenda, free, fresh, cur } := h

/-- A core changed by a function that adds no path. -/
protected theorem NoFollow.modCore {c f} (h : NoFollow a s)
    (w : ∀ x : Core, x.follow = [] → (f x).follow = [] := by exact fun _ w => w) : NoFollow a (modCore s c f) := by
  unfold NoFollow
  by_cases hc : a = c
  · subst hc
    rw [coreOf_modCore_same]
    exact w _ h
  · rw [coreOf_modCore_other _ _ _ _ hc]
    exact h

protected theorem NoFollow.modCluster {k f} (h : NoFollow a s) : NoFollow a (modCluster s k f) := h

/-! ## Choices and folds -/

protected theorem NoFollow.ite {p : Prop} [Decidable p] (hs : NoFollow a s) (ht : NoFollow a t) :
    NoFollow a (if p then s else t) := by
  split <;> assumption

protected theorem NoFollow.foldl {β : Type} {f : State → β → State} {l : List β} (h : NoFollow a s)
    (hf : ∀ t x, NoFollow a t → NoFollow a (f t x)) : NoFollow a (l.foldl f s) :=
  List.foldlRecOn l f h fun t ht x _ => hf t x ht

protected theorem NoFollow.foldl_fst {β γ : Type} {f : State × γ → β → State × γ} {l : List β} {q : State × γ}
    (h : NoFollow a q.1)
    (hf : ∀ q x, NoFollow a q.1 → NoFollow a (f q x).1) : NoFollow a (l.foldl f q).1 :=
  List.foldlRecOn l f (motive := fun q => NoFollow a q.1) h fun q hq x _ => hf q x hq

protected theorem NoFollow.foldl_snd {β γ : Type} {f : γ × State → β → γ × State} {l : List β} {q : γ × State}
    (h : NoFollow a q.2)
    (hf : ∀ q x, NoFollow a q.2 → NoFollow a (f q x).2) : NoFollow a (l.foldl f q).2 :=
  List.foldlRecOn l f (motive := fun q => NoFollow a q.2) h fun q hq x _ => hf q x hq

/-! ## State operations -/

protected theorem NoFollow.paPut {pa n v} (h : NoFollow a s) : NoFollow a (paPut s pa n v) := by
  unfold paPut; exact h.upd

protected theorem NoFollow.freshId (h : NoFollow a s) : NoFollow a (freshId s).2 := by
  unfold freshId; exact h.upd

protected theorem NoFollow.pushFlight {c slot lat dst mask val flags gran} (h : NoFollow a s) :
    NoFollow a (pushFlight s c slot lat dst mask val flags gran) := by
  dsimp only [pushFlight]; exact h.freshId.modCore

protected theorem NoFollow.pushPending {c slot dst mask gran left} (h : NoFollow a s) :
    NoFollow a (pushPending s c slot dst mask gran left).2 := by
  dsimp only [pushPending]; exact h.freshId.modCore

protected theorem NoFollow.setS {c slot lat r v} (h : NoFollow a s) : NoFollow a (setS s c slot lat r v) := by
  unfold setS; exact h.ite h.pushFlight

protected theorem NoFollow.pendS {c r} (h : NoFollow a s) : NoFollow a (pendS s c r).2 := by
  unfold pendS
  extract_lets
  split
  · exact h.freshId
  · exact h.pushPending

protected theorem NoFollow.setP {c slot lat n v} (h : NoFollow a s) : NoFollow a (setP s c slot lat n v) := by
  unfold setP; exact h.ite h.pushFlight

protected theorem NoFollow.setV {c slot lat vb r mask val flags gran} (h : NoFollow a s) :
    NoFollow a (setV s c slot lat vb r mask val flags gran) := by
  unfold setV; exact h.pushFlight

protected theorem NoFollow.setM {c slot lat vb n val flags} (h : NoFollow a s) :
    NoFollow a (setM s c slot lat vb n val flags) := by
  unfold setM; exact h.ite h.pushFlight

protected theorem NoFollow.putRec {t'} (h : NoFollow a s) : NoFollow a (putRec s t') := by
  unfold putRec; exact h.upd

protected theorem NoFollow.applyInc {ctx i inc} (h : NoFollow a s) : NoFollow a (applyInc s ctx i inc) := by
  dsimp only [applyInc]; exact h.paPut.upd

protected theorem NoFollow.raiseEvent {ctx i inc} (h : NoFollow a s) : NoFollow a (raiseEvent s ctx i inc) := by
  unfold raiseEvent; exact h.applyInc.ite h

protected theorem NoFollow.putGroup {g} (h : NoFollow a s) : NoFollow a (putGroup s g) := by
  unfold putGroup; exact h.upd

/-! ## Operands -/

protected theorem NoFollow.vWrite {c x lat d e w rs} (h : NoFollow a s) : NoFollow a (vWrite s c x lat d e w rs) := by
  unfold vWrite; exact h.setV

/-! ## A slot operation issues -/

theorem returnFlags_follow (x : Core) (byHandler : Bool) (flags : Nat) : (returnFlags x byHandler flags).follow = x.follow := by
  unfold returnFlags
  split <;> split <;> rfl

protected theorem NoFollow.giveRet {c byHandler ret v flags} (h : NoFollow a s) :
    NoFollow a (giveRet s c byHandler ret v flags) := by
  unfold giveRet
  refine h.modCore fun x hx => ?_
  have hf : (returnFlags x byHandler flags).follow = [] := (returnFlags_follow x byHandler flags).trans hx
  dsimp only
  split <;> exact hf

protected theorem NoFollow.modBank {k b f} (h : NoFollow a s) : NoFollow a (modBank s k b f) := by
  unfold modBank; exact h.modCluster

protected theorem NoFollow.noteWait {c} (h : NoFollow a s) : NoFollow a (noteWait s c) := by
  unfold noteWait
  split
  · exact h.upd
  · exact h

/-! ## Entering the ordering machine -/

protected theorem NoFollow.addRaced {ctx ks} (h : NoFollow a s) : NoFollow a (addRaced s ctx ks) := by
  unfold addRaced; exact h.upd

protected theorem NoFollow.raceWith {ctx bits reads us} (h : NoFollow a s) : NoFollow a (raceWith s ctx bits reads us) := by
  unfold raceWith; exact h.foldl fun _ _ ht => ht.addRaced.addRaced

protected theorem NoFollow.raceTiles {ctx keys writes a'} (h : NoFollow a s) : NoFollow a (raceTiles s ctx keys writes a') := by
  unfold raceTiles; exact h.foldl fun _ _ ht => ht.addRaced.addRaced

protected theorem NoFollow.noteTouch {a' keys writes} (h : NoFollow a s) : NoFollow a (noteTouch s a' keys writes) := by
  unfold noteTouch; exact h.ite h.upd

protected theorem NoFollow.raceKernel {c keys writes} (h : NoFollow a s) : NoFollow a (raceKernel s c keys writes) := by
  unfold raceKernel; exact h.raceTiles.noteTouch

protected theorem NoFollow.raceCasts {c keys} (h : NoFollow a s) : NoFollow a (raceCasts s c keys) := by
  unfold raceCasts; exact h.foldl fun _ _ ht => ht.ite ht.addRaced

protected theorem NoFollow.raceStore {c bits} (h : NoFollow a s) : NoFollow a (raceStore s c bits) := by
  unfold raceStore; exact h.raceWith.raceKernel.raceCasts

protected theorem NoFollow.raceRead {c bits} (h : NoFollow a s) : NoFollow a (raceRead s c bits) := by
  unfold raceRead; exact h.raceWith.raceKernel

protected theorem NoFollow.softBytes {keys} (h : NoFollow a s) : NoFollow a (softBytes s keys) := by
  unfold softBytes; exact h.foldl fun _ _ ht => ht.addRaced.ite ht

protected theorem NoFollow.enterSq {c line kind} (h : NoFollow a s) : NoFollow a (enterSq s c line kind) := by
  dsimp only [enterSq]; exact h.freshId.modCore

protected theorem NoFollow.enterWait {c op line kind} (h : NoFollow a s) : NoFollow a (enterWait s c op line kind).2 := by
  dsimp only [enterWait]; exact h.freshId.modCore

protected theorem NoFollow.enterLoadBits {c addr n mask dst} (h : NoFollow a s) :
    NoFollow a (enterLoadBits s c addr n mask dst) := by
  dsimp only [enterLoadBits]; exact h.freshId.modCore

protected theorem NoFollow.enterLoad {c addr n dst} (h : NoFollow a s) : NoFollow a (enterLoad s c addr n dst) := by
  unfold enterLoad; exact h.enterLoadBits

protected theorem NoFollow.enterStore {c bits} (h : NoFollow a s) : NoFollow a (enterStore s c bits) := by
  unfold enterStore
  extract_lets
  split
  · exact h.raceStore
  · exact h.raceStore.enterSq

protected theorem NoFollow.enterAcc {c hd d addr vfmt value} (h : NoFollow a s) :
    NoFollow a (enterAcc s c hd d addr vfmt value) := by
  unfold enterAcc; exact h.enterSq

protected theorem NoFollow.enterAppends {c d t' ks vs} (h : NoFollow a s) : NoFollow a (enterAppends s c d t' ks vs) := by
  unfold enterAppends; exact h.putRec.foldl fun _ _ ht => ht.enterSq

/-! ## The ordering machine runs -/

protected theorem NoFollow.dropSq {c id} (h : NoFollow a s) : NoFollow a (dropSq s c id) := by
  unfold dropSq; exact h.modCore

protected theorem NoFollow.pastFree (h : NoFollow a s) : NoFollow a (pastFree s) := by
  unfold pastFree; exact h.upd

protected theorem NoFollow.applyAmo {c byHandler op addr n x cmp ret} (h : NoFollow a s) :
    NoFollow a (applyAmo s c byHandler op addr n x cmp ret) := by
  unfold applyAmo; exact (h.pastFree.upd).softBytes.giveRet

protected theorem NoFollow.applyVamo {c byHandler op addr fm rm rnd x ret} (h : NoFollow a s) :
    NoFollow a (applyVamo s c byHandler op addr fm rm rnd x ret) := by
  unfold applyVamo; exact (h.pastFree.upd).softBytes.giveRet

protected theorem NoFollow.applyAppend {ctx index gen bits} (h : NoFollow a s) :
    NoFollow a (applyAppend s ctx index gen bits) := by
  unfold applyAppend; exact (h.upd).softBytes.putRec

protected theorem NoFollow.applyEntry {c e} (h : NoFollow a s) : NoFollow a (applyEntry s c e) := by
  unfold applyEntry
  split
  · exact (h.upd).softBytes
  · exact h.applyAmo
  · exact h.applyVamo
  · exact h.upd
  · exact h.applyAppend

protected theorem NoFollow.giveSaved {c id v} (h : NoFollow a s) : NoFollow a (giveSaved s c id v) := by
  unfold giveSaved
  split
  · exact h
  · exact h.paPut.upd

protected theorem NoFollow.giveLoadSaved {c l v} (h : NoFollow a s) : NoFollow a (giveLoadSaved s c l v) := by
  unfold giveLoadSaved
  split
  · extract_lets
    split
    · exact h.giveSaved.giveSaved
    · exact h.giveSaved
  · exact h

theorem giveLoad_follow (x : Core) (l : LoadEntry) (v : Nat) : (giveLoad x l v).follow = x.follow := by
  unfold giveLoad
  split
  · dsimp only
    split <;> rfl
  · rfl
  · rfl

protected theorem NoFollow.performLoad {c l} (h : NoFollow a s) : NoFollow a (performLoad s c l) := by
  unfold performLoad
  refine NoFollow.giveLoadSaved (NoFollow.modCore h.pastFree fun x hx => ?_)
  rw [giveLoad_follow]
  exact hx

/-! ## Vector operations -/

/-- An operation on its elements keeps it when what it does with them does. -/
protected theorem NoFollow.onElems {x f k c at_} (h : NoFollow a s)
    (hk : ∀ {s y e}, NoFollow a s → ResNoFollow a (k s c y e)) :
    ResNoFollow a (onElems x f k s c at_) := by
  unfold onElems
  split
  · trivial
  · trivial
  · exact hk h

protected theorem NoFollow.vMap {x f lat op c at_} (h : NoFollow a s) : ResNoFollow a (vMap x f lat op s c at_) := by
  unfold vMap; exact h.onElems fun ht => ht.vWrite

protected theorem NoFollow.vMapBits {x f lat op c at_} (h : NoFollow a s) : ResNoFollow a (vMapBits x f lat op s c at_) := by
  unfold vMapBits; exact h.vMap

protected theorem NoFollow.vArithRow {x f fl int c at_} (h : NoFollow a s) : ResNoFollow a (vArithRow x f fl int s c at_) := by
  unfold vArithRow; exact h.vMap

protected theorem NoFollow.actVcmp {x f c at_} (h : NoFollow a s) : ResNoFollow a (actVcmp x f s c at_) := by
  unfold actVcmp; exact h.onElems fun ht => ht.setM

protected theorem NoFollow.actVsel {x f c at_} (h : NoFollow a s) : ResNoFollow a (actVsel x f s c at_) := by
  unfold actVsel; exact h.onElems fun ht => ht.vWrite

protected theorem NoFollow.vMask2 {x f op c at_} (h : NoFollow a s) : ResNoFollow a (vMask2 x f op s c at_) := by
  unfold vMask2; exact h.onElems fun ht => ht.setM

protected theorem NoFollow.actVmcnt {x f c at_} (h : NoFollow a s) : ResNoFollow a (actVmcnt x f s c at_) := by
  unfold actVmcnt
  refine h.onElems fun ht => ?_
  extract_lets
  split
  · exact ht.setV
  · exact ht.setV
  · exact ht.setM

/-! ## Vector memory operations -/

protected theorem NoFollow.applyLines {c ls t} (h : NoFollow a s) (e : applyLines s c ls = some t) : NoFollow a t := by
  refine List.foldlRecOn (motive := fun o : Option State => ∀ t, o = some t → NoFollow a t) _ _ ?_ ?_ t e
  · rintro t ⟨⟩; exact h
  · rintro (_ | u) hu x - t ht
    · cases ht
    · dsimp only at ht
      split at ht
      · cases ht
      · cases ht; exact (hu u rfl).dropSq.applyEntry

protected theorem NoFollow.performLoads {c ks t} (h : NoFollow a s) (e : performLoads s c ks = some t) : NoFollow a t := by
  refine List.foldlRecOn (motive := fun o : Option State => ∀ t, o = some t → NoFollow a t) _ _ ?_ ?_ t e
  · rintro t ⟨⟩; exact h
  · rintro (_ | u) hu x - t ht
    · cases ht
    · dsimp only at ht
      split at ht
      · cases ht; exact (hu u rfl).performLoad
      · cases ht

protected theorem NoFollow.arrivedData {c n w r} (h : NoFollow a s) (e : arrivedData s c n w = some r) : NoFollow a r.1 := by
  unfold arrivedData at e
  extract_lets at e
  split at e
  · cases e; exact h
  split at e
  · cases e
    rename_i t ht
    obtain ⟨u, hu, ht⟩ := Option.bind_eq_some_iff.mp ht
    exact ((h.applyLines hu).performLoads ht).pastFree
  · cases e

protected theorem NoFollow.loadResult {c x f lat va data is} (h : NoFollow a s) :
    NoFollow a (loadResult s c x f lat va data is) := by
  unfold loadResult; exact h.vWrite

protected theorem NoFollow.vLoad {x f lat va c at_} (h : NoFollow a s) : ResNoFollow a (vLoad x f lat va s c at_) := by
  unfold vLoad
  refine h.onElems fun ht => ?_
  extract_lets
  split
  · split
    · trivial
    split
    next r hr => exact (ht.modCore.arrivedData hr).loadResult
    · trivial
  split
  · trivial
  split
  · exact ht.loadResult
  · trivial

protected theorem NoFollow.storeElem {q : State × _} {c f r} (h : NoFollow a q.1) : NoFollow a (storeElem c f q r).1 := by
  unfold storeElem
  split
  · exact h
  · exact h.enterStore

protected theorem NoFollow.vStore {x f va c at_} (h : NoFollow a s) : ResNoFollow a (vStore x f va s c at_) := by
  unfold vStore
  refine h.onElems fun ht => ?_
  split
  · trivial
  · exact ht.foldl_fst fun _ _ ht => ht.storeElem

protected theorem NoFollow.actVacc {x f c at_} (h : NoFollow a s) : ResNoFollow a (actVacc x f s c at_) := by
  unfold actVacc
  refine h.onElems fun ht => ?_
  extract_lets
  split
  · trivial
  split
  · trivial
  extract_lets
  split
  · trivial
  · exact ht.foldl fun _ _ ht => ht.enterAcc

protected theorem NoFollow.amoElem {q : State × _} {c f key va ret a' p} (h : NoFollow a q.1) :
    NoFollow a (amoElem c f key va ret a' q p).1 := by
  unfold amoElem
  extract_lets
  split
  · exact h
  · exact h.raceRead.enterSq

protected theorem NoFollow.vamoRet {c x f is} (h : NoFollow a s) : NoFollow a (vamoRet s c x f is).2 := by
  dsimp only [vamoRet]
  split
  · exact h.pushPending
  · exact h

protected theorem NoFollow.actVamo {x f c at_} (h : NoFollow a s) : ResNoFollow a (actVamo x f s c at_) := by
  unfold actVamo
  refine h.onElems fun ht => ?_
  extract_lets
  split
  · trivial
  · exact ht.vamoRet.foldl_fst fun _ _ ht => ht.amoElem

protected theorem NoFollow.actVapp {x f c at_} (h : NoFollow a s) : ResNoFollow a (actVapp x f s c at_) := by
  unfold actVapp
  refine h.onElems fun ht => ?_
  extract_lets
  split
  · trivial
  split
  · trivial
  split
  · trivial
  split
  · trivial
  · exact ht.ite ht.enterAppends

/-! ## Matrix operations -/

protected theorem NoFollow.enqueue {c o} (h : NoFollow a s) : NoFollow a (enqueue s c o) := by
  unfold enqueue; exact (h.freshId.ite h).modCore

protected theorem NoFollow.issueAccum {i f gathered c at_} (h : NoFollow a s) :
    ResNoFollow a (issueAccum i f gathered s c at_) := by
  unfold issueAccum
  extract_lets
  split
  · trivial
  split
  · trivial
  · exact h.enqueue

protected theorem NoFollow.actMgth {f c at_} (h : NoFollow a s) : ResNoFollow a (actMgth f s c at_) := by
  unfold actMgth
  extract_lets
  split
  · trivial
  split
  · trivial
  split
  · trivial
  · exact h.modCore.enqueue

protected theorem NoFollow.enterBlank {c op bits} (h : NoFollow a s) : NoFollow a (enterBlank s c op bits).2 := by
  dsimp only [enterBlank]; exact h.raceStore.enterWait

protected theorem NoFollow.actAspl {f c at_} (h : NoFollow a s) : ResNoFollow a (actAspl f s c at_) := by
  unfold actAspl
  dsimp only
  split
  · trivial
  · exact NoFollow.enqueue (NoFollow.foldl_snd h.freshId fun _ _ ht => ht.enterBlank)

protected theorem NoFollow.actAfil {f c at_} (h : NoFollow a s) : ResNoFollow a (actAfil f s c at_) := by
  unfold actAfil
  extract_lets
  split
  · trivial
  · exact (h.freshId.foldl fun _ _ ht => ht.raceRead.enterLoad).enqueue

protected theorem NoFollow.drainEntries {c op line kind store ks} (h : NoFollow a s) :
    NoFollow a (drainEntries s c op line kind store ks).2 := by
  refine NoFollow.foldl_snd h fun q k hq => NoFollow.enterWait ?_
  split
  · exact hq.raceStore
  · exact hq

protected theorem NoFollow.drainAcc {c at_ f rows} (h : NoFollow a s) : ResNoFollow a (drainAcc s c at_ f rows) := by
  unfold drainAcc
  extract_lets
  split
  · trivial
  split
  · trivial
  split
  · trivial
  · exact h.freshId.drainEntries.enqueue

protected theorem NoFollow.drainMem {c at_ f sp rows} (h : NoFollow a s) : ResNoFollow a (drainMem s c at_ f sp rows) := by
  unfold drainMem
  extract_lets
  split
  · trivial
  · exact h.freshId.drainEntries.enqueue

protected theorem NoFollow.actMdrn {f c at_} (h : NoFollow a s) : ResNoFollow a (actMdrn f s c at_) := by
  unfold actMdrn
  extract_lets
  split
  · trivial
  split
  · exact h.drainMem
  · exact h.drainAcc
  · exact h.enqueue

protected theorem NoFollow.actPrja {f c at_} (h : NoFollow a s) : ResNoFollow a (actPrja f s c at_) := by
  unfold actPrja
  extract_lets
  split
  · trivial
  split
  · exact h.enqueue
  · exact h.drainMem

protected theorem NoFollow.actMwait {f c at_} (h : NoFollow a s) : ResNoFollow a (actMwait f s c at_) := by
  unfold actMwait
  extract_lets
  split
  · trivial
  · exact h

/-! ## Control operations -/

protected theorem NoFollow.actLoop {f c at_} (h : NoFollow a s) : ResNoFollow a (actLoop f s c at_) := by
  unfold actLoop
  extract_lets
  split
  · exact h
  · exact h

protected theorem NoFollow.actEret {f c at_} (h : NoFollow a s) : ResNoFollow a (actEret f s c at_) := by
  unfold actEret
  split
  · exact h
  · trivial

/-! ## Channels -/

protected theorem NoFollow.nextTransfer {ctx ch ep recv} (h : NoFollow a s) : NoFollow a (nextTransfer s ctx ch ep recv).2 := by
  dsimp only [nextTransfer]; exact h.upd

/-! ## Handles -/

protected theorem NoFollow.actHld {f c at_} (h : NoFollow a s) : ResNoFollow a (actHld f s c at_) := by
  unfold actHld
  extract_lets
  split
  · trivial
  · exact h.setS

protected theorem NoFollow.actHview {f c at_} (h : NoFollow a s) : ResNoFollow a (actHview f s c at_) := by
  unfold actHview
  extract_lets
  split
  · trivial
  · exact h.setS

protected theorem NoFollow.actHgen {f c at_} (h : NoFollow a s) : ResNoFollow a (actHgen f s c at_) := by
  unfold actHgen
  extract_lets
  split
  · trivial
  · exact h.setS

protected theorem NoFollow.setReaders {ctx index gen n} (h : NoFollow a s) : NoFollow a (setReaders s ctx index gen n) := by
  unfold setReaders
  split
  · exact h.paPut.raiseEvent.ite h.paPut
  · exact h.putRec

protected theorem NoFollow.raiseReaders {ctx l t} (h : NoFollow a s) (e : raiseReaders s ctx l = some t) : NoFollow a t := by
  induction l generalizing s with
  | nil => cases e; exact h
  | cons q r ih =>
    unfold raiseReaders at e
    split at e
    · cases e
    · exact ih h.setReaders e

protected theorem NoFollow.lowerReaders {ctx l} (h : NoFollow a s) : NoFollow a (lowerReaders s ctx l) := by
  unfold lowerReaders; exact h.foldl fun _ _ ht => ht.setReaders

protected theorem NoFollow.addHold {ctx index gen counted} (h : NoFollow a s) : NoFollow a (addHold s ctx index gen counted) := by
  unfold addHold; exact h.putRec

protected theorem NoFollow.dropHold {ctx index gen} (h : NoFollow a s) : NoFollow a (dropHold s ctx index gen) := by
  unfold dropHold; exact h.putRec

protected theorem NoFollow.actHold {f c at_} (h : NoFollow a s) : ResNoFollow a (actHold f s c at_) := by
  unfold actHold
  extract_lets
  split
  · trivial
  split
  · trivial
  extract_lets
  split
  · trivial
  next ht => exact (h.raiseReaders ht).addHold

protected theorem NoFollow.actRels {f c at_} (h : NoFollow a s) : ResNoFollow a (actRels f s c at_) := by
  unfold actRels
  extract_lets
  split
  · trivial
  split
  · trivial
  · exact h.dropHold.lowerReaders

protected theorem NoFollow.actRcast {f c at_} (h : NoFollow a s) : ResNoFollow a (actRcast f s c at_) := by
  unfold actRcast
  extract_lets
  split
  · exact h.modCore
  · trivial
  split
  · trivial
  split
  · trivial
  split
  · trivial
  split
  · trivial
  split
  · trivial
  · trivial

protected theorem NoFollow.actTaglk {f c at_} (h : NoFollow a s) : ResNoFollow a (actTaglk f s c at_) := by
  unfold actTaglk
  extract_lets
  split
  · trivial
  · exact h.setS

protected theorem NoFollow.actTagset {f c at_} (h : NoFollow a s) : ResNoFollow a (actTagset f s c at_) := by
  unfold actTagset
  extract_lets
  split
  · trivial
  split
  · trivial
  · exact h.pushFlight

protected theorem NoFollow.actTagclr {f c at_} (h : NoFollow a s) : ResNoFollow a (actTagclr f s c at_) := by
  unfold actTagclr
  extract_lets
  split
  · trivial
  · exact h.pushFlight

protected theorem NoFollow.actTagclrK {f c at_} (h : NoFollow a s) : ResNoFollow a (actTagclrK f s c at_) := by
  unfold actTagclrK
  extract_lets
  split
  · trivial
  · exact h.pushFlight

/-! ## Scalar memory operations -/

protected theorem NoFollow.actLdl {f c at_} (h : NoFollow a s) : ResNoFollow a (actLdl f s c at_) := by
  unfold actLdl
  extract_lets
  split
  · trivial
  split
  · trivial
  · exact h.setS

protected theorem NoFollow.actStl {f c at_} (h : NoFollow a s) : ResNoFollow a (actStl f s c at_) := by
  unfold actStl
  extract_lets
  split
  · trivial
  split
  · trivial
  · exact h

protected theorem NoFollow.actLdm {f c at_} (h : NoFollow a s) : ResNoFollow a (actLdm f s c at_) := by
  unfold actLdm
  extract_lets
  split
  · trivial
  split
  · split
    · trivial
    · exact h.setS.setP.ite h.setS
  split
  · split
    · exact h.setP
    · trivial
  extract_lets _ s1
  have hs1 : NoFollow a s1 := h.raceRead.ite h
  split
  · exact hs1.pendS.pushPending.enterLoad
  · exact hs1.pendS.enterLoad

protected theorem NoFollow.actStm {f c at_} (h : NoFollow a s) : ResNoFollow a (actStm f s c at_) := by
  unfold actStm
  extract_lets
  split
  · trivial
  split
  · split
    · trivial
    · exact h
  split
  · trivial
  · exact h.enterStore

protected theorem NoFollow.amoRet {f c} (h : NoFollow a s) : NoFollow a (amoRet f s c).2 := by
  dsimp only [amoRet]
  split
  · exact h.pendS
  · exact h

protected theorem NoFollow.actAmo {f c at_} (h : NoFollow a s) : ResNoFollow a (actAmo f s c at_) := by
  unfold actAmo
  extract_lets
  split
  · trivial
  split
  · split
    · trivial
    · exact h.amoRet
  split
  · trivial
  · exact h.raceRead.amoRet.enterSq

protected theorem NoFollow.actSacc {f c at_} (h : NoFollow a s) : ResNoFollow a (actSacc f s c at_) := by
  unfold actSacc
  extract_lets
  split
  · trivial
  split
  · trivial
  split
  · trivial
  split
  · trivial
  · exact h.enterAcc

protected theorem NoFollow.actSapp {f c at_} (h : NoFollow a s) : ResNoFollow a (actSapp f s c at_) := by
  unfold actSapp
  extract_lets
  split
  · trivial
  split
  · trivial
  · exact h.enterAppends

/-! ## The data engine: operations -/

protected theorem NoFollow.addOp {o} (h : NoFollow a s) : NoFollow a (addOp s o) := by
  unfold addOp; exact h.raceWith.raceKernel.raceWith.raceKernel.raceCasts.freshId.modCluster

protected theorem NoFollow.fork {c} (h : NoFollow a s) : ResNoFollow a (fork s c) := by
  unfold fork
  split
  · trivial
  · exact h.addOp

protected theorem NoFollow.advance {c y f n src dst} (h : NoFollow a s) : NoFollow a (advance s c y f n src dst) := by
  unfold advance; exact h.pushFlight.ite h

protected theorem NoFollow.allocHead {c hd op n} (h : NoFollow a s) : NoFollow a (allocHead s c hd op n) := by
  unfold allocHead; exact h.modCore

protected theorem NoFollow.actCopy {y f c at_} (h : NoFollow a s) : ResNoFollow a (actCopy y f s c at_) := by
  unfold actCopy
  extract_lets
  split
  · trivial
  split
  · trivial
  split
  · split
    · trivial
    extract_lets
    split
    · trivial
    · exact h.addOp.allocHead.advance
  extract_lets
  split
  · trivial
  split
  · trivial
  · exact h.advance.fork

protected theorem NoFollow.actCprf {y f c at_} (h : NoFollow a s) : ResNoFollow a (actCprf y f s c at_) := by
  unfold actCprf
  extract_lets
  split
  · trivial
  split
  · trivial
  split
  · trivial
  split
  · trivial
  split
  · trivial
  extract_lets
  split
  · trivial
  · exact h.advance.fork

protected theorem NoFollow.actCwb {y f c at_} (h : NoFollow a s) : ResNoFollow a (actCwb y f s c at_) := by
  unfold actCwb
  extract_lets
  split
  · trivial
  split
  · trivial
  split
  · trivial
  split
  · trivial
  split
  · trivial
  · exact h.advance.fork

protected theorem NoFollow.unbindHead {c hd} (h : NoFollow a s) : NoFollow a (unbindHead s c hd) := by
  unfold unbindHead; exact (h.putRec.ite h).modCore

protected theorem NoFollow.actSbind {y f c at_} (h : NoFollow a s) : ResNoFollow a (actSbind y f s c at_) := by
  unfold actSbind
  extract_lets
  split
  · split
    · trivial
    · exact h.unbindHead
  split
  · trivial
  split
  · trivial
  split
  · trivial
  split
  · trivial
  extract_lets s1
  have hs1 : NoFollow a s1 := by
    unfold s1
    split
    · exact h.unbindHead.putRec
    · exact h.unbindHead
  exact hs1.modCore

protected theorem NoFollow.actSadv {x f c at_} (h : NoFollow a s) : ResNoFollow a (actSadv x f s c at_) := by
  unfold actSadv
  extract_lets
  split
  · trivial
  split
  · split
    · trivial
    · exact h
  split
  · split
    · trivial
    · trivial
  · exact h

protected theorem NoFollow.actSwtf {x f c at_} (h : NoFollow a s) : ResNoFollow a (actSwtf x f s c at_) := by
  unfold actSwtf
  extract_lets
  split
  · exact h
  split
  · trivial
  split
  · exact h
  split
  · trivial
  · trivial

protected theorem NoFollow.actSwte {x f c at_} (h : NoFollow a s) : ResNoFollow a (actSwte x f s c at_) := by
  unfold actSwte
  extract_lets
  split
  · exact h
  split
  · trivial
  split
  · exact h
  · trivial

protected theorem NoFollow.actSclose {y f c at_} (h : NoFollow a s) : ResNoFollow a (actSclose y f s c at_) := by
  unfold actSclose
  split
  · trivial
  extract_lets
  split
  · trivial
  split
  · trivial
  · exact h.putRec.fork

protected theorem NoFollow.actMcast {y f c at_} (h : NoFollow a s) : ResNoFollow a (actMcast y f s c at_) := by
  unfold actMcast
  extract_lets
  split
  · trivial
  extract_lets
  split
  · trivial
  split
  · trivial
  split
  · trivial
  · exact h.fork

protected theorem NoFollow.actCarm {y f c at_} (h : NoFollow a s) : ResNoFollow a (actCarm y f s c at_) := by
  unfold actCarm
  split
  · trivial
  · exact h.pushFlight

protected theorem NoFollow.actCwait {y f c at_} (h : NoFollow a s) : ResNoFollow a (actCwait y f s c at_) := by
  unfold actCwait
  extract_lets
  split
  · split
    · exact h
    · trivial
  · split
    · trivial
    split
    · exact h
    · trivial
  split
  · trivial
  · exact h

protected theorem NoFollow.addRemote {c ch e round nt} (h : NoFollow a s) : NoFollow a (addRemote s c ch e round nt) := by
  unfold addRemote; exact h.upd

protected theorem NoFollow.actCsend {y f c at_} (h : NoFollow a s) : ResNoFollow a (actCsend y f s c at_) := by
  unfold actCsend
  extract_lets
  split
  · trivial
  split
  · trivial
  extract_lets
  split
  · trivial
  split
  · trivial
  split
  · trivial
  · exact h.nextTransfer.addOp.addRemote.advance

protected theorem NoFollow.actCrecv {y f c at_} (h : NoFollow a s) : ResNoFollow a (actCrecv y f s c at_) := by
  unfold actCrecv
  dsimp only
  split
  · trivial
  split
  · trivial
  split
  · trivial
  split
  · trivial
  · exact (h.nextTransfer.addOp.allocHead.ite h.nextTransfer.addOp).addRemote.advance

protected theorem NoFollow.actChks {y f c at_} (h : NoFollow a s) : ResNoFollow a (actChks y f s c at_) := by
  unfold actChks
  extract_lets
  split
  · trivial
  extract_lets
  split
  · trivial
  split
  · trivial
  split
  · trivial
  split
  · trivial
  split
  · trivial
  · exact h.fork

protected theorem NoFollow.actCstat {y f c at_} (h : NoFollow a s) : ResNoFollow a (actCstat y f s c at_) := by
  unfold actCstat
  extract_lets
  split
  · trivial
  · exact h

protected theorem NoFollow.actCdesc {y f c at_} (h : NoFollow a s) : ResNoFollow a (actCdesc y f s c at_) := by
  unfold actCdesc
  extract_lets
  split
  · trivial
  split
  · exact h
  · exact h.pushFlight

/-! ## Vector moves -/

protected theorem NoFollow.vAll {x f lat op c at_} (h : NoFollow a s) : ResNoFollow a (vAll x f lat op s c at_) := by
  unfold vAll; exact h.onElems fun ht => ht.vWrite

protected theorem NoFollow.actVxv {x f c at_} (h : NoFollow a s) : ResNoFollow a (actVxv x f s c at_) := by
  unfold actVxv; exact h.onElems fun ht => ht.setV

protected theorem NoFollow.actVred {x f c at_} (h : NoFollow a s) : ResNoFollow a (actVred x f s c at_) := by
  unfold actVred; exact h.onElems fun ht => ht.vWrite

protected theorem NoFollow.actVscan {x f c at_} (h : NoFollow a s) : ResNoFollow a (actVscan x f s c at_) := by
  unfold actVscan; exact h.onElems fun ht => ht.vWrite

protected theorem NoFollow.actVdot {x f c at_} (h : NoFollow a s) : ResNoFollow a (actVdot x f s c at_) := by
  unfold actVdot; exact h.onElems fun ht => ht.vWrite

/-! ## Scalar operations -/

protected theorem NoFollow.sRes {d lat v c at_} (h : NoFollow a s) : ResNoFollow a (sRes d lat v s c at_) := by
  unfold sRes; exact h.setS

protected theorem NoFollow.pRes {d v c at_} (h : NoFollow a s) : ResNoFollow a (pRes d v s c at_) := by
  unfold pRes; exact h.setP

/-! ## K slot operations -/

protected theorem NoFollow.setK {c lat file n v} (h : NoFollow a s) : NoFollow a (setK s c lat file n v) := by
  unfold setK; exact h.pushFlight

protected theorem NoFollow.kLoad {file f c at_} (h : NoFollow a s) : ResNoFollow a (kLoad file f s c at_) := by
  unfold kLoad
  extract_lets
  split
  · trivial
  · exact h.setK

protected theorem NoFollow.actKsts {f c at_} (h : NoFollow a s) : ResNoFollow a (actKsts f s c at_) := by
  unfold actKsts
  extract_lets
  split
  · trivial
  · exact h

protected theorem NoFollow.actKmov {f c at_} (h : NoFollow a s) : ResNoFollow a (actKmov f s c at_) := by
  unfold actKmov
  extract_lets
  split
  · exact h.setK
  · exact h.setK
  · exact h.setK

protected theorem NoFollow.actKauto {f c at_} (h : NoFollow a s) : ResNoFollow a (actKauto f s c at_) := by
  unfold actKauto
  extract_lets
  split
  · trivial
  · exact h.pushFlight

/-! ## Groups, gangs and events -/

protected theorem NoFollow.actGjoin {f c at_} (h : NoFollow a s) : ResNoFollow a (actGjoin f s c at_) := by
  unfold actGjoin
  extract_lets
  split
  · trivial
  · exact h

protected theorem NoFollow.actGleave {f c at_} (h : NoFollow a s) : ResNoFollow a (actGleave f s c at_) := by
  unfold actGleave
  extract_lets
  split
  · trivial
  split
  · trivial
  · exact h.putGroup.upd

protected theorem NoFollow.actSync {f c at_} (h : NoFollow a s) : ResNoFollow a (actSync f s c at_) := by
  unfold actSync
  extract_lets
  split
  · trivial
  · exact h.putGroup.noteWait.modCore

protected theorem NoFollow.actFuse {f c at_} (h : NoFollow a s) : ResNoFollow a (actFuse f s c at_) := by
  unfold actFuse
  split
  · trivial
  split
  · trivial
  split
  · exact h
  split
  · trivial
  · exact h

protected theorem NoFollow.actDecpl {f c at_} (h : NoFollow a s) : ResNoFollow a (actDecpl f s c at_) := by
  unfold actDecpl
  split
  · trivial
  split
  · trivial
  · exact h

protected theorem NoFollow.actRejoin {x c at_} (h : NoFollow a s) : ResNoFollow a (actRejoin x s c at_) := by
  unfold actRejoin
  split
  · trivial
  split
  · exact h
  split
  · trivial
  · trivial

protected theorem NoFollow.actWstep {f c at_} (h : NoFollow a s) : ResNoFollow a (actWstep f s c at_) := by
  unfold actWstep
  extract_lets
  split
  · trivial
  · exact h.setP.ite h

protected theorem NoFollow.evRet {f c} (h : NoFollow a s) : NoFollow a (evRet f s c).2 := by
  dsimp only [evRet]
  split
  · exact h.pendS
  · exact h

protected theorem NoFollow.actEvadd {f c at_} (h : NoFollow a s) : ResNoFollow a (actEvadd f s c at_) := by
  unfold actEvadd
  dsimp only
  split
  · trivial
  split
  · trivial
  split
  · trivial
  split
  · trivial
  · exact h.evRet.upd

protected theorem NoFollow.actEvarm {f c at_} (h : NoFollow a s) : ResNoFollow a (actEvarm f s c at_) := by
  unfold actEvarm
  extract_lets
  split
  · trivial
  split
  · trivial
  · exact h.paPut.upd

protected theorem NoFollow.actEvarmDis {f c at_} (h : NoFollow a s) : ResNoFollow a (actEvarmDis f s c at_) := by
  unfold actEvarmDis
  extract_lets
  split
  · trivial
  · exact h.paPut

protected theorem NoFollow.actEvwait {f c at_} (h : NoFollow a s) : ResNoFollow a (actEvwait f s c at_) := by
  unfold actEvwait
  extract_lets
  split
  · trivial
  split
  · trivial
  · exact h

protected theorem NoFollow.actEvrd {f c at_} (h : NoFollow a s) : ResNoFollow a (actEvrd f s c at_) := by
  unfold actEvrd
  split
  · trivial
  · exact h.pendS.upd

protected theorem NoFollow.actFence {f c at_} (h : NoFollow a s) : ResNoFollow a (actFence f s c at_) := by
  unfold actFence
  extract_lets
  split
  · trivial
  split
  · trivial
  · exact h

protected theorem NoFollow.actXfence {f c at_} (h : NoFollow a s) : ResNoFollow a (actXfence f s c at_) := by
  unfold actXfence
  extract_lets
  split
  · trivial
  · exact h.modCore

/-! ## Tile instructions -/

protected theorem NoFollow.actTis {f c at_} (h : NoFollow a s) : ResNoFollow a (actTis f s c at_) := by
  unfold actTis
  extract_lets
  split
  · trivial
  split
  · trivial
  split
  · trivial
  · trivial
  extract_lets
  split
  · exact h.setS
  extract_lets
  split
  · exact h.setS
  next ht => exact (h.raiseReaders ht).modCore.setS

protected theorem NoFollow.actTiwait {f c at_} (h : NoFollow a s) : ResNoFollow a (actTiwait f s c at_) := by
  unfold actTiwait
  extract_lets
  split
  · trivial
  · exact h.setS

/-! ## Vector conversions -/

protected theorem NoFollow.vPairs {x f lat p op c at_} (h : NoFollow a s) : ResNoFollow a (vPairs x f lat p op s c at_) := by
  unfold vPairs; exact h.onElems fun ht => ht.vWrite

protected theorem NoFollow.actVqnt {x f c at_} (h : NoFollow a s) : ResNoFollow a (actVqnt x f s c at_) := by
  unfold actVqnt; exact h.onElems fun ht => ht.vWrite.pushFlight

protected theorem NoFollow.actVdqn {x f c at_} (h : NoFollow a s) : ResNoFollow a (actVdqn x f s c at_) := by
  unfold actVdqn; exact h.onElems fun ht => ht.vWrite

protected theorem NoFollow.actVamax {x f c at_} (h : NoFollow a s) : ResNoFollow a (actVamax x f s c at_) := by
  unfold actVamax; exact h.onElems fun ht => ht.vWrite

protected theorem NoFollow.vSpecial {n x f c at_} (h : NoFollow a s) : ResNoFollow a (vSpecial n x f s c at_) := by
  unfold vSpecial; exact h.onElems fun ht => ht.vWrite

/-! ## Landings, and the end of a repetition -/

/-- A fold whose every step leaves the paths leaves them. -/
theorem foldl_follow {β : Type} {l : List β} {g : Core → β → Core} (hg : ∀ y b, (g y b).follow = y.follow) (y : Core) :
    (l.foldl g y).follow = y.follow :=
  List.foldlRecOn l g (motive := fun z : Core => z.follow = y.follow) rfl fun z hz b _ => (hg z b).trans hz

theorem writeReg_follow (y : Core) (r : RegFile) (n mask val : Nat) : (writeReg y r n mask val).follow = y.follow := by
  cases r <;> rfl

theorem landCsr_follow (y : Core) (n v : Nat) : (landCsr y n v).follow = y.follow := by
  dsimp only [landCsr]
  split <;> rfl

theorem landRegs_follow (all l : List Flight) (y : Core) : (landRegs all l y).follow = y.follow := by
  induction l generalizing y with
  | nil => rfl
  | cons b r ih =>
    dsimp only [landRegs]
    split
    · split
      · rw [ih]
      split
      · rw [ih]
        split
        · rw [writeReg_follow]
        · rw [countCollision, writeReg_follow]
      · rw [ih]
    · rw [ih]

theorem landClears_follow (l : List Flight) (y : Core) : (landClears l y).follow = y.follow := by
  refine foldl_follow (fun z b => ?_) y
  split
  · split
    · split <;> rfl
    · rfl
  · rfl

theorem landState_follow (l : List Flight) (y : Core) : (landState l y).follow = y.follow := by
  rw [landState, foldl_follow, foldl_follow, foldl_follow, foldl_follow]
  all_goals
    intro z b
    split
  all_goals simp only [landCsr_follow]

protected theorem NoFollow.setCore {c x} (h : NoFollow a s) (hx : x.follow = (coreOf s c).follow) :
    NoFollow a (setCore s c x) := by
  unfold NoFollow
  by_cases hc : a = c
  · subst hc
    rw [coreOf_setCore_same, hx]
    exact h
  · rw [coreOf_setCore_other _ _ _ _ hc]
    exact h

protected theorem NoFollow.landNow {c} (h : NoFollow a s) : NoFollow a (landNow s c) := by
  unfold landNow
  refine (NoFollow.setCore h ?_).modCluster
  rw [landState_follow, landRegs_follow, landClears_follow]

theorem applyIters_follow (x : Core) (e : Effects) : (applyIters x e).follow = x.follow := by
  unfold applyIters
  rw [foldl_follow, foldl_follow, foldl_follow]
  all_goals exact fun _ _ => rfl

protected theorem NoFollow.popHead {c hd n} (h : NoFollow a s) : NoFollow a (popHead s c hd n) := by
  have hs (v) : NoFollow a (setCore s c (setHead (coreOf s c) hd v)) := h.setCore rfl
  dsimp only [popHead]
  split
  · exact (hs _).putRec
  · exact hs _

protected theorem NoFollow.advHeads {c e} (h : NoFollow a s) : NoFollow a (advHeads s c e) := by
  unfold advHeads
  refine h.foldl fun t q ht => ?_
  split
  · exact ht.setCore rfl
  · exact ht.popHead

protected theorem NoFollow.finishRep {c e pops} (h : NoFollow a s) : NoFollow a (finishRep s c e pops) := by
  unfold finishRep
  have hi : NoFollow a (modCore s c fun x => applyIters x e) := h.modCore fun x hx => (applyIters_follow x e).trans hx
  exact (hi.foldl fun _ _ ht => ht.popHead).advHeads.modCore.modCluster

protected theorem NoFollow.applySp {e} (h : NoFollow a s) : NoFollow a (applySp s e) := by
  dsimp only [applySp]
  split
  · exact h.modCluster
  · exact NoFollow.giveRet h.modCluster
  · exact NoFollow.giveRet h.modCluster

protected theorem NoFollow.applySps {es} (h : NoFollow a s) : NoFollow a (applySps s es) := by
  unfold applySps
  exact h.foldl fun _ _ ht => ht.applySp

protected theorem NoFollow.joinEach {ls es} (h : NoFollow a s) : NoFollow a (joinEach s ls es) := by
  unfold joinEach
  exact h.foldl fun _ _ ht => ht.foldl fun _ _ hu => hu.putGroup

protected theorem NoFollow.closeEach {s0 ls es} (h : NoFollow a s) : NoFollow a (closeEach s0 s ls es) := by
  unfold closeEach
  exact h.joinEach.foldl fun _ _ ht => ht.upd.ite ht

protected theorem NoFollow.finishLanes {ls es} (h : NoFollow a s) : NoFollow a (finishLanes s ls es) := by
  unfold finishLanes
  exact (h.foldl fun _ _ ht => ht.finishRep).applySps.closeEach

protected theorem NoFollow.begun {slot i cs} (h : NoFollow a s) : NoFollow a (begun slot i cs s) := by
  unfold begun
  exact h.foldl fun _ _ ht => ht.modCore

/-! ## Operations issue -/

protected theorem NoFollow.actOf {c at_} (i : Instr) (h : NoFollow a s) : ResNoFollow a (actOf i s c at_) := by
  cases i with dsimp only [actOf]
  | nop | br _ | ret _ | yield _ | itset _ | vnop _ | mnop | knop | itlvl _ | itrst _ | itrev _ | itstep _ | cnop _ => exact h
  | add _ | sub _ | mul _ | mulh _ | mulhn _ | div _ | divn _ | mod _ | modn _ | and _ | or _ | xor _ | shl _ | shr _
  | sra _ | min _ | max _ | minn _ | maxn _ | clz _ | popc _ | sext _ | zext _ | addi _ | andi _ | ori _ | xori _
  | shli _ | shri _ | srai _ | li _ | lih16 _ | lih32 _ | lih48 _ | sel _ | pmovToS _ | xvs _ | itget _ => exact h.sRes
  | cmp _ | cmpi _ | pand _ | por _ | pxor _ | pmov _ => exact h.pRes
  | pmovFromS _ => exact h.foldl fun _ _ ht => ht.setP
  | jmp _ => exact h.setS.ite h
  | call _ | csrr _ => exact h.setS
  | loop _ => exact h.actLoop
  | rbset _ | xsv _ | csrw _ | asw _ | kufc _ | kseed _ => exact h.pushFlight
  | exit _ => exact h.noteWait
  | ldl _ => exact h.actLdl
  | stl _ => exact h.actStl
  | ldm _ => exact h.actLdm
  | stm _ => exact h.actStm
  | amo _ => exact h.actAmo
  | sacc _ => exact h.actSacc
  | sapp _ => exact h.actSapp
  | hld _ => exact h.actHld
  | hview _ => exact h.actHview
  | rcast _ => exact h.actRcast
  | hold _ => exact h.actHold
  | rels _ => exact h.actRels
  | hgen _ => exact h.actHgen
  | taglk _ => exact h.actTaglk
  | tagset _ => exact h.actTagset
  | tagclr _ => exact h.actTagclr
  | tagclrK _ => exact h.actTagclrK
  | gjoin _ => exact h.actGjoin
  | gleave _ => exact h.actGleave
  | sync _ => exact h.actSync
  | fuse _ => exact h.actFuse
  | decpl _ => exact h.actDecpl
  | rejoin _ => exact h.actRejoin
  | wstep _ => exact h.actWstep
  | evadd _ => exact h.actEvadd
  | evarm _ => exact h.actEvarm
  | evarmDis _ => exact h.actEvarmDis
  | evwait _ => exact h.actEvwait
  | evrd _ => exact h.actEvrd
  | fence _ => exact h.actFence
  | xfence _ => exact h.actXfence
  | tis _ => exact h.actTis
  | tiwait _ => exact h.actTiwait
  | trap _ | brk _ => trivial
  | eret _ => exact h.actEret
  | vadd _ _ | vsub _ _ | vmul _ _ | vfma _ _ | vfms _ _ | vfnma _ _ => exact h.vArithRow
  | vmin _ _ | vmax _ _ | vabs _ _ | vneg _ _ | vdiv _ _ | vmulh _ _ | vsadd _ _ | vssub _ _ => exact h.vMap
  | vand _ _ | vor _ _ | vxor _ _ | vnot _ _ | vshl _ _ | vshr _ _ | vsra _ _ | vpopc _ _ | vclz _ _ | vmov _ _
  | vbcst _ _ | vperm _ _ | vshfl _ _ | viota _ _ => exact h.vMapBits
  | vcmp _ _ => exact h.actVcmp
  | vsel _ _ => exact h.actVsel
  | vmand _ _ | vmor _ _ | vmxor _ _ | vmnot _ _ => exact h.vMask2
  | vmcnt _ _ => exact h.actVmcnt
  | vcvt _ _ | vcbx _ _ | vcbq _ _ => exact h.vPairs
  | vqnt _ _ => exact h.actVqnt
  | vdqn _ _ => exact h.actVdqn
  | vamax _ _ => exact h.actVamax
  | vcmps _ _ | vexpd _ _ => exact h.vAll
  | vxv _ _ => exact h.actVxv
  | vred _ _ => exact h.actVred
  | vscan _ _ => exact h.actVscan
  | vdot _ _ => exact h.actVdot
  | vexp2 _ _ | vlog2 _ _ | vrcp _ _ | vrsq _ _ | vsqrt _ _ | vsinpi _ _ | vcospi _ _ | vtanh _ _ | vsigm _ _ => exact h.vSpecial
  | vld _ _ | vgth _ _ => exact h.vLoad
  | vst _ _ | vsct _ _ => exact h.vStore
  | vacc _ _ => exact h.actVacc
  | vamo _ _ => exact h.actVamo
  | vapp _ _ => exact h.actVapp
  | mma _ | mmag _ | mmas _ => exact h.issueAccum
  | mgth _ => exact h.actMgth
  | aclr _ => exact h.modBank.enqueue
  | aspl _ => exact h.actAspl
  | afil _ => exact h.actAfil
  | mdrn _ => exact h.actMdrn
  | prja _ => exact h.actPrja
  | mwait _ => exact h.actMwait
  | klds _ | kldc _ => exact h.kLoad
  | ksts _ => exact h.actKsts
  | kmov _ => exact h.actKmov
  | kauto _ => exact h.actKauto
  | copy _ _ => exact h.actCopy
  | cprf _ _ => exact h.actCprf
  | cwb _ _ => exact h.actCwb
  | sbind _ _ => exact h.actSbind
  | sadv _ _ => exact h.actSadv
  | swtf _ _ => exact h.actSwtf
  | swte _ _ => exact h.actSwte
  | mcast _ _ => exact h.actMcast
  | csend _ _ => exact h.actCsend
  | crecv _ _ => exact h.actCrecv
  | chks _ _ => exact h.actChks
  | cwait _ _ => exact h.actCwait
  | carm _ _ => exact h.actCarm
  | cstat _ _ => exact h.actCstat
  | sclose _ _ => exact h.actSclose
  | cdesc _ _ => exact h.actCdesc
  | _ => exact h

protected theorem NoFollow.runOne {i c at_} (h : NoFollow a s) : ResNoFollow a (runOne i (actOf i) s c at_) := by
  have hr : ResNoFollow a (actOf i s c at_) := h.actOf i
  unfold runOne
  extract_lets
  split
  · revert hr
    cases actOf i s c at_ <;> exact id
  · exact h

protected theorem NoFollow.runFull {i c at_} (h : NoFollow a s) : ResNoFollow a (runFull i (actOf i) s c at_) := by
  unfold runFull
  split
  · trivial
  · exact h.runOne

end Sys2Proof.Proofs
end

section
/-!
PROOFS. A step carries out what stands next (O5).
-/
namespace Sys2Proof.Proofs
open Machine Laws

/-! ## The turn of a core at a quiet bundle of one operation (R167) -/

/-- The turn of a core that issues alone, at a bundle of one operation. -/
def soloTurn (c : Nat) (b : Bundle) (k : Nat) (i : Instr) : Turn := ⟨c, b, [(k, i)], true, [c]⟩

theorem issueMix_single {x : Core} {b : Bundle} {k : Nat} {i : Instr} (hk : k < 7) (hq : b.hdr.q = true)
    (ho : b.ops = [(k, i)]) : issueMix x b = [(k, i)] := by
  have hr : List.range 7 = [0, 1, 2, 3, 4, 5, 6] := rfl
  rw [issueMix, ho, hr]
  interval_cases k <;> simp [hq]

theorem goingOn_standing {s : State} {c : Nat} (h : standing s c = true) : goingOn s [c] = [] := by
  simp [goingOn, h]

theorem goingOn_single {s : State} {c : Nat} (h : standing s c = false) : goingOn s [c] = [c] := by
  simp [goingOn, h]

/-- A core that stands does not issue: it is frozen, asserted on a line, or about to freeze (R359, R408, R413). -/
theorem issuing_of_standing {s : State} {c : Nat} (h : standing s c = true) : issuing s c = false := by
  unfold standing at h
  extract_lets x at h
  have hi : issuing s c = (x.syncWait.isNone && !x.rejoinWait &&
    (x.mode = .handler || (x.mode = .running && !runsFirmware x && (!x.hard || mustFinish s c || behind s c)))) := rfl
  simp only [Bool.or_eq_true, Bool.and_eq_true, decide_eq_true_eq, Bool.not_eq_true'] at h
  rw [hi]
  obtain (hm | hw) | ⟨⟨⟨hm, hh⟩, hf⟩, hb⟩ := h
  · simp [hm]
  · rw [Option.isNone_eq_false_iff.mpr hw, Bool.false_and, Bool.false_and]
  · simp [hm, hh, hf, hb]

/-- A core that issues alone and has no path left to follow takes its own. -/
theorem pathOf_alone {s : State} {t : Turn} {e : Effects} {sp : Bool} (hf : NoFollow t.core s) (hu : t.unit.length ≤ 1) :
    pathOf s t e sp = (s, e, sp) := by
  have hn : (if (coreOf s t.core).shadow.isSome then [] else (coreOf s t.core).follow) = [] := by
    split
    · rfl
    · exact hf
  dsimp only [pathOf]
  split
  next hc => cases hn.symm.trans hc
  next => simp [hu]

/-- Core c, alone in its step, stands at the bundle b, which holds the one operation i in slot k. -/
structure AtSolo (u : State) (c k : Nat) (b : Bundle) (i : Instr) : Prop where
  core : c < 512
  slot : k < 7
  alone : lockstep u c = [c]
  fetched : fetchBundle u c = .ok b
  ops : b.ops = [(k, i)]
  len : b.hdr.len.toNat = slotWords k
  quiet : b.hdr.q = true
  once : b.hdr.rep = 0
  noPop : b.hdr.pop = 0
  noRot : b.hdr.rot = false
  noSafe : b.hdr.sp = false
  plain : b.hdr.cls.toNat ≠ 1
  level : (coreOf u c).gskew = 0
  free : NoFollow c u

section Turn
variable {u s t : State} {c k : Nat} {b : Bundle} {i : Instr} (h : AtSolo u c k b i)
include h

theorem cohort_solo : cohort u c = [c] := by
  have hc : atControl u c = false := by simp [atControl, h.fetched, h.plain]
  unfold cohort
  split
  · simp only [hc, Bool.and_false, Bool.false_and, Bool.false_eq_true, if_false]
    exact h.alone
  · rfl

theorem turnsOf_solo : turnsOf u [c] = .ok [soloTurn c b k i] := by
  simp [turnsOf, turnOf, h.fetched, issueMix_single h.slot h.quiet h.ops, h.once, h.alone, soloTurn]

theorem groupTurns_solo : groupTurns u [c] = if issuing u c then some (.ok [soloTurn c b k i]) else none := by
  cases hst : standing u c with
  | true => simp [groupTurns, goingOn_standing hst, issuing_of_standing hst]
  | false =>
    have hn : lanesNow u [c] = [c] := by simp [lanesNow, goingOn_single hst, h.level]
    cases hi : issuing u c <;> simp [groupTurns, hn, goingOn_single hst, turnsOf_solo h, hi]

theorem turnLane_solo : turnLane u (soloTurn c b k i) = soloLane u k i (actOf i) c := by
  have hp : ((List.range 8).filter fun n => b.hdr.pop.getLsbD n) = [] := by simp [h.noPop]
  simp only [turnLane, turnSite, turnOps, soloTurn, soloLane, soloSite, h.len, hp]
  rfl

theorem holdWords_solo : holdWords s [soloTurn c b k i] = begun k i [c] s := by
  simp only [holdWords, begun, soloTurn, h.ops, List.foldl_cons, List.foldl_nil]

/-- At the end of its only repetition the bundle ends; the core is on its own path. -/
theorem finishTurn_solo {l : Lane} {e : Effects} (hs : NoFollow c s) :
    finishTurn s (soloTurn c b k i) l e = finishBundle s c l.site e [(k, i)] false false := by
  have hp : pathOf s (soloTurn c b k i) e false = (s, e, false) := pathOf_alone hs (Nat.le_refl 1)
  have hl : (soloTurn c b k i).last = true := rfl
  have hc : ¬(soloTurn c b k i).bundle.hdr.cls.toNat = 1 := h.plain
  rw [finishTurn, if_pos hl]
  simp only [soloTurn] at hp hc ⊢
  simp only [hp, if_neg hc, h.noRot, h.noSafe]

end Turn

/-! ## One repetition of one operation -/

theorem runLanes_solo_noFollow {s t : State} {a c k : Nat} {i : Instr} {es : List Effects} {st : Site} (hs : NoFollow a s)
    (h : runLanes s [⟨c, st, [(k, i, actOf i)], []⟩] = .ok t es) : (∃ e, es = [e]) ∧ NoFollow a t := by
  have hr : ResNoFollow a (runFull i (actOf i) s c st) := hs.runFull
  revert h hr
  simp only [runLanes, runLane, runOps, popsUse]
  cases runFull i (actOf i) s c st with
  | ok v e =>
    intro h hv
    cases h
    exact ⟨⟨_, rfl⟩, hv⟩
  | trap q => intro h; cases h
  | stall f => intro h; cases h

/-- A repetition of one operation that issues has one effect, and leaves its core no path to follow. -/
theorem groupRep_solo_noFollow {s t : State} {a c k : Nat} {i : Instr} {es : List Effects} (hs : NoFollow a s)
    (h : groupRep s [soloLane s k i (actOf i) c] = .ok t es) : (∃ e, es = [e]) ∧ NoFollow a t := by
  unfold groupRep groupOps at h
  split at h
  · cases h
  · exact runLanes_solo_noFollow (NoFollow.foldl hs fun _ _ ht => ht.landNow) h

/-! ## The cycle of one core -/

/-- The core named on a cycle, once. -/
theorem range_filter_single {n c : Nat} (hc : c < n) : ((List.range n).filter fun d => d == c) = [c] := by
  rw [List.filter_beq, List.count_eq_one_of_mem List.nodup_range (List.mem_range.mpr hc)]
  rfl

theorem cycleSps_nil : cycleSps [] = [] := by simp [cycleSps]

/-- The scratchpad effects of the only core that issues are those of the cycle. -/
theorem cycleSps_single {ts : List Turn} {l : Lane} {e : Effects} (hl : l.core < 512) : cycleSps [⟨ts, [l], [e]⟩] = e.sp := by
  have hf (c : Nat) : ([(l.core, e.sp)].filter fun q => decide (q.1 = c)).flatMap (·.2) = if c == l.core then e.sp else [] := by
    by_cases hc : l.core = c
    · simp [hc]
    · simp [hc, Ne.symm hc]
  have hr (cs : List Nat) : (cs.flatMap fun c => if c == l.core then e.sp else []) =
      (cs.filter fun c => c == l.core).flatMap fun _ => e.sp := by
    induction cs with
    | nil => rfl
    | cons c cs ih =>
      rw [List.flatMap_cons, List.filter_cons, ih]
      split <;> rfl
  simp only [cycleSps, List.flatMap_cons, List.flatMap_nil, List.append_nil, List.map_cons, List.map_nil, List.zip_cons_cons,
    List.zip_nil_right, hf, hr, range_filter_single hl]

/-- The end of a cycle on which one group issued, or none. -/
def cycleEnd : State × Option Issued → State
  | (s, none) => s
  | (s, some g) => finishIssued (closeEach s (applySps s (cycleSps [g])) g.lanes g.effects) g

/-- With the one turn of its group, the end of the cycle is the end of its lane and of its repetition. -/
theorem cycleEnd_single {v : State} {t : Turn} {l : Lane} {e : Effects} (hl : l.core < 512) :
    cycleEnd (([l].zip [e]).foldl (fun s q => finishRep s q.1.core q.2 q.1.pops) v, some ⟨[t], [l], [e]⟩) =
      finishTurn (finishLanes v [l] [e]) t l e := by
  rw [cycleEnd, cycleSps_single hl, finishLanes, List.flatMap_singleton]
  rfl

theorem issueCycle_single {u : State} {c : Nat} (hc : c < 512) (hg : cohort u c = [c]) :
    issueCycle u [c] = failAccesses (touchArrays (cycleEnd (issueGroup false u [c]))) := by
  have hgs : groupsOf u [c].length ((List.range 512).filter [c].contains) = [[c]] := by
    have hs : (List.range 512).filter [c].contains = [c] :=
      (List.filter_congr fun d _ => by simp [beq_eq_decide]).trans (range_filter_single hc)
    rw [hs]
    simp [groupsOf, hg]
  unfold issueCycle
  rw [hgs]
  simp only [List.length_cons, List.length_nil, Nat.zero_add, Nat.le_refl, if_true, List.foldl_cons, List.foldl_nil,
    List.contains_nil, List.nil_append]
  generalize issueGroup false u [c] = z
  obtain ⟨s, _ | g⟩ := z
  · rw [cycleEnd]
    dsimp only [Option.toList, List.foldl_nil]
    rw [cycleSps_nil]
    rfl
  · rfl

theorem lapse_nil (s : State) : lapse s [] = s := rfl

/-- The cycle of a core at a bundle of one operation, but for what follows every cycle, is the step of that operation alone. -/
theorem cycleEnd_solo {u : State} {k : Nat} {b : Bundle} {i : Instr} (h : AtSolo u u.cur k b i) :
    cycleEnd (issueGroup false u [u.cur]) = soloStep k i (actOf i) u := by
  have hall : [u.cur].all (issuing u) = issuing u u.cur := by simp
  rw [issueGroup, groupTurns_solo h, soloStep, h.alone]
  cases hi : issuing u u.cur with
  | false =>
    have hg : (if (goingOn u [u.cur]).all (issuing u) then lapse u (goingOn u [u.cur]) else u) = u := by
      cases hst : standing u u.cur with
      | true => rw [goingOn_standing hst]; rfl
      | false => rw [goingOn_single hst, hall, hi]; rfl
    dsimp only
    rw [hall, hi]
    exact hg
  | true =>
    have hst : standing u u.cur = false := by
      cases hst : standing u u.cur with
      | true => exact absurd hi (by simp [issuing_of_standing hst])
      | false => rfl
    have hls : [soloTurn u.cur b k i].map (turnLane u) = [soloLane u k i (actOf i) u.cur] := by
      rw [List.map_singleton, turnLane_solo h]
    simp only [reduceIte, Bool.false_eq_true, hall, hi, Bool.not_true, hls, List.map_singleton]
    cases hr : groupRep u [soloLane u k i (actOf i) u.cur] with
    | trap c t =>
      dsimp only
      rw [holdWords_solo h]
      rfl
    | stall c j o f =>
      dsimp only
      rw [holdWords_solo h]
      rfl
    | ok s es =>
      obtain ⟨⟨e, rfl⟩, hs⟩ := groupRep_solo_noFollow h.free hr
      have hl : (goingOn u [u.cur]).filter (fun c => decide ((coreOf u c).gskew ≠ 0)) = [] := by
        rw [goingOn_single hst]
        simp [h.level]
      dsimp only
      rw [hl, lapse_nil, holdWords_solo h, cycleEnd_single h.core, finishTurn_solo h hs.begun.finishLanes]
      rfl

/-- The operation of a quiet bundle that a core fetches issues as it does alone (R167). -/
theorem execIssueBundle_solo {u : State} {k : Nat} {b : Bundle} {i : Instr} (h : AtSolo u u.cur k b i) :
    execIssueBundle [u.cur] u = .next (failAccesses (touchArrays (soloStep k i (actOf i) u))) := by
  rw [execIssueBundle, issueCycle_single h.core (cohort_solo h), cycleEnd_solo h]

/-! ## The step -/

theorem moves_ne_nil (s : State) : moves s ≠ [] := by
  simp [moves, schedMoves]

theorem nextMove_mem (s : State) :
    ∃ m ∈ moves s, nextMove s = some (m, { s with free := s.free + 1, cur := moverOf m }) := by
  have hpos : 0 < (moves s).length := List.length_pos_iff.mpr (moves_ne_nil s)
  have hlt : Config.freeChoice s.free % max 1 (moves s).length < (moves s).length := by
    rw [Nat.max_eq_right hpos]
    exact Nat.mod_lt _ hpos
  refine ⟨_, List.getElem_mem hlt, ?_⟩
  dsimp only [nextMove]
  rw [List.getElem?_eq_getElem hlt]
  rfl

theorem step_agenda {s : State} {i : Instr} {r : List Instr} (h : s.agenda = i :: r) :
    step s = exec i { s with agenda := r } := by
  rw [step, h]

theorem step_free {s : State} (h : s.agenda = []) :
    ∃ m ∈ moves s, step s = runMove m { s with free := s.free + 1, cur := moverOf m } := by
  obtain ⟨m, hm, hn⟩ := nextMove_mem s
  refine ⟨m, hm, ?_⟩
  unfold step
  split
  next e => cases h.symm.trans e
  next => rw [hn]

/-- Settles O5: the agenda's event is carried out; the cycle of one core at a bundle of one operation is that operation's step,
as no operation leaves its core a path to follow; and a choice among the moves always finds one. -/
theorem stepRunsWhatIsDecoded : Obligations.StepRunsWhatIsDecoded := by
  intro s r i
  refine ⟨step_agenda, fun b k ha => ?_, step_free, fun _ _ => rfl⟩
  intro u hc hl hk hb ho hlen hq hrep hpop hrot hsp hcls hskew hf
  have h : AtSolo u u.cur k b i :=
    ⟨hc, slotOf_lt hk, hl, hb, ho, hlen, hq, hrep, hpop, hrot, hsp, hcls, hskew, hf⟩
  refine ⟨soloStep k i (actOf i) u, exec_slot i k u hk, ?_⟩
  rw [step_agenda ha]
  exact execIssueBundle_solo h

end Sys2Proof.Proofs
end
